-- ==== Sys2Proof/Word.lean ====
section
/-! DEFINITION. The word types of the YD40 (R3, R24, R152): bytes, 32-bit vector registers, 64-bit words and
addresses. Nothing here computes more than a change of view. -/
namespace Sys2Proof

/-- One byte of memory (R3). -/
abbrev Byte := BitVec 8
/-- One vector register of one lane (R45), 32 bits. -/
abbrev Reg := BitVec 32
/-- A 64-bit word: a uniform register, an address, a special register, an instruction word. -/
abbrev Word := BitVec 64

end Sys2Proof
end

