-- ==== Sys2Proof/Syntax.lean ====
section
/-! DEFINITION. The syntax of the YD40: the fields of the instruction formats (spec/06), of the engine commands
(spec/09), the objects that events name, and `Instr`, one constructor for each row of the opcode table. -/
namespace Sys2Proof

/-- The fields that every single word has before its class and opcode (Table 6-1): settle marker, guard predicate,
guard negation. -/
structure Hdr where
  s  : Bool
  pg : BitVec 3
  pn : Bool
  deriving DecidableEq, Repr

/-- Format A with its modifier field MODA (Tables 6-2, 6-3). -/
structure OpA where
  d  : BitVec 8
  a  : BitVec 8
  b  : BitVec 8
  c  : BitVec 8
  ua : Bool
  ub : Bool
  uc : Bool
  ty : BitVec 4
  rm : BitVec 2
  ov : Bool
  x3 : BitVec 3
  sp : Bool
  ib : Bool
  x1 : Bool
  deriving DecidableEq, Repr

/-- Format B (Table 6-4). -/
structure OpB where
  d   : BitVec 8
  a   : BitVec 8
  imm : BitVec 32
  deriving DecidableEq, Repr

/-- Format M with its modifier field MODM (Tables 6-5, 6-6). -/
structure OpM where
  d   : BitVec 8
  a   : BitVec 8
  off : BitVec 20
  w   : BitVec 3
  sc  : BitVec 3
  ord : BitVec 2
  cq  : BitVec 2
  ua  : Bool
  sg  : Bool
  deriving DecidableEq, Repr

/-- Layout C.J of class C (R157). -/
structure OpJ where
  tgt  : BitVec 40
  modc : BitVec 8
  deriving DecidableEq, Repr

/-- Layout C.S of class C (R157). -/
structure OpS where
  d   : BitVec 8
  a   : BitVec 8
  imm : BitVec 32
  deriving DecidableEq, Repr

/-- One half of a paired word (Table 6-8). -/
structure Half where
  rop : BitVec 6
  u   : Bool
  d   : BitVec 8
  so  : BitVec 8
  pg  : BitVec 3
  pn  : Bool
  imm : BitVec 4
  deriving DecidableEq, Repr

/-- CCOPY (Table 9-3). -/
structure CmdCopy where
  rng : Bool
  len : BitVec 32
  src : Word
  dst : Word
  deriving DecidableEq, Repr

/-- CTILE (Table 9-3). -/
structure CmdTile where
  rng  : Bool
  dir  : Bool
  tx0  : BitVec 16
  tx1  : BitVec 16
  tx2  : BitVec 16
  tx3  : BitVec 16
  tx4  : BitVec 16
  tidx : BitVec 32
  tsr  : Word
  spa  : Word
  deriving DecidableEq, Repr

/-- CGATH (Table 9-3). -/
structure CmdGather where
  rng   : Bool
  nidx  : BitVec 16
  tstr  : BitVec 32
  tbase : Word
  trows : BitVec 32
  rowb  : BitVec 16
  idx   : BitVec 16
  dst   : Word
  deriving DecidableEq, Repr

/-- CSCAT (Table 9-3). -/
structure CmdScatter where
  nidx  : BitVec 16
  tstr  : BitVec 32
  tbase : Word
  trows : BitVec 32
  rowb  : BitVec 16
  idx   : BitVec 16
  src   : Word
  deriving DecidableEq, Repr

/-- CFILL (Table 9-3). -/
structure CmdFill where
  rng : Bool
  len : BitVec 32
  pat : Word
  dst : Word
  deriving DecidableEq, Repr

/-- SWALK (Table 9-9). `o0` to `o4` are the walk order. -/
structure CmdWalk where
  rel   : Bool
  o0    : BitVec 3
  o1    : BitVec 3
  o2    : BitVec 3
  o3    : BitVec 3
  o4    : BitVec 3
  start : BitVec 32
  tsr   : Word
  tx0   : BitVec 16
  tx1   : BitVec 16
  tx2   : BitVec 16
  tx3   : BitVec 16
  tx4   : BitVec 16
  deriving DecidableEq, Repr

/-- SPUSH (Table 9-9). -/
structure CmdPush where
  mc    : Bool
  bmask : BitVec 8
  ring  : BitVec 32
  deriving DecidableEq, Repr

/-- SLOOP (Table 9-9). -/
structure CmdLoop where
  count : BitVec 32
  deriving DecidableEq, Repr

/-- SSIG of KIND 0 and KIND 2 (Table 9-9): a counter or a queue control block, and the addend or entry. -/
structure CmdSigWord where
  rel   : Bool
  addr  : Word
  value : Word
  deriving DecidableEq, Repr

/-- SSIG of KIND 1 (Table 9-9). -/
structure CmdSigBar where
  bar   : BitVec 10
  cl    : Bool
  block : BitVec 3
  count : BitVec 15
  deriving DecidableEq, Repr

/-- SMARK (Table 9-9). -/
structure CmdMark where
  soff : BitVec 16
  deriving DecidableEq, Repr

/-- SHALT (Table 9-9). -/
structure CmdHalt where
  code : BitVec 8
  deriving DecidableEq, Repr

/-- What an access that translates wants to do (R108, R413 ACC). -/
inductive Access where
  | read
  | write
  | fetch
  deriving DecidableEq, Repr

/-- A link of R438 and R439: a Vyre port 0 to 7, or a die-to-die edge 0 to 3 in the order of Table 14-5. -/
inductive Link where
  | port (p : Nat)
  | edge (e : Nat)
  deriving DecidableEq, Repr

/-- The classes of machine errors (R446). -/
inductive MachineErrorClass where
  | controlState
  | overTemperature
  | edgeDown
  deriving DecidableEq, Repr

/-- What a PTP message of IEEE 1588 says to an ordinary clock in the follower state with the end-to-end delay mechanism
(R341): a master's place in the order of the best master clock algorithm (lower is better); a Sync, with its time in one-step
form, without it in two-step form, and the follow-up that then gives it; the time at which a delay request arrived. -/
inductive PtpBody where
  | announce  (rank : Nat)
  | sync      (seq : BitVec 16) (origin : Option Word)
  | followUp  (seq : BitVec 16) (origin : Word)
  | delayResp (seq : BitVec 16) (receipt : Word)
  deriving DecidableEq, Repr

/-- A PTP message that a port receives (R340, R341): the domain, the sending clock, the body. -/
structure PtpMessage where
  port   : Nat
  domain : BitVec 8
  source : Nat
  body   : PtpBody
  deriving DecidableEq, Repr

/-- One RFC 4175 line segment of a video packet, or the payload of an audio or ancillary packet (R345). -/
structure Segment where
  line   : Nat
  offset : Nat
  bytes  : List (BitVec 8)
  deriving DecidableEq, Repr

/-- A received Ethernet frame that carries an IPv4 UDP datagram (R340), as far as the ingest engine looks at it. -/
structure Packet where
  good     : Bool
  vlan     : Option (BitVec 12)
  group    : BitVec 32
  src      : BitVec 32
  udpPort  : BitVec 16
  pt       : BitVec 7
  seq      : BitVec 16
  rtpTs    : BitVec 32
  marker   : Bool
  field    : Bool
  segments : List Segment
  deriving DecidableEq, Repr

/-- An access that a peer device makes to this device's HBM (R338, R339). -/
inductive PeerAccess where
  | load   (off : BitVec 39) (bytes : Nat)
  | store  (off : BitVec 39) (data : List (BitVec 8))
  | atomic (off : BitVec 39) (opn : BitVec 4) (wide : Bool) (v c : Word)
  deriving DecidableEq, Repr

/-- Where a soft error strikes (R445, Tables 19-6 and 21-9). -/
inductive SoftErrorPlace where
  | register   (wave lane reg : Nat)
  | scratch    (block word : Nat)
  | tile       (block t row col : Nat)
  | cache      (die : Nat)
  | l2Clean    (die : Nat)
  | l2Dirty    (pa : BitVec 52)
  | hbm        (pa : BitVec 52)
  | cxl        (pa : BitVec 52)
  | tray       (cluster : Nat)
  | tlb        (die : Nat)
  | control    (die : Nat)
  deriving DecidableEq, Repr

/-- What the boot steps find (R350 to R352, R447): which of steps 1 to 8 pass on their primary path and on their
alternate path and how many nanoseconds each takes, which die-to-die edges train, which CXL ports enumerate, the firmware
images of the persistent store, the firmware configuration of steps 7 and 8. -/
structure BootInputs where
  power       : Bool
  primaryOk   : List Bool
  alternateOk : List Bool
  details     : List (BitVec 15)
  took        : List Nat
  edges       : List Bool
  cxl         : List Bool
  imageA      : List (BitVec 8)
  imageB      : List (BitVec 8)
  devid       : BitVec 10
  pmodes      : List (BitVec 2)
  routes      : List (Nat × Nat)
  ptpDomain   : BitVec 8
  astbase     : Word
  jqtab       : Word
  hrq         : Word
  faultDepth  : List (BitVec 64)
  fbbase      : List (BitVec 64)
  deriving DecidableEq, Repr

/-- The instructions, engine commands and events of the YD40: one constructor for each row of
`spec/opcode_table.json`, in the table's order. A word carries its common fields `Hdr` (Table 6-1) and the fields
of its format; an engine command its own fields (Tables 9-3, 9-9); an event the objects that it happens to. -/
inductive Instr where
  /-- IADD (R184): Integer add of A and B, reduced to the type by wrap or saturate. -/
  | iadd (h : Hdr) (o : OpA)
  /-- ISUB (R184): Integer subtract of B from A, reduced to the type. -/
  | isub (h : Hdr) (o : OpA)
  /-- IMUL (R184): Integer multiply, reduced to the type. -/
  | imul (h : Hdr) (o : OpA)
  /-- IMULH (R184): Upper half of the exact 2N-bit integer product. -/
  | imulh (h : Hdr) (o : OpA)
  /-- IMAD (R184): Integer multiply-add with one reduction of the exact value. -/
  | imad (h : Hdr) (o : OpA)
  /-- IMIN (R184): Signed or unsigned integer minimum. -/
  | imin (h : Hdr) (o : OpA)
  /-- IMAX (R184): Signed or unsigned integer maximum. -/
  | imax (h : Hdr) (o : OpA)
  /-- IABS (R184): Integer absolute value, reduced to the type. -/
  | iabs (h : Hdr) (o : OpA)
  /-- INEG (R184): Integer negation, reduced to the type. -/
  | ineg (h : Hdr) (o : OpA)
  /-- IDIV (R58): Truncating integer division with fixed edge results; variable-latency. -/
  | idiv (h : Hdr) (o : OpA)
  /-- IREM (R58): Integer remainder with the dividend's sign and fixed edge results; variable-latency. -/
  | irem (h : Hdr) (o : OpA)
  /-- LEA (R184): 64-bit address add of A and an extended, shifted B. -/
  | lea (h : Hdr) (o : OpA)
  /-- AND (R186): Bitwise AND. -/
  | and (h : Hdr) (o : OpA)
  /-- OR (R186): Bitwise OR. -/
  | or (h : Hdr) (o : OpA)
  /-- XOR (R186): Bitwise XOR, also written NOT as an alias. -/
  | xor (h : Hdr) (o : OpA)
  /-- ANDN (R186): Bitwise A AND NOT B. -/
  | andn (h : Hdr) (o : OpA)
  /-- SHL (R186): Logical shift left by an n32 count. -/
  | shl (h : Hdr) (o : OpA)
  /-- SHR (R186): Logical shift right by an n32 count. -/
  | shr (h : Hdr) (o : OpA)
  /-- SAR (R186): Arithmetic shift right. -/
  | sar (h : Hdr) (o : OpA)
  /-- ROTL (R186): Rotate left by the count modulo the width. -/
  | rotl (h : Hdr) (o : OpA)
  /-- FUNSH (R186): Funnel shift of a 64-bit concatenation left or right. -/
  | funsh (h : Hdr) (o : OpA)
  /-- BFX (R186): Bit-field extract with sign or zero extension. -/
  | bfx (h : Hdr) (o : OpA)
  /-- BFI (R186): Bit-field insert. -/
  | bfi (h : Hdr) (o : OpA)
  /-- POPC (R186): Population count. -/
  | popc (h : Hdr) (o : OpA)
  /-- CLZ (R186): Count leading zeros. -/
  | clz (h : Hdr) (o : OpA)
  /-- CTZ (R186): Count trailing zeros. -/
  | ctz (h : Hdr) (o : OpA)
  /-- BREV (R186): Bit reverse. -/
  | brev (h : Hdr) (o : OpA)
  /-- PRMT (R186): Byte permute of two sources by a selector. -/
  | prmt (h : Hdr) (o : OpA)
  /-- ISETP (R189): Integer compare into a predicate, optionally ANDed with another. -/
  | isetp (h : Hdr) (o : OpA)
  /-- ISEL (R189): Select A or B by a predicate. -/
  | isel (h : Hdr) (o : OpA)
  /-- MOV (R189): Raw 32- or 64-bit register or immediate copy. -/
  | mov (h : Hdr) (o : OpA)
  /-- FADD (R191): Correctly rounded floating-point add. -/
  | fadd (h : Hdr) (o : OpA)
  /-- FSUB (R191): Correctly rounded floating-point subtract. -/
  | fsub (h : Hdr) (o : OpA)
  /-- FMUL (R191): Correctly rounded floating-point multiply. -/
  | fmul (h : Hdr) (o : OpA)
  /-- FFMA (R191): Fused multiply-add with one rounding. -/
  | ffma (h : Hdr) (o : OpA)
  /-- FMIN (R66): IEEE minimumNumber with NaN treated as missing. -/
  | fmin (h : Hdr) (o : OpA)
  /-- FMAX (R66): IEEE maximumNumber with NaN treated as missing. -/
  | fmax (h : Hdr) (o : OpA)
  /-- FSETP (R191): Floating-point compare into a predicate. -/
  | fsetp (h : Hdr) (o : OpA)
  /-- FRCP (R78): Correctly rounded reciprocal; variable-latency. -/
  | frcp (h : Hdr) (o : OpA)
  /-- FRSQ (R78): Correctly rounded reciprocal square root; variable-latency. -/
  | frsq (h : Hdr) (o : OpA)
  /-- FSQRT (R191): Correctly rounded square root; variable-latency. -/
  | fsqrt (h : Hdr) (o : OpA)
  /-- FDIV (R191): Correctly rounded division; variable-latency. -/
  | fdiv (h : Hdr) (o : OpA)
  /-- FEX2 (R78): Correctly rounded base-2 exponential. -/
  | fex2 (h : Hdr) (o : OpA)
  /-- FLG2 (R78): Correctly rounded base-2 logarithm. -/
  | flg2 (h : Hdr) (o : OpA)
  /-- FSIN (R78): Correctly rounded sine with exact argument reduction. -/
  | fsin (h : Hdr) (o : OpA)
  /-- FCOS (R78): Correctly rounded cosine with exact argument reduction. -/
  | fcos (h : Hdr) (o : OpA)
  /-- FTANH (R78): Correctly rounded hyperbolic tangent. -/
  | ftanh (h : Hdr) (o : OpA)
  /-- FRND (R191): Round to an integral value of the same type by RM. -/
  | frnd (h : Hdr) (o : OpA)
  /-- FCLS (R192): Write the class mask of a floating-point value, slag included. -/
  | fcls (h : Hdr) (o : OpA)
  /-- FSCL (R191): Multiply by a power of two with one rounding. -/
  | fscl (h : Hdr) (o : OpA)
  /-- FCVT (R195): Convert between floating-point types. -/
  | fcvt (h : Hdr) (o : OpA)
  /-- ICVT (R195): Convert between integer types or between integer and float. -/
  | icvt (h : Hdr) (o : OpA)
  /-- NPACK (R196): Pack f32 values into narrow elements. -/
  | npack (h : Hdr) (o : OpA)
  /-- NUNPK (R196): Unpack one narrow element to f32 exactly. -/
  | nunpk (h : Hdr) (o : OpA)
  /-- BXHDR (R197): Pack one BX block across the wave and give each lane header and element. -/
  | bxhdr (h : Hdr) (o : OpA)
  /-- DOT4 (R198): Add four exact narrow products to an f32 accumulator with one rounding. -/
  | dot4 (h : Hdr) (o : OpA)
  /-- SHFL (R200): Read another lane's value by index, up, down or xor. -/
  | shfl (h : Hdr) (o : OpA)
  /-- VOTE (R201): All, any, uniform or ballot over a predicate of the active lanes. -/
  | vote (h : Hdr) (o : OpA)
  /-- MATCH (R200): Mask of active lanes holding the same bits. -/
  | matchLanes (h : Hdr) (o : OpA)
  /-- WRED (R202): Wave reduction in the fixed butterfly order. -/
  | wred (h : Hdr) (o : OpA)
  /-- WSCAN (R202): Inclusive, optionally segmented wave scan in the fixed order. -/
  | wscan (h : Hdr) (o : OpA)
  /-- PLOP (R203): Logical operation on two predicates. -/
  | plop (h : Hdr) (o : OpA)
  /-- PGET (R203): Copy the lane's predicates into a vector register. -/
  | pget (h : Hdr) (o : OpA)
  /-- PSET (R203): Set predicates from a register under a mask. -/
  | pset (h : Hdr) (o : OpA)
  /-- MOVI (R204): Load a 32-bit immediate. -/
  | movi (h : Hdr) (o : OpB)
  /-- MOVHI (R204): Load the high word of a uniform register. -/
  | movhi (h : Hdr) (o : OpB)
  /-- IADDI (R204): Add an immediate, wrapping. -/
  | iaddi (h : Hdr) (o : OpB)
  /-- IMULI (R204): Multiply by an immediate, wrapping. -/
  | imuli (h : Hdr) (o : OpB)
  /-- ANDI (R204): AND with an immediate. -/
  | andi (h : Hdr) (o : OpB)
  /-- ORI (R204): OR with an immediate. -/
  | ori (h : Hdr) (o : OpB)
  /-- XORI (R204): XOR with an immediate. -/
  | xori (h : Hdr) (o : OpB)
  /-- ISETPI (R205): Integer compare against an immediate into a predicate. -/
  | isetpi (h : Hdr) (o : OpB)
  /-- FADDI (R204): f32 add of an immediate with nearest-even rounding. -/
  | faddi (h : Hdr) (o : OpB)
  /-- FMULI (R204): f32 multiply by an immediate with nearest-even rounding. -/
  | fmuli (h : Hdr) (o : OpB)
  /-- FSETPI (R205): f32 compare against an immediate into a predicate. -/
  | fsetpi (h : Hdr) (o : OpB)
  /-- PAIRED_WORD (R162): Two restricted two-operand halves issued together, all sources read before either writes. -/
  | pairedWord (s : Bool) (h1 h2 : Half)
  /-- ILLEGAL_ENCODING (R173): A word with an active lane that is not an instruction settles and enters the emulation handler or fails the job. -/
  | illegalEncoding (w : Word)
  /-- BRA (R206): Relative branch of the active lanes. -/
  | bra (h : Hdr) (o : OpJ)
  /-- BRX (R206): Indirect branch to a per-lane or uniform target. -/
  | brx (h : Hdr) (o : OpJ)
  /-- CALL (R206): Branch and write the return address to a pair. -/
  | call (h : Hdr) (o : OpJ)
  /-- RET (R206): Indirect return, using the return predictor. -/
  | ret (h : Hdr) (o : OpJ)
  /-- MEET (R207): Set each active lane's meeting register to a label. -/
  | meet (h : Hdr) (o : OpS)
  /-- MEET_CLEAR (R207): Clear each active lane's meeting register. -/
  | meetClear (h : Hdr) (o : OpS)
  /-- EXIT (R49): Settle, commit, wait for the home block's engine operations, discard q0 and end the active threads. -/
  | exit (h : Hdr) (o : OpS)
  /-- NOP (R207): No operation. -/
  | nop (h : Hdr) (o : OpS)
  /-- TRAP (R208): Settle and enter the emulation handler with a code. -/
  | trap (h : Hdr) (o : OpS)
  /-- SLEEP (R209): Stop issuing the wave for n clocks while it stays runnable. -/
  | sleep (h : Hdr) (o : OpS)
  /-- SLEEP_END (R209): The sleep count expires and the wave may issue again. -/
  | sleepEnd (wave : Nat)
  /-- SIFT (R293): Threads arrive with a key and payload at a cluster-wide regrouping. -/
  | sift (h : Hdr) (o : OpA)
  /-- SIFTH (R298): Threads arrive to be restored to their dispatch waves and lanes. -/
  | sifth (h : Hdr) (o : OpA)
  /-- SIFT_COMPLETE (R295): Once all live threads have arrived, trays are cut into rebuilt waves and placed or deferred. -/
  | siftComplete (cluster : Nat)
  /-- RSEED (R302): Seed the per-thread pruning generator from a value and sr.tid. -/
  | rseed (h : Hdr) (o : OpA)
  /-- RAND (R302): Step the generator and write an n32, n64 or f32 value. -/
  | rand (h : Hdr) (o : OpA)
  /-- PRUNE (R302): Keep or drop a value stochastically against a threshold. -/
  | prune (h : Hdr) (o : OpA)
  /-- SPCMP (R305): Compact each lane's row into values, indices and a CSR header. -/
  | spcmp (h : Hdr) (o : OpA)
  /-- SPEXP (R306): Expand a compact row back to dense form. -/
  | spexp (h : Hdr) (o : OpA)
  /-- TSLAG (R289): Test for slag and extract its verdict code. -/
  | tslag (h : Hdr) (o : OpA)
  /-- LDG (R217): Contiguous global load through the R92 path. -/
  | ldg (h : Hdr) (o : OpM)
  /-- STG (R216): Contiguous global store into the region store buffer. -/
  | stg (h : Hdr) (o : OpM)
  /-- LDGS (R215): Strided global load. -/
  | ldgs (h : Hdr) (o : OpM)
  /-- STGS (R216): Strided global store into the region store buffer. -/
  | stgs (h : Hdr) (o : OpM)
  /-- LDS (R219): Load from the home block's scratchpad. -/
  | lds (h : Hdr) (o : OpM)
  /-- STS (R220): Store to the home block's scratchpad, taking effect at once. -/
  | sts (h : Hdr) (o : OpM)
  /-- LDC (R219): Load through the cluster scratchpad window. -/
  | ldc (h : Hdr) (o : OpM)
  /-- STC (R220): Store through the cluster scratchpad window. -/
  | stc (h : Hdr) (o : OpM)
  /-- LDL (R219): Load from the per-thread stack. -/
  | ldl (h : Hdr) (o : OpM)
  /-- STL (R220): Store to the per-thread stack. -/
  | stl (h : Hdr) (o : OpM)
  /-- LD (R221): Generic load steered per lane by window. -/
  | ld (h : Hdr) (o : OpM)
  /-- ST (R221): Generic store steered per lane by window. -/
  | st (h : Hdr) (o : OpM)
  /-- LKP (R223): Table lookup through the lookup cache, nearest or interpolated. -/
  | lkp (h : Hdr) (o : OpM)
  /-- PREF (R224): Prefetch lines into L1 or home L2 without observable effect. -/
  | pref (h : Hdr) (o : OpM)
  /-- ATOM (R227): Per-lane indivisible read-modify-write returning the old value. -/
  | atom (h : Hdr) (o : OpM)
  /-- RED (R228): Per-lane indivisible read-modify-write with no return. -/
  | red (h : Hdr) (o : OpM)
  /-- ENQ (R231): Enqueue the active lanes' entries into a queue with status. -/
  | enq (h : Hdr) (o : OpM)
  /-- DEQ (R232): Dequeue entries into the active lanes with status. -/
  | deq (h : Hdr) (o : OpM)
  /-- QWAIT (R233): Park until a queue is non-empty. -/
  | qwait (h : Hdr) (o : OpM)
  /-- ASTHR (R287): Raise threshold cells by maximumNumber. -/
  | asthr (h : Hdr) (o : OpM)
  /-- RING (R264): Initialise an arrival ring object. -/
  | ring (h : Hdr) (o : OpM)
  /-- AWF (R264): Wait for slot n of an arrival ring and acquire it. -/
  | awf (h : Hdr) (o : OpM)
  /-- RLS (R264): Release arrival ring slots up to n. -/
  | rls (h : Hdr) (o : OpM)
  /-- STRM (R266): Release, then start a stream program on an engine and return a handle. -/
  | strm (h : Hdr) (o : OpM)
  /-- STRQ (R266): Snapshot a stream program's state. -/
  | strq (h : Hdr) (o : OpM)
  /-- GANG (R275): Write the wave's gang register. -/
  | gang (h : Hdr) (o : OpM)
  /-- MLD (R278): Load a weight tile into the shadow plane. -/
  | mld (h : Hdr) (o : OpM)
  /-- MSWP (R278): Exchange the active and shadow weight planes. -/
  | mswp (h : Hdr) (o : OpM)
  /-- MMA (R279): Accumulate activation times weights into tile rows. -/
  | mma (h : Hdr) (o : OpM)
  /-- MAS (R285): Assay accumulation that writes slag once the verdict is settled. -/
  | mas (h : Hdr) (o : OpM)
  /-- MCONV (R282): MMA with activations generated from a tensor shape record. -/
  | mconv (h : Hdr) (o : OpM)
  /-- MPSH (R280): Push a row word from every lane into q1. -/
  | mpsh (h : Hdr) (o : OpM)
  /-- MPOP (R281): Pop one output column from q0. -/
  | mpop (h : Hdr) (o : OpM)
  /-- MZERO (R278): Set every element of an accumulator tile to +0. -/
  | mzero (h : Hdr) (o : OpM)
  /-- MSTA (R283): Store tile row groups to scratchpad with conversion. -/
  | msta (h : Hdr) (o : OpM)
  /-- MATRIX_OP_COMPLETE (R281): A matrix operation completes and pushes its columns into q0 when OUT is set. -/
  | matrixOpComplete (block : Nat)
  /-- BINIT (R236): Set a barrier's expected count and scope. -/
  | binit (h : Hdr) (o : OpS)
  /-- BARV (R237): Arrive at a barrier with release and set the last-arriver flag. -/
  | barv (h : Hdr) (o : OpS)
  /-- BWAIT (R238): Wait for a barrier phase and acquire. -/
  | bwait (h : Hdr) (o : OpS)
  /-- BSYNC (R238): Arrive and wait for the phase's completion. -/
  | bsync (h : Hdr) (o : OpS)
  /-- CWAIT (R239): Park until a counter word reaches a target, then acquire. -/
  | cwait (h : Hdr) (o : OpS)
  /-- FENCE (R133): Commit, drain the core's stores to the scope's point and invalidate caches. -/
  | fence (h : Hdr) (o : OpS)
  /-- FENCELK (R97): Commit, drain to home and empty the core's lookup cache. -/
  | fencelk (h : Hdr) (o : OpS)
  /-- BIND (R240): Add a binding of a region to a synchronisation object. -/
  | bind (h : Hdr) (o : OpS)
  /-- UNBIND (R240): Remove an equal binding. -/
  | unbind (h : Hdr) (o : OpS)
  /-- TBEGIN (R242): Start a transaction in each active lane. -/
  | tbegin (h : Hdr) (o : OpS)
  /-- TEND (R243): Resolve, validate and commit or abort each lane's transaction. -/
  | tend (h : Hdr) (o : OpS)
  /-- TABORT (R244): Abort the open transaction with a code. -/
  | tabort (h : Hdr) (o : OpS)
  /-- REGION (R245): Region boundary that commits the region store buffer. -/
  | region (h : Hdr) (o : OpS)
  /-- GROW (R46): Request more registers per thread and park until granted. -/
  | grow (h : Hdr) (o : OpS)
  /-- SHRINK (R47): Release the top registers per thread to the core's pool. -/
  | shrink (h : Hdr) (o : OpS)
  /-- JOB (R246): Commit, drain and enqueue a job submission entry. -/
  | job (h : Hdr) (o : OpS)
  /-- RSP (R247): Read a special register. -/
  | rsp (h : Hdr) (o : OpS)
  /-- WSP (R249): Write a special register. -/
  | wsp (h : Hdr) (o : OpS)
  /-- EMURET (R250): Return from the emulation handler to sr.emu7. -/
  | emuret (h : Hdr) (o : OpS)
  /-- HALT (R251): Stop the cluster and post a halt record to the host. -/
  | halt (h : Hdr) (o : OpS)
  /-- TLBINV (R251): Remove translations device-wide and wait for completion. -/
  | tlbinv (h : Hdr) (o : OpS)
  /-- RESULT_RETURN (R166): A variable-latency result is written and a settled wave may resume. -/
  | resultReturn (wave k : Nat)
  /-- WAVE_SWAP (R329): A long-runnable pending wave is exchanged into the active set. -/
  | waveSwap (core quadrant : Nat)
  /-- RELEASE_DRAIN_COMPLETE (R127): Committed stores reach their points and a waiting release or fence proceeds. -/
  | releaseDrainComplete (core n : Nat)
  /-- PAGE_WALK (R104): A TLB miss walks the tables and yields a leaf, a fault or a regeneration. -/
  | pageWalk (core : Nat) (asid : BitVec 14) (va : Word) (acc : Access)
  /-- COPY_TAKE (R254): A NOTIFY store wakes the copy unit, which takes published entries. -/
  | copyTake (block : Nat)
  /-- CCOPY (R257): Copy LEN bytes from source to destination or ring slot. -/
  | ccopy (c : CmdCopy)
  /-- CTILE (R257): Copy one tensor tile to or from scratchpad. -/
  | ctile (c : CmdTile)
  /-- CGATH (R257): Gather indexed rows into scratchpad or a ring slot. -/
  | cgath (c : CmdGather)
  /-- CSCAT (R257): Scatter scratchpad rows to indexed tensor rows. -/
  | cscat (c : CmdScatter)
  /-- CFILL (R257): Fill a range with an address-aligned pattern. -/
  | cfill (c : CmdFill)
  /-- DELIVERY_LAND (R90): An engine delivery lands, sets presence and lets the ring advance. -/
  | deliveryLand (block k : Nat)
  /-- COPY_COMPLETE (R144): A copy command's writes reach their points and DONE increments. -/
  | copyComplete (block k : Nat)
  /-- SWALK (R268): Load a TSR walk and set the tile counter. -/
  | swalk (c : CmdWalk)
  /-- SPUSH (R268): Claim, deliver and advance one tile into target rings. -/
  | spush (c : CmdPush)
  /-- SLOOP (R268): Push a loop count or skip to the matching SENDL. -/
  | sloop (c : CmdLoop)
  /-- SENDL (R268): Decrement the loop count and loop or pop. -/
  | sendl
  /-- SSIG_RED (R268): After earlier commands complete, release and add to a counter. -/
  | ssigRed (c : CmdSigWord)
  /-- SSIG_BARRIER (R268): After earlier commands complete, release and arrive at a barrier. -/
  | ssigBarrier (c : CmdSigBar)
  /-- SSIG_ENQ (R268): After earlier commands complete, release and enqueue an entry. -/
  | ssigEnq (c : CmdSigWord)
  /-- SMARK (R268): Arm a time stamp for the next SPUSH. -/
  | smark (c : CmdMark)
  /-- SHALT (R268): Wait for earlier commands, end the program and free its slot. -/
  | shalt (c : CmdHalt)
  /-- JOB_ACCEPT (R311): The scheduler takes a submission entry and checks the card. -/
  | jobAccept (entry : Nat)
  /-- DEAL (R318): Chunks of a ready job's records are dealt to core task queues. -/
  | deal
  /-- CLUSTER_DISPATCH (R319): A core with room places a task's cluster. -/
  | clusterDispatch (core : Nat)
  /-- GROW_STALL_PREEMPT (R48): After 1,024 idle clocks the youngest GROW waiter's cluster is discarded. -/
  | growStallPreempt (core : Nat)
  /-- CLUSTER_RESUME (R43): A pre-empted cluster resumes in place or elsewhere when room exists. -/
  | clusterResume (cluster : Nat)
  /-- JOB_LATE (R315): The deadline passes and a late record is enqueued. -/
  | jobLate (job : Nat)
  /-- RECORD_RETRY (R317): A held record is enqueued once its full queue has room. -/
  | recordRetry (k : Nat)
  /-- STAGE_DISPATCH (R324): A core with a stage role dequeues an input entry and dispatches a task. -/
  | stageDispatch (core job : Nat)
  /-- STEAL_REQUEST (R320): An idle core asks a victim for a task-queue entry. -/
  | stealRequest (thief : Nat)
  /-- STEAL_LEND (R320): The victim marks and transfers an entry, or refuses. -/
  | stealLend (k : Nat)
  /-- STEAL_ACCEPT (R320): The thief appends the entry and acknowledges. -/
  | stealAccept (k : Nat)
  /-- STEAL_ACK (R321): The victim frees the lent entry or refuses a late acknowledgement. -/
  | stealAck (k : Nat)
  /-- STEAL_WATCHDOG (R321): After 4,096 fabric clocks without acknowledgement the victim reclaims the entry. -/
  | stealWatchdog (k : Nat)
  /-- REPLICA_COMMIT (R323): Twin runs meet at a boundary, compare hashes and commit once. -/
  | replicaCommit (wave twin : Nat)
  /-- ENQUEUE_GO (R333): A GO write enqueues the slot's submission entry and sets status. -/
  | enqueueGo (slot : Nat)
  /-- INVALIDATE (R334): Host command removing translations as TLBINV does. -/
  | invalidate
  /-- RESUME (R334): Host command resuming a halted cluster. -/
  | resume
  /-- CANCEL (R336): Host command stopping and discarding a job. -/
  | cancel
  /-- REPLAY_ALL (R415): Host command releasing fault misses so parked waves restart. -/
  | replayAll
  /-- REPLICA_GROUP (R349): Host command pairing or unpairing with a peer device for step jobs. -/
  | replicaGroup
  /-- SET_TIME (R342): Host command writing the time counter while unlocked. -/
  | setTime
  /-- HOST_COMMAND_INVALID (R334): An unknown OP completes with RESULT 1. -/
  | hostCommandInvalid (op : Byte)
  /-- MAILBOX_REQUEST (R353): An MBTX write rings the firmware, which replies such as with an attestation report. -/
  | mailboxRequest (len : BitVec 13)
  /-- MBRX_READ (R356): A read of MBRX returns the reply length and clears VALID. -/
  | mbrxRead
  /-- FBGET_WRITE (R412): A write to FBGET is taken only within the filled range. -/
  | fbgetWrite (die : Nat) (v : Word)
  /-- FAULT_BUFFER_CONFIG_WRITE (R412): FAULTDEPTH or FBBASE changes only while the ring is empty. -/
  | faultBufferConfigWrite (die : Nat) (base : Bool) (v : Word)
  /-- DROPPED_CLEAR (R412): Writing 1 to DROPPED clears it and DCNT. -/
  | droppedClear (die : Nat) (v : Word)
  /-- INGSET_WRITE (R344): Writing a descriptor index reads and enables or rejects that descriptor. -/
  | ingsetWrite (die : Nat) (v : Word)
  /-- POOL_WRITE (R330): A POOLMIN or POOLCAP write is taken whole or ignored. -/
  | poolWrite (core : Nat) (cap : Bool) (v : Word)
  /-- SCONF_CLEAR (R356): Writing 1 to SCONF bit 0 clears the conflict count. -/
  | sconfClear (core : Nat) (v : Word)
  /-- IGDROP_CLEAR (R439): Writing 1 to IGDROP bit 0 clears the discard count. -/
  | igdropClear (die : Nat) (v : Word)
  /-- PSTATE_WRITE (R354): A requested power state changes the arithmetic clock. -/
  | pstateWrite (v : Word)
  /-- PMODE_WRITE (R337): A port mode write takes effect only while the link is down. -/
  | pmodeWrite (port : Nat) (v : Word)
  /-- REGISTER_WRITE (R356): A write to a management register without behaviour of its own. -/
  | registerWrite (off : BitVec 24) (wide : Bool) (v : Word)
  /-- PTP_MESSAGE (R342): A received PTP message disciplines the time counter. -/
  | ptpMessage (m : PtpMessage)
  /-- PTP_DELAY_REQUEST (R341): The device transmits an end-to-end delay request. -/
  | ptpDelayRequest (port : Nat)
  /-- INGEST_PACKET (R345): A matching RTP packet is written into its frame slot. -/
  | ingestPacket (die port : Nat) (p : Packet)
  /-- FRAME_DEADLINE (R441): The frame deadline passes, the frame closes truncated and the stream seeks. -/
  | frameDeadline (die desc : Nat)
  /-- PEER_ACCESS (R339): A peer device's access is served at this device's home slice. -/
  | peerAccess (peer : BitVec 10) (a : PeerAccess)
  /-- REPLICA_DIGEST (R349): A peer's step digest arrives and is compared. -/
  | replicaDigest (asid : BitVec 14) (step : Nat) (digest : BitVec 384)
  /-- REPLICA_DIGEST_TIMEOUT (R437): No peer digest within 100 ms writes an unconfirmed record. -/
  | replicaDigestTimeout (asid : BitVec 14)
  /-- FLIT_CRC_ERROR (R438): A CRC error requests retransmission and may start a retrain. -/
  | flitCrcError (link : Link) (flit : Nat)
  /-- RETRAIN_DONE (R438): A retrain ends, resuming traffic or taking the port down. -/
  | retrainDone (link : Link) (ok : Bool)
  /-- THERMAL_FLOOR_RISE (R355): A temperature crossing raises the thermal floor or raises a machine error. -/
  | thermalFloorRise (die : Nat) (temp : BitVec 16)
  /-- THERMAL_FLOOR_FALL (R355): After 10 ms below the threshold the floor falls by one state. -/
  | thermalFloorFall (die : Nat)
  /-- MACHINE_ERROR (R446): Control-state error, over-temperature or edge loss stops the device. -/
  | machineError (cls : MachineErrorClass) (die : Nat)
  /-- COUNTER_FLUSH (R357): Every 60 s the lifetime counts are flushed to the persistent store. -/
  | counterFlush
  /-- RESET (R350): Power-on or host reset runs the boot steps with alternate paths. -/
  | reset (b : BootInputs)
  /-- VOLTAGE_DROOP (R357): A voltage-droop event on a die is counted by die and severity in the lifetime counters. -/
  | voltageDroop (die severity : Nat)
  /-- SOFT_ERROR (R445): A soft error corrupts stored data, which is later corrected and counted or found as poison. -/
  | softError (place : SoftErrorPlace) (correctable : Bool)
  /-- PTP_LOCK_LOSS (R342): The time counter loses its PTP lock and runs at the nominal rate of the reference. -/
  | ptpLockLoss
  /-- POWER_LOSS (R357): Loss of power stops the device and drops the lifetime counts not yet flushed. -/
  | powerLoss
  /-- ORDERLY_SHUTDOWN (R357): At orderly shutdown the device flushes the lifetime counts to the persistent store. -/
  | orderlyShutdown
  /-- PORT_LINK_UP (R337): A Vyre or Ethernet port's link finishes training and comes up. -/
  | portLinkUp (port : Nat)
  /-- CORE_POWER_GATING (R435): A request to power-gate a core is granted or refused, changing the cores that dealing counts. -/
  | corePowerGating (core : Nat) (gate : Bool)
  deriving DecidableEq, Repr

end Sys2Proof
end

