-- ==== Sys2Proof/Machine/Legality.lean ====
section
/-! DEFINITION. Which field values make a word an instruction (R159, R163, R172) and a command an executable one
(R255). `Instr.problem` names the first check that a term fails. -/
namespace Sys2Proof

/-- The reasons for which a word is not an instruction (R172) or a command is not executable (R255, Table 21-1). -/
inductive Problem where
  /-- R172 1: the opcode is reserved in its class (raised by the decoder). -/
  | reservedOpcode
  /-- R172 2: a paired word that breaks R163. -/
  | pairing
  /-- R172 3: W, SC, CQ or TY holds a value that the opcode does not accept. -/
  | reservedValue
  /-- R172 4: an operand rule of R154 to R157 is broken. -/
  | operandRule
  /-- R172 5: SC = 0 with ORD nonzero, or a LKP with nonzero SC or ORD. -/
  | orderWithoutScope
  /-- R172 6: a field that the opcode does not use is nonzero (R159). -/
  | unusedField
  /-- R292: a SIFT or SIFTH with any other value in any field of Table 11-1. -/
  | siftField
  /-- R255: reserved CMD (INFO1 0 of 0x0201; raised by the decoder). -/
  | reservedCommand
  /-- R255: a nonzero reserved field of a command (INFO1 2; raised by the decoder). -/
  | commandReserved
  /-- R255: a field outside its stated range (INFO1 3). -/
  | commandRange
  deriving DecidableEq, Repr

/-- The first failing check of a list, in order. -/
def firstProblem : List (Bool × Problem) → Option Problem
  | [] => none
  | (ok, p) :: rest => if ok then firstProblem rest else some p

/-! ### Field rules -/

/-- TY sets of R182. -/
def tyInt (t : BitVec 4) : Bool := t.toNat ≤ 7
def tySigned (t : BitVec 4) : Bool := t.toNat ≤ 3
def tyUnsignedWide (t : BitVec 4) : Bool := t.toNat == 6 || t.toNat == 7
def tyF (t : BitVec 4) : Bool := 8 ≤ t.toNat && t.toNat ≤ 11
def tyFP (t : BitVec 4) : Bool := 8 ≤ t.toNat && t.toNat ≤ 13
def tyFT (t : BitVec 4) : Bool := 8 ≤ t.toNat && t.toNat ≤ 10
def tyRaw (t : BitVec 4) : Bool := t.toNat == 0 || t.toNat == 7
def tyWord (t : BitVec 4) : Bool := [2, 3, 6, 7].contains t.toNat
def tyCvtFloat (t : BitVec 4) : Bool := (8 ≤ t.toNat && t.toNat ≤ 11) || t.toNat == 14 || t.toNat == 15
def tyCvtAny (t : BitVec 4) : Bool := t.toNat ≤ 11 || t.toNat == 14 || t.toNat == 15
def tyNarrow (t : BitVec 4) : Bool := [8, 9, 14, 15].contains t.toNat
def tyNarrow8 (t : BitVec 4) : Bool := t.toNat == 14 || t.toNat == 15

/-- The types of 64 bits: i64, n64, f64 (Table 6-7). -/
def tyWide (t : BitVec 4) : Bool := [3, 7, 11].contains t.toNat

def isEven (r : BitVec 8) : Bool := r.toNat % 2 == 0
/-- A field that names s0 to s63 by bits [5:0]: bits [7:6] are 0 (R154). -/
def uniOk (r : BitVec 8) : Bool := r.toNat < 64
/-- A field that names p0 to p7: bits [7:3] are 0 (R154). -/
def predOk (r : BitVec 8) : Bool := r.toNat < 8
/-- A register source: uniform, or a vector register, the even one of a pair when `wide` (R154). -/
def srcOk (u : Bool) (r : BitVec 8) (wide : Bool) : Bool := if u then uniOk r else !wide || isEven r
/-- A field that nothing reads (R159). -/
def zero8 (r : BitVec 8) : Bool := r.toNat == 0

/-- How a class A opcode uses one of the sources A, B, C. -/
inductive Use where
  | unused
  /-- a vector or uniform register, `wide` for a 64-bit source -/
  | reg (wide : Bool)
  /-- as `reg`, and IB = 1 admits an immediate (source B only) -/
  | regOrImm (wide : Bool)
  /-- a vector register -/
  | vec (wide : Bool)
  /-- a vector register or an immediate -/
  | vecOrImm (wide : Bool)
  /-- a uniform register -/
  | uni
  /-- a predicate -/
  | pred
  /-- a number in the field, at least `lo` and at most `hi` -/
  | number (lo hi : Nat)
  deriving DecidableEq, Repr

/-- How a class A opcode uses D. -/
inductive Dest where
  | none
  | reg (wide : Bool)
  | vec (wide : Bool)
  | pred
  /-- R199: vector, or with UC = 1 a uniform register -/
  | cross (wide : Bool)
  deriving DecidableEq, Repr

/-- The field rules of one class A opcode (Tables 7-2 to 7-11, 11-4, 11-6). `x3` is the largest X3 admitted. -/
structure ShapeA where
  ty   : Bool
  dst  : Dest
  a    : Use
  b    : Use
  c    : Use
  x3   : Nat := 0
  x1   : Bool := false
  rm   : Bool := false
  ov   : Bool := false
  sp   : Bool := false
  deriving DecidableEq, Repr

/-- R154: a class A word is uniform when every register source that it reads is named uniform. -/
def ShapeA.uniformUse (u : Use) (isU ib : Bool) : Bool :=
  match u with
  | .unused | .pred | .number _ _ => true
  | .reg _ | .vec _ | .uni => isU
  | .regOrImm _ | .vecOrImm _ => ib || isU

def ShapeA.isUniform (sh : ShapeA) (o : OpA) : Bool :=
  (match sh.dst with | .cross _ | .vec _ => false | _ => true) &&
  uniformUse sh.a o.ua false && uniformUse sh.b o.ub o.ib && uniformUse sh.c o.uc false

/-- R154, R159: one source field. `ib` is meaningful for source B only. -/
def Use.ok (u : Use) (isU : Bool) (r : BitVec 8) (ib : Bool) : Bool :=
  match u with
  | .unused => !isU && zero8 r
  | .reg w => srcOk isU r w
  | .regOrImm w => if ib then !isU else srcOk isU r w
  | .vec w => !isU && (!w || isEven r)
  | .vecOrImm w => if ib then !isU else srcOk isU r w
  | .uni => isU && uniOk r
  | .pred => !isU && predOk r
  | .number lo hi => !isU && lo ≤ r.toNat && r.toNat ≤ hi

/-- Whether a broken source rule is an unused field (R172 6) or an operand rule (R172 4). -/
def Use.problem : Use → Problem
  | .unused => .unusedField
  | _ => .operandRule

def Use.admitsImm : Use → Bool
  | .regOrImm _ | .vecOrImm _ => true
  | _ => false

/-- R154: the destination field, in a uniform word or not. -/
def Dest.ok (d : Dest) (uniform uc : Bool) (r : BitVec 8) : Bool :=
  match d with
  | .none => zero8 r
  | .reg w => (uniform && 192 ≤ r.toNat) || !w || isEven r
  | .vec w => !w || isEven r
  | .pred => predOk r
  | .cross w => if uc then uniOk r else !w || isEven r

/-- The checks of a class A word, in the order of R172. -/
def ShapeA.problem (sh : ShapeA) (o : OpA) : Option Problem :=
  let cross := match sh.dst with | .cross _ => true | _ => false
  firstProblem [
    (sh.ty, .reservedValue),
    (!o.ib || sh.b.admitsImm, .unusedField),
    (sh.a.ok o.ua o.a false, sh.a.problem),
    (sh.b.ok o.ub o.b o.ib, sh.b.problem),
    ((cross && o.uc && zero8 o.c) || sh.c.ok o.uc o.c false, sh.c.problem),
    (sh.dst.ok (sh.isUniform o) o.uc o.d, .operandRule),
    (o.x3.toNat ≤ sh.x3, .unusedField),
    (sh.x1 || !o.x1, .unusedField),
    (sh.rm || o.rm.toNat == 0, .unusedField),
    (sh.ov || !o.ov, .unusedField),
    (sh.sp || !o.sp, .unusedField)]

/-! ### Class A shapes -/

/-- Two-source integer arithmetic (Table 7-2). -/
def shapeInt2 (o : OpA) (ov : Bool) : ShapeA :=
  { ty := tyInt o.ty, dst := .reg (tyWide o.ty), a := .reg (tyWide o.ty), b := .regOrImm (tyWide o.ty), c := .unused, ov }
def shapeImad (o : OpA) : ShapeA := { shapeInt2 o true with c := .reg (tyWide o.ty) }
def shapeInt1 (ty : Bool) (o : OpA) (ov : Bool) : ShapeA :=
  { ty, dst := .reg (tyWide o.ty), a := .reg (tyWide o.ty), b := .unused, c := .unused, ov }
/-- LEA: A a 64-bit pair or uniform, B 32 bits, X3 the shift (Table 7-2). -/
def shapeLea (o : OpA) : ShapeA :=
  { ty := o.ty.toNat == 2 || o.ty.toNat == 6, dst := .reg true, a := .reg true, b := .regOrImm false, c := .unused, x3 := 7 }
/-- Shifts: the count is B[31:0] whatever TY (R186; log entry 12). -/
def shapeShift (o : OpA) : ShapeA :=
  { ty := tyInt o.ty, dst := .reg (tyWide o.ty), a := .reg (tyWide o.ty), b := .regOrImm false, c := .unused }
def shapeFunsh (o : OpA) : ShapeA :=
  { ty := o.ty.toNat == 6, dst := .reg false, a := .reg false, b := .reg false, c := .reg false, x1 := true }
def shapeBfx (o : OpA) : ShapeA :=
  { ty := tyWord o.ty, dst := .reg (tyWide o.ty), a := .reg (tyWide o.ty), b := .regOrImm false, c := .reg false }
def shapeBfi (o : OpA) : ShapeA :=
  { ty := tyWord o.ty, dst := .reg (tyWide o.ty), a := .reg (tyWide o.ty), b := .reg (tyWide o.ty), c := .reg false }
def shapePrmt (o : OpA) : ShapeA :=
  { ty := o.ty.toNat == 6, dst := .reg false, a := .reg false, b := .reg false, c := .reg false }
def shapeIsetp (o : OpA) : ShapeA :=
  { ty := tyInt o.ty, dst := .pred, a := .reg (tyWide o.ty), b := .regOrImm (tyWide o.ty),
    c := if o.x1 then .pred else .unused, x3 := 5, x1 := true }
def shapeIsel (o : OpA) : ShapeA :=
  { ty := tyRaw o.ty, dst := .reg (tyWide o.ty), a := .reg (tyWide o.ty), b := .regOrImm (tyWide o.ty), c := .pred }
def shapeMov (o : OpA) : ShapeA :=
  { ty := tyRaw o.ty, dst := .reg (tyWide o.ty), a := if o.ib then .unused else .reg (tyWide o.ty),
    b := if o.ib then .regOrImm (tyWide o.ty) else .unused, c := .unused }
def shapeF2 (o : OpA) (ty round : Bool) : ShapeA :=
  { ty, dst := .reg (tyWide o.ty), a := .reg (tyWide o.ty), b := .reg (tyWide o.ty), c := .unused,
    rm := round, ov := round, sp := true }
def shapeFfma (o : OpA) : ShapeA := { shapeF2 o (tyFP o.ty) true with c := .reg (tyWide o.ty) }
def shapeFsetp (o : OpA) : ShapeA :=
  { ty := tyF o.ty, dst := .pred, a := .reg (tyWide o.ty), b := .reg (tyWide o.ty),
    c := if o.x1 then .pred else .unused, x3 := 7, x1 := true, sp := true }
def shapeF1 (o : OpA) (ty : Bool) : ShapeA :=
  { ty, dst := .reg (tyWide o.ty), a := .reg (tyWide o.ty), b := .unused, c := .unused, rm := true, ov := true, sp := true }
def shapeFrnd (o : OpA) : ShapeA := { shapeF1 o (tyF o.ty) with ov := false }
def shapeFcls (o : OpA) : ShapeA :=
  { ty := tyF o.ty, dst := .reg false, a := .reg (tyWide o.ty), b := .unused, c := .unused }
def shapeFscl (o : OpA) : ShapeA :=
  { ty := tyF o.ty, dst := .reg (tyWide o.ty), a := .reg (tyWide o.ty), b := .reg false, c := .unused,
    rm := true, ov := true, sp := true }
/-- The source type of FCVT and ICVT: C[3:0] (R194). -/
def srcTy (o : OpA) : BitVec 4 := o.c.setWidth 4
def shapeFcvt (o : OpA) : ShapeA :=
  { ty := tyCvtFloat o.ty && tyCvtFloat (srcTy o), dst := .reg (tyWide o.ty), a := .reg (tyWide (srcTy o)), b := .unused,
    c := .number 0 15, rm := true, ov := true, sp := true }
/-- ICVT: RM is 0 between integers, OV is 0 from a float (R195); both types floating is no instruction. -/
def shapeIcvt (o : OpA) : ShapeA :=
  { ty := tyCvtAny o.ty && tyCvtAny (srcTy o) && (tyInt o.ty || tyInt (srcTy o)), dst := .reg (tyWide o.ty),
    a := .reg (tyWide (srcTy o)), b := .unused, c := .number 0 15,
    rm := !(tyInt o.ty && tyInt (srcTy o)), ov := tyInt (srcTy o), sp := true }
def shapeNpack (o : OpA) : ShapeA :=
  { ty := tyNarrow o.ty, dst := .reg false, a := .reg false, b := .reg false,
    c := if tyNarrow8 o.ty then .reg false else .unused, x1 := tyNarrow8 o.ty, rm := true, ov := true, sp := true }
def shapeNunpk (o : OpA) : ShapeA :=
  { ty := tyNarrow o.ty, dst := .reg false, a := .reg false, b := .unused, c := .unused,
    x3 := if tyNarrow8 o.ty then 3 else 1, sp := true }
def shapeBxhdr (o : OpA) : ShapeA :=
  { ty := o.ty.toNat == 10, dst := .reg false, a := .reg false, b := .unused, c := .unused, x3 := 7, ov := true }
def shapeDot4 (o : OpA) : ShapeA :=
  { ty := o.ty.toNat == 10, dst := .reg false, a := .reg false, b := .reg false, c := .reg false, x3 := 7,
    rm := true, ov := true, sp := true }
def shapeShfl (o : OpA) : ShapeA :=
  { ty := tyRaw o.ty, dst := .cross (tyWide o.ty), a := .vec (tyWide o.ty), b := .vecOrImm false, c := .unused, x3 := 3 }
def shapeVote (o : OpA) : ShapeA :=
  { ty := o.ty.toNat == 0, dst := if o.x3.toNat == 3 then .cross false else .pred, a := .pred, b := .unused, c := .unused,
    x3 := 3, x1 := true }
def shapeMatch (o : OpA) : ShapeA :=
  { ty := tyRaw o.ty, dst := .cross false, a := .vec (tyWide o.ty), b := .unused, c := .unused }
/-- WRED and WSCAN: bitwise ops are integer only; which of RM, OV and SP an op uses (Table 7-9). -/
def shapeReduce (o : OpA) (d : Dest) (c : Use) (x1 : Bool) : ShapeA :=
  { ty := (tyInt o.ty || tyF o.ty) && (o.x3.toNat ≤ 2 || tyInt o.ty), dst := d, a := .vec (tyWide o.ty), b := .unused, c,
    x3 := 5, x1, rm := o.x3.toNat == 0 && tyF o.ty, ov := o.x3.toNat == 0, sp := tyF o.ty }
def shapeWred (o : OpA) : ShapeA := shapeReduce o (.cross (tyWide o.ty)) .unused false
def shapeWscan (o : OpA) : ShapeA := shapeReduce o (.vec (tyWide o.ty)) (if o.x1 then .pred else .unused) true
def shapePlop (o : OpA) : ShapeA :=
  { ty := o.ty.toNat == 0, dst := .pred, a := .pred, b := .pred, c := .unused, x3 := 7 }
def shapePget (o : OpA) : ShapeA := { ty := o.ty.toNat == 0, dst := .vec false, a := .unused, b := .unused, c := .unused }
def shapePset (o : OpA) : ShapeA :=
  { ty := o.ty.toNat == 0, dst := .none, a := .reg false, b := .regOrImm false, c := .unused }
def shapeRseed (o : OpA) : ShapeA := { ty := o.ty.toNat == 0, dst := .none, a := .reg true, b := .unused, c := .unused }
def shapeRand (o : OpA) : ShapeA :=
  { ty := [6, 7, 10].contains o.ty.toNat, dst := .vec (tyWide o.ty), a := .unused, b := .unused, c := .unused }
def shapePrune (o : OpA) : ShapeA :=
  { ty := o.ty.toNat == 10, dst := .vec false, a := .reg false, b := .uni, c := .unused, x1 := true, sp := true }
/-- SPCMP and SPEXP (Table 11-6): C is k, 1 to 16. -/
def shapeSparse (o : OpA) : ShapeA :=
  { ty := o.ty.toNat == 6 || o.ty.toNat == 10, dst := .vec false, a := .vec false, b := .uni, c := .number 1 16, x3 := 7 }
def shapeTslag (o : OpA) : ShapeA :=
  { ty := o.ty.toNat == 9 || o.ty.toNat == 10, dst := .reg false, a := .reg false, b := .unused, c := .unused }

/-- The registers of a compact row of k columns (R303): k + ceil(k / 4) + 1. -/
def compactRegs (k : Nat) : Nat := k + (k + 3) / 4 + 1

/-- SPCMP's destination group ends at v255 at the latest (Table 11-6). The other groups of SPCMP and SPEXP have no such
rule: one that passes v255 names registers above every allocation (Table 18-4, 0x0004). -/
def sparseRange (o : OpA) (compactDst : Bool) : Bool :=
  !compactDst || o.d.toNat + compactRegs o.c.toNat ≤ 256

/-- Table 11-1 for SIFT and SIFTH: `sift` says which. -/
def siftFieldsOk (h : Hdr) (o : OpA) (sift : Bool) : Bool :=
  h.pg.toNat == 7 && !h.pn && o.ty.toNat == 0 && o.rm.toNat == 0 && !o.ov && o.x3.toNat == 0 && !o.sp && !o.x1 &&
  !o.ua && !o.ub && !o.uc && o.c.toNat ≤ 8 &&
  (if o.c.toNat == 0 then o.a.toNat == 0 else o.a.toNat + o.c.toNat ≤ 256) &&
  (if sift then o.ib && 1 ≤ o.b.toNat && o.b.toNat ≤ 12 else !o.ib && zero8 o.b && zero8 o.d)

/-! ### Class B, M and C -/

/-- Class B (R155): `readsA` for the opcodes that read A; `uniOnly` for MOVHI. -/
def problemB (o : OpB) (readsA uniOnly : Bool) : Option Problem :=
  firstProblem [
    (!uniOnly || 192 ≤ o.d.toNat, .operandRule),
    (if readsA then o.d.toNat < 192 || uniOk o.a else zero8 o.a, if readsA then .operandRule else .unusedField)]

/-- ISETPI and FSETPI (R205): D[7:6] is 0b00 for a vector A and 0b11 for a uniform one. -/
def problemSetpi (o : OpB) : Option Problem :=
  firstProblem [
    (o.d.toNat < 64 || 192 ≤ o.d.toNat, .operandRule),
    (o.d.toNat < 64 || uniOk o.a, .operandRule)]

/-- The base of an access: uniform, or a vector register, the even one of a pair when `pair` (Table 8-1). -/
def baseOk (o : OpM) (pair : Bool) : Bool := if o.ua then uniOk o.a else !pair || isEven o.a

/-- R212: the data group that W names starts at an aligned register. -/
def groupOk (o : OpM) : Bool :=
  if o.w.toNat == 3 then isEven o.d else if o.w.toNat == 4 then o.d.toNat % 4 == 0 else true

/-- Loads and stores (Tables 8-2, 8-3). -/
def problemAccess (o : OpM) (load pair cq : Bool) : Option Problem :=
  firstProblem [
    (o.w.toNat ≤ 4 && o.sc.toNat ≤ 6 && o.cq.toNat ≤ 2, .reservedValue),
    (baseOk o pair && groupOk o, .operandRule),
    (o.sc.toNat != 0 || o.ord.toNat == 0, .orderWithoutScope),
    (cq || o.cq.toNat == 0, .unusedField),
    (!o.sg || (load && o.w.toNat ≤ 1), .unusedField)]

def offLow (o : OpM) (n : Nat) : Nat := o.off.toNat % 2 ^ n
def offFrom (o : OpM) (n : Nat) : Nat := o.off.toNat / 2 ^ n

/-- LKP (Table 8-4): OFF20[0] DIM, [1] LIN, [2] WRP. -/
def problemLkp (o : OpM) : Option Problem :=
  let dim := o.off.getLsbD 0
  let lin := o.off.getLsbD 1
  firstProblem [
    (if lin then o.w.toNat == 2 else o.w.toNat ≤ 2, .reservedValue),
    (o.ua && o.a.toNat ≤ 62 && isEven o.a && (!dim || isEven o.d), .operandRule),
    (o.sc.toNat == 0 && o.ord.toNat == 0, .orderWithoutScope),
    (o.cq.toNat == 0 && offFrom o 3 == 0 && (!o.sg || (!lin && o.w.toNat ≤ 1)), .unusedField)]

/-- PREF (R224). -/
def problemPref (o : OpM) : Option Problem :=
  firstProblem [
    (o.w.toNat ≤ 4 && o.sc.toNat ≤ 6 && o.cq.toNat ≤ 2, .reservedValue),
    (baseOk o true, .operandRule),
    (o.sc.toNat != 0 || o.ord.toNat == 0, .orderWithoutScope),
    (zero8 o.d && o.sc.toNat == 0 && !o.sg, .unusedField)]

/-- The operation of ATOM and RED: OFF20[19:16] (Table 8-5). -/
def opnOf (o : OpM) : Nat := offFrom o 16

/-- ATOM and RED (R225): the operand group of .cas is twice as wide. -/
def problemAtomic (o : OpM) : Option Problem :=
  let n := if o.w.toNat == 3 then 2 else 1
  firstProblem [
    ((o.w.toNat == 2 || o.w.toNat == 3) && o.sc.toNat ≤ 6 && o.cq.toNat ≤ 2, .reservedValue),
    (baseOk o true && o.d.toNat % (if opnOf o == 9 then 2 * n else n) == 0, .operandRule),
    (o.sc.toNat != 0 || o.ord.toNat == 0, .orderWithoutScope),
    (o.cq.toNat == 0 && !o.sg, .unusedField)]

/-- ENQ, DEQ, QWAIT (Table 8-8): `wait` for QWAIT. -/
def problemQueue (o : OpM) (wait : Bool) : Option Problem :=
  firstProblem [
    (o.sc.toNat ≤ 6, .reservedValue),
    (baseOk o true, .operandRule),
    (o.sc.toNat != 0 || o.ord.toNat == 0, .orderWithoutScope),
    (o.w.toNat == 0 && o.ord.toNat == 0 && o.cq.toNat == 0 && !o.sg &&
      (if wait then zero8 o.d && o.off.toNat == 0 else offFrom o 3 == 0), .unusedField)]

/-- ASTHR (Table 10-3, R287): W = 2, a block-window offset base. -/
def problemAsthr (o : OpM) : Option Problem :=
  firstProblem [
    (o.w.toNat == 2, .reservedValue),
    (baseOk o false, .operandRule),
    (o.sc.toNat == 0 && o.ord.toNat == 0 && o.cq.toNat == 0 && !o.sg, .unusedField)]

/-- The words whose W, SC, ORD, CQ and SG are 0 (R263, R277). -/
def plainM (o : OpM) : Bool := o.w.toNat == 0 && o.sc.toNat == 0 && o.ord.toNat == 0 && o.cq.toNat == 0 && !o.sg

/-- Ring, stream and matrix words: the rule of the operands, the rule of the unused bits. -/
def problemPlain (o : OpM) (operands unused : Bool) : Option Problem :=
  firstProblem [(operands, .operandRule), (plainM o && unused, .unusedField)]

/-- A uniform register, or the even one of a pair s(A), s(A + 1). -/
def uniA (o : OpM) (pair : Bool) : Bool := o.ua && uniOk o.a && (!pair || isEven o.a)

/-- MMA, MAS and MCONV (Table 10-2, Table 10-3). -/
def problemMatrixOp (o : OpM) (mas conv : Bool) : Option Problem :=
  problemPlain o (uniA o true)
    ((mas || !o.d.getLsbD 7) && (!mas || (!o.d.getLsbD 6 && !o.d.getLsbD 2)) && (!conv || !o.d.getLsbD 4) &&
     offLow o 14 == 0 && (!conv || offFrom o 17 == 0))

/-- Class C.J (R157): BRA and CALL. -/
def problemBra (o : OpJ) : Option Problem := firstProblem [(zero8 o.modc, .unusedField)]
def problemCall (o : OpJ) : Option Problem := firstProblem [(isEven o.modc, .operandRule)]
/-- BRX and RET: TGT40[0] is UX, the rest is 0. -/
def problemIndirect (o : OpJ) : Option Problem :=
  firstProblem [(o.tgt.toNat ≤ 1, .unusedField), (if o.tgt.toNat == 1 then uniOk o.modc else isEven o.modc, .operandRule)]

/-- Class C.S: operand rules, reserved values (a scope field), unused bits. -/
def problemS (operands value unused : Bool) : Option Problem :=
  firstProblem [(value, .reservedValue), (operands, .operandRule), (unused, .unusedField)]

def immBelow (o : OpS) (n : Nat) : Bool := o.imm.toNat < 2 ^ n

/-- The BAR, CL and COUNT fields of Table 8-9: bits [15:11] and [31] are 0. -/
def barImmOk (o : OpS) (count : Bool) : Bool :=
  o.imm.toNat / 2 ^ 11 % 32 == 0 && o.imm.toNat / 2 ^ 31 == 0 && (count || o.imm.toNat < 2 ^ 16)

/-- A special-register operand (R247): below 0xC0 a vector register, from 0xC0 a uniform one, where X64 is 0. -/
def srOperandOk (r : BitVec 8) (x64 : Bool) : Bool := if 192 ≤ r.toNat then !x64 else !x64 || isEven r

/-! ### Paired words -/

/-- Table 6-9: ROP defined, and what the half reads. -/
def ropDefined (r : BitVec 6) : Bool := r.toNat < 16
def ropReadsD (r : BitVec 6) : Bool := r.toNat != 7
def ropReadsSO (r : BitVec 6) : Bool := r.toNat != 5 && r.toNat != 6

/-- Table 6-9: the values of IMM4, U and SO that a half admits. -/
def halfOk (x : Half) : Bool :=
  ropDefined x.rop &&
  (if ropReadsSO x.rop then !x.u || uniOk x.so else !x.u && zero8 x.so) &&
  (match x.rop.toNat with
   | 0 | 1 | 8 | 9 => x.imm.toNat ≤ 1
   | 2 | 3 | 4 | 7 => x.imm.toNat == 0
   | 12 | 13 => x.imm.toNat == 0 || x.imm.toNat == 8
   | _ => true)

/-- The vector registers that a half reads by Table 6-9. -/
def halfReads (x : Half) : List Nat :=
  (if ropReadsD x.rop then [x.d.toNat] else []) ++ (if ropReadsSO x.rop && !x.u then [x.so.toNat] else [])

/-- R163: distinct destination banks, and no bank supplies more than two reads. -/
def pairOk (h1 h2 : Half) : Bool :=
  h1.d.toNat % 4 != h2.d.toNat % 4 && halfOk h1 && halfOk h2 &&
  [0, 1, 2, 3].all fun b => ((halfReads h1 ++ halfReads h2).filter fun r => r % 4 == b).length ≤ 2

/-! ### Engine commands (R255, R256, R267, R268) -/

/-- The generic windows an engine address may lie in are checked when the command runs (0x0202); here are the ranges
of the fields. -/
def gatherRange (nidx : BitVec 16) (trows : BitVec 32) (rowb : BitVec 16) : Bool :=
  nidx.toNat != 0 && trows.toNat != 0 && rowb.toNat != 0

def extentsOk (l : List (BitVec 16)) : Bool := l.all fun x => x.toNat != 0

/-- The walk order is the identity (0) or a permutation of 0 to 4 (R260, R267). -/
def orderOk (c : CmdWalk) : Bool :=
  let l := [c.o0.toNat, c.o1.toNat, c.o2.toNat, c.o3.toNat, c.o4.toNat]
  l.all (· == 0) || [0, 1, 2, 3, 4].all fun x => l.contains x

def popcount8 (m : BitVec 8) : Nat := ((List.range 8).filter fun i => m.getLsbD i).length

/-- The first check of R172 or R255 that the term fails; `none` when it is an instruction, an executable command or
an event. -/
def Instr.problem : Instr → Option Problem
  | .iadd _ o | .isub _ o | .imul _ o | .idiv _ o => (shapeInt2 o true).problem o
  | .imulh _ o | .imin _ o | .imax _ o | .irem _ o => (shapeInt2 o false).problem o
  | .imad _ o => (shapeImad o).problem o
  | .iabs _ o => (shapeInt1 (tySigned o.ty) o true).problem o
  | .ineg _ o => (shapeInt1 (tyInt o.ty) o true).problem o
  | .lea _ o => (shapeLea o).problem o
  | .and _ o | .or _ o | .xor _ o | .andn _ o => (shapeInt2 o false).problem o
  | .shl _ o | .shr _ o | .sar _ o | .rotl _ o => (shapeShift o).problem o
  | .funsh _ o => (shapeFunsh o).problem o
  | .bfx _ o => (shapeBfx o).problem o
  | .bfi _ o => (shapeBfi o).problem o
  | .popc _ o | .clz _ o | .ctz _ o | .brev _ o => (shapeInt1 (tyUnsignedWide o.ty) o false).problem o
  | .prmt _ o => (shapePrmt o).problem o
  | .isetp _ o => (shapeIsetp o).problem o
  | .isel _ o => (shapeIsel o).problem o
  | .mov _ o => (shapeMov o).problem o
  | .fadd _ o | .fsub _ o | .fmul _ o => (shapeF2 o (tyFP o.ty) true).problem o
  | .ffma _ o => (shapeFfma o).problem o
  | .fmin _ o | .fmax _ o => (shapeF2 o (tyFP o.ty) false).problem o
  | .fsetp _ o => (shapeFsetp o).problem o
  | .frcp _ o | .frsq _ o | .fex2 _ o | .flg2 _ o | .fsin _ o | .fcos _ o | .ftanh _ o => (shapeF1 o (tyFT o.ty)).problem o
  | .fsqrt _ o => (shapeF1 o (tyF o.ty)).problem o
  | .fdiv _ o => (shapeF2 o (tyF o.ty) true).problem o
  | .frnd _ o => (shapeFrnd o).problem o
  | .fcls _ o => (shapeFcls o).problem o
  | .fscl _ o => (shapeFscl o).problem o
  | .fcvt _ o => (shapeFcvt o).problem o
  | .icvt _ o => (shapeIcvt o).problem o
  | .npack _ o => (shapeNpack o).problem o
  | .nunpk _ o => (shapeNunpk o).problem o
  | .bxhdr _ o => (shapeBxhdr o).problem o
  | .dot4 _ o => (shapeDot4 o).problem o
  | .shfl _ o => (shapeShfl o).problem o
  | .vote _ o => (shapeVote o).problem o
  | .matchLanes _ o => (shapeMatch o).problem o
  | .wred _ o => (shapeWred o).problem o
  | .wscan _ o => (shapeWscan o).problem o
  | .plop _ o => (shapePlop o).problem o
  | .pget _ o => (shapePget o).problem o
  | .pset _ o => (shapePset o).problem o
  | .movi _ o => problemB o false false
  | .movhi _ o => problemB o false true
  | .iaddi _ o | .imuli _ o | .andi _ o | .ori _ o | .xori _ o | .faddi _ o | .fmuli _ o => problemB o true false
  | .isetpi _ o | .fsetpi _ o => problemSetpi o
  | .pairedWord _ h1 h2 => firstProblem [(pairOk h1 h2, .pairing)]
  | .illegalEncoding _ => none
  | .bra _ o => problemBra o
  | .brx _ o | .ret _ o => problemIndirect o
  | .call _ o => problemCall o
  | .meet _ o => problemS true true (zero8 o.d && zero8 o.a)
  | .meetClear _ o => problemS true true (o.d.toNat == 1 && zero8 o.a && immBelow o 0)
  | .exit _ o | .nop _ o | .fencelk _ o | .region _ o | .emuret _ o => problemS true true (zero8 o.d && zero8 o.a && immBelow o 0)
  | .trap _ o => problemS true true (zero8 o.d && zero8 o.a)
  | .sleep _ o | .tabort _ o | .halt _ o => problemS true true (zero8 o.d && zero8 o.a && immBelow o 8)
  | .sift h o => firstProblem [(siftFieldsOk h o true, .siftField)]
  | .sifth h o => firstProblem [(siftFieldsOk h o false, .siftField)]
  | .rseed _ o => (shapeRseed o).problem o
  | .rand _ o => (shapeRand o).problem o
  | .prune _ o => (shapePrune o).problem o
  | .spcmp _ o => ((shapeSparse o).problem o).or (firstProblem [(sparseRange o true, .operandRule)])
  | .spexp _ o => ((shapeSparse o).problem o).or (firstProblem [(sparseRange o false, .operandRule)])
  | .tslag _ o => (shapeTslag o).problem o
  | .ldg _ o | .ldgs _ o => problemAccess o true true true
  | .stg _ o | .stgs _ o => problemAccess o false true true
  | .lds _ o | .ldc _ o | .ldl _ o => problemAccess o true false false
  | .sts _ o | .stc _ o | .stl _ o => problemAccess o false false false
  | .ld _ o => problemAccess o true true true
  | .st _ o => problemAccess o false true true
  | .lkp _ o => problemLkp o
  | .pref _ o => problemPref o
  | .atom _ o | .red _ o => problemAtomic o
  | .enq _ o | .deq _ o => problemQueue o false
  | .qwait _ o => problemQueue o true
  | .asthr _ o => problemAsthr o
  | .ring _ o => problemPlain o (uniA o false && uniOk o.d) (offFrom o 11 == 0)
  | .awf _ o => problemPlain o (uniA o false) (offLow o 14 == 0)
  | .rls _ o => problemPlain o (uniA o false) (zero8 o.d && offLow o 14 == 0)
  | .strm _ o => problemPlain o (uniA o true && uniOk o.d) (offFrom o 6 == 0)
  | .strq _ o => problemPlain o (uniA o false && uniOk o.d) (o.off.toNat == 0)
  | .gang _ o => problemPlain o (uniA o false) (zero8 o.d && o.off.toNat == 0)
  | .mld _ o => problemPlain o (uniA o false) (o.d.toNat < 8 && o.off.toNat == 0)
  | .mswp _ o => problemPlain o true (zero8 o.d && zero8 o.a && !o.ua && o.off.toNat == 0)
  | .mma _ o => problemMatrixOp o false false
  | .mas _ o => problemMatrixOp o true false
  | .mconv _ o => problemMatrixOp o false true
  | .mpsh _ o | .mpop _ o => problemPlain o true (zero8 o.a && !o.ua && o.off.toNat == 0)
  | .mzero _ o => problemPlain o true (o.d.toNat < 4 && zero8 o.a && !o.ua && o.off.toNat == 0)
  | .msta _ o => problemPlain o (uniA o false) (o.d.toNat < 4 && offLow o 11 == 0)
  | .binit _ o =>
      let ucnt := o.d.getLsbD 0
      problemS (!ucnt || uniOk o.a) true
        (o.d.toNat < 2 && barImmOk o true && (if ucnt then o.imm.toNat < 2 ^ 16 else zero8 o.a))
  | .barv _ o =>
      problemS (predOk o.d) true
        (barImmOk o false && !o.a.getLsbD 6 && (o.a.getLsbD 7 || zero8 o.a))
  | .bwait _ o => problemS (uniOk o.a) true (zero8 o.d && barImmOk o false)
  | .bsync _ o => problemS (predOk o.d) true (zero8 o.a && barImmOk o false)
  | .cwait _ o => problemS (uniOk o.d && uniOk o.a) (o.imm.toNat % 8 != 7) (immBelow o 3)
  | .fence _ o => problemS true (o.imm.toNat % 8 != 7) (zero8 o.d && zero8 o.a && immBelow o 3)
  | .bind _ o | .unbind _ o => problemS (uniOk o.d && uniOk o.a) true true
  | .tbegin _ o => problemS true true (zero8 o.d && zero8 o.a)
  | .tend _ o => problemS (predOk o.d) true (zero8 o.a && immBelow o 0)
  | .grow _ o | .shrink _ o => problemS true true (zero8 o.d && zero8 o.a && immBelow o 5)
  | .job _ o => problemS (uniOk o.d && uniOk o.a) true (immBelow o 3)
  | .rsp _ o => problemS (srOperandOk o.d (o.imm.getLsbD 10)) true (zero8 o.a && immBelow o 11)
  | .wsp _ o => problemS (srOperandOk o.a (o.imm.getLsbD 10)) true (zero8 o.d && immBelow o 11)
  | .tlbinv _ o => problemS (uniOk o.d && uniOk o.a) true (immBelow o 2)
  | .ccopy c => firstProblem [(c.len.toNat != 0, .commandRange)]
  | .ctile c => firstProblem [(extentsOk [c.tx0, c.tx1, c.tx2, c.tx3, c.tx4] && !(c.rng && c.dir), .commandRange)]
  | .cgath c => firstProblem [(gatherRange c.nidx c.trows c.rowb, .commandRange)]
  | .cscat c => firstProblem [(gatherRange c.nidx c.trows c.rowb, .commandRange)]
  | .cfill c => firstProblem [(c.len.toNat != 0, .commandRange)]
  | .swalk c => firstProblem [(extentsOk [c.tx0, c.tx1, c.tx2, c.tx3, c.tx4] && orderOk c, .commandRange)]
  | .spush c => firstProblem [(if c.mc then popcount8 c.bmask != 0 else popcount8 c.bmask == 1, .commandRange)]
  | .sloop _ | .sendl | .ssigRed _ | .ssigBarrier _ | .ssigEnq _ | .smark _ | .shalt _ => none
  | .sleepEnd _ | .siftComplete _ | .matrixOpComplete _ | .resultReturn _ _ | .waveSwap _ _ | .releaseDrainComplete _ _
  | .pageWalk _ _ _ _ | .copyTake _ | .deliveryLand _ _ | .copyComplete _ _ | .jobAccept _ | .deal | .clusterDispatch _
  | .growStallPreempt _ | .clusterResume _ | .jobLate _ | .recordRetry _ | .stageDispatch _ _ | .stealRequest _
  | .stealLend _ | .stealAccept _ | .stealAck _ | .stealWatchdog _ | .replicaCommit _ _ | .enqueueGo _ | .invalidate
  | .resume | .cancel | .replayAll | .replicaGroup | .setTime | .hostCommandInvalid _ | .mailboxRequest _ | .mbrxRead
  | .fbgetWrite _ _ | .faultBufferConfigWrite _ _ _ | .droppedClear _ _ | .ingsetWrite _ _ | .poolWrite _ _ _
  | .sconfClear _ _ | .igdropClear _ _ | .pstateWrite _ | .pmodeWrite _ _ | .registerWrite _ _ _ | .ptpMessage _
  | .ptpDelayRequest _ | .ingestPacket _ _ _ | .frameDeadline _ _ | .peerAccess _ _ | .replicaDigest _ _ _
  | .replicaDigestTimeout _ | .flitCrcError _ _ | .retrainDone _ _ | .thermalFloorRise _ _ | .thermalFloorFall _
  | .machineError _ _ | .counterFlush | .reset _ | .voltageDroop _ _ | .softError _ _ | .ptpLockLoss | .powerLoss
  | .orderlyShutdown | .portLinkUp _ | .corePowerGating _ _ => none

end Sys2Proof
end

