-- ==== Sys2Proof/Machine/Bits.lean ====
section
/-! DEFINITION. Bytes and numbers: little-endian byte order (R3), slices (R3), sign extension, and the counting and
reversing of bits that R186 uses. -/
namespace Sys2Proof

/-- The number that bytes hold, the lowest-addressed byte least significant (R3). -/
def natOfBytes : List Byte → Nat
  | [] => 0
  | b :: bs => b.toNat + 256 * natOfBytes bs

/-- The `n` lowest bytes of a number, least significant first (R3). -/
def bytesOfNat : Nat → Nat → List Byte
  | 0, _ => []
  | n + 1, v => BitVec.ofNat 8 v :: bytesOfNat n (v / 256)

/-- Bits x[p+n-1:p] of a number (R3). -/
def slice (x p n : Nat) : Nat := x / 2 ^ p % 2 ^ n

/-- The signed value of the low `n` bits of `x`, two's complement (R57). -/
def toSigned (n x : Nat) : Int :=
  let y := x % 2 ^ n
  if n = 0 then 0 else if y < 2 ^ (n - 1) then (y : Int) else (y : Int) - (2 ^ n : Nat)

/-- The low `n` bits of an integer, two's complement (R57). -/
def ofSigned (n : Nat) (x : Int) : Nat := (x % ((2 ^ n : Nat) : Int)).toNat

/-- The number of 1 bits among the low `n` bits. -/
def popCount : Nat → Nat → Nat
  | 0, _ => 0
  | n + 1, x => x % 2 + popCount n (x / 2)

/-- The number of 0 bits above the highest 1 bit of the low `n` bits; `n` when they are 0 (R186 CLZ). -/
def leadingZeros (n x : Nat) : Nat := if x % 2 ^ n = 0 then n else n - 1 - Nat.log2 (x % 2 ^ n)

/-- The number of 0 bits below the lowest 1 bit of the low `n` bits; `n` when they are 0 (R186 CTZ). -/
def trailingZeros : Nat → Nat → Nat
  | 0, _ => 0
  | n + 1, x => if x % 2 = 1 then 0 else 1 + trailingZeros n (x / 2)

/-- The low `n` bits in reverse order (R186 BREV). -/
def reverseBits : Nat → Nat → Nat
  | 0, _ => 0
  | n + 1, x => (x % 2) * 2 ^ n + reverseBits n (x / 2)

/-- The positions of the 1 bits of a mask among 0 to n-1, ascending. -/
def onesOf (n : Nat) (m : Nat) : List Nat := (List.range n).filter fun i => m.testBit i

/-- The mask with 1 at the given positions. -/
def maskOf (l : List Nat) : Nat := l.foldl (fun m i => m ||| 2 ^ i) 0

end Sys2Proof
end

