-- ==== Sys2Proof/Machine/Num.lean ====
section
/-! DEFINITION. Floating-point numbers (R59 to R66): formats, exact values, `roundFp`, and the arithmetic that is exact
before its one rounding. -/
namespace Sys2Proof

/-- A floating-point layout (Table 3-2): exponent width, fraction width, and whether it is e4m3, which has no
infinities (R63). -/
structure Fmt where
  ebits : Nat
  fbits : Nat
  e4m3  : Bool := false
  deriving DecidableEq, Repr

def f16 : Fmt := { ebits := 5, fbits := 10 }
def bf16 : Fmt := { ebits := 8, fbits := 7 }
def f32 : Fmt := { ebits := 8, fbits := 23 }
def f64 : Fmt := { ebits := 11, fbits := 52 }
def e4m3 : Fmt := { ebits := 4, fbits := 3, e4m3 := true }
def e5m2 : Fmt := { ebits := 5, fbits := 2 }

/-- The format of a type code (Table 6-7); the element format of a packed type. -/
def fmtOf (ty : Nat) : Fmt :=
  match ty with
  | 8 => f16 | 12 => f16 | 9 => bf16 | 13 => bf16 | 11 => f64 | 14 => e4m3 | 15 => e5m2 | _ => f32

def Fmt.width (f : Fmt) : Nat := 1 + f.ebits + f.fbits
def Fmt.bias (f : Fmt) : Nat := 2 ^ (f.ebits - 1) - 1
/-- The exponent field all ones. -/
def Fmt.emax (f : Fmt) : Nat := 2 ^ f.ebits - 1
/-- The bits of the largest finite magnitude (Table 3-3). -/
def Fmt.largest (f : Fmt) : Nat := if f.e4m3 then 0x7E else f.emax * 2 ^ f.fbits - 1
/-- The canonical NaN (R60). -/
def Fmt.nan (f : Fmt) : Nat := if f.e4m3 then 0x7F else f.emax * 2 ^ f.fbits + 2 ^ (f.fbits - 1)
/-- Sign bit and magnitude bits put together. -/
def Fmt.signed (f : Fmt) (neg : Bool) (mag : Nat) : Nat := (if neg then 2 ^ (f.ebits + f.fbits) else 0) + mag
/-- An infinite result (R63): the NaN in e4m3. -/
def Fmt.infinity (f : Fmt) (neg : Bool) : Nat :=
  if f.e4m3 then f.nan else f.signed neg (f.emax * 2 ^ f.fbits)

/-- An exact value: a NaN, an infinity, or ± m × 2^e, where m = 0 is a zero with its sign. -/
inductive Fl where
  | nan
  | inf (neg : Bool)
  | fin (neg : Bool) (m : Nat) (e : Int)
  deriving DecidableEq, Repr

/-- The exact value of a bit pattern (R59, R63). -/
def Fmt.decode (f : Fmt) (x : Nat) : Fl :=
  let neg := x.testBit (f.ebits + f.fbits)
  let ex := slice x f.fbits f.ebits
  let fr := x % 2 ^ f.fbits
  if f.e4m3 ∧ ex = f.emax ∧ fr = 7 then .nan
  else if !f.e4m3 ∧ ex = f.emax then if fr = 0 then .inf neg else .nan
  else if ex = 0 then .fin neg fr (1 - (f.bias : Int) - f.fbits)
  else .fin neg (2 ^ f.fbits + fr) ((ex : Int) - f.bias - f.fbits)

/-- The integer rounding of n / d with the sign `neg` (Table 3-4, rnd), as a magnitude. -/
def rnd (rm : Nat) (neg : Bool) (n d : Nat) : Nat :=
  let q := n / d
  let r := n % d
  let up := match rm with
    | 0 => decide (d < 2 * r) || (decide (2 * r = d) && q % 2 == 1)
    | 1 => false
    | 2 => neg && decide (0 < r)
    | _ => !neg && decide (0 < r)
  if up then q + 1 else q

/-- An overflow's result (Table 3-5). -/
def Fmt.overflow (f : Fmt) (neg : Bool) (rm : Nat) (ov : Bool) : Nat :=
  let toMax := ov || rm == 1 || (rm == 2 && !neg) || (rm == 3 && neg)
  if toMax then f.signed neg f.largest else f.infinity neg

/-- floor(log2(n / d)) for positive n and d. -/
def log2Rat (n d : Nat) : Int :=
  let k : Int := (Nat.log2 n : Int) - Nat.log2 d
  let below := if k ≥ 0 then decide (n < d * 2 ^ k.toNat) else decide (n * 2 ^ (-k).toNat < d)
  if below then k - 1 else k

/-- `roundFp` of the nonzero exact value ± n / d (R62, R63). -/
def Fmt.roundRat (f : Fmt) (rm : Nat) (ov neg : Bool) (n d : Nat) : Nat :=
  let emin : Int := 1 - (f.bias : Int)
  let e := max (log2Rat n d) emin
  let q : Int := e - f.fbits
  let v := if q ≥ 0 then rnd rm neg n (d * 2 ^ q.toNat) else rnd rm neg (n * 2 ^ (-q).toNat) d
  let bits := (e - emin).toNat * 2 ^ f.fbits + v
  if bits > f.largest then f.overflow neg rm ov else f.signed neg bits

/-- `roundFp` of an exact value (R62). -/
def Fmt.round (f : Fmt) (rm : Nat) (ov : Bool) (x : Fl) : Nat :=
  match x with
  | .nan => f.nan
  | .inf neg => f.infinity neg
  | .fin neg m e =>
    if m = 0 then f.signed neg 0
    else if e ≥ 0 then f.roundRat rm ov neg (m * 2 ^ e.toNat) 1
    else f.roundRat rm ov neg m (2 ^ (-e).toNat)

/-! ### Exact operations -/

def Fl.neg : Fl → Fl
  | .nan => .nan
  | .inf n => .inf (!n)
  | .fin n m e => .fin (!n) m e

/-- The value is negative, a zero's sign included. -/
def Fl.isNeg : Fl → Bool
  | .nan => false
  | .inf n => n
  | .fin n _ _ => n

def Fl.isNan : Fl → Bool
  | .nan => true
  | _ => false

def Fl.isZero : Fl → Bool
  | .fin _ m _ => m == 0
  | _ => false

def Fl.isFinite : Fl → Bool
  | .fin .. => true
  | _ => false

/-- A finite value as a signed integer over 2^(-e): for a common exponent not above its own. -/
def Fl.scaled (x : Fl) (e : Int) : Int :=
  match x with
  | .fin n m e' => let v : Int := (m * 2 ^ (e' - e).toNat : Nat); if n then -v else v
  | _ => 0

def Fl.exponent : Fl → Int
  | .fin _ _ e => e
  | _ => 0

/-- A signed integer times 2^e; `zneg` is the sign that a zero takes. -/
def Fl.ofInt (v : Int) (e : Int) (zneg : Bool) : Fl :=
  if v = 0 then .fin zneg 0 e else .fin (decide (v < 0)) v.natAbs e

/-- The exact sum (R62): the sign of an exact zero is that of two equal zeros, else + or, toward -∞, -. -/
def Fl.add (rm : Nat) (x y : Fl) : Fl :=
  match x, y with
  | .nan, _ => .nan
  | _, .nan => .nan
  | .inf a, .inf b => if a = b then .inf a else .nan
  | .inf a, _ => .inf a
  | _, .inf b => .inf b
  | .fin a m e, .fin b n g =>
    if m = 0 ∧ n = 0 ∧ a = b then .fin a 0 e
    else
      let k := min e g
      Fl.ofInt (Fl.scaled (.fin a m e) k + Fl.scaled (.fin b n g) k) k (rm == 2)

/-- The exact product: NaN for an infinity times a zero. -/
def Fl.mul (x y : Fl) : Fl :=
  match x, y with
  | .nan, _ => .nan
  | _, .nan => .nan
  | .inf a, .inf b => .inf (a != b)
  | .inf a, .fin b n _ => if n = 0 then .nan else .inf (a != b)
  | .fin a m _, .inf b => if m = 0 then .nan else .inf (a != b)
  | .fin a m e, .fin b n g => .fin (a != b) (m * n) (e + g)

/-- The value times 2^k (R74): a NaN, an infinity and a zero are unchanged. -/
def Fl.scale (x : Fl) (k : Int) : Fl :=
  match x with
  | .fin n m e => .fin n m (e + k)
  | y => y

/-- Comparison of two exact values, none for a NaN; -0 equals +0 (R66). -/
def Fl.compare (x y : Fl) : Option Ordering :=
  match x, y with
  | .nan, _ => none
  | _, .nan => none
  | .inf a, .inf b => some (if a = b then .eq else if a then .lt else .gt)
  | .inf a, _ => some (if a then .lt else .gt)
  | _, .inf b => some (if b then .gt else .lt)
  | .fin a m e, .fin b n g =>
    let k := min e g
    some (Ord.compare (Fl.scaled (.fin a m e) k) (Fl.scaled (.fin b n g) k))

/-- x < y; false for a NaN. -/
def Fl.lt (x y : Fl) : Bool := x.compare y == some .lt

/-- The integer nearest to a finite value by a rounding mode (Table 3-4). -/
def Fl.toInt (rm : Nat) (x : Fl) : Int :=
  match x with
  | .fin neg m e =>
    let v : Int := (if e ≥ 0 then m * 2 ^ e.toNat else rnd rm neg m (2 ^ (-e).toNat) : Nat)
    if neg then -v else v
  | _ => 0

/-- minimumNumber and maximumNumber (R66) on bit patterns: the other operand for a NaN, -0 below +0. -/
def Fmt.minMax (f : Fmt) (wantMax : Bool) (x y : Nat) : Nat :=
  let a := f.decode x
  let b := f.decode y
  match a.compare b with
  | none => if a.isNan then if b.isNan then f.nan else y else x
  | some .lt => if wantMax then y else x
  | some .gt => if wantMax then x else y
  | some .eq => if a.isZero then (if a.isNeg = wantMax then y else x) else x

/-- The floor of a square root: the bits from `i - 1` down. -/
def isqrtFrom (n : Nat) : Nat → Nat → Nat
  | 0, r => r
  | i + 1, r => if (r + 2 ^ i) * (r + 2 ^ i) ≤ n then isqrtFrom n i (r + 2 ^ i) else isqrtFrom n i r

/-- The floor of the square root. -/
def isqrt (n : Nat) : Nat := isqrtFrom n (Nat.log2 n / 2 + 1) 0

/-- `roundFp` of the square root of the positive exact value n / d: enough bits of the root, and one more that says
whether anything is left. -/
def Fmt.roundSqrt (f : Fmt) (rm : Nat) (ov : Bool) (n d : Nat) : Nat :=
  let k := f.fbits + 8 + (Nat.log2 d + 1)
  let t := n * 2 ^ (2 * k)
  let q := isqrt (t / d)
  let more := if q * q * d = t then 0 else 1
  f.roundRat rm ov false (2 * q + more) (2 ^ (k + 1))

/-- A finite positive value as a fraction. -/
def ratOf (m : Nat) (e : Int) : Nat × Nat := if e ≥ 0 then (m * 2 ^ e.toNat, 1) else (m, 2 ^ (-e).toNat)

/-! ### Operations of the instructions (R62, R78) -/

def Fmt.addBits (f : Fmt) (rm : Nat) (ov : Bool) (x y : Nat) : Nat :=
  f.round rm ov (Fl.add rm (f.decode x) (f.decode y))

def Fmt.subBits (f : Fmt) (rm : Nat) (ov : Bool) (x y : Nat) : Nat :=
  f.round rm ov (Fl.add rm (f.decode x) (f.decode y).neg)

def Fmt.mulBits (f : Fmt) (rm : Nat) (ov : Bool) (x y : Nat) : Nat :=
  f.round rm ov (Fl.mul (f.decode x) (f.decode y))

def Fmt.fmaBits (f : Fmt) (rm : Nat) (ov : Bool) (x y z : Nat) : Nat :=
  f.round rm ov (Fl.add rm (Fl.mul (f.decode x) (f.decode y)) (f.decode z))

/-- Division (R62, R63). -/
def Fmt.divBits (f : Fmt) (rm : Nat) (ov : Bool) (x y : Nat) : Nat :=
  match f.decode x, f.decode y with
  | .nan, _ => f.nan
  | _, .nan => f.nan
  | .inf _, .inf _ => f.nan
  | .inf a, .fin b _ _ => f.infinity (a != b)
  | .fin a _ _, .inf b => f.signed (a != b) 0
  | .fin a m e, .fin b n g =>
    if n = 0 then if m = 0 then f.nan else f.infinity (a != b)
    else if m = 0 then f.signed (a != b) 0
    else
      let (p, q) := ratOf m (e - g)
      f.roundRat rm ov (a != b) p (q * n)

/-- FRCP (Table 3-12). -/
def Fmt.rcpBits (f : Fmt) (rm : Nat) (ov : Bool) (x : Nat) : Nat :=
  match f.decode x with
  | .nan => f.nan
  | .inf a => f.signed a 0
  | .fin a m e =>
    if m = 0 then f.infinity a
    else
      let (p, q) := ratOf m e
      f.roundRat rm ov a q p

/-- FSQRT (Table 3-12). -/
def Fmt.sqrtBits (f : Fmt) (rm : Nat) (ov : Bool) (x : Nat) : Nat :=
  match f.decode x with
  | .nan => f.nan
  | .inf a => if a then f.nan else f.infinity false
  | .fin a m e =>
    if m = 0 then x
    else if a then f.nan
    else
      let (p, q) := ratOf m e
      f.roundSqrt rm ov p q

/-- FRSQ (Table 3-12). -/
def Fmt.rsqBits (f : Fmt) (rm : Nat) (ov : Bool) (x : Nat) : Nat :=
  match f.decode x with
  | .nan => f.nan
  | .inf a => if a then f.nan else f.signed false 0
  | .fin a m e =>
    if m = 0 then f.infinity a
    else if a then f.nan
    else
      let (p, q) := ratOf m e
      f.roundSqrt rm ov q p

/-- FRND: rounding to an integral value of the same type (R191); the sign of a zero result is the operand's. -/
def Fmt.rndBits (f : Fmt) (rm : Nat) (x : Nat) : Nat :=
  match f.decode x with
  | .nan => f.nan
  | .inf _ => x
  | .fin a m e =>
    if m = 0 ∨ e ≥ 0 then x
    else f.round 0 false (.fin a (rnd rm a m (2 ^ (-e).toNat)) 0)

/-- FSCL: a value times 2^k with one rounding (R191). -/
def Fmt.scaleBits (f : Fmt) (rm : Nat) (ov : Bool) (x : Nat) (k : Int) : Nat := f.round rm ov ((f.decode x).scale k)

/-! ### Conversions (R64, R65) -/

/-- FCVT (R64). -/
def convertFloat (src dst : Fmt) (rm : Nat) (ov : Bool) (x : Nat) : Nat :=
  match src.decode x with
  | .inf neg => if ov ∧ (dst.width = 8) then dst.signed neg dst.largest else dst.infinity neg
  | v => dst.round rm ov v

/-- The range of an integer type code (R57). -/
def intWidth (ty : Nat) : Nat := 2 ^ (ty % 4 + 3)
def intSigned (ty : Nat) : Bool := decide (ty < 4)
def intMin (ty : Nat) : Int := if intSigned ty then -((2 ^ (intWidth ty - 1) : Nat) : Int) else 0
def intMax (ty : Nat) : Int :=
  if intSigned ty then ((2 ^ (intWidth ty - 1) : Nat) : Int) - 1 else ((2 ^ intWidth ty : Nat) : Int) - 1

/-- The value of an integer type's bits (R56). -/
def intOf (ty x : Nat) : Int := if intSigned ty then toSigned (intWidth ty) x else (x % 2 ^ intWidth ty : Nat)

/-- An exact integer reduced to a type (R57), as the type's bits. -/
def reduceInt (ty : Nat) (ov : Bool) (x : Int) : Nat :=
  ofSigned (intWidth ty) (if ov then max (intMin ty) (min (intMax ty) x) else x)

/-- Float to integer (R65). -/
def floatToInt (f : Fmt) (rm x ty : Nat) : Nat :=
  match f.decode x with
  | .nan => 0
  | .inf neg => ofSigned (intWidth ty) (if neg then intMin ty else intMax ty)
  | v => ofSigned (intWidth ty) (max (intMin ty) (min (intMax ty) (v.toInt rm)))

/-- Integer to float (R65). -/
def intToFloat (f : Fmt) (rm : Nat) (ov : Bool) (x : Int) : Nat := f.round rm ov (Fl.ofInt x 0 false)

/-! ### Slag (R75) -/

/-- The verdict code of a slag pattern of f32 (ty 10) or bf16 (ty 9, or an element of ty 13), if it is one
(Table 3-11). -/
def slagCode (ty x : Nat) : Option Nat :=
  if ty = 10 then
    if 0xFF805A01 ≤ x % 2 ^ 32 ∧ x % 2 ^ 32 ≤ 0xFF805A03 then some (x % 2 ^ 32 - 0xFF805A00) else none
  else if ty = 9 ∨ ty = 13 then
    if 0xFFA5 ≤ x % 2 ^ 16 ∧ x % 2 ^ 16 ≤ 0xFFA7 then some (x % 2 ^ 16 - 0xFFA4) else none
  else none

/-- The slag pattern of a verdict code in f32 or bf16. -/
def slagBits (ty v : Nat) : Nat := if ty = 10 then 0xFF805A00 + v else 0xFFA4 + v

/-! ### Block formats (R67 to R71) -/

/-- The element bias of a block format: 132 for BX8 (FMT 5), 128 for BX4 (FMT 6). -/
def bxBias (fmt : Nat) : Int := if fmt = 5 then 132 else 128
/-- The greatest magnitude of an element. -/
def bxMax (fmt : Nat) : Nat := if fmt = 5 then 63 else 3
/-- The bits of an element's magnitude. -/
def bxBits (fmt : Nat) : Nat := if fmt = 5 then 6 else 2

/-- An element's value under its header (R69), before the scale of a slot. -/
def bxDecode (fmt header el : Nat) : Fl :=
  let hi := slice header 8 8
  let k := bxBits fmt
  if hi = 0xFF then .nan
  else
    let e : Int := (if el.testBit (k + 1) then hi else header % 256 : Nat)
    .fin (el.testBit k) (el % 2 ^ k) (e - bxBias fmt)

/-- rnd_ne(|y| / 2^e) for a finite value. -/
def rndNeScaled (y : Fl) (e : Int) : Nat :=
  match y with
  | .fin _ m g =>
    let k := g - e
    if k ≥ 0 then m * 2 ^ k.toNat else rnd 0 false m (2 ^ (-k).toNat)
  | _ => 0

/-- The least exponent from `i` on for which the greatest magnitude fits, among 0 to 254. -/
def bxLeast (fmt : Nat) (a : Fl) : Nat → Nat → Option Nat
  | 0, _ => none
  | fuel + 1, e => if rndNeScaled a ((e : Int) - bxBias fmt) ≤ bxMax fmt then some e else bxLeast fmt a fuel (e + 1)

/-- pack_bx (R70): header and elements of 32 values. -/
def packBx (fmt off : Nat) (scl : Int) (ov : Bool) (xs : List Fl) : Nat × List Nat :=
  let zero := (0xFF00, xs.map fun _ => 0)
  let b := bxBias fmt
  let ys := xs.map fun x => x.scale (-scl)
  if ys.any fun y => y.isNan || (!ov && !y.isFinite) then zero
  else
    let ys := ys.map fun y => match y with
      | .inf n => .fin n (bxMax fmt) (254 - b)
      | y => y
    let mag (y : Fl) : Fl := match y with | .fin _ m e => .fin false m e | z => z
    let a := ys.foldl (fun a y => if a.lt (mag y) then mag y else a) (.fin false 0 0)
    match (match bxLeast fmt a 255 0 with | some e => some e | none => if ov then some 254 else none) with
    | none => zero
    | some hi =>
      let lo := hi - off
      let el (y : Fl) : Nat :=
        let m := rndNeScaled y ((lo : Int) - b)
        let s := (if y.isNeg then 2 ^ bxBits fmt else 0)
        if m ≤ bxMax fmt then s + m
        else 2 ^ (bxBits fmt + 1) + s + min (rndNeScaled y ((hi : Int) - b)) (bxMax fmt)
      (hi * 256 + lo, ys.map el)

/-- The magnitude bound of a block (R71), +∞ for a NaN block (R285). -/
def bxBound (fmt header : Nat) (scl : Int) : Fl :=
  if slice header 8 8 = 0xFF then .inf false
  else .fin false (bxMax fmt) ((max (slice header 8 8) (header % 256) : Nat) - bxBias fmt + scl)

end Sys2Proof
end

