-- ==== Sys2Proof/Config.lean ====
section
/-! DEFINITION. What an implementation or an outside standard fixes, and the free values. A free value has no body:
no proof can see what it is. -/
namespace Sys2Proof

/-- Free choice number `n` between two outcomes that the spec admits (R9 "one of", R166, R109, R106, R284).
`a` and `b` tell apart the choices of one step (a lane and a register, or an address). Log entry 3. -/
opaque Config.choice (n a b : Nat) : Bool

/-- The bits that a resource reads before anything defined them, where the spec states no value (log entry 3). -/
opaque Config.freeWord (n a : Nat) : Word

/-- The bytes that a detail field of a record carries where the spec names no value for it (log entry 3). -/
opaque Config.detail (n : Nat) : Word

/-- The public key fused in die 0 (R352), a point of the curve: the part's own. Log entry 10. -/
opaque Config.fusedKey : Nat × Nat

/-- The signature (r, s) that die 0's identity key gives over a digest (R353). Log entry 10. -/
opaque Config.identitySign (digest : Nat) : Nat × Nat

/-- The lowest firmware version that die 0's fuses accept (R352). Log entry 10. -/
opaque Config.minVersion : Nat




end Sys2Proof
end

