-- ==== Sys2Proof/Machine/Tab.lean ====
section
/-! DEFINITION. Sparse tables by number: lists of (key, value) pairs with keys strictly rising, so that equal tables
are equal data, and the folds over lists that the machine uses. -/
namespace Sys2Proof

/-- A sparse table, keys strictly rising. -/
abbrev Tab (α : Type) := List (Nat × α)

/-- The value at a key. -/
def Tab.find {α : Type} (t : Tab α) (k : Nat) : Option α :=
  match t with
  | [] => none
  | (j, a) :: r => if j = k then some a else Tab.find r k

/-- The value at a key, or the value that an unlisted key has. -/
def Tab.getD {α : Type} (t : Tab α) (k : Nat) (d : α) : α := (t.find k).getD d

/-- The table with a key removed. -/
def Tab.remove {α : Type} (t : Tab α) (k : Nat) : Tab α := t.filter fun p => p.1 != k

/-- The table with a key set. -/
def Tab.insert {α : Type} (t : Tab α) (k : Nat) (v : α) : Tab α :=
  match t with
  | [] => [(k, v)]
  | (j, a) :: r =>
    if k < j then (k, v) :: (j, a) :: r
    else if k = j then (k, v) :: r
    else (j, a) :: Tab.insert r k v

/-- The table with a key set, unlisted where the value is the one that an unlisted key has. -/
def Tab.put {α : Type} [DecidableEq α] (t : Tab α) (k : Nat) (v d : α) : Tab α :=
  if v = d then t.remove k else t.insert k v

/-- The table with the value at a listed key changed. -/
def Tab.modify {α : Type} (t : Tab α) (k : Nat) (f : α → α) : Tab α :=
  t.map fun p => if p.1 = k then (p.1, f p.2) else p

/-- The table held to a number of entries: a table too long by one loses its lowest other key. -/
def Tab.bound {α : Type} (t : Tab α) (most keep : Nat) : Tab α :=
  if t.length ≤ most then t
  else match t.find? fun p => p.1 != keep with
    | some p => t.remove p.1
    | none => t

/-- Every value changed. -/
def Tab.mapVals {α : Type} (t : Tab α) (f : α → α) : Tab α := t.map fun p => (p.1, f p.2)

/-- The values. -/
def Tab.vals {α : Type} (t : Tab α) : List α := t.map Prod.snd

/-- The keys. -/
def Tab.keys {α : Type} (t : Tab α) : List Nat := t.map Prod.fst

/-- The table with the pairs for which the test holds removed. -/
def Tab.dropIf {α : Type} (t : Tab α) (p : Nat → α → Bool) : Tab α := t.filter fun x => !p x.1 x.2

/-- The keys are strictly rising. -/
def Tab.sorted {α : Type} : Tab α → Bool
  | [] => true
  | [_] => true
  | (j, _) :: (k, b) :: r => decide (j < k) && Tab.sorted ((k, b) :: r)

/-- The lowest number, at least `n`, that is no key; `fuel` bounds the search. -/
def Tab.freeFrom {α : Type} (t : Tab α) : Nat → Nat → Nat
  | 0, n => n
  | fuel + 1, n => if (t.find n).isSome then Tab.freeFrom t fuel (n + 1) else n

/-- The first list element of a list for which `f` has a value. -/
def firstSome {α β : Type} (l : List α) (f : α → Option β) : Option β :=
  match l with
  | [] => none
  | a :: r => match f a with
    | some b => some b
    | none => firstSome r f

/-- The sum of a measure over a list. -/
def sumOf {α : Type} (l : List α) (f : α → Nat) : Nat := l.foldl (fun n a => n + f a) 0

/-- The greatest measure over a list, 0 for an empty one. -/
def maxOf {α : Type} (l : List α) (f : α → Nat) : Nat := l.foldl (fun n a => max n (f a)) 0

/-- The element of a list with the least measure, the first on ties. -/
def minBy {α : Type} (l : List α) (f : α → Nat) : Option α :=
  l.foldl (fun m a => match m with
    | none => some a
    | some b => if f a < f b then some a else some b) none

/-- An element put into a list before the first element with a greater measure. -/
def insertBy {α : Type} (f : α → Nat) (a : α) : List α → List α
  | [] => [a]
  | b :: r => if f a < f b then a :: b :: r else b :: insertBy f a r

/-- A list in ascending order of a measure, equal elements in their order. -/
def sortBy {α : Type} (f : α → Nat) (l : List α) : List α := l.foldl (fun r a => insertBy f a r) []

/-- A list without repeats, the first of equal elements kept. -/
def distinct {α : Type} [DecidableEq α] (l : List α) : List α :=
  l.foldl (fun r a => if a ∈ r then r else r ++ [a]) []

end Sys2Proof
end

