-- ==== Sys2Proof/Machine/State.lean ====
section
/-! DEFINITION. The state of the YD40 as plain data: everything that the spec gives the machine (INVENTORY.md, State),
and the model's own fields (log entries 1 to 4). Objects of one kind that come and go (jobs, clusters, blocks, waves)
stand in tables by a number of the model's own. -/
namespace Sys2Proof.Machine

/-- Why a step stops. -/
inductive Fault where
  /-- The agenda named an instruction word or an engine command, which are issued by waves and engines and are no
  events. Raised by `step`. Safe: no run of the device does this. -/
  | agendaHoldsWord
  deriving DecidableEq, Repr

/-- Why an instruction has no meaning. -/
inductive Refusal where
  /-- The instruction's arm is not written yet. Raised by `exec`. Safe: nothing follows from it. -/
  | notModelled (mnemonic : String)
  deriving DecidableEq, Repr

/-! ### Waves and threads -/

/-- An open transaction of a thread (R242, R136): where an abort goes, the bytes read with their values and the bytes
written (physical addresses), the virtual 8-byte words written (Table 5-2), the virtual lines read and written, and
whether one byte was read with two values. -/
structure Txn where
  target : Word
  reads  : Tab Byte := []
  writes : Tab Byte := []
  words  : List Nat := []
  rlines : List Nat := []
  wlines : List Nat := []
  torn   : Bool := false
  deriving DecidableEq, Repr

/-- A thread (R26, R27, R52, R248): identity, PC, meeting register, registers, predicates p0 to p6, what its region
restart needs (R39, R40). -/
structure Thread where
  tid      : Nat := 0
  bid      : Nat := 0
  live     : Bool := false
  pc       : Word := 0
  mt       : Word := 0
  v        : Tab Reg := []
  p        : BitVec 7 := 0
  key      : Word := 0
  seed     : Word := 0
  tstat    : Word := 0
  txn      : Option Txn := none
  handler  : Bool := false
  startPc  : Word := 0
  startMt  : Word := 0
  startH   : Bool := false
  deriving DecidableEq, Repr

/-- One register write of an outstanding result. -/
inductive RegWrite where
  | vec  (lane r : Nat) (x : Reg)
  | uni  (r : Nat) (x : Word)
  | pred (lane r : Nat) (x : Bool)
  deriving DecidableEq, Repr

/-- One lane's operation of a buffered RED (R34, R228): physical address, type code, operation, operands. -/
structure RedOp where
  lane : Nat
  pa   : Nat
  ty   : Nat
  opn  : Nat
  v    : Word
  c    : Word
  deriving DecidableEq, Repr

/-- An entry of a region store buffer (R34): a line of stored bytes by offset, or a relaxed RED's line. `scope` is 0
for an ordinary store, else the SC of a relaxed strong store (R124) or of the RED. -/
inductive Buffered where
  | store (line va scope : Nat) (bytes : Tab Byte)
  | red (line va scope : Nat) (ops : List RedOp)
  deriving DecidableEq, Repr

/-- The write of an atomic of cluster, group or device scope that has been performed towards the agents within that scope only
(R134): its bytes from a physical address on, and the core group and the cluster of its thread. -/
structure LateWrite where
  pa      : Nat
  bytes   : List Byte
  scope   : Nat
  group   : Nat
  cluster : Nat
  deriving DecidableEq, Repr

/-- Why a wave is parked (R31), with the data of its waiting phase (R38). `lanes` are the lanes of the waiting word. -/
inductive Park where
  /-- On absent scratchpad lines (R91): the word issues again. -/
  | absent
  /-- On outstanding misses (die, serial) (R405, R409); serial 0 stands for a full table (R406). -/
  | miss (on : List (Nat × Nat))
  /-- BWAIT or BSYNC: barriers (block, index) with the phases waited for. -/
  | barrier (on : List (Nat × Nat × Nat))
  /-- BARV or BSYNC in a deterministic job (R237): the barriers (block, index, phase) whose last-arriver flag is
  awaited, the predicate's number and the active lanes; `cl` for barriers of block 0 named with CL = 1, `sync` for
  BSYNC, which acquires. -/
  | arriver (on : List (Nat × Nat × Nat)) (pred : Nat) (lanes : List Nat) (cl sync : Bool)
  /-- CWAIT: a global address or (with a block) an offset in the block's scratchpad, operand, scope, the CWAIT's PC, and
  the misses (die, serial) that its latest read met (R405). -/
  | counter (block : Option Nat) (va : Nat) (c : Word) (sc : Nat) (pc : Word) (on : List (Nat × Nat))
  /-- AWF: ring block, object offset, n, destination, the AWF's PC and active lanes. -/
  | ring (block off n d : Nat) (pc : Word) (lanes : List Nat)
  /-- A word that issues again when it may go on: DEQ of a busy queue, QWAIT, JOB, STRM, MPOP, MPSH, Q = 1, claims. -/
  | retry
  /-- EXIT waiting for the listed engine operations (block, kind, number) (R49). -/
  | exit (on : List (Nat × Nat × Nat)) (lanes : List Nat)
  /-- A gang latch (R276): the word, its PC, its uniform operands s(A) and s(A + 1), its active lanes. -/
  | latch (word pc a0 a1 : Word) (act : List Nat)
  /-- GROW: the allocation requested (R46). -/
  | grow (alloc : Nat)
  /-- TLBINV until the waves listed have committed the stores that used a removed translation, and the listed stores
  (core, commit number) have reached their homes (R251, R408). -/
  | inval (on : List Nat) (stores : List (Nat × Nat))
  /-- A release, fence or lookup fence whose stores drain (R127, R133, R97): the commit numbers waited for. -/
  | drain (on : List Nat)
  /-- A settled word that waits to issue: SIFT waiting for its matrix columns (R293). -/
  | matrix
  /-- At a replica commit, for its twin (R323): the hash of what its boundary would do. -/
  | twin (hash : Nat)
  deriving DecidableEq, Repr

/-- A column that the matrix engine pushed (R281): a value for each lane, and the lanes whose value is poisoned. -/
structure Column where
  vals   : List Reg
  poison : List Nat := []
  deriving DecidableEq, Repr

/-- A wave (R24, R45, R52, R248, R275, R280). `q1` holds the words pushed, each with a value for every lane. `slot` is its
place in its host block's slots (R295), `active` its set (R329); `settle` is a settle marker not yet met (R164); `deferred`
marks a wave that waits for a slot (R296); `rpoison` the poisoned registers by lane and
number (R419); `startEmu` is a copy of the emulation registers at the region start (R397); `bounds` the boundaries that a replicated run's wave has performed, and `go` that its twin admits the next
(R323), `hash` that of a boundary which has committed and waits to perform its effect (R436). -/
structure Wave where
  cluster  : Nat := 0
  host     : Nat := 0
  wid      : Nat := 0
  slot     : Nat := 0
  threads  : List Thread := []
  uni      : Tab Word := []
  gang     : Word := 0
  alloc    : Nat := 8
  emu      : Tab Word := []
  startEmu : Tab Word := []
  rsb      : List Buffered := []
  results  : Tab (List RegWrite) := []
  settle   : Bool := false
  park     : Option Park := none
  drained  : Bool := false
  lanes    : List Nat := []
  q0       : List Column := []
  q1       : List (List Reg) := []
  active   : Bool := true
  age      : Nat := 0
  since    : Nat := 0
  runFrom  : Nat := 0
  ready    : Nat := 0
  wake     : Nat := 0
  started  : Bool := false
  ended    : Bool := false
  deferred : Bool := false
  bounds   : Nat := 0
  go       : Bool := false
  hash     : Option Nat := none
  rpoison  : List (Nat × Nat) := []
  deriving DecidableEq, Repr

/-! ### Blocks -/

/-- A named barrier (R236, R237): expected count, cluster scope, arrivals, phase, a pending BINIT, and in a
deterministic job the waves that arrived in the phase (home block, sr.wid, wave) and the last arrivers of the phases
whose waves have not all had their flag. -/
structure Barrier where
  exp      : Nat := 0
  cl       : Bool := false
  arr      : Nat := 0
  ph       : BitVec 32 := 0
  pending  : Option (Nat × Bool) := none
  arrivals : List (Nat × Nat × Nat) := []
  winners  : Tab Nat := []
  deriving DecidableEq, Repr

/-- A claimed slot of an arrival ring (R262, R431): object offset, slot number, initialisation number of the object, and
the slot's offset and size as they stood at the claim. -/
structure Claim where
  off   : Nat
  k     : Nat
  init  : Nat
  base  : Nat
  size  : Nat
  deriving DecidableEq, Repr

/-- A delivery of an engine into a block's scratchpad (R90, R262): `owner` and `number` name the command: a block and
its copy entry, an engine's slot (16 × engine + slot) and its push, or a block's matrix operation. A delivery whose
slot is claimed is `accepted` once its data has been read; `landed` ones wait for their ring to advance. -/
structure Delivery where
  /-- 0 copy unit, 1 stream engine, 2 matrix engine (MSTA) -/
  kind     : Nat
  owner    : Nat
  number   : Nat
  bytes    : Tab Byte := []
  claim    : Option Claim := none
  accepted : Bool := true
  landed   : Bool := false
  deriving DecidableEq, Repr

/-- A copy-queue command (R254): its entry number, bytes, the claim of its slot; CTILE's record and the index list once
they are read, the bytes read so far (R150), whether it holds a staging entry (R330), whether its reads are done and its deliveries accepted, whether its ring has
advanced for it (R431), the global writes still to be made, the misses that it waits for (R410), and the releases that
happen before it (`told`, R142). -/
structure CopyEntry where
  entry   : Nat
  command : BitVec 256
  claim   : Option Claim := none
  tsr     : Option Nat := none
  rows    : Option (List Nat) := none
  got     : List Byte := []
  staged  : Bool := false
  begun   : Bool := false
  advanced : Bool := false
  data    : List (Nat × Byte) := []
  misses  : List (Nat × Nat) := []
  told    : Tab Nat := []
  deriving DecidableEq, Repr

/-- A weight plane (R271, R273): its format slot contents (none: never loaded, format 0) and tile bytes. `poison` are
its poisoned chunks, as 8 × column + chunk (R419). -/
structure Plane where
  slot  : BitVec 32 := 0
  loaded : Bool := false
  bytes : Tab Byte := []
  poison : List Nat := []
  deriving DecidableEq, Repr

/-- A member of an accepted matrix operation: wave, activation offset, operand set of q1. -/
structure Member where
  wave : Nat
  act  : Nat
  set  : List (List Reg) := []
  deriving DecidableEq, Repr

/-- A matrix operation accepted and not completed (R272): its word, PC and active lanes, members in gang order, the
uniform operands of the wave at position 0, the operand lines as they stood at acceptance and at later moments, oldest first
(R284, R286), MCONV's shape record. A WSP of a counter that waits for its place among them (R288) is one too, with the value
in `a0` and the counter in `a1`. `out` holds the columns still to be pushed, by wave, once the operation has been performed
(R281). -/
structure MatrixOp where
  word    : Word
  pc      : Word
  lanes   : List Nat
  number  : Nat
  members : List Member
  a0      : Word := 0
  a1      : Word := 0
  snap    : Tab (List (List Byte)) := []
  tsr     : Nat := 0
  out     : Option (Tab (List Column)) := none
  deriving DecidableEq, Repr

/-- The matrix state of a block (R271, R288): whether it has claimed an engine, planes, tiles at0 to at3 keyed by
64 × row + column, poisoned elements (tile, key), operations in acceptance order. -/
structure Matrix where
  claimed : Bool := false
  active : Plane := {}
  shadow : Plane := {}
  tiles  : Tab (Tab Reg) := []
  poison : List (Nat × Nat) := []
  ops    : List MatrixOp := []
  count  : Nat := 0
  deriving DecidableEq, Repr

/-- A block (R52, R85, R90, R253, R431). `scratch` holds the bytes that are not 0; `absent` the lines with deliveries
not yet landed, one entry per delivery; `inits` the initialisation number of each ring object; `held` whether its
resources are still held (R50). -/
structure Block where
  cluster    : Nat := 0
  index      : Nat := 0
  core       : Nat := 0
  scratch    : Tab Byte := []
  absent     : List Nat := []
  poison     : List Nat := []
  barriers   : Tab Barrier := []
  taken      : Word := 0
  done       : Word := 0
  stat       : Word := 0
  copies     : List CopyEntry := []
  deliveries : List Delivery := []
  inits      : Tab Nat := []
  matrix     : Matrix := {}
  abn        : Tab Word := []
  held       : Bool := true
  deriving DecidableEq, Repr

/-! ### Clusters and jobs -/

/-- The sift of a cluster (R291, R293): the word and its PC, whether it holds a place in the tray store, the arrived
threads, the uniform registers of each arriving wave (by 65536 × sr.home + sr.wid) as its last thread arrived, the lanes in
which its threads arrived, and whether its records are poisoned (R445). -/
structure Sift where
  word    : Word
  pc      : Word
  place   : Bool
  arrived : List Thread := []
  unis    : Tab (Tab Word) := []
  lanes   : Tab (List Nat) := []
  poison  : Bool := false
  deriving DecidableEq, Repr

/-- The life of a cluster (R39, R51, R251, R336). -/
inductive Life where
  | running
  /-- stopped by HALT with this handle (R335) -/
  | halted (handle : Nat)
  /-- pre-empted by discard, to be resumed (R39, R43); a stopped cluster keeps its handle (R335) -/
  | preempted (handle : Option Nat)
  /-- dropped for good by cancel, failure or a replica's divergence -/
  | dropped
  | ended
  deriving DecidableEq, Repr

/-- A boundary that a primary run has performed: its hash and PC, the register writes that it gave, at once and late, and
whether its effect reached outside the cluster (R323, R436). -/
structure Logged where
  hash    : Nat
  pc      : Word := 0
  now     : List RegWrite := []
  late    : List RegWrite := []
  outside : Bool := false
  deriving DecidableEq, Repr

/-- The part that a cluster plays in a replicated task (R323, R436): 0 primary, 1 secondary, 2 a third run that catches
up; its partner (a third run's is the primary); the boundaries that a primary has performed, by wave (65536 × sr.home +
sr.wid); the third run that settles an open divergence. -/
structure Run where
  role  : Nat
  twin  : Option Nat := none
  log   : Tab (List Logged) := []
  third : Option Nat := none
  deriving DecidableEq, Repr

/-- A cluster (R24, R25, R41): its job, task index, record, core group, blocks, waves, place in dispatch order,
the tables of its address space as they stood at dispatch (R103), its stage (R324), and whether its prologue waits for a
program slot (R327). -/
structure Cluster where
  job    : Nat := 0
  task   : Nat := 0
  recordAt : Word := 0
  root   : Nat := 0
  regt   : Nat := 0
  group  : Nat := 0
  blocks : List Nat := []
  order  : Nat := 0
  life   : Life := .running
  sift   : Option Sift := none
  trays  : Bool := false
  run    : Option Run := none
  stage  : Option Nat := none
  prologue : Bool := false
  deriving DecidableEq, Repr

/-- A footprint entry (Table 12-3). -/
structure Footprint where
  kind : Nat
  base : Nat
  len  : Nat
  deriving DecidableEq, Repr

/-- The object of a binding (R125): 0 a word, 1 a barrier, 2 a ring object, 3 none, 4 a queue control block. A barrier or
ring is that of a block; `none` stands for each block or each cluster, as card entries name them (R308). -/
structure Obj where
  kind    : Nat
  cluster : Option Nat := none
  block   : Option Nat := none
  addr    : Nat
  deriving DecidableEq, Repr

/-- A binding (R125): object, and region in global memory (`scratch = false`) or in a block's scratchpad. -/
structure Binding where
  obj     : Obj
  scratch : Bool := false
  cluster : Option Nat := none
  block   : Option Nat := none
  base    : Nat
  len     : Nat
  deriving DecidableEq, Repr

/-- A BIND (`add`) or UNBIND of a job (R126), by a number of the model's own; 0 for the card's entries, which are in
force for every thread. `made` are the threads that performed it, each with the number of its releases before. -/
structure BindChange where
  id      : Nat
  add     : Bool
  binding : Binding
  made    : List (Nat × Nat) := []
  deriving DecidableEq, Repr

/-- A stage of a staged job (Table 12-2, R324 to R326). -/
structure Stage where
  entry  : Word
  iq     : Word
  low    : Nat
  high   : Nat
  taken  : Nat := 0
  marked : Bool := false
  ended  : Bool := false
  deriving DecidableEq, Repr

/-- The fields of a job card and its extension record (Tables 12-1 to 12-4), read once at acceptance (R308). -/
structure Card where
  addr      : Word := 0
  entry     : Word := 0
  rbase     : Word := 0
  rcount    : Nat := 0
  rsize     : Nat := 0
  blocks    : Nat := 1
  waves     : Nat := 1
  regs      : Nat := 8
  cqe       : Nat := 0
  slots     : Nat := 0
  bars      : Nat := 0
  det       : Bool := false
  step      : Bool := false
  priv      : Bool := false
  shared    : Nat := 0
  stack     : Nat := 0
  replicas  : Nat := 0
  deadline  : Option (BitVec 48) := none
  emu       : Word := 0
  cq        : Word := 0
  sq        : Word := 0
  eq        : Word := 0
  formats   : List (BitVec 32) := []
  uimg      : List Word := []
  foot      : List Footprint := []
  prologue  : Word := 0
  engine    : Nat := 0
  deriving DecidableEq, Repr

/-- The states of a job (Table 12-6). -/
inductive Phase where
  | waiting
  | ready
  | running
  /-- the completion point is reached and the completion record is held for a peer's digest (R349) -/
  | held
  | completed
  | failed
  | cancelled
  deriving DecidableEq, Repr

/-- Which releases happen before what an agent does next (R129, R130): per agent the releases made, and those of other
agents that it has acquired. The other tables are kept for each reach of a scope (`reachKey`): what an acquire that reads a
word's value obtains (R129, Word and Fence; a barrier's phase, a queue's entry and a ring's slot count as words), what a
FENCE after such a read obtains, what an agent's latest release and its latest FENCE published, what its next FENCE
acquires, and what the FENCEs so far have published. -/
structure Order where
  releases  : Tab Nat := []
  known     : Tab (Tab Nat) := []
  atWord    : Tab (Tab Nat) := []
  atLast    : Tab (Tab Nat) := []
  lastRel   : Tab (Tab Nat) := []
  lastFence : Tab (Tab Nat) := []
  toFence   : Tab (Tab Nat) := []
  fences    : Tab (Tab Nat) := []
  deriving DecidableEq, Repr

/-- What a deterministic job keeps for its checks (R394): per sector the last writer with its release count, and the
highest reader; the order of its tasks' releases. -/
structure Det where
  tags      : Tab (Nat × Nat) := []
  readers   : Tab Nat := []
  order     : Order := {}
  deriving DecidableEq, Repr

/-- An accepted job (R308, R312). `next` is the next record to deal or dispatch; `stores` the committed lines of a step
job by task, address, byte mask and data (R349); `regen` the miss (die, serial) that a regeneration job fills (R111);
`limit` the end of its records; `begun` whether a task has been dispatched (R95). `bindings` is its binding table,
`changes` what made it so, in order, and `hb` the order of its threads' releases since (R126, R130). -/
structure Job where
  card     : Card := {}
  asid     : BitVec 14 := 0
  root     : Nat := 0
  regt     : Nat := 0
  order    : Nat := 0
  phase    : Phase := .waiting
  next     : Nat := 0
  tasks    : Nat := 0
  reruns   : Nat := 0
  bindings : List Binding := []
  changes  : List BindChange := []
  hb       : Order := {}
  stages   : List Stage := []
  late     : Bool := false
  det      : Det := {}
  stores   : List (Nat × Nat × Tab Byte) := []
  step     : Nat := 0
  regen    : Option (Nat × Nat) := none
  code     : Nat := 0
  limit    : Nat := 0
  begun    : Bool := false
  deriving DecidableEq, Repr

/-! ### Cores, groups, dies, engines -/

/-- A translation that a TLB holds (R107): virtual and physical base, page size as a power of two, home, permissions,
the leaf's address. -/
structure Leaf where
  asid  : BitVec 14
  va    : Nat
  bits  : Nat
  pa    : Nat
  home  : Nat
  w     : Bool
  x     : Bool
  dt    : Bool
  pte   : Nat
  deriving DecidableEq, Repr

/-- A committed store that has not reached its point (R92, R121, R127): number, line, bytes, the objects whose regions
it overlapped at commit, its job and wave, and whether a release at wave or block scope has published it on its core
(R131). -/
structure Committed where
  number : Nat
  line   : Nat
  va     : Nat
  job    : Nat
  wave   : Nat := 0
  shared : Bool := false
  tags   : List Obj := []
  bytes  : Tab Byte
  deriving DecidableEq, Repr

/-- A task-queue entry (R318, R320). -/
structure Chunk where
  job     : Nat
  first   : Nat
  count   : Nat
  lent    : Bool := false
  started : Bool := false
  deriving DecidableEq, Repr

/-- A core (R17). `whole` are the lines of its lookup cache that a transaction has written at their homes since their fill, each
read by one LKP as of one moment (R137). -/
structure CoreState where
  l1       : Tab (List Byte) := []
  lookup   : Tab (List Byte) := []
  whole    : List Nat := []
  tlb      : List Leaf := []
  commit   : List Committed := []
  sconf    : Word := 0
  poolMin  : List Nat := [256, 256, 256, 256]
  poolCap  : List Nat := [4096, 4096, 4096, 4096]
  queue    : List Chunk := []
  roles    : Tab Nat := []
  owner    : Option Nat := none
  claims   : List Nat := []
  gated    : Bool := false
  lastJob  : Option Nat := none
  idle     : Nat := 0
  deriving DecidableEq, Repr

/-- An outstanding-miss entry (R406, R111): a number of the model's own (what waits on it names it by this number,
since the table reuses entries), fault range, kind (0 fault, 1 regeneration), the entry's address, the
regeneration job. -/
structure Miss where
  serial : Nat
  asid  : BitVec 14
  base  : Nat
  bits  : Nat
  regen : Bool
  pte   : Nat
  job   : Option Nat := none
  deriving DecidableEq, Repr

/-- An open frame of an ingest stream (R345, R346). -/
structure Frame where
  number   : Nat
  slot     : Nat
  rtpTs    : BitVec 32
  first    : Word
  last     : Word
  deadline : Int
  stored   : Bool
  written  : Tab (List (Nat × Nat)) := []
  present  : List Nat := []
  groups   : List Nat := []
  failedTr : Bool := false
  nextSeq  : Nat := 0
  deriving DecidableEq, Repr

/-- An enabled ingest descriptor's stream (R344, R346, R442): whether it has begun, and before that the RTP timestamp of a frame
that was under way at its enabling; its open frame, the number of the next, whether it seeks a
marker, the RTP timestamps of closed frames, and for audio the sequence number at which the next frame begins and whether a
marker has ended a seek since the latest frame (`resumed`). -/
structure Stream where
  desc     : BitVec 512
  began    : Bool := false
  skipTs   : Option (BitVec 32) := none
  frame    : Option Frame := none
  count    : Nat := 0
  seek     : Bool := false
  closed   : List (BitVec 32) := []
  base     : Option Nat := none
  resumed  : Bool := false
  deriving DecidableEq, Repr

/-- A die (R14, Tables 14-4 and 19-3). -/
structure DieState where
  rdc        : Tab (List Byte) := []
  l2tlb      : List Leaf := []
  misses     : Tab Miss := []
  faultDepth : Nat := 8
  fbBase     : Nat := 0
  fbPut      : BitVec 32 := 0
  fbGet      : BitVec 32 := 0
  dcnt       : Nat := 0
  dropped    : Bool := false
  ingBase    : Word := 0
  igDrop     : Nat := 0
  ingest     : Tab Stream := []
  temp       : BitVec 16 := 0
  floor      : Nat := 0
  cool       : Option Nat := none
  deriving DecidableEq, Repr

/-- The walk of a stream program (R260, R265, R268): the bits of the TSR that it copied, the tile extents, the order,
the tile counter. -/
structure Walk where
  tsr   : Nat
  tile  : List Nat
  order : List Nat
  t     : Nat
  deriving DecidableEq, Repr

/-- A push in flight (R268): its number, the address of its SPUSH, its slots (block, offset, size), and those of its claims
(block, ring object, slot number) whose object has been initialised anew (R431). -/
structure Push where
  number : Nat
  pc     : Word := 0
  slots  : List (Nat × Nat × Nat)
  stale  : List (Nat × Nat × Nat) := []
  deriving DecidableEq, Repr

/-- A program slot of a stream engine (R265, Table 9-8): programs started in it, and its latest program. `push` is a
push that has claimed its slots and not yet read its tile, with the time of the claim, `got` what it has read of it;
`inflight` are the pushes whose deliveries have not all landed; `window` is BMASK and ring of an SPUSH that waits on a
full window (R430); `targets` are the rings of the last SPUSH (block, offset); `misses` those that the
program waits for; `skip` the nesting depth while a SLOOP of COUNT 0 seeks its SENDL (R268); `prologue` a card's
prologue (R327); `known` the releases that its STRM published to it (R142, R394), `told` those that happen before its commands (R126); `halting` that its job has failed or been
cancelled, so that it stops after its current command (R336). -/
structure Program where
  count    : Nat := 0
  busy     : Bool := false
  base     : Word := 0
  here     : Word := 0
  stack    : List (Nat × Word) := []
  walk     : Option Walk := none
  stamp    : Option Nat := none
  parm     : Word := 0
  cluster  : Nat := 0
  job      : Nat := 0
  state    : Nat := 0
  pushes   : BitVec 32 := 0
  push     : Option (Nat × Word) := none
  got      : List Byte := []
  inflight : List Push := []
  window   : Option (Nat × Nat) := none
  targets  : List (Nat × Nat) := []
  misses   : List (Nat × Nat) := []
  skip     : Option Nat := none
  prologue : Bool := false
  known    : Tab Nat := []
  told     : Tab Nat := []
  halting  : Bool := false
  deriving DecidableEq, Repr

/-! ### Scheduler, host, fabric -/

/-- A submission entry that the scheduler has taken and not yet accepted (R311, R449): `miss` are the misses that its
card or lists wait for. A regeneration's card (R111) is named by its physical address and fills the miss `regen`. -/
structure Taken where
  card  : Word
  order : Nat := 0
  asid  : BitVec 14
  priv  : Bool
  phys  : Bool := false
  regen : Option (Nat × Nat) := none
  task  : Nat := 0
  miss  : List (Nat × Nat) := []
  deriving DecidableEq, Repr

/-- A record that waits to be enqueued (R317, R346, R377): address space, queue address, log2 of its size, bits, the die
through which its writer translates, the committed stores (core, number) that reach their homes before it (R378), and
whether it holds an entry of the buffer pool (R330). -/
structure Held where
  die   : Nat := 0
  asid  : BitVec 14
  queue : Word
  size  : Nat
  bits  : Nat
  after : List (Nat × Nat) := []
  pooled : Bool := true
  deriving DecidableEq, Repr

/-- A steal under way (R320): thief, victim and its place in the thief's search order, the lent chunk, the step reached
(1 requested, 3 transferred, 4 acknowledged), the fabric clock of the transfer, whether the watchdog has reclaimed it. -/
structure Steal where
  thief  : Nat
  victim : Nat
  place  : Nat := 0
  chunk  : Option Chunk := none
  step   : Nat := 1
  since  : Nat := 0
  reclaimed : Bool := false
  deriving DecidableEq, Repr

/-- The replica group of an ASID (R349, R437): `steps` accepted, the latest one `decided`. -/
structure Group where
  peer    : BitVec 10
  enabled : Bool
  steps   : Nat := 0
  decided : Nat := 0
  stopped : Bool := false
  pending : Option (Nat × Nat × Nat) := none
  arrived : List (Nat × Nat) := []
  deriving DecidableEq, Repr

/-- A link (R438): up or down, the times of the CRC errors of the last millisecond, how often flits have failed, failed
retrains, whether a retrain is under way. -/
structure LinkState where
  up      : Bool := false
  errors  : List Nat := []
  flits   : List (Nat × Nat) := []
  failed  : Nat := 0
  training : Bool := false
  deriving DecidableEq, Repr

/-- A host command-port enqueue slot (R333): the entry as the host has written it, the status, the entries of the GO writes whose
enqueue is still in progress, oldest first, and the misses that the first of them waits for (R449). -/
structure EnqueueSlot where
  entry   : BitVec 128 := 0
  status  : Nat := 0
  waiting : List (BitVec 128) := []
  on      : List (Nat × Nat) := []
  deriving DecidableEq, Repr

/-- The word that is being issued: wave, issued lanes, PC, word. -/
structure Issue where
  wave  : Nat
  lanes : List Nat
  pc    : Word
  word  : Word
  deriving DecidableEq, Repr

/-- The command that an engine is performing: a copy entry of a block, or a program slot of an engine. -/
inductive Command where
  | copy (block entry : Nat)
  | stream (engine slot : Nat)
  deriving DecidableEq, Repr

/-- A cache: a core's L1 or lookup cache, a die's remote-data cache, or its L2 (of CXL lines, R102). -/
inductive CacheOf where
  | l1 (core : Nat)
  | lookup (core : Nat)
  | rdc (die : Nat)
  | l2 (die : Nat)
  deriving DecidableEq, Repr

/-- One pick of the environment's schedule (log entry 1): an event, the next issue of a quadrant, the next command of
a copy queue entry, the next command of a stream program; a cache that evicts a line (R94) or fills it anew (R92); the
moment at which a queue's latest entries can be found (R138); a moment at which a matrix operation may fetch an operand line
(R284); a byte of host or expander memory that its owner writes
(R102). -/
inductive Pick where
  | event (i : Instr)
  | issue (core quadrant : Nat)
  | copy (block entry : Nat)
  | stream (engine slot : Nat)
  | evict (c : CacheOf) (line : Nat)
  | refill (c : CacheOf) (line : Nat)
  | reveal (qcb : Nat)
  | operand (block n line : Nat)
  | outside (pa : Nat) (b : Byte)
  deriving DecidableEq, Repr

/-- Entries at the end of a queue that an ENQ has put there and that other waves need not find yet (R138): their number,
the wave, the queue control block's virtual address. -/
structure Unseen where
  count : Nat
  wave  : Nat
  va    : Nat
  deriving DecidableEq, Repr

/-- What the PTP follower holds (R341): the best master so far with its rank; the latest Sync's number, its time of sending
(none until a follow-up gives it) and of receipt; the delay request that waits for its answer, with its time of sending; the
mean path delay. -/
structure Ptp where
  best  : Option (Nat × Nat) := none
  sync  : Option (BitVec 16 × Option Word × Word) := none
  sent  : Option (BitVec 16 × Word) := none
  delay : Option Int := none
  deriving DecidableEq, Repr

/-- The time that one step takes (log entry 2): arithmetic clocks, fabric clocks, nanoseconds. -/
structure Pace where
  arith  : Nat
  fabric : Nat
  ns     : Nat
  deriving DecidableEq, Repr

/-- The state of the device. -/
structure State where
  -- the model's own
  agenda   : List Pick := []
  pace     : List Nat := []
  freeCtr  : Nat := 0
  cur      : Option Issue := none
  command  : Option Command := none
  nextId   : Nat := 0
  -- work
  waves    : Tab Wave := []
  blocks   : Tab Block := []
  clusters : Tab Cluster := []
  jobs     : Tab Job := []
  -- units
  cores    : Tab CoreState := []
  dies     : Tab DieState := []
  engines  : Tab (Tab Program) := []
  -- memory
  mem      : List Host.Cell := []
  cxlDirty : Tab Byte := []
  cxlClean : Tab (List Byte) := []
  poison   : Tab Nat := []
  unseen   : Tab Unseen := []
  -- scheduler
  taken    : List Taken := []
  skipped  : List Nat := []
  skipMiss : Tab (List (Nat × Nat)) := []
  round    : Nat := 0
  held     : List Held := []
  steals   : Tab Steal := []
  groups   : Tab Group := []
  -- management
  devid    : BitVec 10 := 0
  bootReady : Bool := false
  bootDegr : Bool := false
  bootStep : Nat := 0
  logHead  : BitVec 12 := 0
  bootLog  : Tab (BitVec 128) := []
  bootNo   : Nat := 0
  savedCfg : BitVec 10 × List (BitVec 2) × List (Nat × Nat) × Byte := (0, [], [], 0)
  firmware : Option Nat := none
  bar0     : Bool := false
  cxlOff   : List Nat := []
  pstate   : BitVec 2 := 0
  astbase  : Word := 0
  jqtab    : Word := 0
  hrq      : Word := 0
  pmodes   : Tab (BitVec 2) := []
  mbtx     : BitVec 13 := 0
  mbrx     : BitVec 32 := 0
  mailIn   : Tab Byte := []
  mailOut  : Tab Byte := []
  stored   : Tab Nat := []
  counts   : Tab Nat := []
  -- host
  op       : Byte := 0
  busy     : Bool := false
  arg0     : Word := 0
  arg1     : Word := 0
  result   : Word := 0
  hostWait : Option (List Nat × List (Nat × Nat)) := none
  slots    : Tab EnqueueSlot := []
  vectors  : List Nat := []
  hostHeld : List (BitVec 256) := []
  halts    : BitVec 24 := 0
  -- fabric and time
  links    : Tab LinkState := []
  edges    : Tab LinkState := []
  paths    : Tab (List Nat) := []
  routes   : Tab Nat := []
  outbox   : List (BitVec 10 × Nat × Nat) := []
  lateWrites : List LateWrite := []
  clk      : Nat := 0
  fabric   : Nat := 0
  time     : Word := 0
  flushed  : Nat := 0
  poweredOn : Nat := 0
  locked   : Bool := false
  lockedOnce : Bool := false
  ptp      : Ptp := {}
  clkRest  : Nat := 0
  fabRest  : Nat := 0
  nsRest   : Nat := 0
  offset   : Int := 0
  slewRest : Nat := 0
  domain   : Byte := 127
  dreqs    : Nat := 0
  stopped  : Option (Nat × Nat) := none
  power    : Bool := true
  deriving DecidableEq, Repr

/-- The machine right after power-on, before the boot steps (R350, Table 14-4): every field at the value that the spec
gives, and the hardware state for which it gives none empty or 0 (log entries 5 to 9). -/
def State.reset : State := {}

end Sys2Proof.Machine
end

