-- ==== Sys2Proof/Machine/Parts.lean ====
section
/-! DEFINITION. Reading and changing the parts of the state: one accessor each, the numbering of units (R18), free
choices (log entry 3), the lifetime counters and the clocks. -/
namespace Sys2Proof.Machine

/-- A free choice of this step between two outcomes that the spec admits (log entry 3). -/
def State.choose (s : State) (a b : Nat) : Bool := Config.choice s.freeCtr a b

/-- The time counter `n` nanoseconds on: it never decreases (R342), and stays at its greatest value. -/
def laterTime (t : Word) (n : Nat) : Word := BitVec.ofNat 64 (min (2 ^ 64 - 1) (t.toNat + n))

/-- Core group of a core (R18). -/
def groupOfCore (c : Nat) : Nat := c / 8
/-- Die of a core group (R18). -/
def dieOfGroup (g : Nat) : Nat := g / 5
/-- Die of a core (R18). -/
def dieOfCore (c : Nat) : Nat := c / 40
/-- Die of a stream engine (R18). -/
def dieOfEngine (e : Nat) : Nat := e / 8

def State.core (s : State) (c : Nat) : CoreState := s.cores.getD c {}
def State.setCore (s : State) (c : Nat) (x : CoreState) : State := { s with cores := s.cores.put c x {} }
def State.onCore (s : State) (c : Nat) (f : CoreState → CoreState) : State := s.setCore c (f (s.core c))

def State.die (s : State) (d : Nat) : DieState := s.dies.getD d {}
def State.setDie (s : State) (d : Nat) (x : DieState) : State := { s with dies := s.dies.put d x {} }
def State.onDie (s : State) (d : Nat) (f : DieState → DieState) : State := s.setDie d (f (s.die d))

def State.wave (s : State) (w : Nat) : Wave := s.waves.getD w {}
def State.setWave (s : State) (w : Nat) (x : Wave) : State := { s with waves := s.waves.insert w x }
def State.onWave (s : State) (w : Nat) (f : Wave → Wave) : State := { s with waves := s.waves.modify w f }

def State.block (s : State) (b : Nat) : Block := s.blocks.getD b {}
def State.onBlock (s : State) (b : Nat) (f : Block → Block) : State := { s with blocks := s.blocks.modify b f }

def State.cluster (s : State) (c : Nat) : Cluster := s.clusters.getD c {}
def State.onCluster (s : State) (c : Nat) (f : Cluster → Cluster) : State :=
  { s with clusters := s.clusters.modify c f }

def State.job (s : State) (j : Nat) : Job := s.jobs.getD j {}
def State.onJob (s : State) (j : Nat) (f : Job → Job) : State := { s with jobs := s.jobs.modify j f }

/-- Program slot `k` of stream engine `e` (R265). -/
def State.program (s : State) (e k : Nat) : Program := (s.engines.getD e []).getD k {}
def State.setProgram (s : State) (e k : Nat) (p : Program) : State :=
  { s with engines := s.engines.put e ((s.engines.getD e []).put k p {}) [] }
def State.onProgram (s : State) (e k : Nat) (f : Program → Program) : State := s.setProgram e k (f (s.program e k))

/-- The block of index `b` of a cluster, by its number in the model. -/
def State.blockOf (s : State) (cl b : Nat) : Nat := (s.cluster cl).blocks.getD b 0

/-- The job card of a wave. -/
def State.cardOf (s : State) (w : Wave) : Card := (s.job (s.cluster w.cluster).job).card

/-- The core on which a wave is placed: that of its host block (R295, Table 2-2). -/
def State.coreOf (s : State) (w : Wave) : Nat := (s.block (s.blockOf w.cluster w.host)).core

/-- The threads per task T = B × W × 32 (R26). -/
def Card.threads (c : Card) : Nat := c.blocks * c.waves * 32

/-- Lane `l` of a wave. -/
def Wave.thread (w : Wave) (l : Nat) : Thread := w.threads.getD l {}
def Wave.onThread (w : Wave) (l : Nat) (f : Thread → Thread) : Wave := { w with threads := w.threads.modify l f }
def Wave.onLanes (w : Wave) (ls : List Nat) (f : Nat → Thread → Thread) : Wave :=
  { w with threads := w.threads.mapIdx fun l t => if ls.contains l then f l t else t }
def Wave.liveLanes (w : Wave) : List Nat := (List.range 32).filter fun l => (w.thread l).live
/-- Handler mode (R382): some live thread is in the handler. -/
def Wave.handlerMode (w : Wave) : Bool := w.threads.any fun t => t.live && t.handler
/-- Uniform register s(r) (R152). -/
def Wave.u (w : Wave) (r : Nat) : Word := w.uni.getD r 0

/-- The waves of a cluster. -/
def State.wavesOf (s : State) (cl : Nat) : List Nat := (s.waves.filter fun p => p.2.cluster == cl).map Prod.fst

/-- The waves placed on a core that hold a slot. -/
def State.wavesOn (s : State) (c : Nat) : List Nat :=
  (s.waves.filter fun p => s.coreOf p.2 == c && !p.2.ended && !p.2.deferred).map Prod.fst

/-- A cluster's waves are on the machine (R39, R51). -/
def Life.resident : Life → Bool
  | .running => true
  | .halted _ => true
  | _ => false

/-- Lifetime counter `i` counts `n` more events (R357), in the part not yet flushed; reads saturate at 64 bits. -/
def State.count (s : State) (i n : Nat) : State :=
  { s with counts := s.counts.put i (min (2 ^ 64 - 1) (s.counts.getD i 0 + n)) 0 }

/-- The arithmetic clock in a power state, in tenths of a gigahertz (Table 14-3). -/
def clockRate (p : Nat) : Nat := [33, 26, 18, 8].getD p 8

/-- The effective power state (R354): the greater of the request and the highest thermal floor. -/
def State.effective (s : State) : Nat :=
  max s.pstate.toNat (maxOf [0, 1, 2, 3] fun d => (s.die d).floor)

/-- A vector of the control port is signalled (R331). -/
def State.signal (s : State) (v : Nat) : State := { s with vectors := s.vectors ++ [v] }

/-- A number of the model's own for a new object. -/
def State.fresh (s : State) : Nat × State := (s.nextId, { s with nextId := s.nextId + 1 })

/-- Every object of a list folded into the state. -/
def State.each {α : Type} (s : State) (l : List α) (f : State → α → State) : State := l.foldl f s

end Sys2Proof.Machine
end

