-- ==== Sys2Proof/Machine/Memory.lean ====
section
/-! DEFINITION. The windows of generic addresses (Table 4-1); physical memory: the map of Table 4-3, homes (R98 to R102), poison of home sectors (R419), reads and
writes at the home. -/
namespace Sys2Proof.Machine

/-! ### Windows -/

def stackBase : Nat := 0xFFFFFC0000000000
def clusterBase : Nat := 0xFFFFFD0000000000
def blockBase : Nat := 0xFFFFFE0000000000
def unassignedBase : Nat := 0xFFFFFF0000000000

/-- The window of a generic address (Table 4-1), by the codes of 0x0103: 0 global, 1 stack, 2 cluster, 3 block,
4 unassigned. -/
def windowOf (a : Nat) : Nat :=
  if a < stackBase then 0 else if a < clusterBase then 1 else if a < blockBase then 2
  else if a < unassignedBase then 3 else 4

/-! ### Physical memory -/

/-- The kinds of physical memory (Table 4-3). -/
inductive Region where
  | hbm
  | cxl (port : Nat)
  | peer (device : Nat)
  | host
  deriving DecidableEq, Repr

/-- The region of a 52-bit physical address; `none` where Table 4-3 reserves it. -/
def regionOf (pa : Nat) : Option Region :=
  if pa < 0x8000000000 then some .hbm
  else if 0x100000000000 ≤ pa ∧ pa < 0x140000000000 then some (.cxl ((pa - 0x100000000000) / 2 ^ 40))
  else if 0x4000000000000 ≤ pa ∧ pa < 0x6000000000000 then some (.peer (pa / 2 ^ 39 % 1024))
  else if 0x8000000000000 ≤ pa ∧ pa < 2 ^ 52 then some .host
  else none

/-- A physical address is of CXL memory, which a home L2 caches (R102). -/
def isCxl (pa : Nat) : Bool := match regionOf pa with
  | some (.cxl _) => true
  | _ => false

/-- The address at which an access is served: an access to the peer range with the device's own DEVID is served as HBM
(R338). -/
def State.served (s : State) (pa : Nat) : Nat :=
  match regionOf pa with
  | some (.peer d) => if d = s.devid.toNat then pa % 2 ^ 39 else pa
  | _ => pa

/-- The die on which a physical address is homed; `none` for peer and host memory (Tables 4-3, 4-4). -/
def homeDie (pa : Nat) : Option Nat :=
  match regionOf pa with
  | some .hbm => some (pa / 2 ^ 37 % 4)
  | some (.cxl n) => some n
  | _ => none

/-- The exchange of bits [38:37] and [13:12] for an interleaved page (R100). -/
def interleave (pa : Nat) : Nat :=
  let hi := pa / 2 ^ 37 % 4
  let lo := pa / 2 ^ 12 % 4
  pa - hi * 2 ^ 37 - lo * 2 ^ 12 + lo * 2 ^ 37 + hi * 2 ^ 12

/-- The canonical form of memory: addresses strictly rising, and no entry with the value that an unlisted address reads
as. -/
def Memory.wf (m : List Host.Cell) : Bool := Tab.sorted (α := Byte) m && m.all fun p => p.2 != 0

/-- A byte of a cached line. -/
def cachedByte (t : Tab (List Byte)) (pa : Nat) : Option Byte := (t.find (pa / 128)).bind fun l => l[pa % 128]?

/-- One byte at its home: the home L2's dirty or clean copy of CXL memory, else memory (R101, R102). A byte that nothing
has written reads 0 (log entry 6). -/
def State.home (s : State) (pa : Nat) : Byte :=
  let a := s.served pa
  let m := Tab.getD (α := Byte) s.mem a 0
  if isCxl a then (s.cxlDirty.find a).getD ((cachedByte s.cxlClean a).getD m) else m

/-- `n` bytes at their home. -/
def State.homeBytes (s : State) (pa n : Nat) : List Byte := (List.range n).map fun i => s.home (pa + i)

/-- The little-endian number that `n` bytes at their home hold (R3). -/
def State.homeNat (s : State) (pa n : Nat) : Nat := natOfBytes (s.homeBytes pa n)

/-- `n` bytes that the device reads at a physical address of its own tables: the address-space table, page and regeneration
tables, cards, queue entries, stream descriptors. A range that Table 4-3 reserves holds no memory, and the spec states no
value there: the bytes are free (log entry 3). -/
def State.tableNat (s : State) (pa n : Nat) : Nat :=
  if (regionOf pa).isSome then s.homeNat pa n
  else natOfBytes ((List.range n).map fun i => (Config.freeWord s.freeCtr (pa + i)).setWidth 8)

/-- One byte written at its home. CXL memory is written in the home L2 (R102). -/
def State.writeHome (s : State) (pa : Nat) (b : Byte) : State :=
  let a := s.served pa
  if isCxl a then { s with cxlDirty := s.cxlDirty.insert a b }
  else { s with mem := Tab.put (α := Byte) s.mem a b 0 }

/-- The poison unit that covers a physical address (Table 19-6), by its first sector: a 32-byte sector, or for poison
that an expander reports the two sectors of a 64-byte line. -/
def State.poisonUnit (s : State) (a : Nat) : Option Nat :=
  if (s.poison.find (a / 32)).isSome then some (a / 32)
  else if s.poison.find (a / 64 * 2) = some 4 then some (a / 64 * 2) else none

/-- The structure code of the poison that a byte's unit carries, if any (R419). -/
def State.poisonAt (s : State) (pa : Nat) : Option Nat := (s.poisonUnit (s.served pa)).bind s.poison.find

/-- Bytes written at their homes; a store that writes every byte of a poisoned unit clears the poison (R419). -/
def State.writeHomes (s : State) (bytes : List (Nat × Byte)) : State :=
  let s' := bytes.foldl (fun s p => s.writeHome p.1 p.2) s
  if s.poison.isEmpty then s' else
    let addrs := bytes.map fun p => s.served p.1
    let units := distinct (addrs.filterMap s.poisonUnit)
    let full := units.filter fun u =>
      (List.range (if s.poison.find u = some 4 then 64 else 32)).all fun i => addrs.contains (u * 32 + i)
    { s' with poison := full.foldl (fun t u => t.remove u) s'.poison }

/-- A number of `n` bytes written at its home. -/
def State.writeNat (s : State) (pa n v : Nat) : State :=
  s.writeHomes ((bytesOfNat n v).mapIdx fun i b => (pa + i, b))

/-- A number of `n` bytes that the device writes into its own tables; a reserved range takes none (`tableNat`). -/
def State.writeTable (s : State) (pa n v : Nat) : State :=
  if (regionOf pa).isSome then s.writeNat pa n v else s

/-- The dirty L2 bytes of CXL memory for which the test holds are written back to the expander (R102); they stay in a
clean copy of their line. -/
def State.writeBack (s : State) (p : Nat → Bool) : State :=
  let out := s.cxlDirty.filter fun x => p x.1 && isCxl x.1
  let clean (line : Nat) (l : List Byte) : List Byte := l.mapIdx fun i b =>
    if p (line * 128 + i) then (s.cxlDirty.find (line * 128 + i)).getD b else b
  { s with
    mem := out.foldr (fun x m => Tab.put (α := Byte) m x.1 x.2 0) s.mem
    cxlDirty := s.cxlDirty.filter fun x => !p x.1
    cxlClean := if out.isEmpty then s.cxlClean else s.cxlClean.map fun x => (x.1, clean x.1 x.2) }

/-- The L2 copies of the CXL lines for which the test holds leave the L2, the dirty ones by being written back (R102, log
entry 14). -/
def State.dropCxl (s : State) (p : Nat → Bool) : State :=
  let s := s.writeBack fun pa => p (pa / 128)
  { s with cxlClean := s.cxlClean.filter fun x => !p x.1 }

/-- The number of 128-byte lines that a die's L2 holds: 96 MiB (Table 1-2). -/
def l2Lines : Nat := 786432

/-- The CXL lines in a die's L2 (R102). -/
def State.cxlLines (s : State) (die : Nat) : List Nat :=
  (distinct (s.cxlDirty.map (fun x => x.1 / 128) ++ s.cxlClean.keys)).filter fun l => homeDie (l * 128) == some die

/-- A die's L2 holds no more CXL lines than it has lines: it evicts the lowest beyond them. -/
def State.boundL2 (s : State) : State :=
  if s.cxlDirty.isEmpty && s.cxlClean.isEmpty then s
  else (List.range 4).foldl (fun s d =>
    ((s.cxlLines d).drop l2Lines).foldl (fun s l => s.dropCxl fun x => x == l) s) s

/-- A clean copy of a CXL line as it stands in memory now (R102). -/
def State.fillCxl (s : State) (line : Nat) : State :=
  let bytes := (List.range 128).map fun i => Tab.getD (α := Byte) s.mem (line * 128 + i) 0
  { s with cxlClean := s.cxlClean.insert line bytes }

/-- A byte of host or expander memory that its owner writes (R102, log entry 22): below every cache of the device. -/
def State.outsideWrite (s : State) (pa : Nat) (b : Byte) : State :=
  match regionOf pa with
  | some .host | some (.cxl _) => { s with mem := Tab.put (α := Byte) s.mem pa b 0 }
  | _ => s

/-! ### Die-to-die and fabric routes -/

/-- No link leads to a peer device: the port to which the route table maps it is down or in another mode (R338). -/
def State.peerDown (s : State) (d : Nat) : Bool :=
  match s.routes.find d with
  | some p => !((s.links.getD p {}).up && s.pmodes.getD p 0 == 1)
  | none => true

/-- No link leads to a physical address: that of the port to which the route table maps a peer device is down (R338), or the
CXL port was left disabled at bring-up (Table 14-1, log entry 70). -/
def State.routeDown (s : State) (pa : Nat) : Bool :=
  match regionOf (s.served pa) with
  | some (.peer d) => s.peerDown d
  | some (.cxl n) => s.cxlOff.contains n
  | _ => false

/-- The structure code of the poison that a fresh read of a byte meets: the unit's poison, or 6 where the route's port
is down (R419, R438). -/
def State.poisonRead (s : State) (pa : Nat) : Option Nat :=
  if s.routeDown pa then some 6 else s.poisonAt pa

/-- Bytes written at their home: a write over a fabric port that is down is lost (R438); the answer lists the addresses
lost. -/
def State.writeOut (s : State) (bytes : List (Nat × Byte)) : List Nat × State :=
  let lost := bytes.filter fun p => s.routeDown p.1
  (lost.map Prod.fst, s.writeHomes (bytes.filter fun p => !s.routeDown p.1))

end Sys2Proof.Machine
end

