-- ==== Sys2Proof/Machine/Pool.lean ====
section
/-! DEFINITION. The internal buffer pool of each core (R330): the entries that its four classes hold and when a class
takes one more (log entry 67). -/
namespace Sys2Proof.Machine

/-- Entries of a pool (R17, R330). -/
def poolSize : Nat := 4096

/-- Blocks placed on a core. -/
def State.blocksAt (s : State) (core : Nat) : List Block :=
  (s.blocks.filter fun p => p.2.core == core).map Prod.snd

/-- A wave on a core. -/
def State.wavesAt (s : State) (core : Nat) : List Wave :=
  (s.waves.filter fun p => s.coreOf p.2 == core).map Prod.snd

/-- A wave that waits on a fault holds an entry; one that waits for room (serial 0) holds none. -/
def Park.faulted : Park → Bool
  | .miss on => on.any fun p => p.2 != 0
  | .counter _ _ _ _ _ on => on.any fun p => p.2 != 0
  | _ => false

/-- Class 0, copy staging: the commands that have begun to read. -/
def State.stagingHeld (s : State) (core : Nat) : Nat :=
  sumOf (s.blocksAt core) fun b => (b.copies.filter fun e => e.staged).length

/-- Class 1, engine results: the words of q1, the columns of q0, and the deliveries awaiting their lines. -/
def State.resultsHeld (s : State) (core : Nat) : Nat :=
  sumOf (s.wavesAt core) (fun w => w.q0.length + w.q1.length) +
    sumOf (s.blocksAt core) fun b => (b.deliveries.filter fun d => (d.accepted || d.kind == 2) && !d.landed).length

/-- Class 2, faults: the waves and copy commands of the core that wait on misses. -/
def State.faultsHeld (s : State) (core : Nat) : Nat :=
  ((s.wavesAt core).filter fun w => (w.park.map Park.faulted).getD false).length +
    sumOf (s.blocksAt core) fun b => (b.copies.filter fun e => e.misses.any fun p => p.2 != 0).length

/-- Class 3, steals and task transfer: the steals of the core, and on core 0 the records held (R317). -/
def State.transfersHeld (s : State) (core : Nat) : Nat :=
  (s.steals.filter fun p => p.2.thief == core).length + if core = 0 then (s.held.filter fun h => h.pooled).length else 0

/-- The entries that each class holds, n_x of R330. -/
def State.poolHeld (s : State) (core : Nat) : List Nat :=
  [s.stagingHeld core, s.resultsHeld core, s.faultsHeld core, s.transfersHeld core]

/-- What the minima of the other classes keep free. -/
def reservedBy (held mins : List Nat) (cls : Nat) : Nat :=
  sumOf ((List.range 4).filter (· != cls)) fun y => mins.getD y 0 - held.getD y 0

/-- Class `cls` may take an entry where the classes hold `held` (R330). -/
def poolAdmits (held mins caps : List Nat) (cls : Nat) : Bool :=
  let n := held.getD cls 0
  decide (n < caps.getD cls 0) &&
    (decide (n < mins.getD cls 0) || decide (reservedBy held mins cls < poolSize - sumOf held id))

/-- A producer of a class on a core can take an entry (R330). -/
def State.poolTakes (s : State) (core cls : Nat) : Bool :=
  poolAdmits (s.poolHeld core) (s.core core).poolMin (s.core core).poolCap cls

end Sys2Proof.Machine
end

