-- ==== Sys2Proof/Machine/Translate.lean ====
section
/-! DEFINITION. Translation (R103 to R112), the outstanding-miss table and the fault buffer (R404 to R416). -/
namespace Sys2Proof.Machine

/-- Physical address bits [51:12] of a descriptor or entry (Tables 4-7, 4-8). -/
def frameOf (e : Nat) : Nat := slice e 12 40 * 4096

/-- The descriptor of an ASID (R103, Table 4-7): root table and regeneration table, `none` where it is not usable. -/
def State.descriptor (s : State) (asid : BitVec 14) : Option (Nat × Nat) :=
  let spot := s.astbase.toNat % 2 ^ 52 / 2 ^ 18 * 2 ^ 18 + 16 * asid.toNat
  let lo := s.tableNat spot 8
  let hi := s.tableNat (spot + 8) 8
  if lo % 2 = 1 ∧ slice lo 1 11 = 0 ∧ slice lo 52 12 = 0 ∧ slice hi 40 24 = 0 then
    some (frameOf lo, slice hi 0 40 * 4096)
  else none

/-- The low half of an ASID's descriptor, for the error record (Table 21-1, 0x0211). -/
def State.descriptorBits (s : State) (asid : BitVec 14) : Word :=
  BitVec.ofNat 64 (s.tableNat (s.astbase.toNat % 2 ^ 52 / 2 ^ 18 * 2 ^ 18 + 16 * asid.toNat) 8)

/-- How a walk ends (R104, R404, R407). -/
inductive Walked where
  | leaf (l : Leaf) (level : Nat)
  /-- V = 0: level, log2 of the fault range, the entry's address and value -/
  | absent (level bits pte entry : Nat)
  | malformed (level pte : Nat)
  deriving DecidableEq, Repr

/-- log2 of the range that an entry of a level covers (R404). -/
def levelBits : Nat → Nat
  | 0 => 12 | 1 => 21 | 2 => 30 | 3 => 39 | 4 => 48 | _ => 57

/-- HOME and frame agree with Table 4-4. -/
def homeOk (home pa : Nat) : Bool :=
  match regionOf pa with
  | some .hbm => home == 4 || home == pa / 2 ^ 37 % 4
  | some (.cxl n) => home == n
  | some (.peer _) => home == 5
  | some .host => home == 6
  | none => false

/-- The bits of an entry that must be the same in all 16 entries of a 64 KiB group (R106): all but ACNT, DT and A. -/
def groupBits (e : Nat) : Nat := e % 2 ^ 56 - slice e 4 2 * 16

/-- What a leaf-level entry gives (R105, R106, R407). A regeneration entry's FRAME and HOME are examined as a valid leaf's
are; any other entry with V = 0 is judged by its reserved bits alone, for it has no FRAME (log entry 60). G64 = 1 in a leaf of level 1 or 2, where Table 4-8 has no such bit, is a
nonzero reserved bit (log entry 60). -/
def leafOf (asid : BitVec 14) (va level bits pte e : Nat) : Walked :=
  if slice e 52 4 ≠ 0 ∨ e.testBit 11 ∨ (e.testBit 0 ∧ e.testBit 7) ∨ (level ≠ 0 ∧ e.testBit 6) then .malformed level pte
  else if (e.testBit 0 ∨ e.testBit 7) ∧ (frameOf e % 2 ^ bits ≠ 0 ∨ !homeOk (slice e 8 3) (frameOf e)) then
    .malformed level pte
  else if !e.testBit 0 then .absent level bits pte e
  else .leaf { asid, va := va / 2 ^ bits * 2 ^ bits, bits, pa := frameOf e, home := slice e 8 3, w := e.testBit 2,
               x := e.testBit 3, dt := e.testBit 5, pte } level

/-- The own entry of a granule in a group whose entries differ, applied to that granule only (R106): with G64 = 1 it is an
entry of a 64 KiB page, so that the byte lies at FRAME × 4,096 + VA[15:0]. -/
def ownEntry (asid : BitVec 14) (va pte e : Nat) : Walked :=
  if e.testBit 6 then
    match leafOf asid va 0 16 pte e with
    | .leaf l level => .leaf { l with va := va / 4096 * 4096, bits := 12, pa := l.pa + va % 65536 / 4096 * 4096 } level
    | w => w
  else leafOf asid va 0 12 pte e

/-- What the level-0 entries of an address give (R106): the entry itself where no entry of its group of 16 has G64 = 1, or
all agree; where they differ, one of those that R106 admits: an entry of the group with G64 = 1 for all 64 KiB, or the own
entry (log entry 3). -/
def State.groupWalk (s : State) (asid : BitVec 14) (va pte : Nat) : Walked :=
  let e := s.tableNat pte 8
  let first := pte / 128 * 128
  let marked := ((List.range 16).map fun i => first + 8 * i).filter fun p => (s.tableNat p 8).testBit 6
  if marked.isEmpty then leafOf asid va 0 12 pte e
  else if (List.range 16).all fun i => groupBits (s.tableNat (first + 8 * i) 8) = groupBits e then
    leafOf asid va 0 16 pte e
  else match marked.find? fun p => s.choose (va / 65536) p with
    | some p => leafOf asid va 0 16 p (s.tableNat p 8)
    | none => ownEntry asid va pte e

/-- The walk from a level's table (R104). Walkers hold no non-leaf entries, which R107 lets them (log entry 23). -/
def State.walkFrom (s : State) (asid : BitVec 14) (va table : Nat) : Nat → Walked
  | 0 => s.groupWalk asid va (table + 8 * slice va 12 9)
  | level + 1 =>
    let pte := table + 8 * slice va (12 + 9 * (level + 1)) 9
    let e := s.tableNat pte 8
    if level + 1 ≤ 2 ∧ e.testBit 1 then leafOf asid va (level + 1) (levelBits (level + 1)) pte e
    else if slice e 52 12 ≠ 0 ∨ slice e 1 11 ≠ 0 then .malformed (level + 1) pte
    else if !e.testBit 0 then .absent (level + 1) (levelBits (level + 1)) pte e
    else s.walkFrom asid va (frameOf e) level

/-- The walk of a virtual address through the six levels (R104). -/
def State.walk (s : State) (asid : BitVec 14) (root : Nat) (va : Nat) : Walked := s.walkFrom asid va root 5

/-- The update of a leaf's entry on an L2 TLB fill (R105): A set, ACNT incremented and saturating, and DT set when a
store is first translated. -/
def State.touchLeaf (s : State) (pte : Nat) (dirty : Bool) : State :=
  let e := s.tableNat pte 8
  let acnt := min 255 (slice e 56 8 + 1)
  let e := e % 2 ^ 56 ||| acnt * 2 ^ 56 ||| 16 ||| (if dirty then 32 else 0)
  s.writeTable pte 8 e

/-- A translation that a TLB holds for an address (R107). -/
def findLeaf (tlb : List Leaf) (asid : BitVec 14) (va : Nat) : Option Leaf :=
  tlb.find? fun l => l.asid == asid && va / 2 ^ l.bits * 2 ^ l.bits == l.va

/-- A TLB without the translations of an address. -/
def dropLeaf (tlb : List Leaf) (asid : BitVec 14) (va : Nat) : List Leaf :=
  tlb.filter fun l => !(l.asid == asid && va / 2 ^ l.bits * 2 ^ l.bits == l.va)

/-- Who asks for a translation: a core's wave or copy unit, through the core's L1 TLB, or without a core an engine of a
die, whose fault records name the core `label` (R410; 0xFF for the scheduler, R449). -/
structure Requester where
  core   : Option Nat
  label  : Nat := 0xFF
  die    : Nat
  engine : Bool
  asid   : BitVec 14
  root   : Nat
  regt   : Nat
  deriving DecidableEq, Repr

/-- A translation put into both TLBs in place of any other of the address (R107, R108), the oldest leaving a full
TLB. -/
def State.fillTlb (s : State) (q : Requester) (va : Nat) (l : Leaf) : State :=
  let s := s.onDie q.die fun d => { d with l2tlb := (l :: dropLeaf d.l2tlb q.asid va).take 16384 }
  match q.core with
  | some c => s.onCore c fun k => { k with tlb := (l :: dropLeaf k.tlb q.asid va).take 64 }
  | none => s

/-- A physical address from a leaf, with the exchange of an interleaved page (R100, R104). -/
def Leaf.addr (l : Leaf) (va : Nat) : Nat :=
  let pa := l.pa + va % 2 ^ l.bits
  if l.home = 4 then interleave pa else pa

/-- The leaf gives the access its permission (R105). -/
def Leaf.permits (l : Leaf) : Access → Bool
  | .read => true
  | .write => l.w
  | .fetch => l.x

/-- A host record waits for the host record queue, in order (R335, R434). -/
def State.hostRecord (s : State) (bits : Nat) : State := { s with hostHeld := s.hostHeld ++ [BitVec.ofNat 256 bits] }

/-- A fault is written to die `d`'s fault buffer, or counted as dropped, and announced to the host (R412 to R414). -/
def State.recordFault (s : State) (q : Requester) (acc : Access) (kind level bits base pte miss : Nat) : State :=
  let d := s.die q.die
  let used := (d.fbPut - d.fbGet).toNat
  let announce (s : State) : State :=
    s.hostRecord (0x10 + q.die * 2 ^ 8 + (s.die q.die).fbPut.toNat * 2 ^ 32 + s.time.toNat * 2 ^ 128)
  if used < d.faultDepth ∧ d.fbBase ≠ 0 then
    let size := match bits with | 12 => 0 | 16 => 1 | 21 => 2 | 30 => 3 | 39 => 4 | 48 => 5 | _ => 6
    let accBits := (match acc with | .read => 1 | .write => 2 | .fetch => 4) + (if q.engine then 8 else 0)
    let e := kind + accBits * 2 ^ 12 + size * 2 ^ 24 + level * 2 ^ 28 + miss * 2 ^ 32 + (q.core.getD q.label) * 2 ^ 40 +
      q.asid.toNat * 2 ^ 50 + pte * 2 ^ 64 + base * 2 ^ 128 + s.time.toNat * 2 ^ 192
    let spot := d.fbBase + 32 * (d.fbPut.toNat % d.faultDepth)
    let s := s.writeTable spot 32 e
    let s := s.onDie q.die fun d => { d with fbPut := d.fbPut + 1 }
    if used = 0 then announce s else s
  else
    let first := !d.dropped
    let s := s.onDie q.die fun d => { d with dcnt := min (2 ^ 32 - 1) (d.dcnt + 1), dropped := true }
    if first then announce (s.count (60 + q.die) 1) else s

/-- The miss that covers an address (R406), by its serial number. -/
def DieState.missAt (d : DieState) (asid : BitVec 14) (va : Nat) : Option Nat :=
  (d.misses.find? fun p => p.2.asid == asid && va / 2 ^ p.2.bits * 2 ^ p.2.bits == p.2.base).map fun p => p.2.serial

/-- The answer to a request for a translation. -/
inductive Translated where
  | ok (pa : Nat) (leaf : Leaf)
  /-- the access waits on a miss (die, serial) -/
  | miss (die serial : Nat)
  /-- the miss table is full: the access waits until an entry of the die is released (R406) -/
  | full (die : Nat)
  /-- a program error (0x0105 or 0x0104) with INFO0 and INFO1 -/
  | error (code info0 info1 : Nat)
  deriving DecidableEq, Repr

/-- An entry of the miss table is taken (R406); 256 entries. The answer is the entry and its serial number. -/
def State.takeMiss (s : State) (die : Nat) (asid : BitVec 14) (base bits pte : Nat) (regen : Bool) :
    Option (Nat × Nat × State) :=
  let d := s.die die
  if d.misses.length < 256 then
    let k := d.misses.freeFrom 256 0
    let m : Miss := { serial := s.nextId + 1, asid, base, bits, regen, pte }
    some (k, s.nextId + 1,
      { s with nextId := s.nextId + 1 }.onDie die fun d => { d with misses := d.misses.insert k m })
  else none

/-- The page of a record that the device writes: what the L2 TLB holds, else a walk with its fill (R105, R107); none where
the address has no writable page (log entry 13). -/
def State.recordPage (s : State) (q : Requester) (va : Nat) : Option Nat × State :=
  match (findLeaf (s.die q.die).l2tlb q.asid va).filter fun l => l.w && l.dt with
  | some l => (some (l.addr va), s)
  | none =>
    match s.walk q.asid q.root va with
    | .leaf l _ =>
      if l.w then (some (l.addr va), (s.touchLeaf l.pte true).fillTlb { q with core := none } va { l with dt := true })
      else (none, s)
    | _ => (none, s)

/-- A regeneration record is written (R111), each of its pages translated once. -/
def State.writeRecord (s : State) (q : Requester) (va : Nat) (bytes : List Byte) : State :=
  let addrs := bytes.mapIdx fun i b => (va + i, b)
  (distinct (addrs.map fun p => p.1 / 4096)).foldl (fun s g =>
    match s.recordPage q (g * 4096) with
    | (none, s) => s
    | (some pa, s) =>
      let mine := (addrs.filter fun p => p.1 / 4096 == g).map fun p => (pa + p.1 % 4096, p.2)
      (s.writeOut mine).2) s

/-- The page of a regeneration entry is missed (R110, R111): a disabled table entry is 0x0104, its reserved bits are not
looked at (log entry 60); else miss m is taken, the 16-byte record is written at RBASE + 16 × m, and the card is
submitted. -/
def State.regenerate (s : State) (q : Requester) (bits base pte entry : Nat) : Translated × State :=
  let t := s.tableNat (q.regt + 8 * slice entry 56 8) 8
  if !t.testBit 0 then (.error 0x0104 base 0, s)
  else
    let card := slice t 8 44 * 256
    match s.takeMiss q.die q.asid base bits pte true with
    | none => (.full q.die, s)
    | some (m, serial, s) =>
      let record := s.tableNat (card + 8) 8 + 16 * m
      let s := s.writeRecord q record (bytesOfNat 8 base ++ bytesOfNat 8 pte)
      let e : Taken :=
        { card := BitVec.ofNat 64 card, order := serial - 1, asid := q.asid, priv := false, phys := true,
          regen := some (q.die, serial), task := m }
      (.miss q.die serial, { s with taken := s.taken ++ [e] })

/-- A fresh walk, with the updates of R105, the fills of R107, or the fault of R404 to R407. -/
def State.walkAnew (s : State) (q : Requester) (va : Nat) (acc : Access) : Translated × State :=
  let fault (kind level bits pte : Nat) : Translated × State :=
    let base := va / 2 ^ bits * 2 ^ bits
    match s.takeMiss q.die q.asid base bits pte false with
    | none => (.full q.die, s)
    | some (m, serial, s) => (.miss q.die serial, s.recordFault q acc kind level bits base pte m)
  match s.walk q.asid q.root va with
  | .malformed level pte => (.error 0x0105 pte level, s)
  | .absent level bits pte entry =>
    if entry.testBit 7 then s.regenerate q bits (va / 2 ^ bits * 2 ^ bits) pte entry
    else fault 1 level bits pte
  | .leaf l level =>
    if l.permits acc then
      let s := s.touchLeaf l.pte (acc == .write)
      let l := { l with dt := l.dt || acc == .write }
      (.ok (l.addr va) l, s.fillTlb q va l)
    else fault (match acc with | .fetch => 3 | _ => 2) level l.bits l.pte

/-- The translation of one address for one access (R103 to R111, R404 to R409): an outstanding miss that covers it, which
the access joins whatever its kind (R406); the L1 TLB, the L2 TLB, a walk. A cached leaf without the permission, or with DT = 0 for a store, is walked again
(R108). -/
def State.translate (s : State) (q : Requester) (va : Nat) (acc : Access) : Translated × State :=
  let good (l : Leaf) : Bool := l.permits acc && (l.dt || acc != .write)
  match (s.die q.die).missAt q.asid va with
  | some m => (.miss q.die m, s)
  | none =>
    match q.core.bind fun c => findLeaf (s.core c).tlb q.asid va with
    | some l => if good l then (.ok (l.addr va) l, s) else s.walkAnew q va acc
    | none =>
      match findLeaf (s.die q.die).l2tlb q.asid va with
      | some l =>
        if good l then
          (.ok (l.addr va) l, match q.core with
            | some c => s.onCore c fun k => { k with tlb := (l :: k.tlb).take 64 }
            | none => s)
        else s.walkAnew q va acc
      | none => s.walkAnew q va acc

/-- A translation that faults takes an entry of class 2 of its core's buffer pool (R330); without one the access waits, and
nothing has happened. The wait is that of a full table 4 + core. -/
def State.translateIn (s : State) (q : Requester) (va : Nat) (acc : Access) : Translated × State :=
  match s.translate q va acc, q.core with
  | (.miss d m, s'), some c => if s.poolTakes c 2 then (.miss d m, s') else (.full (4 + c), s)
  | r, _ => r

/-- What the translation of several addresses gives: their physical addresses; the misses to park on; or an error. -/
inductive Pages where
  | ok (pas : Tab Nat)
  | park (on : List (Nat × Nat))
  | error (code info0 info1 : Nat) (va : Nat)
  deriving DecidableEq, Repr

/-- Every distinct 4 KiB granule that the addresses touch is translated (R409): a table from granule to the physical
address of its first byte, or every miss that the access took or joined. A full miss table is the miss (die, 0), a full buffer pool (4 + core, 0). -/
def State.translateAll (s : State) (q : Requester) (vas : List Nat) (acc : Access) : Pages × State :=
  let step (r : Pages × State) (g : Nat) : Pages × State :=
    match r.1 with
    | .error .. => r
    | _ =>
      let (t, s) := r.2.translateIn q (g * 4096) acc
      match t, r.1 with
      | .ok pa _, .ok l => (.ok (l.insert g pa), s)
      | .ok _ _, p => (p, s)
      | .miss d m, .park on => (.park (if on.contains (d, m) then on else on ++ [(d, m)]), s)
      | .miss d m, _ => (.park [(d, m)], s)
      | .full d, .park on => (.park (on ++ [(d, 0)]), s)
      | .full d, _ => (.park [(d, 0)], s)
      | .error c a b, _ => (.error c a b (g * 4096), s)
  (distinct (vas.map (· / 4096))).foldl step (.ok [], s)

/-- A virtual address through the granules of `translateAll`. -/
def pageAddr (pages : Tab Nat) (va : Nat) : Nat := pages.getD (va / 4096) 0 + va % 4096

/-- Translations of an ASID are removed (R251): MODE 0 those of one address, MODE 1 all of the ASID, MODE 2 and 3 all. -/
def State.invalidateTlbs (s : State) (asid : BitVec 14) (va mode : Nat) : State :=
  let keep (l : List Leaf) : List Leaf :=
    match mode with
    | 0 => dropLeaf l asid va
    | 1 => l.filter fun x => x.asid != asid
    | _ => []
  { s with
    cores := s.cores.mapVals fun k => { k with tlb := keep k.tlb }
    dies := s.dies.mapVals fun d => { d with l2tlb := keep d.l2tlb } }

/-- The misses of a die for which the test holds are released: what waits on them goes on when it is next asked (R405,
R410, R414). -/
def State.releaseMisses (s : State) (die : Nat) (p : Miss → Bool) : State :=
  s.onDie die fun d => { d with misses := d.misses.dropIf fun _ m => p m }

/-- A miss that an access waits on is still held; serial 0 stands for a full table, or for class 2 of a core's buffer
pool (R330). -/
def State.missHeld (s : State) (p : Nat × Nat) : Bool :=
  if p.2 = 0 then if p.1 < 4 then (s.die p.1).misses.length = 256 else !s.poolTakes (p.1 - 4) 2
  else (s.die p.1).misses.any fun m => m.2.serial == p.2

end Sys2Proof.Machine
end

