-- ==== Sys2Proof/Machine/Paths.lean ====
section
/-! DEFINITION. The paths of global memory: the commit buffer (R121, R122), L1, the remote-data cache and the lookup
cache (R92 to R97), bindings and the lines that releases and acquires act on (R125 to R127, R94). -/
namespace Sys2Proof.Machine

/-! ### Caches -/

/-- The remote-data cache of a core's die may hold the line: it is homed on another die of the device (R101). -/
def remoteLine (core line : Nat) : Bool :=
  match homeDie (line * 128) with
  | some d => d != dieOfCore core
  | none => false

/-- The newest byte of the core's commit buffer (R92, step 2). -/
def committedByte (c : CoreState) (pa : Nat) : Option Byte :=
  firstSome c.commit.reverse fun e => if e.line = pa / 128 then e.bytes.find (pa % 128) else none

/-- The newest byte of a region store buffer (R34). -/
def bufferedByte (rsb : List Buffered) (pa : Nat) : Option Byte :=
  firstSome rsb.reverse fun e => match e with
    | .store line _ _ bytes => if line = pa / 128 then bytes.find (pa % 128) else none
    | .red .. => none

/-- How a load goes through the caches: `skip` leaves out L1 and the remote-data cache (R93 .BY, R123), `fill` fills
them on a miss (R93, CQ = 00). -/
structure LoadPath where
  core : Nat
  skip : Bool
  fill : Bool
  deriving DecidableEq, Repr

/-- One byte that a global load returns (R92): region store buffer, commit buffer, L1, remote-data cache, home. What a
cached line holds changes by the picks `evict` and `refill`, so that every value which R92 allows is some run's, and a
line that is read at once is one moment's (R137, R212). -/
def State.loadByte (s : State) (p : LoadPath) (rsb : List Buffered) (pa : Nat) : Byte :=
  match bufferedByte rsb pa with
  | some b => b
  | none =>
    let c := s.core p.core
    match committedByte c pa with
    | some b => b
    | none =>
      if p.skip then s.home pa
      else match cachedByte c.l1 pa with
        | some b => b
        | none => (cachedByte (s.die (dieOfCore p.core)).rdc pa).getD (s.home pa)

/-- The lines of an L1, of a lookup cache and of a remote-data cache: 128 KiB, 64 KiB, 32 MiB (R17, R19). -/
def l1Lines : Nat := 1024
def lookupLines : Nat := 512
def rdcLines : Nat := 262144

/-- L1 and the remote-data cache filled with a line by a missing load (R92, R93): from the remote-data cache where it
holds the line, else from the home. Peer and host lines go to L1 only (Table 4-4). A full cache evicts (R94). -/
def State.fillLine (s : State) (core line : Nat) : State :=
  if ((s.core core).l1.find line).isSome then s else
    let d := dieOfCore core
    let bytes := ((s.die d).rdc.find line).getD (s.homeBytes (line * 128) 128)
    let s := if remoteLine core line then
        s.onDie d fun x => { x with rdc := (x.rdc.insert line bytes).bound rdcLines line }
      else s
    s.onCore core fun c => { c with l1 := (c.l1.insert line bytes).bound l1Lines line }

/-- The fills that a load of the given bytes makes. -/
def State.fillFor (s : State) (p : LoadPath) (rsb : List Buffered) (pas : List Nat) : State :=
  if p.fill && !p.skip then
    let c := s.core p.core
    let missed := pas.filter fun a => (bufferedByte rsb a).isNone && (committedByte c a).isNone
    (distinct (missed.map (· / 128))).foldl (fun s l => s.fillLine p.core l) s
  else s

/-- L1 and the own die's remote-data cache lose a line (R94, first rule). -/
def State.dropLine (s : State) (core line : Nat) : State :=
  (s.onCore core fun c => { c with l1 := c.l1.remove line }).onDie (dieOfCore core) fun d =>
    { d with rdc := d.rdc.remove line }

/-- A lane's element of `g` bytes comes to LKP from its home (R96): where the lookup cache lacks the line, else by a choice of
each element (log entry 3), or of the whole line where a transaction has written it (R137). A deterministic job makes no
choice. -/
def State.lookupHome (s : State) (core : Nat) (det : Bool) (g l pa : Nat) : Bool :=
  let k := s.core core
  (cachedByte k.lookup pa).isNone || (!det &&
    s.choose (if k.whole.contains (pa / 128) then pa / 128 else 2 ^ 64 * (l + 1) + pa / g) 7)

/-- A byte of an element that LKP reads in a lane (R96): the home, or the lookup cache. -/
def State.lookupByte (s : State) (core : Nat) (det : Bool) (g l pa : Nat) : Byte :=
  if s.lookupHome core det g l pa then s.home pa else (cachedByte (s.core core).lookup pa).getD (s.home pa)

/-- The lookup cache filled with a line from its home (R96). A full one evicts. -/
def State.fillLookup (s : State) (core line : Nat) : State :=
  if ((s.core core).lookup.find line).isSome then s
  else s.onCore core fun c =>
    { c with lookup := (c.lookup.insert line (s.homeBytes (line * 128) 128)).bound lookupLines line
             whole := c.whole.filter (· != line) }

/-- A cache evicts a line (R94, R96, R102). -/
def State.evict (s : State) (c : CacheOf) (line : Nat) : State :=
  match c with
  | .l1 k => s.onCore k fun x => { x with l1 := x.l1.remove line }
  | .lookup k => s.onCore k fun x => { x with lookup := x.lookup.remove line }
  | .rdc d => s.onDie d fun x => { x with rdc := x.rdc.remove line }
  | .l2 d => if homeDie (line * 128) = some d then s.dropCxl fun l => l == line else s

/-- A cache that holds a line holds it as its home does now: an eviction and a later fill, so that a load may find any
value that the line has held since it was last invalidated (R92, R96). An L2 fetches a CXL line (R102). -/
def State.refill (s : State) (c : CacheOf) (line : Nat) : State :=
  let bytes := s.homeBytes (line * 128) 128
  match c with
  | .l1 k => s.onCore k fun x => { x with l1 := x.l1.modify line fun _ => bytes }
  | .lookup k => s.onCore k fun x =>
    { x with lookup := x.lookup.modify line (fun _ => bytes), whole := x.whole.filter (· != line) }
  | .rdc d => s.onDie d fun x => { x with rdc := x.rdc.modify line fun _ => bytes }
  | .l2 d => if isCxl (line * 128) && homeDie (line * 128) == some d then s.fillCxl line else s

/-! ### Atomics towards the agents outside their scope -/

/-- A core is within the scope of an atomic's late write. -/
def LateWrite.within (w : LateWrite) (s : State) (core : Nat) : Bool :=
  w.scope == 5 || (w.scope == 4 && w.group == groupOfCore core) ||
    (w.scope == 3 && (s.cluster w.cluster).blocks.any fun b => (s.block b).core == core)

/-- The late writes for which the test holds are performed towards every agent (R134). -/
def State.landIf (s : State) (p : LateWrite → Bool) : State :=
  if s.lateWrites.isEmpty then s
  else (s.lateWrites.filter p).foldl (fun s w => s.writeHomes (w.bytes.mapIdx fun i b => (w.pa + i, b)))
    { s with lateWrites := s.lateWrites.filter fun w => !p w }

/-- Before a core accesses the home, the late writes land within whose scope it is: towards it the atomics were indivisible. -/
def State.landOn (s : State) (core : Nat) : State := s.landIf fun w => w.within s core

/-- Every late write lands. -/
def State.landAll (s : State) : State := s.landIf fun _ => true

/-! ### The commit buffer -/

/-- The bytes of a committed or buffered line by physical address. -/
def lineBytes (line : Nat) (bytes : Tab Byte) : List (Nat × Byte) := bytes.map fun p => (line * 128 + p.1, p.2)

/-- The job whose write over a down port was lost, and which fails for it (R438), with the lowest address lost. -/
structure Lost where
  job : Nat
  pa  : Nat
  deriving DecidableEq, Repr

/-- What a job's write lost, to be reported: the lowest address. -/
def lostOf (job : Nat) (lost : List Nat) : List Lost := (lost.min?.map fun pa => { job, pa }).toList

/-- Entry `n` of a core's commit buffer reaches its home, after the older entries of its line (R119, R121). The core's
and its die's cached copies of the line go, which a load may have filled from the home since the commit: a load finds its
thread's own store, and what is published to it (R117, R131). -/
def State.drainEntry (s : State) (core n : Nat) : List Lost × State :=
  let s := s.landOn core
  match (s.core core).commit.find? fun e => e.number == n with
  | none => ([], s)
  | some e =>
    let out := (s.core core).commit.filter fun x => x.line == e.line && decide (x.number ≤ n)
    let s := s.onCore core fun c =>
      { c with commit := c.commit.filter fun x => !(x.line == e.line && decide (x.number ≤ n)) }
    out.foldl (fun (r : List Lost × State) x =>
      let (lost, s) := r.2.writeOut (lineBytes x.line x.bytes)
      (r.1 ++ lostOf x.job lost, s)) ([], s.dropLine core e.line)

/-- Every entry of a core's commit buffer for which the test holds reaches its home, in order, each after the older
entries of its line. -/
def State.drainIf (s : State) (core : Nat) (p : Committed → Bool) : List Lost × State :=
  ((s.core core).commit.filter p).foldl (fun (r : List Lost × State) e =>
    let (l, s) := r.2.drainEntry core e.number
    (r.1 ++ l, s)) ([], s)

/-- The core's older stores to a line reach their home before an access that is performed there (R117, R119). -/
def State.drainLine (s : State) (core line : Nat) : List Lost × State := s.drainIf core fun e => e.line == line

/-! ### Bindings -/

/-- An object named in the program is the one that a binding names; a part that a binding leaves open fits any. -/
def Obj.matches (b o : Obj) : Bool :=
  b.kind == o.kind && b.addr == o.addr && (b.cluster.isNone || b.cluster == o.cluster) &&
    (b.block.isNone || b.block == o.block)

/-- A binding's object is one of a cluster: a barrier, an arrival ring, a word in a scratchpad. -/
def Binding.isLocal (b : Binding) : Bool :=
  b.obj.kind == 1 || b.obj.kind == 2 || (b.obj.kind == 0 && decide (blockBase ≤ b.obj.addr))

/-- What a card's binding names in a cluster of `n` blocks (R308): the cluster's own object and region, and those of each
block where the entry names a block-window address or a barrier with CL = 0. -/
def Binding.opened (b : Binding) (cl n : Nat) : List Binding :=
  if !b.isLocal && !b.scratch then [b]
  else distinct ((List.range n).map fun i =>
    let o := if b.isLocal then { b.obj with cluster := some cl, block := some (b.obj.block.getD i) } else b.obj
    if b.scratch then { b with obj := o, cluster := some cl, block := some (b.block.getD i) } else { b with obj := o })

/-- The bindings that some of a job's changes make, as a cluster sees them (R240, R308): the card's, as though its task
had bound them, and what those changes made of them. -/
def Job.bound (j : Job) (cl : Nat) (p : BindChange → Bool) : List Binding :=
  j.changes.foldl (fun l x =>
    if x.id = 0 then l ++ (x.binding.opened cl j.card.blocks).filter fun b => !l.contains b
    else if !p x then l
    else if x.add then (if l.contains x.binding then l else l ++ [x.binding])
    else l.filter (· != x.binding)) []

/-- Some BIND or UNBIND of a job's threads has changed its bindings. -/
def Job.rebound (j : Job) : Bool := j.changes.any fun x => x.id != 0

/-- What agent `w` did after its first `ph` releases happens before an access of agent `t`: `t` has acquired a later release
of `w`. -/
def Order.before (d : Order) (w ph t : Nat) : Bool := decide (ph < (d.known.getD t []).getD w 0)

/-- A change of bindings is in force for thread `a`'s releases and acquires (R126): it made the change, or the change happens
before them. -/
def Job.changeHolds (j : Job) (a : Nat) (x : BindChange) : Bool :=
  x.made.any fun p => p.1 == a || j.hb.before p.1 p.2 a

/-- The bindings in force for a thread of a cluster (R126). -/
def Job.inForce (j : Job) (cl a : Nat) : List Binding := j.bound cl (j.changeHolds a)

/-- The binding table as a cluster sees it, every change included (R125). -/
def Job.table (j : Job) (cl : Nat) : List Binding := j.bound cl fun _ => true

/-- What several threads of one word have in force, each a list of bindings. -/
abbrev Views := List (List Binding)

/-- The regions bound to objects in some view (R125). -/
def Views.regions (v : Views) (objs : List Obj) : List Binding :=
  v.flatten.filter fun b => objs.any fun o => b.obj.matches o

/-- One of the objects carries no binding in some view: its pairs cover all memory (R126). Every arrival ring object is
bound to its slots (R125). -/
def Views.unbound (v : Views) (objs : List Obj) : Bool :=
  objs.any fun o => o.kind != 2 && v.any fun l => !(l.any fun b => b.obj.matches o)

/-- A region in global memory meets the 128-byte line at a virtual address. -/
def Binding.meets (b : Binding) (va : Nat) : Bool := !b.scratch && b.base < va + 128 && va < b.base + b.len

/-- The objects whose bound regions a line overlaps: its tags at commit (R127). -/
def Job.tags (j : Job) (cl va : Nat) : List Obj := ((j.table cl).filter fun b => b.meets va).map fun b => b.obj

/-- A committed store lies in what a release on the objects covers (R127): it is tagged with one of them, or overlaps a
region bound to one of them now; every store where one of them has no binding. -/
def Committed.covered (e : Committed) (job : Nat) (v : Views) (objs : List Obj) : Bool :=
  v.unbound objs || (objs.any fun o => e.tags.any fun t => t.matches o) ||
    (e.job == job && (v.regions objs).any fun b => b.meets e.va)

/-- The committed stores that a release of a wave on the objects waits for (R127). Of the stores that other waves of the
core made and no release has published there, the release of a bound object waits for those that the part chooses: R127
waits for all of them, and Core-mate (Table 5-4) lets one be left behind (log entry 3). -/
def State.coveredBy (s : State) (core job wave : Nat) (v : Views) (objs : List Obj) : List Nat :=
  ((s.core core).commit.filter fun e => e.covered job v objs &&
    (v.unbound objs || e.wave == wave || e.shared || s.choose e.number 3)).map fun e => e.number

/-- A release at wave or block scope publishes on its core the stores that it covers: those of its wave, and those
published to it (R131). -/
def State.share (s : State) (core job wave : Nat) (v : Views) (objs : List Obj) : State :=
  if (s.core core).commit.isEmpty then s
  else s.onCore core fun c => { c with commit := c.commit.map fun e =>
    if e.wave == wave && Committed.covered e job v objs then { e with shared := true } else e }

/-- The physical lines of the regions bound to objects: `reach` gives the physical address of a 4 KiB granule. The
answer is the test whether a physical line belongs to them. -/
def boundLine (regions : List Binding) (reach : Nat → Option Nat) (line : Nat) : Bool :=
  regions.any fun b => (List.range (b.len / 4096 + 2)).any fun i =>
    let v := (b.base / 4096 + i) * 4096
    match reach v with
    | some a => a / 4096 == line / 32 && b.meets (v + line * 128 % 4096)
    | none => false

/-- An acquire invalidates lines (R94): of the regions bound to the objects, or all lines where one of them has no
binding; in the acquirer's L1, and at device and system scope in its die's remote-data cache. At system scope the L2
copies of CXL lines go too (R102), dirty ones by being written back (log entry 14). -/
def State.acquireAt (s : State) (core scope : Nat) (v : Views) (objs : List Obj) (reach : Nat → Option Nat) : State :=
  let hit (line : Nat) : Bool := v.unbound objs || boundLine (v.regions objs) reach line
  let s := s.onCore core fun c => { c with l1 := c.l1.filter fun p => !hit p.1 }
  let s := if scope ≥ 5 then s.onDie (dieOfCore core) fun d => { d with rdc := d.rdc.filter fun p => !hit p.1 } else s
  if scope = 6 then s.dropCxl hit else s

/-- A release at system scope writes back the dirty L2 lines of CXL memory in its bound regions, or those of its die where
an object has no binding (R102). -/
def State.releaseCxl (s : State) (die : Nat) (v : Views) (objs : List Obj) (reach : Nat → Option Nat) : State :=
  if v.unbound objs then s.writeBack fun pa => homeDie pa == some die
  else s.writeBack fun pa => boundLine (v.regions objs) reach (pa / 128)

end Sys2Proof.Machine
end

