-- ==== Sys2Proof/Machine/Det.lean ====
section
/-! DEFINITION. Which releases happen before what (R129, R130), among the tasks of a deterministic job for its checks (R394,
R395), and among a job's threads for its bindings (R126); the checks: write tags and read marks. -/
namespace Sys2Proof.Machine

/-- Two records of acquired releases joined: per task the greater count. -/
def joinKnown (a b : Tab Nat) : Tab Nat := b.foldl (fun t p => t.put p.1 (max (t.getD p.1 0) p.2) 0) a

/-- What agent `t` knows: the releases it has acquired, its own included. -/
def Order.knows (d : Order) (t : Nat) : Tab Nat :=
  (d.known.getD t []).put t (d.releases.getD t 0) 0

/-- A thread as an agent of R129: its cluster and sr.tid. -/
def agentOf (cl tid : Nat) : Nat := cl * 2 ^ 64 + tid

/-- A table kept for each reach of a scope has this key: the agent or the code of a word, and the reach. -/
def reachKey (n reach : Nat) : Nat := n * 2 ^ 64 + reach

/-- Counts joined into a table at a key. -/
def joinAt (t : Tab (Tab Nat)) (k : Nat) (x : Tab Nat) : Tab (Tab Nat) := t.put k (joinKnown (t.getD k []) x) []

/-- What a release published stands at words. -/
def Order.publish (d : Order) (x : Tab Nat) (keys words : List Nat) : Order :=
  words.foldl (fun d w => keys.foldl (fun d k =>
    { d with atWord := joinAt d.atWord (reachKey w k) x, atLast := joinAt d.atLast (reachKey w k) x }) d) d

/-- A release by agent `t` at the given reaches, on words: it is counted and published there (R129). -/
def Order.release (d : Order) (t : Nat) (keys words : List Nat) : Order :=
  let d := { d with releases := d.releases.put t (d.releases.getD t 0 + 1) 0 }
  let x := d.knows t
  (keys.foldl (fun (d : Order) k => { d with lastRel := d.lastRel.put (reachKey t k) x [] }) d).publish x keys words

/-- What agent `t` knows joined with more. -/
def Order.learn (d : Order) (t : Nat) (x : Tab Nat) : Order := { d with known := joinAt d.known t x }

/-- What stands at words for the given reaches. -/
def Order.standing (d : Order) (keys words : List Nat) : Tab Nat :=
  words.foldl (fun x w => keys.foldl (fun x k => joinKnown x (d.atWord.getD (reachKey w k) [])) x) []

/-- An acquire by agent `t` on words. -/
def Order.acquire (d : Order) (t : Nat) (keys words : List Nat) : Order := d.learn t (d.standing keys words)

/-- Nothing stands at words any longer. -/
def Order.clear (d : Order) (words : List Nat) : Order :=
  let keep (t : Tab (Tab Nat)) : Tab (Tab Nat) := t.filter fun p => !words.contains (p.1 / 2 ^ 64)
  { d with atWord := keep d.atWord, atLast := keep d.atLast }

/-- Agents, each with its reaches, write words: whoever reads the value obtains what the agent's latest FENCE published, and
by a FENCE of its own what the agent's latest release published (R129, Fence). A RED or a release store adds to what the word
carries (`adds`): earlier releases of the word go on synchronising with whoever reads its value (R129, Word); any other store
replaces it. -/
def Order.wrote (d : Order) (who : List (Nat × List Nat)) (adds : Bool) (words : List Nat) : Order :=
  let d := if adds then d else d.clear words
  words.foldl (fun d w => who.foldl (fun d p => p.2.foldl (fun d k =>
    { d with
      atWord := joinAt d.atWord (reachKey w k) (d.lastFence.getD (reachKey p.1 k) [])
      atLast := joinAt d.atLast (reachKey w k) (d.lastRel.getD (reachKey p.1 k) []) }) d) d) d

/-- Agent `t` reads words: a later FENCE of it acquires what their writers' releases published (R129, Fence). -/
def Order.hasRead (d : Order) (t : Nat) (keys words : List Nat) : Order :=
  words.foldl (fun d w => keys.foldl (fun d k =>
    { d with toFence := joinAt d.toFence (reachKey t k) (d.atLast.getD (reachKey w k) []) }) d) d

/-- A FENCE of agent `t` (R133, R129): a release, then an acquire of what its loads have read and of the FENCEs before
it. -/
def Order.fence (d : Order) (t : Nat) (keys : List Nat) : Order :=
  let d := d.release t keys []
  let d := keys.foldl (fun d k =>
    (d.learn t (d.toFence.getD (reachKey t k) [])).learn t (d.fences.getD k [])) d
  let x := d.knows t
  keys.foldl (fun d k =>
    { d with lastFence := d.lastFence.put (reachKey t k) x [], fences := joinAt d.fences k x }) d

/-! ### Codes of words

A word of memory, and what stands for one in R129: a word of a block's scratchpad, a phase of a barrier, an entry of a queue,
a slot of a ring that is filled, and one that is freed, and a sift's completion (R294). -/

def wordCode (word : Nat) : Nat := 8 * word
def localCode (block off : Nat) : Nat := 8 * (block * 2 ^ 32 + off / 8) + 1
def phaseCode (block k ph : Nat) : Nat := 8 * ((block * 2 ^ 10 + k) * 2 ^ 32 + ph) + 2
def entryCode (qcb i : Nat) : Nat := 8 * (qcb * 2 ^ 64 + i) + 3
def slotCode (block off n : Nat) : Nat := 8 * ((block * 2 ^ 32 + off) * 2 ^ 32 + n) + 4
def freeCode (block off n : Nat) : Nat := 8 * ((block * 2 ^ 32 + off) * 2 ^ 32 + n) + 5
def siftCode (cluster : Nat) : Nat := 8 * cluster + 6

/-! ### Tasks of a deterministic job

The reach of a scope among tasks, which are clusters (R129, R132): none below group scope, the core group at group
scope, every task from device scope on. Reach 0 is the device, reach g + 1 core group g. -/

/-- The reaches at which a release of a scope publishes, or an acquire obtains, in a core group. -/
def scopeKeys (scope group : Nat) : List Nat :=
  if scope < 4 then [] else if scope = 4 then [group + 1] else [0, group + 1]

/-- Every reach of tasks. -/
def allKeys : List Nat := List.range 21

def Det.knows (d : Det) (t : Nat) : Tab Nat := d.order.knows t

def Det.release (d : Det) (t : Nat) (keys words : List Nat) : Det := { d with order := d.order.release t keys words }

def Det.acquire (d : Det) (t : Nat) (keys words : List Nat) : Det := { d with order := d.order.acquire t keys words }

def Det.wrote (d : Det) (t : Nat) (adds : Bool) (words : List Nat) : Det :=
  { d with order := d.order.wrote [(t, allKeys)] adds words }

def Det.hasRead (d : Det) (t : Nat) (words : List Nat) : Det := { d with order := d.order.hasRead t allKeys words }

def Det.fence (d : Det) (t : Nat) (keys : List Nat) : Det := { d with order := d.order.fence t keys }

/-- An engine's RED on a word hands on what was published to its program (R142, R144). -/
def Det.engineRed (d : Det) (x : Tab Nat) (word : Nat) : Det := { d with order := d.order.publish x [0] [wordCode word] }

/-- The write tagged (w, ph) happens before an access of task `t` (R394). -/
def Det.before (d : Det) (w ph t : Nat) : Bool := d.order.before w ph t

/-- A read of a sector by task `t` (Table 18-6): the conflict's kind and other task, or the sector marked. -/
def Det.read (d : Det) (t sector : Nat) : Except (Nat × Nat) Det :=
  let mark : Det := { d with readers := d.readers.insert sector (max t (d.readers.getD sector 0)) }
  match d.tags.find sector with
  | some (w, ph) =>
    if w > t then .error (0, w)
    else if w < t ∧ !d.before w ph t then .error (1, w)
    else .ok mark
  | none => .ok mark

/-- A write of a sector by task `t` (Table 18-6). -/
def Det.write (d : Det) (t sector : Nat) : Except (Nat × Nat) Det :=
  let mark : Det := { d with tags := d.tags.insert sector (t, d.order.releases.getD t 0) }
  let reader (k : Except (Nat × Nat) Det) : Except (Nat × Nat) Det :=
    match d.readers.find sector with
    | some r => if r > t then .error (3, r) else k
    | none => k
  match d.tags.find sector with
  | some (w, ph) => if w ≠ t ∧ (w > t ∨ !d.before w ph t) then .error (2, w) else reader (.ok mark)
  | none => reader (.ok mark)

/-- Sectors that the checks cover (R395): those of device memory, named by a page of neither HOME 5 nor HOME 6. -/
def checkedSector (pa : Nat) : Bool := (homeDie pa).isSome

/-- The checks of a list of accesses, each a physical address with the virtual address that names it: the first
conflict (virtual address of the sector, kind, other task), or the marks made. -/
def Det.checkAll (d : Det) (t : Nat) (write : Bool) (l : List (Nat × Nat)) :
    Except (Nat × Nat × Nat) Det :=
  l.foldl (fun r p =>
    match r with
    | .error e => .error e
    | .ok d =>
      if checkedSector p.1 then
        match if write then d.write t (p.1 / 32) else d.read t (p.1 / 32) with
        | .ok d => .ok d
        | .error (k, o) => .error (p.2 / 32 * 32, k, o)
      else .ok d) (.ok d)

end Sys2Proof.Machine
end

