-- ==== Sys2Proof/Machine/Records.lean ====
section
/-! DEFINITION. Queues in memory (R229 to R232), error, job and host records (R317, R335, R378, R433, R434), and the
failure of a job (R377). -/
namespace Sys2Proof.Machine

/-! ### Queue control blocks -/

/-- A queue control block's fields (Table 8-7). -/
structure Qcb where
  base  : Nat
  lgsz  : Nat
  lgcap : Nat
  head  : Nat
  tail  : Nat
  deriving DecidableEq, Repr

/-- The fields of a well-formed queue control block; `none` where it is malformed (R229). -/
def parseQcb (n : Nat) : Option Qcb :=
  let q : Qcb := { base := slice n 0 64, lgsz := slice n 64 8, lgcap := slice n 72 8, head := slice n 128 64,
                   tail := slice n 192 64 }
  if slice n 320 192 = 0 ∧ slice n 80 48 = 0 ∧ 3 ≤ q.lgsz ∧ q.lgsz ≤ 8 ∧ q.lgcap ≤ 24 ∧ q.base % 2 ^ q.lgsz = 0 ∧
      (q.tail + 2 ^ 64 - q.head) % 2 ^ 64 ≤ 2 ^ q.lgcap then some q
  else none

/-- Entries enqueued and not dequeued. -/
def Qcb.count (q : Qcb) : Nat := (q.tail + 2 ^ 64 - q.head) % 2 ^ 64

/-- The address of entry `k` (R229). -/
def Qcb.entry (q : Qcb) (k : Nat) : Nat := (q.base + k % 2 ^ q.lgcap * 2 ^ q.lgsz) % 2 ^ 64

/-- How addresses of a queue reach memory: translated for a requester, or physical (R335). -/
inductive Space where
  | virtual (q : Requester)
  | physical
  deriving DecidableEq, Repr

/-- Physical addresses for a queue's addresses. A physical queue must lie in the host range (R335). -/
def State.reach (s : State) (sp : Space) (vas : List Nat) (acc : Access) : Pages × State :=
  match sp with
  | .virtual q => s.translateAll q vas acc
  | .physical =>
    if vas.all fun a => regionOf a == some .host then
      (.ok ((distinct (vas.map (· / 4096))).foldl (fun t g => t.insert g (g * 4096)) []), s)
    else (.error 0x0107 0 0 0, s)

/-- What an operation on a queue answers. -/
inductive Queued where
  /-- performed for this many entries; of a dequeue their values, of an enqueue the addresses whose bytes were lost over a
  port that is down (R438) -/
  | done (k : Nat) (entries : List Nat)
  /-- a read over a port that is down, of a control block or an entry: poison of this sector and structure (R438) -/
  | poison (sector code : Nat)
  | malformed (bits : Nat)
  | park (on : List (Nat × Nat))
  | error (code info0 info1 : Nat)
  /-- the operation needs registers that the wave does not hold (R230) -/
  | registers (lgsz : Nat)
  deriving DecidableEq, Repr

/-- The queue control block at an address, with its physical address. -/
def State.openQueue (s : State) (sp : Space) (va : Nat) (acc : Access) : Except Queued (Qcb × Nat) × State :=
  if va % 64 ≠ 0 then (.error (.malformed 0), s)
  else match s.reach sp [va] acc with
    | (.park on, s) => (.error (.park on), s)
    | (.error c a b _, s) => (.error (.error c a b), s)
    | (.ok pages, s) =>
      let pa := pageAddr pages va
      let s := s.landAll
      if s.routeDown pa then (.error (.poison (pa / 32 * 32) 6), s)
      else match parseQcb (s.homeNat pa 64) with
      | none => (.error (.malformed (s.homeNat (pa + 8) 8)), s)
      | some q => (.ok (q, pa), s)

/-- The codes of the entries that an operation on a queue in the state concerns (R129): `k` entries from its tail or its head
on. -/
def State.queueCodes (s : State) (sp : Space) (addr k : Nat) (tail : Bool) : List Nat :=
  match s.openQueue sp addr .read with
  | (.ok (q, pa), _) => (List.range k).map fun i => entryCode pa ((if tail then q.tail else q.head) + i)
  | _ => []

/-- Entries that an agent finds in a queue: those of ENQs which nothing has yet ordered before it may be missing at the
end (R138), but for the wave that made them. An ended wave's can be found. -/
def State.found (s : State) (pa : Nat) (q : Qcb) (viewer : Option Nat) : Nat :=
  match s.unseen.find (s.served pa) with
  | none => q.count
  | some u =>
    let live := match s.waves.find u.wave with | some w => !w.ended | none => false
    if live && viewer != some u.wave then q.count - u.count else q.count

/-- ENQ at the home slice (R231). `entries` gives the entries for an entry size, or refuses it. WAIT is the device's, and
the waiters are those of the waves' own state: its bytes are never written (log entry 76). -/
def State.enqueue (s : State) (sp : Space) (va : Nat) (entries : Nat → Option (List Nat)) : Queued × State :=
  match s.openQueue sp va .write with
  | (.error e, s) => (e, s)
  | (.ok (q, pa), s) =>
    match entries q.lgsz with
    | none => (.registers q.lgsz, s)
    | some es =>
      let k := min es.length (2 ^ q.lgcap - q.count)
      let addrs := (List.range k).map fun i => q.entry (q.tail + i)
      match s.reach sp addrs .write with
      | (.park on, s) => (.park on, s)
      | (.error c a b _, s) => (.error c a b, s)
      | (.ok pages, s) =>
        let (lost, s) := s.writeOut ((addrs.zip es).flatMap fun p =>
          (bytesOfNat (2 ^ q.lgsz) p.2).mapIdx fun i b => (pageAddr pages p.1 + i, b))
        -- entries that stand before the new ones can be found with them
        (.done k lost, if k = 0 then s
          else { s with unseen := s.unseen.remove (s.served pa) }.writeNat (pa + 24) 8 ((q.tail + k) % 2 ^ 64))

/-- DEQ at the home slice (R232) of at most `n` entries; `admits` is asked for the entry size, `viewer` is the wave that
dequeues. -/
def State.dequeue (s : State) (sp : Space) (va n : Nat) (admits : Nat → Bool) (viewer : Option Nat := none) :
    Queued × State :=
  match s.openQueue sp va .write with
  | (.error e, s) => (e, s)
  | (.ok (q, pa), s) =>
    if !admits q.lgsz then (.registers q.lgsz, s)
    else
      let k := min n (s.found pa q viewer)
      let addrs := (List.range k).map fun i => q.entry (q.head + i)
      match s.reach sp addrs .read with
      | (.park on, s) => (.park on, s)
      | (.error c a b _, s) => (.error c a b, s)
      | (.ok pages, s) =>
        match addrs.find? fun a => s.routeDown (pageAddr pages a) with
        | some a => (.poison (pageAddr pages a / 32 * 32) 6, s)
        | none =>
          let es := addrs.map fun a => s.homeNat (pageAddr pages a) (2 ^ q.lgsz)
          (.done k es, if k = 0 then s else s.writeNat (pa + 16) 8 ((q.head + k) % 2 ^ 64))

/-! ### Records -/

/-- The scheduler as a requester in an ASID (R449). -/
def State.scheduler (s : State) (asid : BitVec 14) (die : Nat := 0) : Option Requester :=
  (s.descriptor asid).map fun r => { core := none, die, engine := true, asid, root := r.1, regt := r.2 }

/-- A committed store (core, number) that has not reached its home. -/
def State.storeHeld (s : State) (p : Nat × Nat) : Bool := (s.core p.1).commit.any fun e => e.number == p.2

/-- The committed stores of a job that have not reached their homes. -/
def State.storesOf (s : State) (j : Nat) : List (Nat × Nat) :=
  s.cores.flatMap fun k => (k.2.commit.filter fun e => e.job == j).map fun e => (k.1, e.number)

/-- A held record is enqueued once the stores that it follows have reached their homes (R378), earlier records for its queue have gone and the queue has
room (R317, R449). A
record whose queue is malformed, of another entry size, or in an address space that is not usable is not written
(R433). -/
def State.retryRecord (s : State) (k : Nat) : State :=
  match s.held[k]? with
  | none => s
  | some h =>
    let earlier := (s.held.take k).any fun x => x.asid == h.asid && x.queue == h.queue
    let gone (s : State) : State := { s with held := s.held.take k ++ s.held.drop (k + 1) }
    if earlier || h.after.any s.storeHeld then s
    else match s.scheduler h.asid h.die with
      | none => gone s
      | some q =>
        match s.enqueue (.virtual q) h.queue.toNat fun lgsz => if lgsz = h.size then some [h.bits] else none with
        | (.done 0 _, s) => s
        | (.done _ _, s) => gone s
        | (.park _, s) => s
        | (_, s) => gone s

/-- The records that wait in the scheduler for an entry of class 3 of core 0's buffer pool take one as they can, in order
(R317, R330). -/
def State.poolRecords (s : State) : State :=
  (List.range s.held.length).foldl (fun s k =>
    match s.held[k]? with
    | some h =>
      if h.pooled || (s.held.take k).any (fun x => !x.pooled) || !s.poolTakes 0 3 then s
      else { s with held := s.held.set k { h with pooled := true } }
    | none => s) s

/-- A record arises for a queue: it is enqueued, or is held behind the records before it (R317), with an entry of the buffer
pool once class 3 of core 0 takes one; until then the scheduler stalls (R330, `State.recordsStall`). -/
def State.postRecord (s : State) (asid : BitVec 14) (queue : Word) (size bits : Nat) (die : Nat := 0)
    (after : List (Nat × Nat) := []) : State :=
  let h : Held := { die, asid, queue, size, bits, after, pooled := false }
  let s := { s with held := s.held ++ [h] }
  (s.retryRecord (s.held.length - 1)).poolRecords

/-- The host record queue, where it is usable (R335): well formed, of LGSZ 5, with its block and its entries in the host
range. -/
def State.hostQueue (s : State) : Option Qcb :=
  if s.hrq = 0 then none
  else match (s.openQueue .physical s.hrq.toNat .read).1 with
    | .ok (q, _) =>
      if q.lgsz = 5 ∧ regionOf q.base = some .host ∧ regionOf (q.base + 32 * 2 ^ q.lgcap - 1) = some .host then some q
      else none
    | .error _ => none

/-- The oldest waiting host record is enqueued (R335): discarded while HRQ is 0 or names an unusable queue, kept while
the queue is full; vector 1 when the queue becomes non-empty. A record that waits when HRQ is written goes by the new HRQ:
discarded, or delivered to the new queue (DESIGN CHOICE, log entry 83). -/
def State.deliverHost (s : State) : State :=
  match s.hostHeld with
  | [] => s
  | r :: rest =>
    let gone (s : State) : State := { s with hostHeld := rest }
    match s.hostQueue with
    | none => gone s
    | some q =>
      if 2 ^ q.lgcap ≤ q.count then s
      else
        let s' := gone (s.enqueue .physical s.hrq.toNat fun _ => some [r.toNat]).2
        if q.count = 0 then s'.signal 1 else s'

/-- Every waiting host record that can go is delivered. -/
def State.deliverHosts (s : State) : State := s.hostHeld.foldl (fun s _ => s.deliverHost) s

/-- A job record (Table 12-7) is posted to a queue of the job, and its copy of Table 21-3 (kind 2) to the host for
kinds 3 to 8 (R433). -/
def State.jobRecord (s : State) (asid : BitVec 14) (card queue : Word) (kind info code : Nat)
    (after : List (Nat × Nat) := []) : State :=
  let s := s.postRecord asid queue 5
    (card.toNat + kind * 2 ^ 64 + asid.toNat * 2 ^ 72 + s.time.toNat * 2 ^ 128 + info * 2 ^ 192) 0 after
  if kind ≥ 3 then
    s.hostRecord (2 + kind * 2 ^ 8 + asid.toNat * 2 ^ 16 + code * 2 ^ 32 + card.toNat * 2 ^ 64 +
      s.time.toNat * 2 ^ 128 + info * 2 ^ 192)
  else s

/-- The fields of an error record that its raiser names (Table 18-1). -/
structure ErrorRecord where
  code   : Nat
  source : Nat
  core   : Nat
  wid    : Nat := 0
  bid    : Nat := 0
  lanes  : Nat := 0
  pc     : Nat
  task   : Nat
  info0  : Nat
  info1  : Nat
  deriving DecidableEq, Repr

/-- An error record is posted to an error queue (R378), behind the stores that its job committed before the error. -/
def State.errorRecord (s : State) (asid : BitVec 14) (card queue : Word) (e : ErrorRecord)
    (after : List (Nat × Nat) := []) : State :=
  s.postRecord asid queue 6
    (e.code + e.source * 2 ^ 16 + e.core * 2 ^ 24 + e.wid * 2 ^ 32 + e.bid * 2 ^ 38 + asid.toNat * 2 ^ 48 +
      e.lanes * 2 ^ 64 + e.pc * 2 ^ 128 + e.task * 2 ^ 192 + e.info0 % 2 ^ 64 * 2 ^ 256 + e.info1 % 2 ^ 64 * 2 ^ 320 +
      card.toNat * 2 ^ 384 + s.time.toNat * 2 ^ 448) 0 after

/-! ### Dropping clusters and failing jobs -/

/-- A thread goes back to its region start (R39): mt is restored (log entry 59); its registers, its predicates and the
scratchpad keep what the discarded execution left, so that a region that breaks the contract of R37 computes from those
values when it runs again, and nothing detects it. An open transaction ends with cause 7 and restarts at its TBEGIN (R44), which is the region start. -/
def Thread.drop (t : Thread) : Thread :=
  let t := { t with pc := t.startPc, mt := t.startMt, handler := t.startH }
  if t.txn.isSome then
    let aborts := min 255 (slice t.tstat.toNat 16 8 + 1)
    { t with txn := none, tstat := BitVec.ofNat 64 (aborts * 2 ^ 16 + 7) }
  else t

/-- The waiting phases of R38, in which a restarted wave goes on waiting. -/
def Park.waiting : Park → Bool
  | .barrier _ => true
  | .arriver .. => true
  | .counter .. => true
  | .ring .. => true
  | .latch .. => true
  | .grow _ => true
  | .exit .. => true
  | _ => false

/-- A wave waits in a phase in which a restart leaves it (R38). TLBINV is no boundary: with stores buffered before it the
wave restarts at its region start, or those stores would be lost, and removes the translations again (log entry 28). -/
def Wave.stays (w : Wave) : Bool :=
  match w.park with
  | some (.inval ..) => w.rsb.isEmpty
  | some p => p.waiting
  | none => false

/-- A wave is dropped to the start of its region (R39): buffered stores and outstanding results are discarded, uniform
registers keep their values (R37), the emulation registers get back theirs (R397); a waiting phase goes on (R38), but for
threads with an open transaction, which restart at their TBEGIN (R44). -/
def Wave.drop (w : Wave) : Wave :=
  let keep := w.stays
  { w with
    threads := w.threads.map fun t => if t.live && (!keep || t.txn.isSome) then t.drop else t
    emu := if keep then w.emu else w.startEmu
    rsb := [], results := [], settle := false, drained := false
    park := if keep then w.park else none }

/-- The region of a wave starts here (R38): each thread's restart point is where it stands; that of a thread with an
open transaction stays at its TBEGIN (R44). The emulation registers are kept as they stand (R397). -/
def Wave.mark (w : Wave) : Wave :=
  { w with startEmu := w.emu, threads := w.threads.map fun t =>
      if t.txn.isSome then t else { t with startPc := t.pc, startMt := t.mt, startH := t.handler } }

/-- The running clusters of a job, by number. -/
def State.clustersOf (s : State) (j : Nat) : List Nat :=
  (s.clusters.filter fun p => p.2.job == j && p.2.life != .ended && p.2.life != .dropped).map Prod.fst

/-- A cluster is dropped and never resumed (R336, R377): its waves go; engine operations already accepted complete
(R42). -/
def State.dropCluster (s : State) (c : Nat) : State :=
  let s := s.onCluster c fun x => { x with life := .dropped, sift := none, trays := false, prologue := false }
  { s with waves := s.waves.dropIf fun _ w => w.cluster == c }

/-- A job enters a final state: its running clusters are dropped, its prologues that wait for a slot are not started, and
its stream programs stop after their current command (R336). -/
def State.endJob (s : State) (j : Nat) (phase : Phase) (code : Nat) : State :=
  let s := (s.clustersOf j).foldl State.dropCluster s
  let s := { s with clusters := s.clusters.mapVals fun c => if c.job = j then { c with prologue := false } else c }
  let stop (p : Program) : Program := if p.busy && p.job == j then { p with halting := true } else p
  let s := { s with engines := s.engines.mapVals fun t => t.mapVals stop }
  let s := { s with cores := s.cores.mapVals fun k => { k with queue := k.queue.filter fun c => c.job != j } }
  s.onJob j fun x => { x with phase, code }

/-- The states in which an accepted job has not completed. -/
def Phase.unfinished : Phase → Bool
  | .completed | .failed | .cancelled => false
  | _ => true

/-- The waves parked on a miss, those among them whose CWAIT met it in a later read. -/
def State.wavesOnMiss (s : State) (die serial : Nat) : List Nat :=
  (s.waves.filter fun p => match p.2.park with
    | some (.miss on) => on.contains (die, serial)
    | some (.counter _ _ _ _ _ on) => on.contains (die, serial)
    | _ => false).map Prod.fst

/-- A job fails (R377): one error record to EQ, unless it has failed already; the failed record to SQ with its copy to
the host. -/
def State.failJob (s : State) (j : Nat) (e : ErrorRecord) : State :=
  let x := s.job j
  if !x.phase.unfinished then s
  else
    let after := s.storesOf j
    let s := s.errorRecord x.asid x.card.addr x.card.eq e after
    let s := s.endJob j .failed e.code
    s.jobRecord x.asid x.card.addr x.card.sq 3 e.code e.code after

/-- Errors of a job that arise at one moment (R377): a record for each, and the job fails. -/
def State.failTogether (s : State) (j : Nat) (l : List ErrorRecord) : State :=
  let x := s.job j
  match l.getLast? with
  | none => s
  | some e =>
    if !x.phase.unfinished then s
    else (l.dropLast.foldl (fun s e => s.errorRecord x.asid x.card.addr x.card.eq e (s.storesOf j)) s).failJob j e

/-- A write of a job over a fabric port that is down was lost (R438). -/
def State.reportLost (s : State) (l : List Lost) : State :=
  l.foldl (fun s x => s.failJob x.job { code := 0x0106, source := 4, core := 0, pc := 0, task := 0, info0 := x.pa,
                                        info1 := 6 }) s

/-- A failed or cancelled regeneration job (R418): its entry stays, the miss is released, and each wave parked on it
traps with 0x0104 at its region start, one record per job. -/
def State.failRegen (s : State) (card : Word) (die serial : Nat) : State :=
  let ws := s.wavesOnMiss die serial
  let va := ((s.die die).misses.vals.find? fun m => m.serial == serial).map (fun m => m.base)
  let records := ws.map fun w =>
    let x := s.wave w
    let t := x.thread ((x.liveLanes).headD 0)
    let e : ErrorRecord :=
      { code := 0x0104, source := 0, core := s.coreOf x, wid := x.wid, bid := x.host, lanes := maskOf x.lanes,
        pc := t.startPc.toNat, task := (s.cluster x.cluster).task, info0 := va.getD 0, info1 := card.toNat }
    ((s.cluster x.cluster).job, e)
  records.foldl (fun s p => s.failJob p.1 p.2) (s.releaseMisses die fun m => m.serial == serial)

end Sys2Proof.Machine
end

