-- ==== Sys2Proof/Machine/Ops.lean ====
section
/-! DEFINITION. The shared operations of instruction words: the issue context, guards (R160), register reads and writes
with outstanding results (R164 to R167, R54), commit (R33 to R35, R124, R127), releases and acquires (R127, R133),
traps (R376 to R378), entry to and return from the emulation handler (R380 to R383, R250). -/
namespace Sys2Proof.Machine

/-- What an instruction's meaning answers. -/
abbrev Out := Host.Outcome State Fault Refusal

/-! ### The issue context -/

/-- The word being issued, with its wave, cluster, job and place. -/
structure Ctx where
  w    : Nat
  wave : Wave
  cl   : Nat
  task : Nat
  job  : Nat
  det  : Bool
  card : Card
  core : Nat
  lanes : List Nat
  pc   : Word
  word : Word
  deriving DecidableEq, Repr

/-- The context of an issue. -/
def State.ctxFor (s : State) (i : Issue) : Ctx :=
  let wave := s.wave i.wave
  let c := s.cluster wave.cluster
  let j := s.job c.job
  { w := i.wave, wave, cl := wave.cluster, task := c.task, job := c.job, det := j.card.det, card := j.card,
    core := s.coreOf wave, lanes := i.lanes, pc := i.pc, word := i.word }

/-- The context of the current issue. -/
def State.ctx (s : State) : Option Ctx := s.cur.map s.ctxFor

/-- The requester of a wave's accesses. -/
def State.requester (s : State) (c : Ctx) : Requester :=
  let cl := s.cluster c.cl
  { core := some c.core, die := dieOfCore c.core, engine := false, asid := (s.job c.job).asid, root := cl.root,
    regt := cl.regt }

/-- The number of a wave's home block for a lane (R84), in the model. -/
def State.homeBlock (s : State) (c : Ctx) (l : Nat) : Nat := s.blockOf c.cl (c.wave.thread l).bid

/-! ### Register reads -/

/-- What a read of a cell whose results are outstanding gives (R166): the old value, or what an outstanding result
writes, each a choice (log entry 3). `pick` finds the value a write gives the cell. -/
def premature {α : Type} (s : State) (w : Wave) (cell : Nat) (old : α) (pick : RegWrite → Option α) : α :=
  w.results.foldl (fun v r =>
    match firstSome r.2.reverse pick with
    | some x => if s.choose cell r.1 then x else v
    | none => v) old

/-- Vector register v(r) of a lane. -/
def State.readV (s : State) (w : Wave) (l r : Nat) : Reg :=
  let old := (w.thread l).v.getD r 0
  if w.results.isEmpty then old
  else premature s w (l * 256 + r) old fun x => match x with
    | .vec l' r' x => if l' = l ∧ r' = r then some x else none
    | _ => none

/-- A 64-bit vector pair: the low word in the even register (R56). -/
def State.readPair (s : State) (w : Wave) (l r : Nat) : Word := s.readV w l (r + 1) ++ s.readV w l r

/-- Uniform register s(r). -/
def State.readU (s : State) (w : Wave) (r : Nat) : Word :=
  let old := w.u r
  if w.results.isEmpty then old
  else premature s w (2 ^ 16 + r) old fun x => match x with
    | .uni r' x => if r' = r then some x else none
    | _ => none

/-- Predicate p(r) of a lane; p7 reads true (R152). -/
def State.readP (s : State) (w : Wave) (l r : Nat) : Bool :=
  if r = 7 then true
  else
    let old := (w.thread l).p.getLsbD r
    if w.results.isEmpty then old
    else premature s w (2 ^ 17 + l * 8 + r) old fun x => match x with
      | .pred l' r' x => if l' = l ∧ r' = r then some x else none
      | _ => none

/-- The active lanes of a word (R160): the issued threads whose guard is true. -/
def State.activeLanes (s : State) (c : Ctx) (pg : BitVec 3) (pn : Bool) : List Nat :=
  c.lanes.filter fun l => s.readP c.wave l pg.toNat != pn

/-! ### Register writes -/

/-- The cell that a write changes, as a number. -/
def RegWrite.cell : RegWrite → Nat
  | .vec l r _ => l * 256 + r
  | .uni r _ => 2 ^ 16 + r
  | .pred l r _ => 2 ^ 17 + l * 8 + r

/-- One register write performed; it clears the register's poison (R419). Writing p7 is discarded (R187). -/
def Wave.apply (w : Wave) (x : RegWrite) : Wave :=
  match x with
  | .vec l r v =>
    let w := if w.rpoison.isEmpty then w else { w with rpoison := w.rpoison.filter fun p => p != (l, r) }
    w.onThread l fun t => { t with v := t.v.put r v 0 }
  | .uni r v => { w with uni := w.uni.put r v 0 }
  | .pred l r v =>
    if r = 7 then w
    else w.onThread l fun t =>
      { t with p := if v then t.p ||| (1#7 <<< r) else t.p &&& ~~~(1#7 <<< r) }

def Wave.applyAll (w : Wave) (l : List RegWrite) : Wave := l.foldl Wave.apply w

/-- Outstanding results of cells that a word writes now (R166): each such earlier result either keeps its place, so that
its value stands after the settle, or gives way to the word's value; a choice for each (log entry 3). -/
def State.overtake (s : State) (w : Wave) (l : List RegWrite) : Wave :=
  if w.results.isEmpty then w
  else
    let cells := l.map RegWrite.cell
    { w with results := w.results.map fun r =>
        (r.1, r.2.filter fun x => !cells.contains x.cell || s.choose x.cell (r.1 + 2 ^ 20)) }

/-- A word's fixed-latency writes: visible to the wave's next word (R164). -/
def State.writeNow (s : State) (w : Wave) (l : List RegWrite) : Wave := (s.overtake w l).applyAll l

/-- A word's variable-latency writes: outstanding until RESULT_RETURN (R165, R166); in a deterministic job written at
once, which is what stalling every early reader comes to (R54). -/
def Wave.writeLate (w : Wave) (det : Bool) (l : List RegWrite) : Wave :=
  if l.isEmpty then w
  else if det then w.applyAll l
  else { w with results := w.results.insert (maxOf w.results (fun r => r.1) + 1) l }

/-- The writes of all outstanding results in program order; where two write one cell, a choice decides whether the later
replaces the earlier (R166, log entry 3). -/
def State.settled (s : State) (w : Wave) : List RegWrite :=
  w.results.foldl (fun out r => out ++ r.2.filter fun x =>
    !(out.any fun y => y.cell == x.cell) || s.choose x.cell (r.1 + 2 ^ 21)) []

/-- Every outstanding result written, as a settle leaves it (R164, R376). -/
def State.settleAll (s : State) (w : Wave) : Wave := { w.applyAll (s.settled w) with results := [] }

/-- Result `n` of a wave returns (R164, R166): each of its cells that another outstanding result writes too is decided by
itself: the other write comes after it, or has come before it. -/
def State.returnResult (s : State) (w : Wave) (n : Nat) : Wave :=
  match w.results.find n with
  | none => w
  | some l =>
    let rest := w.results.remove n
    let cells := l.map RegWrite.cell
    { w.applyAll l with results := rest.map fun r =>
        (r.1, r.2.filter fun x => !cells.contains x.cell || s.choose x.cell (r.1 + 2 ^ 21)) }

/-! ### Traps -/

/-- Why a word traps: a program error (Tables 18-2, 19-1) with its faulting lanes, or one of the three causes of the
emulation handler (R380). -/
inductive Trap where
  | error (code info0 info1 : Nat) (lanes : List Nat)
  /-- CAUSE 0x01: `emu` gives sr.emu0 (without CAUSE) to sr.emu6 of Table 6-16 -/
  | illegal (emu : List Nat) (lanes : List Nat)
  /-- CAUSE 0x02 (Table 18-3): the OP or ROP, the class, the slag in f32 form, the operand, the faulting lanes -/
  | slag (op cls bits operand : Nat) (lanes : List Nat)
  /-- CAUSE 0x10 (R208): TRAP's code, the active lanes -/
  | call (code : Nat) (lanes : List Nat)
  deriving DecidableEq, Repr

/-- sr.emu0 to sr.emu6 as a cause writes them (Tables 6-16 and 18-3, R208). -/
def Trap.emu (word : Word) : Trap → List Nat
  | .error .. => []
  | .illegal emu _ => emu
  | .slag op cls bits operand lanes =>
    let d := slice word.toNat 40 8
    let a := slice word.toNat 32 8
    let b := if cls = 0 then slice word.toNat 24 8 else 0
    let c := if cls = 0 then slice word.toNat 16 8 else 0
    let (d, a) := if cls = 5 then (slice word.toNat 47 8, slice word.toNat 39 8) else (d, a)
    [0x02 * 2 ^ 24 + op * 2 ^ 8 + cls, d, a, b, c, bits * 2 ^ 32 + operand, maskOf lanes]
  | .call code lanes => [0x10 * 2 ^ 24 + 4, 0, 0, 0, 0, code, maskOf lanes]

/-- CAUSE of sr.emu0 (R380). -/
def Trap.cause : Trap → Nat
  | .error .. => 0
  | .illegal .. => 0x01
  | .slag .. => 0x02
  | .call .. => 0x10

/-- The error record's CODE, INFO0 and INFO1 of a trap that becomes a program error (Table 18-2). -/
def Trap.code (t : Trap) (word : Word) : Nat × Nat × Nat :=
  match t with
  | .error c a b _ => (c, a, b)
  | .illegal .. => (0x0001, word.toNat, 0)
  | .slag .. => (0x0003, (t.emu word).getD 5 0, (t.emu word).getD 6 0)
  | .call code _ => (0x0002, code, 0)

def Trap.lanes : Trap → List Nat
  | .error _ _ _ l => l
  | .illegal _ l => l
  | .slag _ _ _ _ l => l
  | .call _ l => l

/-- The error record of a wave's word (R378). -/
def Ctx.record (c : Ctx) (code info0 info1 : Nat) (lanes : List Nat) : ErrorRecord :=
  { code, source := 0, core := c.core, wid := c.wave.wid, bid := c.wave.host, lanes := maskOf lanes,
    pc := c.pc.toNat, task := c.task, info0, info1 }

/-- A program error of a wave's word (R376, R377): earlier results are written, and the job fails with one record. -/
def State.programError (s : State) (c : Ctx) (code info0 info1 : Nat) (lanes : List Nat) : State :=
  let s := s.onWave c.w s.settleAll
  s.failJob c.job (c.record code info0 info1 lanes)

/-- Entry to the emulation handler (R380, R382): the wave settles, sr.emu0 to sr.emu7 are written, every issued thread
goes to EMU with its mt kept, in handler mode. -/
def State.enterHandler (s : State) (c : Ctx) (emu : List Nat) : State :=
  let lanes := match s.cur with | some i => i.lanes | none => c.lanes
  s.onWave c.w fun w =>
    let w := s.settleAll w
    let regs := (emu.map fun x => BitVec.ofNat 64 x) ++ [c.pc]
    let tab : Tab Word := regs.mapIdx fun i x => (i, x)
    { (w.onLanes lanes fun _ t => { t with pc := c.card.emu, handler := true }) with
      emu := tab.filter fun p => p.2 != 0 }

/-- Taking a trap (R376, R377, R380, R383): the one operation of every trap of a wave's word. -/
def State.takeTrap (s : State) (c : Ctx) (t : Trap) : State :=
  match t with
  | .error code a b lanes => s.programError c code a b lanes
  | _ =>
    if c.wave.handlerMode then s.programError c 0x0015 t.cause c.card.emu.toNat t.lanes
    else if c.card.emu = 0 then
      let (code, a, b) := t.code c.word
      s.programError c code a b t.lanes
    else s.enterHandler c (t.emu c.word)

/-- Return from the emulation handler (R250, R382): the active threads go to sr.emu7 and leave the handler. -/
def Wave.leaveHandler (w : Wave) (lanes : List Nat) : Wave :=
  w.onLanes lanes fun _ t => { t with pc := w.emu.getD 7 0, handler := false }

/-! ### Region stores and commit -/

/-- Line and offset of a physical address. -/
def lineOf (pa : Nat) : Nat := pa / 128

/-- Table 8-6: the new value of an atomic on `n` bytes; `none` where a slag old value or a failed .cas writes
nothing (R227). -/
def atomicNew (opn n : Nat) (old v c : Nat) : Option Nat :=
  let N := 8 * n
  let f := if n = 4 then f32 else f64
  let slag := n = 4 && (slagCode 10 old).isSome
  match opn with
  | 0 => some ((old + v) % 2 ^ N)
  | 1 => some (if toSigned N v < toSigned N old then v else old)
  | 2 => some (if toSigned N old < toSigned N v then v else old)
  | 3 => some (min old v)
  | 4 => some (max old v)
  | 5 => some (old &&& v)
  | 6 => some (old ||| v)
  | 7 => some (old ^^^ v)
  | 8 => some v
  | 9 => if old = c then some v else none
  | 10 => if slag then none else some (f.addBits 0 false old v)
  | 11 => if slag then none else some (f.minMax false old v)
  | 12 => if slag then none else some (f.minMax true old v)
  | 13 => some ((old + 2 ^ N - v) % 2 ^ N)
  | 14 => some (if old ≥ v then 0 else old + 1)
  | _ => some (if old = 0 ∨ old > v then v else old - 1)

/-- One lane's operation performed at the home (R227): the old value. -/
def State.atomicHome (s : State) (o : RedOp) : Nat × State :=
  let old := s.homeNat o.pa o.ty
  match atomicNew o.opn o.ty old o.v.toNat o.c.toNat with
  | some new => (old, s.writeNat o.pa o.ty new)
  | none => (old, s)

/-- One lane's operation at cluster, group or device scope by a thread of a cluster on a core (R134): at the home, indivisible
towards the agents within the scope. By a choice of the device its write is late towards those outside: they find the old
value until it lands, and what they write until then it replaces (log entry 72). -/
def State.atomicWide (s : State) (cl core scope : Nat) (o : RedOp) : Nat × State :=
  let s := s.landOn core
  let (old, t) := s.atomicHome o
  let card := (s.job (s.cluster cl).job).card
  let peer := match regionOf (s.served o.pa) with | some (.peer _) => true | _ => false
  if scope ≤ 5 && !card.det && !card.step && !peer && s.choose o.pa 9 then
    (old, { s with lateWrites := s.lateWrites ++
      [{ pa := o.pa, bytes := t.homeBytes o.pa o.ty, scope, group := groupOfCore core, cluster := cl }] })
  else (old, t)

/-- The bytes of a store put into a region store buffer (R34): each a physical address, the virtual address that names
it, and the byte, later ones replacing earlier. `none` when an entry more than 64 would be needed (R389): the virtual
line address that found none. -/
def bufferStore (rsb : List Buffered) (scope : Nat) (bytes : List (Nat × Nat × Byte)) : Except Nat (List Buffered) :=
  bytes.foldl (fun r b =>
    match r with
    | .error e => .error e
    | .ok rsb =>
      let line := lineOf b.1
      let has := rsb.any fun e => match e with | .store l .. => l == line | .red .. => false
      if has then
        .ok (rsb.map fun e => match e with
          | .store l va sc bs =>
            if l = line then .store l va (max sc scope) (bs.insert (b.1 % 128) b.2.2) else e
          | .red .. => e)
      else if rsb.length < 64 then .ok (rsb ++ [.store line (b.2.1 / 128 * 128) scope [(b.1 % 128, b.2.2)]])
      else .error (b.2.1 / 128 * 128)) (.ok rsb)

/-- A relaxed RED's operations put into a region store buffer: one entry of its own for each distinct line (R34). -/
def bufferRed (rsb : List Buffered) (scope : Nat) (ops : List (Nat × RedOp)) : Except Nat (List Buffered) :=
  let lines := distinct (ops.map fun p => lineOf p.2.pa)
  let new := lines.map fun l =>
    let mine := ops.filter fun p => lineOf p.2.pa == l
    Buffered.red l ((mine.headD (0, { lane := 0, pa := 0, ty := 4, opn := 0, v := 0, c := 0 })).1 / 128 * 128) scope
      (mine.map Prod.snd)
  if rsb.length + new.length ≤ 64 then .ok (rsb ++ new)
  else .error (match new[64 - rsb.length]? with | some (.red _ va _ _) => va | _ => 0)

/-- The number that the next committed entry of a core gets. -/
def nextCommit (c : CoreState) : Nat := maxOf c.commit (fun e => e.number) + 1

/-- Who commits: the core, the job, the wave. -/
structure Committer where
  core : Nat
  job  : Nat
  wave : Nat
  deriving DecidableEq, Repr

/-- Bytes of a line put into the commit buffer (R35, R127). -/
def State.commitBytes (s : State) (k : Committer) (line va : Nat) (bytes : Tab Byte) : State :=
  s.onCore k.core fun c =>
    { c with commit := c.commit ++
        [{ number := nextCommit c, line, va, job := k.job, wave := k.wave, tags := (s.job k.job).tags (s.wave k.wave).cluster va, bytes :
            Committed }] }

/-- One lane's atomic operation of wave or block scope (R122, R134): its read finds the commit buffer's bytes, and its
write goes there, as a strong load and a strong store of that scope do. Another core's write may fall between it and its
arrival at the home. -/
def State.atomicNear (s : State) (k : Committer) (va : Nat) (o : RedOp) : Nat × State :=
  let c := s.core k.core
  let old := natOfBytes ((List.range o.ty).map fun i => (committedByte c (o.pa + i)).getD (s.home (o.pa + i)))
  match atomicNew o.opn o.ty old o.v.toNat o.c.toNat with
  | some new =>
    (old, s.commitBytes k (lineOf o.pa) va ((bytesOfNat o.ty new).mapIdx fun i b => (o.pa % 128 + i, b)))
  | none => (old, s)

/-- One buffered entry committed (R35, R94, R122, R124): an ordinary or a wave- or block-scope store or RED goes to the
commit buffer; one of cluster scope or wider is performed at the home, after the core's older stores to the line, a RED with a
write that may be late (R134). -/
def State.commitEntry (s : State) (k : Committer) (e : Buffered) : List Lost × State :=
  let core := k.core
  let job := k.job
  match e with
  | .store line va scope bytes =>
    let s := s.dropLine core line
    if scope < 3 then ([], s.commitBytes k line va bytes)
    else
      let (l, s) := s.drainLine core line
      let (lost, s) := s.writeOut (lineBytes line bytes)
      (l ++ lostOf job lost, s)
  | .red line va scope ops =>
    let s := s.dropLine core line
    if scope < 3 then ([], ops.foldl (fun s o => (s.atomicNear k va o).2) s)
    else
      let (l, s) := s.drainLine core line
      if s.routeDown (line * 128) then (l ++ lostOf job (ops.map fun o => o.pa), s)
      else (l, ops.foldl (fun s o => (s.atomicWide (s.wave k.wave).cluster core scope o).2) s)

/-- A line that a step job committed, kept for its digest (R349): by task and address, mask and final data. -/
def Job.noteStore (j : Job) (task line : Nat) (bytes : Tab Byte) : Job :=
  let same := j.stores.find? fun x => x.1 == task && x.2.1 == line
  let merged := bytes.foldl (fun t b => t.insert b.1 b.2) (match same with | some x => x.2.2 | none => [])
  { j with stores := (j.stores.filter fun x => !(x.1 == task && x.2.1 == line)) ++ [(task, line, merged)] }

/-- What atomic operations of a step job leave in their bytes, kept for its digest as a store's bytes are (R349, log entry
44): virtual line and operation of each. -/
def State.noteAtomics (s : State) (c : Ctx) (ops : List (Nat × RedOp)) : State :=
  if !c.card.step then s
  else ops.foldl (fun s p =>
    let k := s.core c.core
    let bytes := (List.range p.2.ty).map fun i =>
      ((p.2.pa + i) % 128, (committedByte k (p.2.pa + i)).getD (s.home (p.2.pa + i)))
    s.onJob c.job fun j => j.noteStore c.task (p.1 / 128 * 128) bytes) s

/-- The accesses that a commit makes, for the checks of R394. -/
def commitAccesses (rsb : List Buffered) : List (Nat × Nat) :=
  rsb.flatMap fun e => match e with
    | .store line va _ bytes =>
      (distinct (bytes.map fun b => b.1 / 32)).map fun k => (line * 128 + 32 * k, va + 32 * k)
    | .red .. => []

/-- The codes of the 8-byte words that a commit writes by stores, or by REDs (R129). -/
def commitWords (red : Bool) (rsb : List Buffered) : List Nat :=
  distinct (rsb.flatMap fun e => match e with
    | .store line _ _ bytes => if red then [] else bytes.map fun b => wordCode ((line * 128 + b.1) / 8)
    | .red _ _ _ ops => if red then ops.map fun o => wordCode (o.pa / 8) else [])

/-! ### The order of a job's threads (R126, R129, R130) -/

/-- A lane's thread as an agent of R129. -/
def Ctx.agent (c : Ctx) (l : Nat) : Nat := agentOf c.cl (c.wave.thread l).tid

/-- The reaches, up to a scope, of a lane's thread: its wave, its home block, its cluster, its core group, the device. -/
def State.reaches (s : State) (c : Ctx) (scope l : Nat) : List Nat :=
  let units := [(1, c.w), (2, s.homeBlock c l), (3, c.cl), (4, groupOfCore c.core), (5, 0)]
  (units.filter fun u => decide (u.1 ≤ scope)).map fun u => u.1 * 2 ^ 40 + u.2

/-- The lanes whose threads perform the word or the wait: those that its guard leaves active. -/
def State.actors (s : State) (c : Ctx) : List Nat :=
  if c.word = 0 then (if c.lanes.isEmpty then c.wave.liveLanes else c.lanes)
  else s.activeLanes c (BitVec.ofNat 3 (slice c.word.toNat 59 3)) (c.word.getLsbD 58)

/-- A job's binding table changes (R125, R240) by change number `n`, which `made` perform, each with the number of its releases
before. -/
def Job.rebind (j : Job) (n : Nat) (add : Bool) (b : Binding) (made : List (Nat × Nat)) : Job :=
  { j with bindings := if add then j.bindings ++ [b] else j.bindings.filter (· != b)
           changes := j.changes ++ [{ id := n, add, binding := b, made }] }

/-- Agents perform change number `n`, which the binding table holds already: it is in force for them (R126). -/
def Job.learnChange (j : Job) (n : Nat) (who : List (Nat × Nat)) : Job :=
  { j with changes := j.changes.map fun x =>
      if x.id = n then { x with made := x.made ++ who.filter fun p => !j.changeHolds p.1 x } else x }

/-- The latest change that added or removed a binding. -/
def Job.lastChange (j : Job) (b : Binding) : Nat :=
  ((j.changes.reverse.find? fun x => x.binding == b).map fun x => x.id).getD 0

/-- Something that the threads of a word do, noted in their job's order, which is kept once a BIND or an UNBIND has changed
the bindings. -/
def State.onOrder (s : State) (c : Ctx) (scope : Nat) (f : Order → Nat → List Nat → Order) : State :=
  if !(s.job c.job).rebound then s
  else
    let who := (s.actors c).map fun l => (c.agent l, s.reaches c scope l)
    s.onJob c.job fun j => { j with hb := who.foldl (fun d p => f d p.1 p.2) j.hb }

/-- The threads of a wave write words. -/
def State.noteWrites (s : State) (c : Ctx) (adds : Bool) (words : List Nat) : State :=
  if words.isEmpty || !(s.job c.job).rebound then s
  else
    let who := c.wave.liveLanes.map fun l => (c.agent l, s.reaches c 5 l)
    s.onJob c.job fun j => { j with hb := j.hb.wrote who adds words }

/-- The commit of a wave's region store buffer (R35) by a word with the active lanes `act`: the checks of a deterministic
job first (R394), whose conflict is the answer; else every entry in order, and the buffer is empty. `rel` says that the
entries are a release store's own. -/
def State.commit (s : State) (c : Ctx) (act : List Nat) (rel : Bool := false) : Except Trap State :=
  let rsb := (s.wave c.w).rsb
  if rsb.isEmpty then .ok s
  else
    let checked : Except Trap State :=
      if c.det then
        match Det.checkAll (s.job c.job).det c.task true (commitAccesses rsb) with
        | .error (va, k, o) => .error (.error 0x0014 va (o + k * 2 ^ 32) act)
        | .ok d => .ok (s.onJob c.job fun j =>
            { j with det := (d.wrote c.task rel (commitWords false rsb)).wrote c.task true (commitWords true rsb) })
      else .ok s
    match checked with
    | .error t => .error t
    | .ok s =>
      let s := (s.noteWrites c rel (commitWords false rsb)).noteWrites c true (commitWords true rsb)
      let s := if c.card.step then
          s.onJob c.job fun j => rsb.foldl (fun j e => match e with
            | .store _ va _ bytes => j.noteStore c.task va bytes
            | .red .. => j) j
        else s
      let (lost, s) := rsb.foldl (fun (r : List Lost × State) e =>
        let (l, s) := r.2.commitEntry { core := c.core, job := c.job, wave := c.w } e
        (r.1 ++ l, match e with
          | .store .. => s
          | .red _ va _ ops => s.noteAtomics c (ops.map fun o => (va, o)))) ([], s)
      .ok ((s.onWave c.w fun w => { w with rsb := [] }).reportLost lost)

/-! ### The outcome of a word's effect -/

/-- What a word's effect comes to. -/
inductive Effect where
  /-- performed: register writes, at once or late; every issued thread goes to the next word -/
  | done (s : State) (now : List RegWrite) (late : List RegWrite)
  /-- performed, and the effect has set the threads' PCs -/
  | moved (s : State) (now : List RegWrite)
  /-- the wave parks, and the word issues again (nothing has been performed but the commit) -/
  | again (s : State) (p : Park)
  /-- performed; the wave parks in its waiting phase at the next word (R38) -/
  | wait (s : State) (now : List RegWrite) (p : Park)
  /-- translation faults (R405, R409): the region is dropped and the wave parks on the misses (die, serial) -/
  | miss (s : State) (on : List (Nat × Nat))
  /-- the word waits until no result is outstanding, and issues again (R167) -/
  | settle (s : State)
  | trap (s : State) (t : Trap)
  deriving DecidableEq, Repr

/-- A transaction of a lane aborts with a cause and code (R242): its writes go, the PC becomes the abort target, from
which a later restart of the thread also goes on (log entry 15). -/
def Thread.abort (t : Thread) (cause code : Nat) : Thread :=
  match t.txn with
  | some x =>
    let aborts := min 255 (slice t.tstat.toNat 16 8 + 1)
    { t with txn := none, pc := x.target, startPc := x.target, startMt := t.mt
             tstat := BitVec.ofNat 64 (aborts * 2 ^ 16 + code * 2 ^ 8 + cause) }
  | none => t

/-- The issued threads that the word's advance still concerns: those whose transaction it has not aborted. -/
def State.curLanes (s : State) (c : Ctx) : List Nat :=
  match s.cur with
  | some i => i.lanes
  | none => c.lanes

/-- Lanes' transactions abort (R242): the word no longer moves those threads. -/
def State.abortLanes (s : State) (c : Ctx) (lanes : List Nat) (cause code : Nat) : State :=
  if lanes.isEmpty then s
  else { s.onWave c.w fun w => w.onLanes lanes fun _ t => t.abort cause code with
    cur := s.cur.map fun i => { i with lanes := i.lanes.filter fun l => !lanes.contains l } }

/-- The issued threads go to the next word (R28). -/
def Wave.advance (w : Wave) (lanes : List Nat) : Wave :=
  w.onLanes lanes fun _ t => { t with pc := t.pc + 8 }

/-- A wave's restart (R405): dropped to its region start and parked on misses. A wave that only waits for room in a miss
table or a buffer pool (serial 0) has met no fault: its region stands, and the word issues again (R406, R330). -/
def State.parkOnMiss (s : State) (c : Ctx) (on : List (Nat × Nat)) : State :=
  s.onWave c.w fun w =>
    let lanes := c.lanes
    if on.all fun p => p.2 == 0 then { w with park := some (.miss on), lanes } else
    -- a fault in a transaction aborts every open transaction of the wave with cause 10 (R411)
    let tx := (List.range 32).filter fun l => (w.thread l).txn.isSome
    if tx.isEmpty then { w.drop with park := some (.miss on), lanes }
    else
      let w := w.onLanes ((List.range 32).filter fun l => !tx.contains l) fun _ t => if t.live then t.drop else t
      let w := w.onLanes tx fun _ t => t.abort 10 0
      { w with
        emu := w.startEmu, rsb := [], results := [], settle := false, drained := false, park := some (.miss on), lanes }

/-- The outcome of an effect put into the state. `s` bit: settle after the word (R164). -/
def State.finish (c : Ctx) (settle : Bool) (boundary : Bool) (e : Effect) : State :=
  let close (w : Wave) : Wave :=
    let w := if boundary then w.mark else w
    { w with settle := settle && !w.results.isEmpty, drained := false }
  match e with
  | .done s now late =>
    s.onWave c.w fun w => close (((s.writeNow w now).writeLate c.det late).advance (s.curLanes c))
  | .moved s now => s.onWave c.w fun w => close (s.writeNow w now)
  | .again s p => s.onWave c.w fun w => { w with park := some p, lanes := s.curLanes c }
  | .wait s now p =>
    s.onWave c.w fun w => { close ((s.writeNow w now).advance (s.curLanes c)) with
      settle := settle, park := some p, lanes := s.curLanes c }
  | .miss s on => s.parkOnMiss c on
  | .settle s => s.onWave c.w fun w => { w with settle := true }
  | .trap s t => s.takeTrap c t

/-! ### Issuing a word -/

/-- The register rule (Table 18-4): a vector register that the word names lies at or above the allocation. -/
def registerTrap (c : Ctx) (regs : List Nat) (act : List Nat) : Option Trap :=
  match minBy (regs.filter fun r => decide (c.wave.alloc ≤ r)) id with
  | some r => some (.error 0x0004 r c.wave.alloc act)
  | none => none

/-- The location that an error record names for poison outside home memory (R398, INFO0 of 0x0106): bit 63 set, the
rest as the part encodes it (log entry 3). -/
def poisonPlace (n : Nat) : Nat := 2 ^ 63 + (Config.detail n).toNat % 2 ^ 63

/-- A register that the word reads is poisoned in an active lane: 0x0106 with structure 0 (R419). -/
def registerPoison (w : Wave) (reads act : List Nat) : Option Trap :=
  if w.rpoison.isEmpty then none
  else
    let bad (l : Nat) : List Nat := reads.filter fun r => w.rpoison.contains (l, r)
    match act.filter fun l => !(bad l).isEmpty with
    | [] => none
    | l :: rest => some (.error 0x0106 (poisonPlace (l * 256 + (bad l).headD 0)) 0 (l :: rest))

/-- The poison of registers is the last condition of R399: it stands behind every trap and miss of the word. -/
def withPoison (s : State) (p : Option Trap) (e : Effect) : Effect :=
  match p with
  | none => e
  | some t =>
    match e with
    | .trap .. => e
    | .miss .. => e
    | .settle .. => e
    | _ => .trap s t

/-- A word that is no region boundary (R33), with the lanes that its guards leave active: with none it only advances
(R160); else the register rule, then its effect on the active lanes. `settle` is its S bit, `reads` the vector
registers that it reads. -/
def State.issueOn (s : State) (settle : Bool) (lanes : State → Ctx → List Nat) (regs reads : List Nat)
    (eff : State → Ctx → List Nat → Effect) : State :=
  match s.ctx with
  | none => s
  | some c =>
    let act := lanes s c
    State.finish c settle false
      (if act.isEmpty then .done s [] []
       else match registerTrap c regs act with
         | some t => .trap s t
         | none => withPoison s (registerPoison c.wave reads act) (eff s c act))

/-- A word with one guard that is no region boundary: it writes the registers `dst` and reads `src`. -/
def State.issueWord (s : State) (h : Hdr) (dst src : List Nat) (eff : State → Ctx → List Nat → Effect) : State :=
  s.issueOn h.s (fun s c => s.activeLanes c h.pg h.pn) (dst ++ src) src eff

/-- A word that settles before it acts (R167): while results are outstanding the wave waits, and the word issues
again. -/
def settleFirst (s : State) (c : Ctx) (k : Unit → Effect) : Effect :=
  if (s.wave c.w).results.isEmpty then k () else .settle s

/-- Lanes in an open transaction abort with cause 9 at a region boundary, which is not performed in them (Table
8-12). -/
def State.boundaryAbort (s : State) (c : Ctx) (act : List Nat) : List Nat × State :=
  let tx := act.filter fun l => (c.wave.thread l).txn.isSome
  (act.filter fun l => !tx.contains l, s.abortLanes c tx 9 0)

/-! ### Replicated runs (R323, R436) -/

/-- CRC-64 of ECMA-182 over bytes. -/
def crc64 (bytes : List Byte) : BitVec 64 :=
  bytes.foldl (fun (c : BitVec 64) b =>
    (List.range 8).foldl (fun (c : BitVec 64) _ => if c.getLsbD 63 then (c <<< 1) ^^^ 0x42F0E1EBA9EA3693 else c <<< 1)
      (c ^^^ BitVec.ofNat 64 (b.toNat * 2 ^ 56))) 0

/-- The bytes of a buffered entry that its hash covers: address, byte mask, data; of a RED, its operations. -/
def Buffered.bytes : Buffered → List Byte
  | .store line _ _ bs =>
    bytesOfNat 8 (line * 128) ++ bytesOfNat 16 (maskOf (bs.map Prod.fst)) ++
      (List.range 128).map fun i => bs.getD i 0
  | .red line _ _ ops =>
    bytesOfNat 8 (line * 128) ++ ops.flatMap fun o =>
      bytesOfNat 8 o.pa ++ bytesOfNat 1 o.ty ++ bytesOfNat 1 o.opn ++ bytesOfNat 8 o.v.toNat ++ bytesOfNat 8 o.c.toNat

/-- The hash of what a boundary does: the buffered entries, and the operands of its effect: the word, its active lanes,
their vector registers, its uniform registers. -/
def State.boundaryHash (s : State) (c : Ctx) (src act : List Nat) (uni : List Nat := []) : Nat :=
  match (s.cluster c.cl).run with
  | none => 0
  | some _ =>
    (crc64 ((s.wave c.w).rsb.flatMap Buffered.bytes ++ bytesOfNat 8 c.word.toNat ++ bytesOfNat 4 (maskOf act) ++
      (act.flatMap fun l => src.flatMap fun r => bytesOfNat 4 (s.readV c.wave l r).toNat) ++
      uni.flatMap fun r => bytesOfNat 8 (s.readU c.wave r).toNat)).toNat

/-- What a replicated run's wave does at a boundary. -/
inductive Gate where
  | go
  /-- it waits for its twin, with its hash -/
  | park (hash : Nat)
  /-- the primary has performed the boundary -/
  | follow (x : Logged)
  /-- the primary performed another, at this PC -/
  | diverged (pc : Word)
  deriving DecidableEq, Repr

/-- A wave's key in the log of a run. -/
def Wave.runKey (w : Wave) : Nat := 65536 * w.host + w.wid

def State.gate (s : State) (c : Ctx) (h : Nat) : Gate :=
  match (s.cluster c.cl).run with
  | none => .go
  | some r =>
    match r.twin with
    | none => .go
    | some t =>
      let log := if r.role = 0 then r.log else ((s.cluster t).run.map fun q => q.log).getD []
      match (log.getD c.wave.runKey [])[c.wave.bounds]? with
      | some x => if x.hash = h then .follow x else .diverged x.pc
      | none => if r.role = 0 ∧ c.wave.go then .go else .park h

/-- The divergence that fails a job (R436): `pc` is that of the primary's boundary. -/
def State.failReplica (s : State) (c : Ctx) (pc : Word) : State :=
  s.failJob c.job
    { code := 0x0212, source := 4, core := c.core, wid := c.wave.wid, bid := c.wave.host, pc := c.pc.toNat,
      task := c.task, info0 := c.task, info1 := pc.toNat }

/-- The entries of a table for which a test holds, taken from another. -/
def Tab.mergeIf {α : Type} (t u : Tab α) (p : Nat → α → Bool) : Tab α :=
  (u.filter fun x => p x.1 x.2).foldl (fun t x => t.insert x.1 x.2) (t.filter fun x => !p x.1 x.2)

/-- The state with what a new one changes in a cluster's own waves and blocks. -/
def State.keepCluster (s new : State) (cl : Nat) : State :=
  { s with
    waves := Tab.mergeIf s.waves new.waves fun _ w => w.cluster == cl
    blocks := Tab.mergeIf s.blocks new.blocks fun _ b => b.cluster == cl
    clusters := s.clusters.insert cl (new.cluster cl)
    nextId := new.nextId, cur := new.cur }

/-- A follower's effect: its cluster changes as it performs the word itself; what reaches outside is the primary's, and
so are the results. -/
def follower (s : State) (c : Ctx) (x : Logged) (e : Effect) : Effect :=
  let k (new : State) : State := s.keepCluster new c.cl
  match e with
  | .done n now late => if x.outside then .done (k n) x.now x.late else .done (k n) now late
  | .moved n now => .moved (k n) (if x.outside then x.now else now)
  | .wait n now p => .wait (k n) (if x.outside then x.now else now) p
  | .again n p => if x.outside then .done s x.now x.late else .again (k n) p
  | .miss n on => if x.outside then .done s x.now x.late else .miss n on
  | .settle n => .settle (k n)
  | .trap n t => if x.outside then .done s x.now x.late else .trap n t

/-- A performed boundary is counted, and a primary's is logged. `s` is the state before its effect, `s'` after. One that is
to be performed later, its commit done, keeps its hash. Its effect reaches outside the cluster where the word's does
(`x.outside`, R323), or where anything outside has changed. -/
def State.noteBoundary (s : State) (c : Ctx) (e : Effect) (x : Logged) (s' : State) : State :=
  match (s.cluster c.cl).run with
  | none => s'
  | some r =>
    let writes : Option (List RegWrite × List RegWrite) := match e with
      | .done _ now late => some (now, late)
      | .moved _ now => some (now, [])
      | .wait _ now _ => some (now, [])
      | _ => none
    match writes with
    | none => s'.onWave c.w fun w => { w with hash := some x.hash }
    | some (now, late) =>
      let s' := s'.onWave c.w fun w => { w with bounds := w.bounds + 1, go := false, hash := none }
      if r.role ≠ 0 ∨ c.wave.bounds < (r.log.getD c.wave.runKey []).length then s'
      else
        let outside := x.outside || decide (s'.keepCluster s c.cl ≠ s)
        let y : Logged := { hash := x.hash, pc := c.pc, now, late, outside }
        s'.onCluster c.cl fun z => { z with run := z.run.map fun r =>
          { r with log := r.log.insert c.wave.runKey (r.log.getD c.wave.runKey [] ++ [y]) } }

/-- A replicated run that performs no effect outside its cluster, for its primary does (R323). -/
def State.follows (s : State) (c : Ctx) : Bool :=
  ((s.cluster c.cl).run.map fun r => r.role != 0 && r.twin.isSome).getD false

/-- The primary's wave that stands where a follower's does, where it has not gone on from the same boundary. -/
def State.leaderWaits (s : State) (c : Ctx) : Bool :=
  match (s.cluster c.cl).run.bind fun r => if r.role = 0 then none else r.twin with
  | none => false
  | some t => s.waves.any fun p => p.2.cluster == t && p.2.runKey == c.wave.runKey && p.2.bounds == c.wave.bounds &&
      match p.2.park with | some (.counter ..) => true | _ => false

/-! ### Region boundaries -/

/-- What says of a boundary word, for its active lanes, that its effect reaches outside the cluster (R323). -/
abbrev Reach := State → Ctx → List Nat → Bool

/-- A region boundary (R33, R35): `txn` is what it does in lanes with an open transaction; `check` gives the conditions that
are examined first; then the commit; then the effect, whose uniform operands are `uni` and whose reach is `out`. The wave's next region starts at the word after it (R38), or here when the commit has been made and the word
parks. -/
def State.issueBoundaryIn (s : State) (h : Hdr) (dst src : List Nat)
    (txn : State → Ctx → List Nat → List Nat × State)
    (check : State → Ctx → List Nat → Option Effect) (eff : State → Ctx → List Nat → Effect)
    (uni : List Nat := []) (out : Reach := fun _ _ _ => false) : State :=
  match s.ctx with
  | none => s
  | some c =>
    let act := s.activeLanes c h.pg h.pn
    if act.isEmpty then State.finish c h.s false (.done s [] [])
    else match registerTrap c (dst ++ src) act with
      | some t => State.finish c h.s false (.trap s t)
      | none =>
        let (act, s) := txn s c act
        if act.isEmpty then State.finish c h.s false (.done s [] [])
        else match check s c act with
          | some e => State.finish c h.s false e
          | none =>
            match registerPoison c.wave src act with
            | some t => State.finish c h.s false (.trap s t)
            | none =>
              let hash := c.wave.hash.getD (s.boundaryHash c src act uni)
              let outside := out s c act
              match s.gate c hash with
              | .park x => State.finish c h.s false (.again s (.twin x))
              | .diverged pc => s.failReplica c pc
              | .follow x =>
                -- the commit is the primary's: this run's stores are discarded
                let s := s.onWave c.w fun w => ({ w with rsb := [] }).mark
                let e := follower s c x (eff s c act)
                s.noteBoundary c e x (State.finish c h.s true e)
              | .go =>
                match s.commit c act with
                | .error t => State.finish c h.s false (.trap s t)
                -- the commit has begun: the region is never restarted (R35)
                | .ok s =>
                  let e := eff (s.onWave c.w Wave.mark) c act
                  s.noteBoundary c e { hash, outside } (State.finish c h.s true e)

/-- A region boundary that aborts open transactions: every one but the transaction instructions (Table 8-12). -/
def State.issueBoundary (s : State) (h : Hdr) (dst src : List Nat)
    (check : State → Ctx → List Nat → Option Effect) (eff : State → Ctx → List Nat → Effect)
    (uni : List Nat := []) (out : Reach := fun _ _ _ => false) : State :=
  s.issueBoundaryIn h dst src State.boundaryAbort check eff uni out

/-- After a word that may park in a waiting phase: what it waits for may hold already. -/
def State.wakeCur (s : State) (f : State → Ctx → State) : State :=
  match s.ctx with
  | some c => f s c
  | none => s

/-! ### Releases and acquires -/

/-- An object with no binding (R142, R294). -/
def noObj : Obj := { kind := 3, addr := 0 }

/-- A queue control block as a synchronisation object: not the word at its address (R125). -/
def queueObj (va : Nat) : Obj := { kind := 4, addr := va }

/-- The bindings in force for the threads of a word or of a wait (R126). -/
def State.views (s : State) (c : Ctx) : Views :=
  let j := s.job c.job
  let lanes := if c.lanes.isEmpty then c.wave.liveLanes else c.lanes
  match distinct (lanes.map fun l => j.inForce c.cl (c.agent l)) with
  | [] => [j.bound c.cl fun _ => false]
  | v => v

/-- The core's stores that a release waits for at a scope (R127): none at wave and block scope, whose point is the
commit buffer (R122). A bound object's release waits for the stores of its regions alone, also where a FENCE pairs with it
(R133; DESIGN CHOICE, log entry 75). -/
def State.releaseWaits (s : State) (c : Ctx) (scope : Nat) (objs : List Obj) : List Nat :=
  if scope < 3 then [] else s.coveredBy c.core c.job c.w (s.views c) objs

/-- Physical address of a granule for the bindings of a wave's job. -/
def State.reachOf (s : State) (c : Ctx) (va : Nat) : Option Nat :=
  let q := s.requester c
  match s.walk q.asid q.root va with
  | .leaf l _ => some (l.addr va)
  | _ => none

/-- Entries that a wave's ENQs have put into other queues can be found once a release of the wave covers the queue's
control block (R138). -/
def State.revealBy (s : State) (c : Ctx) (objs : List Obj) : State :=
  if s.unseen.isEmpty then s
  else
    let v := s.views c
    { s with unseen := s.unseen.filter fun p =>
        p.2.wave != c.w || !(v.unbound objs || (v.regions objs).any fun b => b.meets (p.2.va / 128 * 128)) }

/-- A release whose covered stores are at their points (R127): at wave and block scope
the core's stores are published on it, and at system scope dirty CXL lines are written back too. -/
def State.releaseNow (s : State) (c : Ctx) (scope : Nat) (objs : List Obj) : State :=
  if scope < 3 then s.share c.core c.job c.w (s.views c) objs
  else if scope = 6 then s.releaseCxl (dieOfCore c.core) (s.views c) objs (s.reachOf c)
  else s

/-- Step 2 of a release (R127): the wave parks until the covered stores are at their points; `k` is the release's own
effect. -/
def State.releaseOn (s : State) (c : Ctx) (scope : Nat) (objs : List Obj) (k : State → Effect) : Effect :=
  let on := if (s.wave c.w).drained then [] else s.releaseWaits c scope objs
  if on.isEmpty then k (s.releaseNow c scope objs)
  else .again (s.onWave c.w fun w => { w with drained := true }) (.drain on)

/-- A release other than an ENQ's: it also orders the wave's earlier ENQs that it covers (R138). -/
def State.releaseThen (s : State) (c : Ctx) (scope : Nat) (objs : List Obj) (k : State → Effect) : Effect :=
  s.releaseOn c scope objs fun s => k (s.revealBy c objs)

/-- A release at a scope is counted, and published at words (by their codes), for the determinism checks (R394) and for the
bindings (R126). -/
def State.noteRelease (s : State) (c : Ctx) (scope : Nat) (words : List Nat) : State :=
  let s := s.onOrder c scope fun d a keys => d.release a keys words
  if c.det then s.onJob c.job fun j =>
    { j with det := j.det.release c.task (scopeKeys scope (groupOfCore c.core)) words }
  else s

/-- What an acquire at a scope on words obtains, for the determinism checks (R394) and for the bindings (R126). -/
def State.noteAcquire (s : State) (c : Ctx) (scope : Nat) (words : List Nat) : State :=
  let s := s.onOrder c scope fun d a keys => d.acquire a keys words
  if c.det then s.onJob c.job fun j =>
    { j with det := j.det.acquire c.task (scopeKeys scope (groupOfCore c.core)) words }
  else s

/-- An acquire (R127, R94), with what it publishes to the task and to its threads; the bindings are those then in force. -/
def State.acquire (s : State) (c : Ctx) (scope : Nat) (objs : List Obj) (words : List Nat) : State :=
  let s := s.noteAcquire c scope words
  s.acquireAt c.core scope (s.views c) objs (s.reachOf c)

/-- A word of global memory as a synchronisation object. -/
def wordObj (va : Nat) : Obj := { kind := 0, addr := va / 8 * 8 }

end Sys2Proof.Machine
end

