-- ==== Sys2Proof/Machine/Operands.lean ====
section
/-! DEFINITION. The operand forms of class A and class B words (R154, R155, R181), the placing of results (R56), the
registers that a word names for the register rule (Table 18-4), and slag operands (R75 to R77, R385). -/
namespace Sys2Proof.Machine

/-! ### Sources -/

/-- A source of `n` bits (R181): a uniform register's low bits, a vector register's low bits, or a pair. -/
def readSrc (s : State) (w : Wave) (l : Nat) (u : Bool) (r : BitVec 8) (n : Nat) : Nat :=
  if u then (s.readU w r.toNat).toNat % 2 ^ n
  else if n = 64 then (s.readPair w l r.toNat).toNat
  else (s.readV w l r.toNat).toNat % 2 ^ n

def srcA (s : State) (w : Wave) (o : OpA) (l n : Nat) : Nat := readSrc s w l o.ua o.a n
/-- Source B, or its immediate zero-extended (R181). -/
def srcB (s : State) (w : Wave) (o : OpA) (l n : Nat) : Nat :=
  if o.ib then o.b.toNat % 2 ^ n else readSrc s w l o.ub o.b n
def srcC (s : State) (w : Wave) (o : OpA) (l n : Nat) : Nat := readSrc s w l o.uc o.c n

/-! ### Results -/

/-- A result's bits extended to `m` bits for its type (R56): i types by their sign, all others by zero. -/
def extend (ty m x : Nat) : Nat := if intSigned ty then ofSigned m (toSigned (intWidth ty) x) else x

/-- A result of a type in a vector register, or in the low register of a pair. -/
def vecBits (ty x : Nat) : Reg := BitVec.ofNat 32 (if intSigned ty then extend ty 32 x else x)
/-- A result of a type in a uniform register (R56). -/
def uniBits (ty x : Nat) : Word := BitVec.ofNat 64 (if intSigned ty then extend ty 64 x else x)

/-- A result written to a vector register or, for a 64-bit type, to a pair. -/
def vecWrites (ty l d x : Nat) : List RegWrite :=
  if tyWide (BitVec.ofNat 4 ty) then
    [.vec l d (BitVec.ofNat 32 x), .vec l (d + 1) (BitVec.ofNat 32 (x / 2 ^ 32))]
  else [.vec l d (vecBits ty x)]

/-- The writes of a class A word's result (R154, R199): a uniform destination once, with the lowest active lane's
result; a vector destination in each active lane. -/
def destWrites (sh : ShapeA) (o : OpA) (act : List Nat) (ty : Nat) (res : Nat → Nat) : List RegWrite :=
  let toUni : Option Nat :=
    match sh.dst with
    | .cross _ => if o.uc then some o.d.toNat else none
    | .reg _ => if sh.isUniform o && decide (192 ≤ o.d.toNat) then some (o.d.toNat - 192) else none
    | _ => none
  match toUni with
  | some r => act.head?.toList.map fun l => .uni r (uniBits ty (res l))
  | none => act.flatMap fun l => vecWrites ty l o.d.toNat (res l)

/-- The writes of a predicate result in each active lane. -/
def predWrites (o : OpA) (act : List Nat) (res : Nat → Bool) : List RegWrite :=
  act.map fun l => .pred l (o.d.toNat % 8) (res l)

/-! ### The registers that a word names -/

def useRegs (u : Use) (isU ib : Bool) (r : Nat) : List Nat :=
  let pair (w : Bool) : List Nat := if w then [r, r + 1] else [r]
  if isU || ib then []
  else match u with
    | .reg w => pair w
    | .regOrImm w => pair w
    | .vec w => pair w
    | .vecOrImm w => pair w
    | _ => []

/-- The vector registers that a class A word writes, pairs counted whole (Table 18-4). -/
def shapeDst (sh : ShapeA) (o : OpA) : List Nat :=
  let d := o.d.toNat
  let pair (w : Bool) : List Nat := if w then [d, d + 1] else [d]
  match sh.dst with
  | .reg w => if sh.isUniform o && decide (192 ≤ d) then [] else pair w
  | .vec w => pair w
  | .cross w => if o.uc then [] else pair w
  | _ => []

/-- The vector registers that a class A word reads. -/
def shapeSrc (sh : ShapeA) (o : OpA) : List Nat :=
  useRegs sh.a o.ua false o.a.toNat ++ useRegs sh.b o.ub o.ib o.b.toNat ++ useRegs sh.c o.uc false o.c.toNat

/-! ### Slag -/

/-- An operand that a word examines for slag: 0 A, 1 B, 2 C, 3 D; its type; its bits in a lane. -/
structure Examined where
  operand : Nat
  ty      : Nat
  bits    : Nat → Nat

/-- The verdict code of the first slag of an operand value: of a packed value, of either element (R76). -/
def slagOf (ty x : Nat) : Option Nat :=
  if ty = 13 then (slagCode 13 x).or (slagCode 13 (x / 2 ^ 16)) else slagCode ty x

/-- SP = 1 admits slag for results of these types (R77): f32, bf16, bf16x2. -/
def slagCarries (ty : Nat) : Bool := ty == 9 || ty == 10 || ty == 13

/-- The slag-operand trap (R385): some active lane holds slag in an operand that the word examines. `op` and `cls` are
those of sr.emu0 (Table 18-3). -/
def slagTrap (op cls : Nat) (act : List Nat) (ex : List Examined) : Option Trap :=
  let lanes := act.filter fun l => ex.any fun e => (slagOf e.ty (e.bits l)).isSome
  match lanes with
  | [] => none
  | l :: _ =>
    (firstSome ex fun e => (slagOf e.ty (e.bits l)).map fun v => (e.operand, v)).map fun p =>
      .slag op cls (slagBits 10 p.2) p.1 lanes

/-- The result with SP = 1 (R77): the first slag operand in the order A, B, C, in the result's form. -/
def orSlag (ty : Nat) (xs : List (Nat × Nat)) (r : Nat) : Nat :=
  match firstSome xs fun p => slagCode p.1 p.2 with
  | some v => slagBits ty v
  | none => r

/-! ### Issuing a class A word -/

/-- A class A word: the traps of `check`, then `out`'s writes, at once or late. -/
def State.issueA (s : State) (h : Hdr) (o : OpA) (sh : ShapeA) (late : Bool)
    (check : State → Ctx → List Nat → Option Trap) (out : State → Ctx → List Nat → List RegWrite) : State :=
  s.issueWord h (shapeDst sh o) (shapeSrc sh o) fun s c act =>
    match check s c act with
    | some t => .trap s t
    | none => if late then .done s [] (out s c act) else .done s (out s c act) []

def noTrap (_ : State) (_ : Ctx) (_ : List Nat) : Option Trap := none

/-- A word whose result in a lane is a number of bits of type `ty`. -/
def State.issueValue (s : State) (h : Hdr) (o : OpA) (sh : ShapeA) (late : Bool) (ty : Nat)
    (f : State → Ctx → List Nat → Nat → Nat) : State :=
  s.issueA h o sh late noTrap fun s c act => destWrites sh o act ty (f s c act)

/-- An integer word on A, B and C of its own type (R181). -/
def State.issueInt (s : State) (h : Hdr) (o : OpA) (sh : ShapeA) (late : Bool) (f : Int → Int → Int → Nat) : State :=
  let ty := o.ty.toNat
  let n := intWidth ty
  s.issueValue h o sh late ty fun s c _ l =>
    f (intOf ty (srcA s c.wave o l n)) (intOf ty (srcB s c.wave o l n)) (intOf ty (srcC s c.wave o l n))

/-- A bitwise word on N-bit patterns (R186): A, B as an N-bit value, B as the 32-bit count. -/
def State.issueBits (s : State) (h : Hdr) (o : OpA) (sh : ShapeA) (f : Nat → Nat → Nat → Nat → Nat) : State :=
  let ty := o.ty.toNat
  let n := intWidth ty
  s.issueValue h o sh false ty fun s c _ l =>
    f n (srcA s c.wave o l n) (srcB s c.wave o l n) (srcB s c.wave o l 32)

/-! ### Floating-point words -/

/-- An operation on elements, applied to each element of a packed type (R56). -/
def onElements (ty : Nat) (f : Nat → Nat → Nat → Nat) (x y z : Nat) : Nat :=
  if ty = 12 ∨ ty = 13 then
    f (x % 2 ^ 16) (y % 2 ^ 16) (z % 2 ^ 16) + 2 ^ 16 * f (x / 2 ^ 16) (y / 2 ^ 16) (z / 2 ^ 16)
  else f x y z

/-- Bits of a floating-point type's register form: packed types fill 32 bits. -/
def fpBits (ty : Nat) : Nat := if ty = 12 ∨ ty = 13 then 32 else (fmtOf ty).width

/-- A floating-point word of `k` operands (1: A, 2: A and B, 3: A, B and C) of type TY with its result in TY: slag is
rejected, or with SP = 1 passed on (R193). `f` acts on element patterns. -/
def State.issueFp (s : State) (h : Hdr) (o : OpA) (op : Nat) (sh : ShapeA) (k : Nat) (late : Bool)
    (f : Nat → Nat → Nat → Nat) : State :=
  let ty := o.ty.toNat
  let n := fpBits ty
  s.issueA h o sh late
    (fun s c act =>
      if o.sp && slagCarries ty then none
      else slagTrap op 0 act
        (([⟨0, ty, fun l => srcA s c.wave o l n⟩, ⟨1, ty, fun l => srcB s c.wave o l n⟩,
           ⟨2, ty, fun l => srcC s c.wave o l n⟩] : List Examined).take k))
    (fun s c act => destWrites sh o act ty fun l =>
      let one (x y z : Nat) : Nat := orSlag ty (([(ty, x), (ty, y), (ty, z)] : List (Nat × Nat)).take k) (f x y z)
      onElements ty one (srcA s c.wave o l n) (if k ≥ 2 then srcB s c.wave o l n else 0)
        (if k ≥ 3 then srcC s c.wave o l n else 0))

/-! ### Class B -/

/-- A class B word is uniform (R155). -/
def opBUniform (o : OpB) : Bool := decide (192 ≤ o.d.toNat)

/-- The vector register that a class B word writes. -/
def opBDst (o : OpB) : List Nat := if opBUniform o then [] else [o.d.toNat]
/-- The vector register that a class B word reads. -/
def opBSrc (o : OpB) (readsA : Bool) : List Nat := if opBUniform o || !readsA then [] else [o.a.toNat]

/-- A class B word with a register result (R204): on 32 bits in each active lane, or on 64 bits once. -/
def State.issueB (s : State) (h : Hdr) (o : OpB) (readsA : Bool) (vec : Nat → Nat) (uni : Word → Word) : State :=
  s.issueWord h (opBDst o) (opBSrc o readsA) fun s c act =>
    if opBUniform o then .done s [.uni (o.d.toNat - 192) (uni (if readsA then s.readU c.wave o.a.toNat else
      s.readU c.wave (o.d.toNat - 192)))] []
    else .done s (act.map fun l =>
      .vec l o.d.toNat (BitVec.ofNat 32 (vec (if readsA then (s.readV c.wave l o.a.toNat).toNat else 0)))) []

end Sys2Proof.Machine
end

