-- ==== Sys2Proof/Machine/Access.lean ====
section
/-! DEFINITION. What the memory instructions share: windows and apertures (R82 to R85, R402), alignment and contiguity
(R399 to R401, R215), scratchpad passes (R86 to R89), presence (R91), poison (R419), transactions' capacity (R136). -/
namespace Sys2Proof.Machine

/-- Where the bytes of a lane's access lie: at virtual addresses of global memory, or at offsets of a block's
scratchpad (by the block's number in the model). -/
inductive Place where
  | global (va : Nat)
  | local (block : Nat) (stack : Bool) (offs : List Nat)
  deriving DecidableEq, Repr

/-- The offsets of a stack access (R85). -/
def stackOffset (card : Card) (tid bid o : Nat) : Nat :=
  let n := card.waves * 32
  let j := tid % card.threads - bid * card.waves * 32
  card.shared + o / 4 * 4 * n + 4 * j + o % 4

/-- A generic address and width in a lane's windows, where the offset is valid (Table 4-1, R402). -/
def State.place (s : State) (c : Ctx) (l a g : Nat) : Option Place :=
  let t := c.wave.thread l
  match windowOf a with
  | 0 => if a + g ≤ stackBase then some (.global a) else none
  | 1 =>
    let o := a - stackBase
    if o + g ≤ c.card.stack then
      some (.local (s.homeBlock c l) true ((List.range g).map fun i => stackOffset c.card t.tid t.bid (o + i)))
    else none
  | 2 =>
    let x := a - clusterBase
    if x / 2 ^ 20 < c.card.blocks ∧ x % 2 ^ 20 + g ≤ c.card.shared then
      some (.local (s.blockOf c.cl (x / 2 ^ 20)) false ((List.range g).map fun i => x % 2 ^ 20 + i))
    else none
  | 3 =>
    let o := a - blockBase
    if o + g ≤ c.card.shared then some (.local (s.homeBlock c l) false ((List.range g).map fun i => o + i)) else none
  | _ => none

/-- How the global lanes of a word must be placed among themselves (R400). -/
inductive Contig where
  | free
  | step (k : Int)
  /-- all at one location, or contiguous with this step (R226) -/
  | oneOr (k : Nat)
  deriving DecidableEq, Repr

/-- The address that contiguity requires of lane `i`, from the lowest global lane (R215). -/
def requiredAddr (first : Nat × Nat) (k : Int) (i : Nat) : Nat :=
  ofSigned 64 ((first.2 : Int) + ((i : Int) - first.1) * k)

/-- Step 3 of R399: aperture, alignment, contiguity; else where each lane's bytes lie. `windows` are those that the
instruction can address, `addrs` the generic addresses by lane. -/
def State.placeAll (s : State) (c : Ctx) (windows : List Nat) (g : Nat) (cg : Contig) (addrs : List (Nat × Nat)) :
    Except Trap (List (Nat × Place)) :=
  let placed := addrs.map fun p =>
    (p, if windows.contains (windowOf p.2) then s.place c p.1 p.2 g else none)
  match placed.filter fun p => p.2.isNone with
  | p :: rest => .error (.error 0x0103 p.1.2 (windowOf p.1.2) ((p :: rest).map fun q => q.1.1))
  | [] =>
    match addrs.filter fun p => p.2 % g != 0 with
    | p :: rest => .error (.error 0x0102 p.2 g ((p :: rest).map Prod.fst))
    | [] =>
      let glob := addrs.filter fun p => windowOf p.2 == 0
      let spots := placed.filterMap fun p => p.2.map fun q => (p.1.1, q)
      let against (k : Int) : Except Trap (List (Nat × Place)) :=
        match glob with
        | [] => .ok spots
        | first :: _ =>
          match glob.filter fun p => p.2 != requiredAddr first k p.1 with
          | [] => .ok spots
          | p :: rest => .error (.error 0x0101 p.2 (requiredAddr first k p.1) ((p :: rest).map Prod.fst))
      match cg with
      | .free => .ok spots
      | .step k => against k
      | .oneOr k => if glob.all fun p => p.2 == (glob.headD (0, 0)).2 then .ok spots else against k

/-! ### Addresses of the lanes -/

def signedOff (o : OpM) (n : Nat) : Int := toSigned n (o.off.toNat % 2 ^ n)

/-- A 64-bit base: s(A), or the lane's pair. -/
def baseOf (s : State) (w : Wave) (o : OpM) (l : Nat) : Nat :=
  if o.ua then (s.readU w o.a.toNat).toNat else (s.readPair w l o.a.toNat).toNat

/-- A 32-bit base: A[31:0]. -/
def baseOf32 (s : State) (w : Wave) (o : OpM) (l : Nat) : Nat :=
  if o.ua then (s.readU w o.a.toNat).toNat % 2 ^ 32 else (s.readV w l o.a.toNat).toNat

/-- Base registers of a word. -/
def baseRegs (o : OpM) (pair : Bool) : List Nat :=
  if o.ua then [] else if pair then [o.a.toNat, o.a.toNat + 1] else [o.a.toNat]

/-- The uniform register of a memory word's base. -/
def baseUni (o : OpM) : List Nat := if o.ua then [o.a.toNat] else []

/-- Bytes per lane (R212). -/
def widthOf (o : OpM) : Nat := 2 ^ o.w.toNat

/-- The registers of a lane's data group (R212). -/
def groupRegs (o : OpM) : List Nat :=
  let n := if o.w.toNat = 3 then 2 else if o.w.toNat = 4 then 4 else 1
  (List.range n).map fun i => o.d.toNat + i

/-- The stride register of LDGS and STGS, as a signed number, or the width of LDG and STG (R215). -/
def strideOf (s : State) (w : Wave) (o : OpM) (strided : Bool) : Int :=
  if strided then (s.readU w (offFrom o 14)).toInt else (widthOf o : Nat)

/-- The generic addresses of LDG, STG, LDGS and STGS (R215). With a vector base each lane's own pair gives its address,
which contiguity compares. -/
def globalAddrs (s : State) (c : Ctx) (o : OpM) (strided : Bool) (act : List Nat) : List (Nat × Nat) :=
  let off := if strided then signedOff o 14 else signedOff o 20
  let step := strideOf s c.wave o strided
  act.map fun l =>
    (l, ofSigned 64 ((baseOf s c.wave o l : Int) + (if o.ua then (l : Int) * step else 0) + off))

/-- The generic addresses of LD, ST, ATOM and RED (R219, R226): `bits` is the width of the offset field. -/
def genericAddrs (s : State) (c : Ctx) (o : OpM) (bits : Nat) (act : List Nat) : List (Nat × Nat) :=
  act.map fun l => (l, ofSigned 64 ((baseOf s c.wave o l : Int) + signedOff o bits))

/-- The generic addresses of the scratchpad and stack instructions, from their 32-bit offsets (R219). -/
def windowAddrs (s : State) (c : Ctx) (o : OpM) (base : Nat) (act : List Nat) : List (Nat × Nat) :=
  act.map fun l => (l, base + ofSigned 32 ((baseOf32 s c.wave o l : Int) + signedOff o 20))

/-! ### Scratchpad -/

/-- The crossbar's units of a lane's access: the words of one unit (R87). -/
def unitsOf : Place → List (List Nat)
  | .global _ => []
  | .local _ stack offs =>
    let words := distinct (offs.map (· / 4))
    if stack then (sortBy id words).map fun w => [w] else [words]

/-- One pass of R87: the units left pending. -/
def scratchPass (pending : List (List Nat)) : List (List Nat) :=
  let sel : Tab Nat := pending.foldl (fun t u =>
    u.foldl (fun (t : Tab Nat) w => if (t.find (w % 64)).isSome then t else t.insert (w % 64) w) t) []
  pending.filter fun u => u.any fun w => sel.find (w % 64) != some w

/-- The passes that units take; `fuel` bounds them by the number of units (R87). -/
def scratchPasses : Nat → List (List Nat) → Nat
  | 0, _ => 0
  | fuel + 1, pending => if pending.isEmpty then 0 else 1 + scratchPasses fuel (scratchPass pending)

/-- The blocks whose scratchpads lanes touch. -/
def placeBlocks (spots : List (Nat × Place)) : List Nat :=
  distinct (spots.filterMap fun p => match p.2 with | .local b _ _ => some b | _ => none)

/-- The conflicts of a scratchpad instruction are added to the count of each core that serves it (R89). -/
def State.countConflicts (s : State) (g : Nat) (spots : List (Nat × Place)) : State :=
  (placeBlocks spots).foldl (fun s b =>
    let mine := spots.filter fun p => match p.2 with | .local b' _ _ => b' == b | _ => false
    let units := mine.flatMap fun p => unitsOf p.2
    let least := if g = 16 ∧ mine.length > 16 then 2 else 1
    s.onCore (s.block b).core fun k =>
      { k with sconf := k.sconf + BitVec.ofNat 64 (scratchPasses units.length units - least) }) s

/-- Some line that the lanes touch is absent (R91). -/
def State.someAbsent (s : State) (spots : List (Nat × Place)) : Bool :=
  spots.any fun p => match p.2 with
    | .local b _ offs => offs.any fun o => (s.block b).absent.contains (o / 128)
    | _ => false

/-- Bytes of a block's scratchpad. -/
def Block.bytesAt (b : Block) (offs : List Nat) : List Byte := offs.map fun o => b.scratch.getD o 0

/-- Bytes written to a block's scratchpad; a word written whole loses its poison (R419). -/
def Block.store (b : Block) (bytes : List (Nat × Byte)) : Block :=
  let b' := { b with scratch := bytes.foldl (fun t p => t.put p.1 p.2 0) b.scratch }
  if b.poison.isEmpty then b'
  else
    let offs := bytes.map Prod.fst
    { b' with poison := b.poison.filter fun w => !(List.range 4).all fun i => offs.contains (4 * w + i) }

/-- The bits of a scratchpad byte that only hardware writes (R7): CLM, WP, RP and POISON of an arrival ring object that a
RING has initialised (Table 9-6, log entry 77). -/
def Block.hardBits (b : Block) (o : Nat) : Byte :=
  if (b.inits.find (o / 32 * 32)).isNone then 0
  else if 16 ≤ o % 32 ∧ o % 32 < 28 then 0xFF else if o % 32 = 10 then 1 else 0

/-- Bytes that software stores to a block's scratchpad: the bits that only hardware writes keep their values. -/
def Block.softStore (b : Block) (bytes : List (Nat × Byte)) : Block :=
  if b.inits.isEmpty then b.store bytes
  else b.store ((bytes.filter fun p => b.hardBits p.1 != 0xFF).map fun p =>
    (p.1, (p.2 &&& ~~~(b.hardBits p.1)) ||| (b.scratch.getD p.1 0 &&& b.hardBits p.1)))

/-! ### Translation and poison -/

/-- The virtual addresses of the lanes' global bytes. -/
def globalVas (g : Nat) (spots : List (Nat × Place)) : List Nat :=
  spots.flatMap fun p => match p.2 with
    | .global va => [va, va + g - 1]
    | _ => []

/-- Step 5 of R399 for a word: the pages of its global lanes, the misses to park on, or a program error (R407). -/
def State.wordPages (s : State) (c : Ctx) (g : Nat) (acc : Access) (spots : List (Nat × Place)) :
    Except Effect (Tab Nat) × State :=
  match s.translateAll (s.requester c) (globalVas g spots) acc with
  | (.ok pages, s) => (.ok pages, s)
  | (.park on, s) => (.error (.miss s on), s)
  | (.error code a b va, s) =>
    let bad := (spots.filter fun p => (globalVas g [p]).any fun x => x / 4096 == va / 4096).map Prod.fst
    (.error (.trap s (.error code a b bad)), s)

/-- A lane's read meets poison at its home: INFO0 and INFO1 of 0x0106. `fresh` says which bytes come from the home. -/
def State.lanePoison (s : State) (g : Nat) (pages : Tab Nat) (fresh : Nat → Bool) (p : Place) : Option (Nat × Nat) :=
  match p with
  | .global va =>
    firstSome (List.range g) fun i =>
      let pa := pageAddr pages (va + i)
      if fresh pa then (s.poisonRead pa).map fun k => (pa / 32 * 32, k) else none
  | .local b _ offs =>
    let x := s.block b
    if x.poison.isEmpty then none
    else firstSome offs fun o => if x.poison.contains (o / 4) then some (poisonPlace (o / 4 * 4), 1) else none

/-- Step 6 of R399: `fresh` says of a lane and a byte that it is read at its home. -/
def State.poisonTrap (s : State) (g : Nat) (pages : Tab Nat) (fresh : Nat → Nat → Bool) (spots : List (Nat × Place)) :
    Option Trap :=
  match spots.filterMap fun p => (s.lanePoison g pages (fresh p.1) p.2).map fun i => (p.1, i) with
  | [] => none
  | p :: rest => some (.error 0x0106 p.2.1 p.2.2 ((p :: rest).map Prod.fst))

/-! ### Objects and scopes -/

/-- The 8-byte-aligned words that the lanes touch, as synchronisation objects (R213): global ones by virtual address,
scratchpad ones by their offset in the block window. -/
def State.wordObjs (s : State) (c : Ctx) (g : Nat) (spots : List (Nat × Place)) : List Obj :=
  distinct (spots.flatMap fun p => match p.2 with
    | .global va => [wordObj va, wordObj (va + g - 1)]
    | .local b _ offs => offs.map fun o =>
        { kind := 0, cluster := some c.cl, block := some (s.block b).index, addr := blockBase + o / 8 * 8 })

/-- The codes of the words that the lanes touch, global ones by physical address (R129). -/
def syncWords (g : Nat) (pages : Tab Nat) (spots : List (Nat × Place)) : List Nat :=
  distinct (spots.flatMap fun p => match p.2 with
    | .global va => [wordCode (pageAddr pages va / 8), wordCode (pageAddr pages (va + g - 1) / 8)]
    | .local b _ offs => offs.map (localCode b))

/-- A sift has moved a live thread of a lane's home block to another block's core, or holds one that it may place there
(R116). -/
def State.spread (s : State) (c : Ctx) (lanes : List Nat) : Bool :=
  let bids := lanes.map fun l => (c.wave.thread l).bid
  (decide (1 < c.card.blocks) && match (s.cluster c.cl).sift with
    | some f => f.arrived.any fun t => bids.contains t.bid
    | none => false) ||
  s.waves.any fun p => p.2.cluster == c.cl && !p.2.ended && p.2.threads.any fun t =>
    t.live && t.bid != p.2.host && bids.contains t.bid

/-- A scope as a word's lanes make it act: block scope has every guarantee of cluster scope while the block has threads
on other cores, so that those synchronise with the threads that have stayed (R116). -/
def State.widen (s : State) (c : Ctx) (sc : Nat) (lanes : List Nat) : Nat := if sc = 2 ∧ s.spread c lanes then 3 else sc

/-- The scope at which a strong access of a wave acts: that of its global lanes, at most cluster scope in a scratchpad,
wave scope on the stack (R116, R123). -/
def State.scopeFor (s : State) (c : Ctx) (sc : Nat) (spots : List (Nat × Place)) : Nat :=
  let sc := s.widen c sc (spots.map Prod.fst)
  maxOf spots fun p => match p.2 with
    | .global _ => sc
    | .local _ stack _ => if stack then min sc 1 else min sc 3

/-! ### Transactions -/

/-- A lane's thread has an open transaction. -/
def Wave.inTxn (w : Wave) (l : Nat) : Bool := (w.thread l).txn.isSome

/-- The virtual lines of a lane's global access. -/
def placeLines (g : Nat) : Place → List Nat
  | .global va => distinct [va / 128, (va + g - 1) / 128]
  | _ => []

/-- The lines that a lane's transaction comes to hold with one more access. -/
def Txn.touch (x : Txn) (write : Bool) (lines : List Nat) : Txn :=
  if write then { x with wlines := distinct (x.wlines ++ lines) } else { x with rlines := distinct (x.rlines ++ lines) }

/-- The capacity of transactions (R136, causes 3 to 5 of Table 8-12), decided before translation: the lanes that go
on. -/
def State.txnCapacity (s : State) (c : Ctx) (write : Bool) (g : Nat) (spots : List (Nat × Place)) :
    List (Nat × Place) × State :=
  let w := s.wave c.w
  if !(spots.any fun p => w.inTxn p.1) then (spots, s)
  else
    let lines (l : Nat) : List Nat := (spots.filter fun p => p.1 == l).flatMap fun p => placeLines g p.2
    let w := w.onLanes (spots.map Prod.fst) fun l t => { t with txn := t.txn.map fun x => x.touch write (lines l) }
    let spent (l : Nat) : Option Nat := (w.thread l).txn.bind fun x =>
      if x.rlines.length > 32 then some 3 else if x.wlines.length > 16 then some 4 else none
    let all := distinct (w.threads.flatMap fun t => match t.txn with
      | some x => x.rlines ++ x.wlines
      | none => [])
    let s := s.onWave c.w fun _ => w
    if all.length > 256 then
      let tx := (List.range 32).filter fun l => w.inTxn l
      let here := tx.filter fun l => c.lanes.contains l
      let away := tx.filter fun l => !c.lanes.contains l
      let s := s.abortLanes c here 5 0
      (spots.filter fun p => !tx.contains p.1,
        s.onWave c.w fun w => w.onLanes away fun _ t => t.abort 5 0)
    else
      let bad (k : Nat) : List Nat := (spots.map Prod.fst).filter fun l => spent l == some k
      let s := (s.abortLanes c (bad 3) 3 0).abortLanes c (bad 4) 4 0
      (spots.filter fun p => (spent p.1).isNone, s)

end Sys2Proof.Machine
end

