-- ==== Sys2Proof/Machine/MemAccess.lean ====
section
/-! DEFINITION. The meanings of loads and stores (R211 to R221) and of PREF (R224). -/
namespace Sys2Proof.Machine

/-- How an instruction of Tables 8-2 and 8-3 addresses memory: its windows, its lanes' generic addresses, its
contiguity rule, and whether A is a pair. -/
structure Form where
  windows : List Nat
  pair    : Bool
  addrs   : State → Ctx → OpM → List Nat → List (Nat × Nat)
  contig  : State → Ctx → OpM → Contig

/-- LDG, STG, LDGS, STGS (R215). -/
def formGlobal (strided : Bool) : Form :=
  { windows := [0], pair := true
    addrs := fun s c o act => globalAddrs s c o strided act
    contig := fun s c o => if o.ua then .free else .step (strideOf s c.wave o strided) }

/-- LDS, STS, LDC, STC, LDL, STL (R219). -/
def formWindow (base : Nat) : Form :=
  { windows := [1, 2, 3], pair := false
    addrs := fun s c o act => windowAddrs s c o base act
    contig := fun _ _ _ => .free }

/-- LD and ST (R221). -/
def formGeneric : Form :=
  { windows := [0, 1, 2, 3], pair := true
    addrs := fun s c o act => genericAddrs s c o 20 act
    contig := fun _ _ o => if o.ua then .free else .step (widthOf o : Nat) }

/-- ATOM and RED (R226). -/
def formAtomic : Form :=
  { windows := [0, 1, 2, 3], pair := true
    addrs := fun s c o act => genericAddrs s c o 16 act
    contig := fun _ _ o => .oneOr (widthOf o) }

/-! ### Loads -/

/-- The writes of a lane's loaded bytes (R212). -/
def groupWrites (o : OpM) (l : Nat) (bytes : List Byte) : List RegWrite :=
  let x := natOfBytes bytes
  let d := o.d.toNat
  let part (i : Nat) : RegWrite := .vec l (d + i) (BitVec.ofNat 32 (slice x (32 * i) 32))
  match o.w.toNat with
  | 0 => [.vec l d (BitVec.ofNat 32 (if o.sg then ofSigned 32 (toSigned 8 x) else x))]
  | 1 => [.vec l d (BitVec.ofNat 32 (if o.sg then ofSigned 32 (toSigned 16 x) else x))]
  | 2 => [part 0]
  | 3 => [part 0, part 1]
  | _ => [part 0, part 1, part 2, part 3]

/-- How a load reads: past the caches when it is strong, transactional, .BY, or of a deterministic job (R120, R394);
filling them only with CQ = 00 (R93). -/
def loadPath (c : Ctx) (o : OpM) : LoadPath :=
  { core := c.core, skip := c.det || o.cq.toNat == 1 || o.sc.toNat != 0, fill := o.cq.toNat == 0 }

/-- A byte that a lane's global load returns (R92, R242). -/
def State.laneByte (s : State) (c : Ctx) (p : LoadPath) (rsb : List Buffered) (l pa : Nat) : Byte :=
  match (c.wave.thread l).txn with
  | some x => (x.writes.find pa).getD (s.loadByte { p with skip := true } rsb pa)
  | none => s.loadByte p rsb pa

/-- The bytes of a lane's access. -/
def State.laneBytes (s : State) (c : Ctx) (p : LoadPath) (rsb : List Buffered) (g : Nat) (pages : Tab Nat)
    (l : Nat) : Place → List Byte
  | .global va => (List.range g).map fun i => s.laneByte c p rsb l (pageAddr pages (va + i))
  | .local b _ offs => (s.block b).bytesAt offs

/-- A byte comes from its home, where it may be poisoned (R419): not from the wave's buffer, the commit buffer or a
cache. -/
def State.fromHome (s : State) (c : Ctx) (p : LoadPath) (pa : Nat) : Bool :=
  (bufferedByte (s.wave c.w).rsb pa).isNone && (committedByte (s.core c.core) pa).isNone &&
    (p.skip || ((cachedByte (s.core c.core).l1 pa).isNone && (cachedByte (s.die (dieOfCore c.core)).rdc pa).isNone))

/-- A byte that a lane reads comes from its home: a transaction's reads are fresh, but for what it has written itself. -/
def State.laneFresh (s : State) (c : Ctx) (p : LoadPath) (l pa : Nat) : Bool :=
  match (c.wave.thread l).txn with
  | some x => (x.writes.find pa).isNone && s.fromHome c { p with skip := true } pa
  | none => s.fromHome c p pa

/-- The bytes that a transaction reads, kept with their values (R136). -/
def Txn.read (x : Txn) (bytes : List (Nat × Byte)) : Txn :=
  bytes.foldl (fun x p =>
    if (x.writes.find p.1).isSome then x
    else match x.reads.find p.1 with
      | some b => if b = p.2 then x else { x with torn := true }
      | none => { x with reads := x.reads.insert p.1 p.2 }) x

/-- The addresses of the global bytes that a lane reads. -/
def laneVas (g : Nat) (q : Nat × Place) : List Nat :=
  match q.2 with
  | .global va => (List.range g).map fun i => va + i
  | _ => []

/-- The checks of R394 for a word's reads: the marks, or the conflict at the first sector that meets one, with every lane
that meets one (R376). -/
def Det.readAll (d : Det) (t g : Nat) (pages : Tab Nat) (spots : List (Nat × Place)) : Except Trap Det :=
  let check (l : List (Nat × Place)) : Except (Nat × Nat × Nat) Det :=
    d.checkAll t false ((l.flatMap (laneVas g)).map fun a => (pageAddr pages a, a))
  match check spots with
  | .ok d => .ok d
  | .error (va, k, u) =>
    .error (.error 0x0014 va (u + k * 2 ^ 32)
      ((spots.filter fun q => match check [q] with | .error _ => true | .ok _ => false).map Prod.fst))

/-- What a load's accesses leave behind: fills of the caches, transactional reads, and the marks of R394, which may
conflict. -/
def State.noteLoad (s : State) (c : Ctx) (p : LoadPath) (g : Nat) (pages : Tab Nat) (spots : List (Nat × Place)) :
    Except Trap State :=
  let vas := laneVas g
  let rsb := (s.wave c.w).rsb
  let plain := spots.filter fun q => !(c.wave.inTxn q.1)
  let tx := spots.filter fun q => c.wave.inTxn q.1
  let marked : Except Trap State :=
    if c.det then
      ((s.job c.job).det.readAll c.task g pages spots).map fun d =>
        s.onJob c.job fun j => { j with det := d.hasRead c.task (syncWords g pages spots) }
    else .ok s
  marked.map fun s =>
    let s := s.onOrder c 5 fun d a keys => d.hasRead a keys (syncWords g pages spots)
    let s := s.fillFor p rsb ((plain.flatMap vas).map fun a => pageAddr pages a)
    if tx.isEmpty then s
    else s.onWave c.w fun w => w.onLanes (tx.map Prod.fst) fun l t =>
      { t with txn := t.txn.map fun x => x.read (((tx.filter fun q => q.1 == l).flatMap vas).map fun a =>
          (pageAddr pages a, s.laneByte c p rsb l (pageAddr pages a))) }

/-- Steps 3 to 6 of R399 for a load. -/
def State.prepareLoad (s : State) (c : Ctx) (f : Form) (o : OpM) (act : List Nat) :
    Except Effect (List (Nat × Place) × Tab Nat) × State :=
  let g := widthOf o
  match s.placeAll c f.windows g (f.contig s c o) (f.addrs s c o act) with
  | .error t => (.error (.trap s t), s)
  | .ok spots =>
    let (spots, s) := s.txnCapacity c false g spots
    match s.wordPages c g .read spots with
    | (.error e, s) => (.error e, s)
    | (.ok pages, s) =>
      if s.someAbsent spots then (.error (.again s .absent), s)
      else match s.poisonTrap g pages (s.laneFresh c (loadPath c o)) spots with
        | some t => (.error (.trap s t), s)
        | none => (.ok (spots, pages), s)

/-- The load itself (R217, R220): its results are variable-latency. -/
def State.performLoad (s : State) (c : Ctx) (o : OpM) (spots : List (Nat × Place)) (pages : Tab Nat)
    (after : State → State) : Effect :=
  let g := widthOf o
  let p := loadPath c o
  let rsb := (s.wave c.w).rsb
  let out := spots.flatMap fun q => groupWrites o q.1 (s.laneBytes c p rsb g pages q.1 q.2)
  match s.noteLoad c p g pages spots with
  | .error t => .trap s t
  | .ok s => .done (after (s.countConflicts g spots)) [] out

/-- A load with ORD ≠ 00 meets the checks of R394 before its boundary commits (R376): first those of the stores to be
committed, then its own, to which an acquiring load brings what its words carry. -/
def State.loadConflict (s : State) (c : Ctx) (o : OpM) (act : List Nat) (spots : List (Nat × Place)) (pages : Tab Nat) :
    Option Trap :=
  if c.det then
    match Det.checkAll (s.job c.job).det c.task true (commitAccesses (s.wave c.w).rsb) with
    | .error (va, k, t) => some (.error 0x0014 va (t + k * 2 ^ 32) act)
    | .ok d =>
      let keys := scopeKeys (s.scopeFor c o.sc.toNat spots) (groupOfCore c.core)
      let d := if o.ord.toNat % 2 = 1 then d.acquire c.task keys (syncWords (widthOf o) pages spots) else d
      match d.readAll c.task (widthOf o) pages spots with
      | .error t => some t
      | .ok _ => none
  else none

/-- A load (R213): with ORD ≠ 00 a region boundary, which releases first for 10 and 11 and acquires after its last lane
for 01 and 11. -/
def State.issueLoad (s : State) (h : Hdr) (o : OpM) (f : Form) : State :=
  let src := baseRegs o f.pair
  let ord := o.ord.toNat
  if ord = 0 then
    s.issueWord h (groupRegs o) src fun s c act =>
      match s.prepareLoad c f o act with
      | (.error e, _) => e
      | (.ok (spots, pages), s) => s.performLoad c o spots pages id
  else
    s.issueBoundary h (groupRegs o) src
      (fun s c act => match s.prepareLoad c f o act with
        | (.error e, _) => some e
        | (.ok (spots, pages), s) => (s.loadConflict c o act spots pages).map fun t => .trap s t)
      (fun s c act => match s.prepareLoad c f o act with
        | (.error e, _) => e
        | (.ok (spots, pages), s) =>
          let g := widthOf o
          let objs := s.wordObjs c g spots
          let words := syncWords g pages spots
          let sc := s.scopeFor c o.sc.toNat spots
          -- the load of a released word happens after the release (R129), so the acquire comes before its checks
          let perform (s : State) : Effect :=
            if ord % 2 = 1 then
              (s.noteAcquire c sc words).performLoad c o spots pages fun s => s.acquire c sc objs words
            else s.performLoad c o spots pages id
          if ord ≥ 2 then s.releaseThen c sc objs fun s => perform (s.noteRelease c sc []) else perform s)
      (baseUni o)

def execLdg (h : Hdr) (o : OpM) (s : State) : Out := .next (s.issueLoad h o (formGlobal false))
def execLdgs (h : Hdr) (o : OpM) (s : State) : Out := .next (s.issueLoad h o (formGlobal true))
def execLds (h : Hdr) (o : OpM) (s : State) : Out := .next (s.issueLoad h o (formWindow blockBase))
def execLdc (h : Hdr) (o : OpM) (s : State) : Out := .next (s.issueLoad h o (formWindow clusterBase))
def execLdl (h : Hdr) (o : OpM) (s : State) : Out := .next (s.issueLoad h o (formWindow stackBase))
def execLd (h : Hdr) (o : OpM) (s : State) : Out := .next (s.issueLoad h o formGeneric)

/-! ### Stores -/

/-- The bytes that a lane stores, from its data group (R212). -/
def storeData (s : State) (w : Wave) (o : OpM) (l : Nat) : List Byte :=
  bytesOfNat (widthOf o) (natOfBytes ((groupRegs o).flatMap fun r => bytesOfNat 4 (s.readV w l r).toNat))

/-- The bytes that a store writes, in ascending lane order: physical address, virtual address, byte. -/
def globalStores (s : State) (c : Ctx) (o : OpM) (pages : Tab Nat) (spots : List (Nat × Place)) :
    List (Nat × Nat × Byte) :=
  spots.flatMap fun p => match p.2 with
    | .global va => (storeData s c.wave o p.1).mapIdx fun i b => (pageAddr pages (va + i), va + i, b)
    | _ => []

/-- The bytes that a store writes to a block's scratchpad, in ascending lane order. -/
def localStores (s : State) (c : Ctx) (o : OpM) (b : Nat) (spots : List (Nat × Place)) : List (Nat × Byte) :=
  spots.flatMap fun p => match p.2 with
    | .local b' _ offs => if b' = b then offs.zip (storeData s c.wave o p.1) else []
    | _ => []

/-- The scratchpad and stack bytes of a store, written at once in ascending lane order (R88, R220); a word that several
lanes write whole between them loses its poison (R419). -/
def State.storeLocal (s : State) (c : Ctx) (o : OpM) (spots : List (Nat × Place)) : State :=
  (placeBlocks spots).foldl (fun s' b => s'.onBlock b fun x => x.softStore (localStores s c o b spots)) s

/-- Steps 3 to 5 of R399 for a store. -/
def State.prepareStore (s : State) (c : Ctx) (f : Form) (o : OpM) (act : List Nat) :
    Except Effect (List (Nat × Place) × Tab Nat) × State :=
  let g := widthOf o
  match s.placeAll c f.windows g (f.contig s c o) (f.addrs s c o act) with
  | .error t => (.error (.trap s t), s)
  | .ok spots =>
    let (spots, s) := s.txnCapacity c true g spots
    match s.wordPages c g .write spots with
    | (.error e, s) => (.error e, s)
    | (.ok pages, s) => if s.someAbsent spots then (.error (.again s .absent), s) else (.ok (spots, pages), s)

/-- The global bytes of a lane's open transaction go to its write set (R242). -/
def Txn.write (x : Txn) (bytes : List (Nat × Nat × Byte)) : Txn :=
  { x with
    writes := bytes.foldl (fun t b => t.insert b.1 b.2.2) x.writes
    words := distinct (x.words ++ bytes.map fun b => b.2.1 / 8 * 8) }

/-- The scratchpad and stack lanes of a word. -/
def nearLanes (spots : List (Nat × Place)) : List (Nat × Place) :=
  spots.filter fun p => match p.2 with | .global _ => false | _ => true

/-- The store's own part: global bytes into the region store buffer, with `scope` that of its entries, or into open
transactions; scratchpad and stack bytes at once (R216, R220, R124, R242). -/
def State.performStore (s : State) (c : Ctx) (o : OpM) (spots : List (Nat × Place)) (pages : Tab Nat) (scope : Nat) :
    Except Trap State :=
  let plain := spots.filter fun p => !(c.wave.inTxn p.1)
  let tx := spots.filter fun p => c.wave.inTxn p.1
  let mine (l : Nat) : List (Nat × Nat × Byte) := globalStores s c o pages (tx.filter fun p => p.1 == l)
  match bufferStore (s.wave c.w).rsb scope (globalStores s c o pages plain) with
  | .error va => .error (.error 0x0008 va 0 (spots.map Prod.fst))
  | .ok rsb =>
    let s' := s.onWave c.w fun w =>
      let w := w.onLanes (tx.map Prod.fst) fun l t => { t with txn := t.txn.map fun x => x.write (mine l) }
      { w with rsb }
    let near := syncWords (widthOf o) pages (nearLanes spots)
    .ok (((s'.storeLocal c o spots).noteWrites c (decide (2 ≤ o.ord.toNat)) near).countConflicts (widthOf o) spots)

/-- A store with ORD ≠ 00 meets the checks of R394 with its own sectors before its boundary commits. -/
def State.storeConflict (s : State) (c : Ctx) (o : OpM) (spots : List (Nat × Place)) (pages : Tab Nat) : Option Trap :=
  if c.det then
    let mine := (globalStores s c o pages spots).map fun b => (b.1, b.2.1)
    match Det.checkAll (s.job c.job).det c.task true (commitAccesses (s.wave c.w).rsb ++ mine) with
    | .error (va, k, t) => some (.error 0x0014 va (t + k * 2 ^ 32) (spots.map Prod.fst))
    | .ok _ => none
  else none

/-- A store (R213): with ORD ≠ 00 a region boundary, performed itself at its scope (R124), with 10 and 11 after a
release on the words that it touches. -/
def State.issueStore (s : State) (h : Hdr) (o : OpM) (f : Form) : State :=
  let src := groupRegs o ++ baseRegs o f.pair
  let ord := o.ord.toNat
  if ord = 0 then
    s.issueWord h [] src fun s c act =>
      match s.prepareStore c f o act with
      | (.error e, _) => e
      | (.ok (spots, pages), s) =>
        match s.performStore c o spots pages (s.scopeFor c o.sc.toNat spots) with
        | .error t => .trap s t
        | .ok s => .done s [] []
  else
    s.issueBoundary h [] src
      (fun s c act => match s.prepareStore c f o act with
        | (.error e, _) => some e
        | (.ok (spots, pages), s) => (s.storeConflict c o spots pages).map fun t => .trap s t)
      (fun s c act => match s.prepareStore c f o act with
        | (.error e, _) => e
        | (.ok (spots, pages), s) =>
          let sc := s.scopeFor c o.sc.toNat spots
          let perform (s : State) : Effect :=
            match s.performStore c o spots pages sc with
            | .error t => .trap s t
            | .ok s =>
              match s.commit c act (decide (ord ≥ 2)) with
              | .error t => .trap s t
              | .ok s => .done (if ord ≥ 2 then s.noteRelease c sc (syncWords (widthOf o) pages spots) else s) [] []
          if ord ≥ 2 then s.releaseThen c sc (s.wordObjs c (widthOf o) spots) perform else perform s)
      (baseUni o) (fun s c act => (f.addrs s c o act).any fun p => windowOf p.2 == 0)

def execStg (h : Hdr) (o : OpM) (s : State) : Out := .next (s.issueStore h o (formGlobal false))
def execStgs (h : Hdr) (o : OpM) (s : State) : Out := .next (s.issueStore h o (formGlobal true))
def execSts (h : Hdr) (o : OpM) (s : State) : Out := .next (s.issueStore h o (formWindow blockBase))
def execStc (h : Hdr) (o : OpM) (s : State) : Out := .next (s.issueStore h o (formWindow clusterBase))
def execStl (h : Hdr) (o : OpM) (s : State) : Out := .next (s.issueStore h o (formWindow stackBase))
def execSt (h : Hdr) (o : OpM) (s : State) : Out := .next (s.issueStore h o formGeneric)

/-! ### Prefetch -/

/-- A prefetch of one lane's line (R224): CQ = 00 fills L1, and the remote-data cache for a remote home; a line whose
translation does not hold is skipped. CQ = 10 fills a home L2, which holds what memory holds. -/
def State.prefetch (s : State) (c : Ctx) (va : Nat) : State :=
  let q := s.requester c
  match s.walk q.asid q.root va with
  | .leaf l _ => s.fillLine c.core (l.addr va / 128)
  | _ => s

/-- PREF (R224): a no-operation with CQ = 01; lanes outside the global window or that break R215 are skipped. -/
def execPref (h : Hdr) (o : OpM) (s : State) : Out :=
  .next (s.issueWord h [] (baseRegs o true) fun s c act =>
    let addrs := globalAddrs s c o false act
    let first := addrs.headD (0, 0)
    let fits (p : Nat × Nat) : Bool :=
      p.2 + widthOf o ≤ stackBase && p.2 % widthOf o == 0 && (o.ua || p.2 == requiredAddr first (widthOf o : Nat) p.1)
    if o.cq.toNat = 0 then
      .done ((addrs.filter fits).foldl (fun s p =>
        (s.prefetch c p.2).prefetch c (p.2 + widthOf o - 1)) s) [] []
    else .done s [] [])

end Sys2Proof.Machine
end

