-- ==== Sys2Proof/Machine/Sync.lean ====
section
/-! DEFINITION. The meanings of the barrier instructions (R235 to R238), CWAIT (R239), FENCE (R133), FENCELK (R97), BIND
and UNBIND (R240), and the arrivals and completions of barriers. -/
namespace Sys2Proof.Machine

/-- A uniform register field of class C and of ring words: bits [5:0] (R234, R263). -/
def uniField (f : BitVec 8) : Nat := f.toNat % 64

/-- A scope field of a class C word, where 0 selects device scope (R234). -/
def scopeField (n : Nat) : Nat := if n % 8 = 0 then 5 else n % 8

/-! ### Barriers -/

/-- Barrier `k` of a block, by the block's number in the model. -/
def State.barrier (s : State) (b k : Nat) : Barrier := (s.block b).barriers.getD k {}

def State.onBarrier (s : State) (b k : Nat) (f : Barrier → Barrier) : State :=
  s.onBlock b fun x => { x with barriers := x.barriers.put k (f (x.barriers.getD k {})) {} }

/-- BAR and CL of IMM32 (R235). -/
def barOf (o : OpS) : Nat := o.imm.toNat % 1024
def barCl (o : OpS) : Bool := o.imm.getLsbD 10

/-- The block whose barrier a lane names: its home block, or block 0 of the cluster (R235). -/
def State.barBlock (s : State) (c : Ctx) (cl : Bool) (l : Nat) : Nat :=
  if cl then s.blockOf c.cl 0 else s.homeBlock c l

/-- The distinct blocks whose barrier the active lanes name, lowest block index first. -/
def State.barBlocks (s : State) (c : Ctx) (cl : Bool) (act : List Nat) : List Nat :=
  sortBy (fun b => (s.block b).index) (distinct (act.map (s.barBlock c cl)))

/-- A barrier as a synchronisation object (R125). -/
def State.barObj (s : State) (c : Ctx) (b k : Nat) : Obj :=
  { kind := 1, cluster := some c.cl, block := some (s.block b).index, addr := k }

/-- The scope of barriers: the widest of their scopes (R236), and cluster scope while a sift has moved threads of a
lane's home block (R116). -/
def State.barScope (s : State) (c : Ctx) (bs : List Nat) (k : Nat) (act : List Nat) : Nat :=
  if bs.any fun b => (s.barrier b k).cl then 3 else s.widen c 2 act

/-- The last arriver of R54: the highest home block (sr.home), then the highest sr.wid (log entry 26). -/
def lastArriver (l : List (Nat × Nat × Nat)) : Option Nat :=
  (l.foldl (fun (m : Option (Nat × Nat × Nat)) a => match m with
    | none => some a
    | some b => if b.1 < a.1 ∨ (b.1 = a.1 ∧ b.2.1 < a.2.1) then some a else some b) none).map fun a => a.2.2

/-- complete(k) of R237, with a pending BINIT taking effect (R236). -/
def Barrier.complete (x : Barrier) : Barrier :=
  { exp := match x.pending with | some p => p.1 | none => x.exp
    cl := match x.pending with | some p => p.2 | none => x.cl
    arr := 0, ph := x.ph + 1, pending := none, arrivals := []
    winners := match lastArriver x.arrivals with | some w => x.winners.insert x.ph.toNat w | none => x.winners }

/-- An arrival of `n` threads; `who` is the arriving wave where its arrival is to be remembered (R54). -/
def Barrier.arrive (x : Barrier) (n : Nat) (who : Option (Nat × Nat × Nat)) : Barrier :=
  let x := { x with arr := x.arr + n, arrivals := x.arrivals ++ who.toList }
  if n ≠ 0 ∧ x.arr = x.exp then x.complete else x

/-- Phase `n` has completed (R238). -/
def Barrier.done (x : Barrier) (n : Nat) : Bool := decide ((x.ph - BitVec.ofNat 32 n - 1).toNat < 2 ^ 31)

/-- BAR at or above the card's BARS, or a count out of range (Table 19-2). -/
def barRange (c : Ctx) (o : OpS) (count : Nat) (act : List Nat) : Option Trap :=
  let info := barOf o + (if barCl o then 1024 else 0)
  if barOf o ≥ c.card.bars then some (.error 0x010C info c.card.bars act)
  else if count > 16384 then some (.error 0x010C info count act)
  else none

/-- BINIT on one barrier (R236). -/
def Barrier.init (x : Barrier) (n : Nat) (cl : Bool) : Barrier :=
  if x.arr = 0 then { x with exp := n, cl, pending := none } else { x with pending := some (n, cl) }

def execBinit (h : Hdr) (o : OpS) (s : State) : Out :=
  let count (s : State) (c : Ctx) : Nat :=
    if o.d.getLsbD 0 then (s.readU c.wave (uniField o.a)).toNat % 2 ^ 15 else slice o.imm.toNat 16 15
  .next (s.issueBoundary h [] []
    (fun s c act => (barRange c o (count s c) act).map fun t => .trap s t)
    (fun s c act =>
      .done ((s.barBlocks c (barCl o) act).foldl (fun s b =>
        s.onBarrier b (barOf o) fun x => x.init (count s c) (barCl o)) s) [] []))

/-- The lanes that count on a block's barrier. -/
def State.barLanes (s : State) (c : Ctx) (cl : Bool) (act : List Nat) (b : Nat) : List Nat :=
  act.filter fun l => s.barBlock c cl l == b

/-- An overrun (R392): it describes the lowest-numbered barrier; the faulting lanes are those that count on a barrier that
would overrun (R376). -/
def State.overrun (s : State) (c : Ctx) (o : OpS) (act : List Nat) : Option Trap :=
  let k := barOf o
  let arriving (b : Nat) : List Nat := s.barLanes c (barCl o) act b
  let past (b : Nat) : Bool := decide ((s.barrier b k).arr + (arriving b).length > (s.barrier b k).exp)
  match (s.barBlocks c (barCl o) act).filter past with
  | [] => none
  | b :: rest =>
    let x := s.barrier b k
    some (.error 0x0012 (k + (if barCl o then 1024 else 0) + (s.block b).index * 2 ^ 11)
      (x.arr + x.exp * 2 ^ 16 + (arriving b).length * 2 ^ 32) (act.filter fun l => (b :: rest).any fun y => (arriving y).contains l))

/-- The arrivals of BARV and BSYNC (R237): the release, the arrivals on each barrier, and the flags; `p` is what is
written at once beside them. -/
def State.issueArrival (s : State) (h : Hdr) (o : OpS) (sync : Bool)
    (p : State → Ctx → List Nat → List RegWrite) : State :=
  let k := barOf o
  s.issueBoundary h [] []
    (fun s c act =>
      match barRange c o 0 act with
      | some t => some (.trap s t)
      | none => (s.overrun c o act).map fun t => .trap s t)
    (fun s c act =>
      let bs := s.barBlocks c (barCl o) act
      let sc := s.barScope c bs k act
      s.releaseThen c sc (bs.map fun b => s.barObj c b k) fun s =>
        match s.overrun c o act with
        | some t => .trap s t
        | none =>
          let writes := p s c act
          let on := bs.map fun b => (b, k, (s.barrier b k).ph.toNat)
          let who : Option (Nat × Nat × Nat) :=
            if c.det then some (c.wave.host, c.wave.wid, c.w) else none
          let s := s.noteRelease c sc (on.map fun x => phaseCode x.1 x.2.1 x.2.2)
          let s' := bs.foldl (fun s b =>
            s.onBarrier b k fun x => x.arrive (s.barLanes c (barCl o) act b).length who) s
          let done (b : Nat) : Bool := (s'.barrier b k).ph != (s.barrier b k).ph
          let flag := act.map fun l => RegWrite.pred l (o.d.toNat % 8) (done (s.barBlock c (barCl o) l))
          if c.det then .wait s' writes (.arriver on (o.d.toNat % 8) act (barCl o) sync)
          else if sync then .wait s' (writes ++ flag) (.barrier on)
          else .done s' (writes ++ flag) [])

/-- The acquire that follows a phase's completion (Table 5-2). -/
def State.barAcquire (s : State) (c : Ctx) (b k ph : Nat) (act : List Nat) : State :=
  s.acquire c (s.barScope c [b] k act) [s.barObj c b k] [phaseCode b k ph]

/-- The last arriver of a phase (block, index, phase) is forgotten once no wave waits for its flag. -/
def State.forgetWinner (s : State) (x : Nat × Nat × Nat) : State :=
  if s.waves.any fun p => match p.2.park with | some (.arriver on ..) => on.contains x | _ => false then s
  else s.onBarrier x.1 x.2.1 fun b => { b with winners := b.winners.remove x.2.2 }

/-- A wave that waits on barriers (R238): the barriers whose phase has completed are acquired, and the wave goes on
after the last. In a deterministic job the last-arriver flags are written as their phases complete (R237). -/
def State.wakeBarrier (s : State) (c : Ctx) : State :=
  match c.wave.park with
  | some (.barrier on) =>
    let ready := on.filter fun x => (s.barrier x.1 x.2.1).done x.2.2
    let rest := on.filter fun x => !(s.barrier x.1 x.2.1).done x.2.2
    let s := ready.foldl (fun s x => s.barAcquire c x.1 x.2.1 x.2.2 c.wave.lanes) s
    s.onWave c.w fun w => { w with park := if rest.isEmpty then none else some (.barrier rest) }
  | some (.arriver on pred lanes cl sync) =>
    let ready := on.filter fun x => (s.barrier x.1 x.2.1).done x.2.2
    let rest := on.filter fun x => !(s.barrier x.1 x.2.1).done x.2.2
    let flags := ready.flatMap fun x =>
      (lanes.filter fun l => cl || s.homeBlock c l == x.1).map fun l =>
        RegWrite.pred l pred ((s.barrier x.1 x.2.1).winners.find x.2.2 == some c.w)
    let s := if sync then ready.foldl (fun s x => s.barAcquire c x.1 x.2.1 x.2.2 lanes) s else s
    (s.onWave c.w fun w =>
      { w.applyAll flags with park := if rest.isEmpty then none else some (.arriver rest pred lanes cl sync) }).each ready
        State.forgetWinner
  | _ => s

def execBarv (h : Hdr) (o : OpS) (s : State) : Out :=
  .next ((s.issueArrival h o false fun s c act =>
    if o.a.getLsbD 7 then
      [.uni (uniField o.a) ((s.barrier (s.barBlock c (barCl o) (act.headD 0)) (barOf o)).ph.setWidth 64)]
    else []).wakeCur State.wakeBarrier)

def execBsync (h : Hdr) (o : OpS) (s : State) : Out :=
  .next ((s.issueArrival h o true fun _ _ _ => []).wakeCur State.wakeBarrier)

def execBwait (h : Hdr) (o : OpS) (s : State) : Out :=
  .next ((s.issueBoundary h [] []
    (fun s c act => (barRange c o 0 act).map fun t => .trap s t)
    (fun s c act =>
      let n := (s.readU c.wave (uniField o.a)).toNat % 2 ^ 32
      .wait s [] (.barrier ((s.barBlocks c (barCl o) act).map fun b => (b, barOf o, n))))).wakeCur State.wakeBarrier)

/-! ### Counted waits and fences -/

/-- One address of a wave's word in the windows of that word, for the home block of the lowest active lane (R234):
aperture, then alignment. -/
def State.waveAddr (s : State) (c : Ctx) (windows : List Nat) (g a : Nat) (act : List Nat) : Except Trap Place :=
  match s.placeAll c windows g .free [(act.headD 0, a)] with
  | .ok ((_, p) :: _) => .ok p
  | .ok [] => .error (.error 0x0103 a (windowOf a) act)
  | .error (.error code x y _) => .error (.error code x y act)
  | .error t => .error t

/-- Aperture, alignment, translation, presence and poison of the word at one address (R399): where it lies, a global
one by its physical address. -/
def State.waveWord (s : State) (c : Ctx) (a : Nat) (act : List Nat) : Except Effect (Place × Tab Nat) × State :=
  match s.waveAddr c [0, 2, 3] 8 a act with
  | .error t => (.error (.trap s t), s)
  | .ok p =>
    let spots := [(act.headD 0, p)]
    match s.wordPages c 8 .read spots with
    | (.error e, s) => (.error e, s)
    | (.ok pages, s) =>
      if s.someAbsent spots then (.error (.again s .absent), s)
      else match s.poisonTrap 8 pages (fun _ => s.fromHome c { core := c.core, skip := true, fill := false }) spots with
        | some (.error code x y _) => (.error (.trap s (.error code x y act)), s)
        | some t => (.error (.trap s t), s)
        | none => (.ok (p, pages), s)

/-- What a fresh read of a counter word gives. -/
inductive Counted where
  /-- the value, with the word's object and its code -/
  | value (x : Nat) (obj : Obj) (words : List Nat)
  | miss (on : List (Nat × Nat))
  | trap (code info0 info1 : Nat)
  /-- a scratchpad line is absent (R91) -/
  | absent
  deriving DecidableEq, Repr

/-- A fresh read of a counter word (R140): in a scratchpad, or translated anew each time (R405, R407), through the core's
commit buffer, with its poison (R419). -/
def State.readCounter (s : State) (c : Ctx) (block : Option Nat) (a : Nat) : Counted × State :=
  let path : LoadPath := { core := c.core, skip := true, fill := false }
  match block with
  | some b =>
    let x := s.block b
    if x.absent.contains (a / 128) then (.absent, s)
    else match (List.range 2).find? fun i => x.poison.contains (a / 4 + i) with
      | some i => (.trap 0x0106 (poisonPlace (a + 4 * i)) 1, s)
      | none =>
        (.value (natOfBytes (x.bytesAt ((List.range 8).map fun i => a + i)))
          { kind := 0, cluster := some c.cl, block := some x.index, addr := blockBase + a } [localCode b a], s)
  | none =>
    match s.translateAll (s.requester c) [a] .read with
    | (.park on, s) => (.miss on, s)
    | (.error code x y _, s) => (.trap code x y, s)
    | (.ok pages, s) =>
      let pa := pageAddr pages a
      match firstSome (List.range 8) fun i => if s.fromHome c path (pa + i) then s.poisonRead (pa + i) else none with
      | some k => (.trap 0x0106 (pa / 32 * 32) k, s)
      | none => (.value (natOfBytes ((List.range 8).map fun i => s.loadByte path [] (pa + i))) (wordObj a) [wordCode (pa / 8)], s)

/-- The counter's block and offset, or its global address. -/
def counterSpot : Place → Option Nat × Nat
  | .global va => (none, va)
  | .local b _ offs => (some b, offs.headD 0)

/-- A wave that waits on a counter (R140): it goes on with an acquire once a fresh read meets the target. A read that
faults takes or joins misses, discards the wave's outstanding results, and the wave waits on them and reads again in its
waiting phase (R405, R38); one that meets
a condition of R399 fails the job at the CWAIT. A replicated task's read is the primary's, whose result its
follower takes (R323). -/
def State.wakeCounter (s : State) (c : Ctx) : State :=
  match c.wave.park with
  | some (.counter block a v sc pc on) =>
    if s.leaderWaits c || (!on.isEmpty && on.all s.missHeld) then s
    else match (s.landOn c.core).readCounter c block a with
      | (.value x obj words, s) =>
        if x ≥ v.toNat ∨ s.follows c then (s.acquire c sc [obj] words).onWave c.w fun w => { w with park := none } else s
      | (.miss on, s) =>
        (s.parkOnMiss { c with lanes := c.wave.lanes } on).onWave c.w fun w =>
          { w with park := some (.counter block a v sc pc on) }
      | (.trap code x y, s) => s.programError { c with pc } code x y c.wave.lanes
      | (.absent, s) => s
  | _ => s

def execCwait (h : Hdr) (o : OpS) (s : State) : Out :=
  let addr (s : State) (c : Ctx) : Nat := (s.readU c.wave (uniField o.a)).toNat
  .next ((s.issueBoundary h [] []
    (fun s c act => match s.waveWord c (addr s c) act with
      | (.error e, _) => some e
      | (.ok _, _) => none)
    (fun s c act => match s.waveWord c (addr s c) act with
      | (.error e, _) => e
      | (.ok (p, _), s) =>
        let (block, a) := counterSpot p
        let sc := s.scopeFor c (scopeField o.imm.toNat) [(act.headD 0, p)]
        .wait s [] (.counter block a (s.readU c.wave (uniField o.d)) sc c.pc []))
    [uniField o.d, uniField o.a] (fun s c _ => windowOf (addr s c) == 0)).wakeCur State.wakeCounter)

def execFence (h : Hdr) (o : OpS) (s : State) : Out :=
  let sc := scopeField o.imm.toNat
  .next (s.issueBoundary h [] [] (fun _ _ _ => none)
    (fun s c act =>
      let sc := s.widen c sc act
      s.releaseThen c sc [noObj] fun s =>
        let s := if c.det then s.onJob c.job fun j =>
            { j with det := j.det.fence c.task (scopeKeys sc (groupOfCore c.core)) }
          else s
        let s := s.onOrder c sc fun d a keys => d.fence a keys
        .done (s.acquireAt c.core sc (s.views c) [noObj] (s.reachOf c)) [] []))

def execFencelk (h : Hdr) (_ : OpS) (s : State) : Out :=
  .next (s.issueBoundary h [] [] (fun _ _ _ => none)
    (fun s c _ => s.releaseThen c 5 [noObj] fun s =>
      .done (s.onCore c.core fun k => { k with lookup := [] }) [] []))

/-! ### Bindings -/

/-- The block index and offset that a scratchpad place names. -/
def State.scratchSpot (s : State) : Place → Option Nat × Nat
  | .local b _ offs => (some (s.block b).index, offs.headD 0)
  | .global va => (none, va)

/-- The object that BIND and UNBIND name (R240), or why it is refused. -/
def State.bindObj (s : State) (c : Ctx) (kind x : Nat) (act : List Nat) : Except Trap Obj :=
  match kind with
  | 3 =>
    let k := x % 1024
    let idx := if x / 1024 % 2 = 1 then 0 else (c.wave.thread (act.headD 0)).bid
    .ok { kind := 1, cluster := some c.cl, block := some idx, addr := k }
  | 2 => (s.waveAddr c [2, 3] 32 x act).map fun p =>
      { kind := 2, cluster := some c.cl, block := (s.scratchSpot p).1, addr := (s.scratchSpot p).2 }
  | 1 => (s.waveAddr c [0] 64 x act).map fun _ => queueObj x
  | _ => (s.waveAddr c [0, 2, 3] 8 x act).map fun p =>
      match p with
      | .global va => wordObj va
      | .local b _ offs =>
        { kind := 0, cluster := some c.cl, block := some (s.block b).index, addr := blockBase + offs.headD 0 }

/-- A region of `n` bytes in the global window or a scratchpad window (R240, R402). -/
def State.bindRegion (_ : State) (c : Ctx) (o : Obj) (a n : Nat) (act : List Nat) : Except Trap Binding :=
  let shared := c.card.shared
  let bad : Except Trap Binding := .error (.error 0x0103 a (windowOf a) act)
  let fine (b : Binding) : Except Trap Binding :=
    if a % 128 = 0 then .ok b else .error (.error 0x0102 a 128 act)
  match windowOf a with
  | 0 => if a + n ≤ stackBase then fine { obj := o, base := a, len := n } else bad
  | 2 =>
    let x := a - clusterBase
    if x / 2 ^ 20 < c.card.blocks ∧ x % 2 ^ 20 + n ≤ shared then
      fine { obj := o, scratch := true, cluster := some c.cl, block := some (x / 2 ^ 20), base := x % 2 ^ 20, len := n }
    else bad
  | 3 =>
    let x := a - blockBase
    if x + n ≤ shared then
      fine { obj := o, scratch := true, cluster := some c.cl, block := some (c.wave.thread (act.headD 0)).bid,
             base := x, len := n }
    else bad
  | _ => bad

/-- The binding that a word names: apertures of object and region before their alignment (R399). -/
def State.bindingOf (s : State) (c : Ctx) (o : OpS) (act : List Nat) : Except Trap Binding :=
  let x := (s.readU c.wave (uniField o.d)).toNat
  let a := (s.readU c.wave (uniField o.a)).toNat
  let n := 128 * (o.imm.toNat % 2 ^ 30)
  match s.bindObj c (o.imm.toNat / 2 ^ 30) x act with
  | .error (.error 0x0102 p q l) =>
    match s.bindRegion c noObj a n act with
    | .error (.error 0x0103 p' q' l') => .error (.error 0x0103 p' q' l')
    | _ => .error (.error 0x0102 p q l)
  | .error t => .error t
  | .ok obj => s.bindRegion c obj a n act

/-- The threads of a word as those that perform a change of bindings now, each with the number of its releases so far. -/
def State.makers (s : State) (c : Ctx) (act : List Nat) : List (Nat × Nat) :=
  act.map fun l => (c.agent l, (s.job c.job).hb.releases.getD (c.agent l) 0)

/-- The threads of a word perform a change that the binding table holds already: it is in force for them (R126). -/
def State.learnChange (s : State) (c : Ctx) (act : List Nat) (n : Nat) : State :=
  if n = 0 then s
  else
    let who := s.makers c act
    s.onJob c.job fun j => j.learnChange n who

/-- The job's binding table changes (R125, R240): for the threads of the word at once, for others once it happens before
their release or acquire (R126). -/
def State.rebind (s : State) (c : Ctx) (act : List Nat) (add : Bool) (b : Binding) : State :=
  let made := s.makers c act
  let (n, s) := s.fresh
  s.onJob c.job fun j => j.rebind (n + 1) add b made

/-- BIND (R240, R252): with LEN = 0 a no-operation, before every check of its operands (log entry 78). -/
def execBind (h : Hdr) (o : OpS) (s : State) : Out :=
  .next (s.issueWord h [] [] fun s c act =>
    let x := s.readU c.wave (uniField o.d)
    if o.imm.toNat % 2 ^ 30 = 0 then .done s [] []
    else match s.bindingOf c o act with
      | .error t => .trap s t
      | .ok b =>
        let j := s.job c.job
        let table := j.table c.cl
        if o.imm.toNat / 2 ^ 30 = 3 ∧ x.toNat % 1024 ≥ c.card.bars then
          .trap s (.error 0x010C (x.toNat % 2048) c.card.bars act)
        else if table.contains b then .done (s.learnChange c act (j.lastChange b)) [] []
        else if j.bindings.length ≥ 256 then
          .trap s (.error 0x010B x.toNat (s.readU c.wave (uniField o.a)).toNat act)
        else .done (s.rebind c act true b) [] [])

/-- UNBIND never fails (R403): a word that names no region removes nothing. -/
def execUnbind (h : Hdr) (o : OpS) (s : State) : Out :=
  .next (s.issueWord h [] [] fun s c act =>
    match s.bindingOf c o act with
    | .ok b =>
      let j := s.job c.job
      .done (if (j.table c.cl).contains b then s.rebind c act false b else s.learnChange c act (j.lastChange b)) [] []
    | .error _ => .done s [] [])

end Sys2Proof.Machine
end

