-- ==== Sys2Proof/Machine/Rings.lean ====
section
/-! DEFINITION. Arrival rings (R261, R262, R431) and the meanings of RING, AWF, RLS (R264), STRM and STRQ (R266). -/
namespace Sys2Proof.Machine

/-- An arrival ring object's fields (Table 9-6). -/
structure RingObj where
  base   : Nat
  ssize  : Nat
  win    : Nat
  poison : Bool
  clm    : BitVec 32
  wp     : BitVec 32
  rp     : BitVec 32
  deriving DecidableEq, Repr

/-- The number that `n` bytes of a block's scratchpad hold. -/
def State.scratchNat (s : State) (b off n : Nat) : Nat :=
  natOfBytes ((s.block b).bytesAt ((List.range n).map fun i => off + i))

/-- A number of `n` bytes written to a block's scratchpad. -/
def State.putScratch (s : State) (b off n v : Nat) : State :=
  s.onBlock b fun x => x.store ((bytesOfNat n v).mapIdx fun i y => (off + i, y))

/-- The arrival ring object at an offset of a block's scratchpad. -/
def State.ring (s : State) (b off : Nat) : RingObj :=
  let x := s.scratchNat b off 32
  { base := slice x 0 32, ssize := slice x 32 32, win := slice x 64 11, poison := x.testBit 80,
    clm := BitVec.ofNat 32 (slice x 128 32), wp := BitVec.ofNat 32 (slice x 160 32)
    rp := BitVec.ofNat 32 (slice x 192 32) }

/-- A ring takes a claim: WIN ≥ 1 and the window is not full (R262, R268). -/
def RingObj.open (r : RingObj) : Bool := decide ((r.clm - r.rp).toNat < r.win)

/-- claim(ring) of R262, bound to the object's initialisation (R431). -/
def State.claimSlot (s : State) (b off : Nat) : Claim × State :=
  let r := s.ring b off
  ({ off, k := r.clm.toNat, init := (s.block b).inits.getD off 0, base := r.base + r.clm.toNat % r.win * r.ssize,
     size := r.ssize }, s.putScratch b (off + 16) 4 (r.clm + 1).toNat)

/-- POISON set in a ring object. -/
def State.poisonRing (s : State) (b off : Nat) : State :=
  s.putScratch b (off + 10) 1 (s.scratchNat b (off + 10) 1 ||| 1)

/-- The claim's initialisation is still in force (R431). -/
def State.claimLives (s : State) (b : Nat) (c : Claim) : Bool := (s.block b).inits.getD c.off 0 == c.init

/-- Every line of a slot is present. -/
def State.slotPresent (s : State) (b : Nat) (c : Claim) : Bool :=
  !(s.block b).absent.any fun n => decide (c.base < n * 128 + 128 ∧ n * 128 < c.base + c.size)

/-- The reaches of an engine's release on a ring: the ring's block and cluster (Table 5-2). -/
def State.blockReaches (s : State) (b : Nat) : List Nat := [2 * 2 ^ 40 + b, 3 * 2 ^ 40 + (s.block b).cluster]

/-- What happens before the command of a delivery (R142). -/
def State.toldTo (s : State) (d : Delivery) : Tab Nat :=
  if d.kind = 0 then (((s.block d.owner).copies.find? fun e => e.entry == d.number).map fun e => e.told).getD []
  else (s.program (d.owner / 16) (d.owner % 16)).told

/-- The advance of a ring hands on what happens before the command that filled the slot (R129, R144). -/
def State.publishSlot (s : State) (b : Nat) (k : Claim) (told : Tab Nat) : State :=
  if told.isEmpty then s
  else
    let keys := s.blockReaches b
    s.onJob (s.cluster (s.block b).cluster).job fun j => { j with hb := j.hb.publish told keys [slotCode b k.off k.k] }

/-- What an engine's acquire on codes of a block obtains: a claim's that of the slot's RLS, a command's that of its notify
word (R129, R142). -/
def State.heardAt (s : State) (b : Nat) (codes : List Nat) : Tab Nat :=
  let j := s.job (s.cluster (s.block b).cluster).job
  if j.rebound then j.hb.standing (s.blockReaches b) codes else []

/-- A landed delivery whose slot is the next to be filled advances its ring's WP (R262): one of them, with the state
after it. -/
def State.advanceOne (s : State) (b : Nat) : Option State :=
  let x := s.block b
  (x.deliveries.find? fun d => d.landed && match d.claim with
    | some c => s.claimLives b c && (s.ring b c.off).wp.toNat == c.k && s.slotPresent b c
    | none => false).map fun d =>
      match d.claim with
      | some c =>
        let s := (s.putScratch b (c.off + 20) 4 (BitVec.ofNat 32 (c.k + 1)).toNat).onBlock b fun x =>
          { x with deliveries := x.deliveries.erase d }
        let s := s.publishSlot b c (s.toldTo d)
        if d.kind = 0 then
          s.onBlock d.owner fun x => { x with copies := x.copies.map fun e =>
            if e.entry = d.number then { e with advanced := true } else e }
        else s
      | none => s

/-- Every advance that can be made, in order; `fuel` bounds them by the number of deliveries. -/
def State.advances (s : State) (b : Nat) : Nat → State
  | 0 => s
  | fuel + 1 => match s.advanceOne b with
    | some s => s.advances b fuel
    | none => s

/-- A landed delivery's claim belongs to an earlier initialisation of its ring (R431). -/
def State.stale (s : State) (b : Nat) (d : Delivery) : Bool :=
  d.landed && match d.claim with | some c => !(s.claimLives b c) | none => true

/-- A push in flight is told that one of its claims is of an earlier initialisation (R431). -/
def State.tellPush (s : State) (b : Nat) (d : Delivery) : State :=
  match d.claim with
  | some c =>
    if d.kind = 1 then
      s.onProgram (d.owner / 16) (d.owner % 16) fun p => { p with inflight := p.inflight.map fun x =>
        if x.number = d.number then { x with stale := x.stale ++ [(b, c.off, c.k)] } else x }
    else s
  | none => s

/-- Deliveries of an earlier initialisation that have landed advance nothing and go (R431). -/
def State.advanceRings (s : State) (b : Nat) : State :=
  let s := ((s.block b).deliveries.filter (s.stale b)).foldl (fun s d => s.tellPush b d) s
  let s := s.onBlock b fun x => { x with deliveries := x.deliveries.filter fun d => !s.stale b d }
  s.advances b (s.block b).deliveries.length

/-! ### RING, AWF, RLS -/

/-- The ring object that a word names (R263): block and offset; aperture, alignment, presence. -/
def State.ringPlace (s : State) (c : Ctx) (o : OpM) (act : List Nat) : Except Effect (Nat × Nat) :=
  let off := (s.readU c.wave (uniField o.a)).toNat % 2 ^ 32
  match s.waveAddr c [3] 32 (blockBase + off) act with
  | .error t => .error (.trap s t)
  | .ok p =>
    if s.someAbsent [(act.headD 0, p)] then .error (.again s .absent)
    else .ok (s.homeBlock c (act.headD 0), off)

/-- A ring error of Table 19-1: the object's offset, and its bits [127:64]. -/
def State.ringError (s : State) (b off : Nat) (act : List Nat) : Trap :=
  .error 0x0109 off (s.scratchNat b (off + 8) 8) act

/-- Poison in the words of a ring object that AWF and RLS read (R399, step 6). -/
def State.ringPoison (s : State) (b off : Nat) (act : List Nat) : Option Trap :=
  ((List.range 8).find? fun i => (s.block b).poison.contains (off / 4 + i)).map fun i =>
    .error 0x0106 (poisonPlace (off + 4 * i)) 1 act

/-- RING's conditions (Table 19-2). -/
def ringFits (c : Ctx) (base ssize win : Nat) : Bool :=
  decide (1 ≤ win ∧ win ≤ 1024 ∧ base % 128 = 0 ∧ ssize % 128 = 0 ∧ 128 ≤ ssize ∧ ssize ≤ 524288 ∧
    base + win * ssize ≤ c.card.shared)

def execRing (h : Hdr) (o : OpM) (s : State) : Out :=
  .next (s.issueWord h [] [] fun s c act =>
    match s.ringPlace c o act with
    | .error e => e
    | .ok (b, off) =>
      let sb := (s.readU c.wave (uniField o.d)).toNat
      let win := offFrom o 0 % 2 ^ 11
      if !ringFits c (sb % 2 ^ 32) (sb / 2 ^ 32) win then .trap s (s.ringError b off act)
      else
        let s := s.putScratch b off 32 (sb + win * 2 ^ 64)
        .done (s.onBlock b fun x => { x with inits := x.inits.put off (x.inits.getD off 0 + 1) 0 }) [] [])

/-- A ring object as a synchronisation object. -/
def State.ringObj (s : State) (c : Ctx) (b off : Nat) : Obj :=
  { kind := 2, cluster := some c.cl, block := some (s.block b).index, addr := off }

/-- n of AWF and RLS (R264). -/
def ringSeq (s : State) (c : Ctx) (o : OpM) : Nat := (s.readU c.wave (offFrom o 14)).toNat % 2 ^ 32

/-- The register that AWF writes. -/
def awfRegs (o : OpM) : List Nat := if 192 ≤ o.d.toNat then [] else [o.d.toNat]

/-- Slot n has been filled (R264). -/
def RingObj.filled (r : RingObj) (n : Nat) : Bool := decide ((r.wp - BitVec.ofNat 32 n - 1).toNat < 2 ^ 31)

/-- A wave that waits on a ring (R264), while the object's line is present (R91): a poisoned object traps at the AWF (Table 19-2); a filled slot is acquired and
its offset written. -/
def State.wakeRing (s : State) (c : Ctx) : State :=
  match c.wave.park with
  | some (.ring b off n d pc lanes) =>
    let r := s.ring b off
    if s.someAbsent [(0, .local b false ((List.range 32).map fun i => off + i))] then s
    else if r.poison then s.programError { c with pc } 0x0108 off n lanes
    else if let some t := s.ringPoison b off lanes then s.takeTrap { c with pc } t
    else if r.filled n then
      let s := s.acquire c (s.widen c 2 lanes) [s.ringObj c b off] [slotCode b off n]
      let x := r.base + n % r.win * r.ssize
      let writes : List RegWrite :=
        if 192 ≤ d then [.uni (d - 192) (BitVec.ofNat 64 x)]
        else lanes.map fun l => .vec l d (BitVec.ofNat 32 x)
      s.onWave c.w fun w => { (s.overtake w writes).writeLate c.det writes with park := none }
    else s
  | _ => s

def execAwf (h : Hdr) (o : OpM) (s : State) : Out :=
  .next ((s.issueBoundary h (awfRegs o) []
    (fun s c act => match s.ringPlace c o act with
      | .error e => some e
      | .ok (b, off) =>
        let r := s.ring b off
        if r.win = 0 then some (.trap s (s.ringError b off act))
        else if r.poison then some (.trap s (.error 0x0108 off (ringSeq s c o) act))
        else (s.ringPoison b off act).map fun t => .trap s t)
    (fun s c act => match s.ringPlace c o act with
      | .error e => e
      | .ok (b, off) => .wait s [] (.ring b off (ringSeq s c o) o.d.toNat c.pc act))).wakeCur State.wakeRing)

def execRls (h : Hdr) (o : OpM) (s : State) : Out :=
  .next (s.issueBoundary h [] []
    (fun s c act => match s.ringPlace c o act with
      | .error e => some e
      | .ok (b, off) =>
        if (s.ring b off).win = 0 then some (.trap s (s.ringError b off act))
        else (s.ringPoison b off act).map fun t => .trap s t)
    (fun s c act => match s.ringPlace c o act with
      | .error e => e
      | .ok (b, off) =>
        let n := BitVec.ofNat 32 (ringSeq s c o)
        let r := s.ring b off
        if (n - r.rp).toNat < (r.wp - r.rp).toNat then
          s.releaseThen c (s.widen c 2 act) [s.ringObj c b off] fun s =>
            .done ((s.noteRelease c 2 [freeCode b off (n.toNat % r.win)]).putScratch b (off + 24) 4 (n + 1).toNat) [] []
        else .done s [] []))

/-! ### STRM and STRQ -/

/-- A free program slot of an engine (R266). -/
def State.freeSlot (s : State) (e : Nat) : Option Nat := (List.range 16).find? fun k => !(s.program e k).busy

/-- The engines that a request may take: ENG, or with 63 those of a die in ascending order. -/
def enginesFor (eng die : Nat) : List Nat := if eng = 63 then (List.range 8).map fun i => die * 8 + i else [eng]

/-- A free program slot for a request: engine and slot. -/
def State.findSlot (s : State) (eng die : Nat) : Option (Nat × Nat) :=
  firstSome (enginesFor eng die) fun e => (s.freeSlot e).map fun k => (e, k)

/-- A stream program starts in a slot (R265, R266): its handle. -/
def State.startProgram (s : State) (e k : Nat) (addr parm : Word) (cluster job : Nat) : Word × State :=
  let n := (s.program e k).count + 1
  (BitVec.ofNat 64 (n % 2 ^ 32 * 2 ^ 32 + e * 16 + k),
   s.setProgram e k { count := n, busy := true, base := addr, here := addr, parm, cluster, job, state := 1 })

/-- What the threads of an STRM know happens before their program's commands (R142, R126). -/
def State.tellProgram (s : State) (c : Ctx) (e k : Nat) : State :=
  let j := s.job c.job
  if !j.rebound then s
  else
    let told := (s.actors c).foldl (fun x l => joinKnown x (j.hb.knows (c.agent l))) []
    s.onProgram e k fun p => { p with told }

def execStrm (h : Hdr) (o : OpM) (s : State) : Out :=
  let eng := offFrom o 0 % 64
  let addr (s : State) (c : Ctx) : Word := s.readU c.wave (uniField o.a)
  .next (s.issueBoundary h [] []
    (fun s c act =>
      match s.waveAddr c [0] 32 (addr s c).toNat act with
      | .error t => some (.trap s t)
      | .ok _ => if 32 ≤ eng ∧ eng ≤ 62 then some (.trap s (.error 0x010D eng 0 act)) else none)
    (fun s c _ => s.releaseThen c 5 [noObj] fun s =>
      match s.findSlot eng (dieOfCore c.core) with
      | none => .again s .retry
      | some (e, k) =>
        let (handle, s) := s.startProgram e k (addr s c) (s.readU c.wave (uniField o.a + 1)) c.cl c.job
        let s := s.noteRelease c 5 []
        let known := (s.job c.job).det.knows c.task
        let s := s.tellProgram c e k
        .done (if c.det then s.onProgram e k fun p => { p with known } else s) [.uni (uniField o.d) handle] [])
    [uniField o.a, uniField o.a + 1] (fun _ _ _ => true))

/-- The snapshot of Table 9-8. PUSHES and CMDIX of a stale handle's answer are free values (log entry 29). -/
def State.snapshot (s : State) (handle : Word) : Word :=
  let p := s.program (slice handle.toNat 4 5) (handle.toNat % 16)
  if p.count % 2 ^ 32 ≠ handle.toNat / 2 ^ 32 ∨ p.count = 0 ∨ slice handle.toNat 9 23 ≠ 0 then
    Config.freeWord s.freeCtr 0 &&& 0xFFFFFFFF0000FFF8
  else
    BitVec.ofNat 64 (p.pushes.toNat * 2 ^ 32 + (p.here - p.base).toNat / 32 % 2 ^ 13 * 8 + p.state)

def execStrq (h : Hdr) (o : OpM) (s : State) : Out :=
  .next (s.issueWord h [] [] fun s c _ =>
    .done s [.uni (uniField o.d) (s.snapshot (s.readU c.wave (uniField o.a)))] [])

end Sys2Proof.Machine
end

