-- ==== Sys2Proof/Machine/Flags.lean ====
section
/-! DEFINITION. The conditions that the machine computes from values: comparisons (R188, Table 7-5), the class mask of
FCLS (Table 7-7), predicate logic (Table 7-11). The YD40 has no status flags (spec/03): predicates are its flags. -/
namespace Sys2Proof.Machine

/-- Conditions 0 to 5 of Table 7-5 on integers. -/
def condInt (cc : Nat) (a b : Int) : Bool :=
  match cc with
  | 0 => decide (a = b)
  | 1 => decide (a ≠ b)
  | 2 => decide (a < b)
  | 3 => decide (a ≤ b)
  | 4 => decide (b < a)
  | _ => decide (b ≤ a)

/-- The conditions of ISETPI on `n` bits: 6 and 7 compare as unsigned numbers. -/
def condImm (cc n a b : Nat) : Bool :=
  match cc with
  | 6 => decide (a % 2 ^ n < b % 2 ^ n)
  | 7 => decide (b % 2 ^ n ≤ a % 2 ^ n)
  | _ => condInt cc (toSigned n a) (toSigned n b)

/-- The conditions of FSETP and FSETPI; `none` is unordered. -/
def condFloat (cc : Nat) (r : Option Ordering) : Bool :=
  match cc, r with
  | 6, r => r.isSome
  | 7, r => r.isNone
  | 1, none => true
  | _, none => false
  | 0, some o => o == .eq
  | 1, some o => o != .eq
  | 2, some o => o == .lt
  | 3, some o => o != .gt
  | 4, some o => o == .gt
  | _, some o => o != .lt

/-- The class mask of a floating-point pattern (Table 7-7). -/
def classMask (ty x : Nat) : Nat :=
  let f := fmtOf ty
  let neg := x.testBit (f.ebits + f.fbits)
  let ex := slice x f.fbits f.ebits
  let fr := x % 2 ^ f.fbits
  if ex = f.emax ∧ fr ≠ 0 then
    (if fr.testBit (f.fbits - 1) then 2 ^ 9 else 2 ^ 8) + (if (slagCode ty x).isSome then 2 ^ 10 else 0)
  else if ex = f.emax then if neg then 2 ^ 0 else 2 ^ 7
  else if ex ≠ 0 then if neg then 2 ^ 1 else 2 ^ 6
  else if fr ≠ 0 then if neg then 2 ^ 2 else 2 ^ 5
  else if neg then 2 ^ 3 else 2 ^ 4

/-- The operations of PLOP (Table 7-11). -/
def predOp (op : Nat) (a b : Bool) : Bool :=
  match op with
  | 0 => a && b
  | 1 => a || b
  | 2 => a != b
  | 3 => a && !b
  | 4 => a || !b
  | 5 => !(a && b)
  | 6 => !(a || b)
  | _ => a == b

end Sys2Proof.Machine
end

