-- ==== Sys2Proof/Machine/Logic.lean ====
section
/-! DEFINITION. The meanings of logical, shift and bit-field instructions (R185, R186), of compare, select and move
(R187 to R189), and of the predicate instructions (R203). -/
namespace Sys2Proof.Machine

/-- SHR: logical for every TY. -/
def shiftRight (n a k : Nat) : Nat := if k ≥ n then 0 else a % 2 ^ n / 2 ^ k
/-- SHL. -/
def shiftLeft (n a k : Nat) : Nat := if k ≥ n then 0 else a * 2 ^ k % 2 ^ n
/-- SAR: arithmetic for every TY. -/
def shiftArith (n a k : Nat) : Nat := ofSigned n (toSigned n a / ((2 ^ min k (n - 1) : Nat) : Int))
/-- ROTL. -/
def rotateLeft (n a k : Nat) : Nat := a * 2 ^ (k % n) % 2 ^ n ||| a % 2 ^ n / 2 ^ (n - k % n)

/-- BFX (R186): `len` is already at most `n`. -/
def fieldExtract (ty n a pos len : Nat) : Nat :=
  if len = 0 then 0
  else
    let x : Int := if intSigned ty then toSigned n a else (a % 2 ^ n : Nat)
    let field := ofSigned len (x / ((2 ^ pos : Nat) : Int))
    if intSigned ty then ofSigned n (toSigned len field) else field

/-- BFI (R186): bits pos to min(pos + len, n) - 1 of `a` replaced by the low bits of `b`. -/
def fieldInsert (n a b pos len : Nat) : Nat :=
  let top := min (pos + len) n
  if top ≤ pos then a
  else slice a top (n - top) * 2 ^ top + b % 2 ^ (top - pos) * 2 ^ pos + a % 2 ^ pos

/-- PRMT (R186). -/
def bytePermute (a b c : Nat) : Nat :=
  (List.range 4).foldl (fun d k =>
    let sel := slice c (4 * k) 4
    let y := slice (b * 2 ^ 32 + a) (8 * (sel % 8)) 8
    d + (if sel ≥ 8 then (if y ≥ 128 then 255 else 0) else y) * 2 ^ (8 * k)) 0

def execAnd (h : Hdr) (o : OpA) (s : State) : Out :=
  .next (s.issueBits h o (shapeInt2 o false) fun _ a b _ => a &&& b)

def execOr (h : Hdr) (o : OpA) (s : State) : Out :=
  .next (s.issueBits h o (shapeInt2 o false) fun _ a b _ => a ||| b)

def execXor (h : Hdr) (o : OpA) (s : State) : Out :=
  .next (s.issueBits h o (shapeInt2 o false) fun _ a b _ => a ^^^ b)

def execAndn (h : Hdr) (o : OpA) (s : State) : Out :=
  .next (s.issueBits h o (shapeInt2 o false) fun n a b _ => a &&& (2 ^ n - 1 - b))

def execShl (h : Hdr) (o : OpA) (s : State) : Out :=
  .next (s.issueBits h o (shapeShift o) fun n a _ k => shiftLeft n a k)

def execShr (h : Hdr) (o : OpA) (s : State) : Out :=
  .next (s.issueBits h o (shapeShift o) fun n a _ k => shiftRight n a k)

def execSar (h : Hdr) (o : OpA) (s : State) : Out :=
  .next (s.issueBits h o (shapeShift o) fun n a _ k => shiftArith n a k)

def execRotl (h : Hdr) (o : OpA) (s : State) : Out :=
  .next (s.issueBits h o (shapeShift o) fun n a _ k => rotateLeft n a k)

def execFunsh (h : Hdr) (o : OpA) (s : State) : Out :=
  .next (s.issueValue h o (shapeFunsh o) false 6 fun s c _ l =>
    let w := srcB s c.wave o l 32 * 2 ^ 32 + srcA s c.wave o l 32
    let j := srcC s c.wave o l 5
    if o.x1 then slice (w * 2 ^ j) 32 32 else slice w j 32)

def execBfx (h : Hdr) (o : OpA) (s : State) : Out :=
  let ty := o.ty.toNat
  let n := intWidth ty
  .next (s.issueValue h o (shapeBfx o) false ty fun s c _ l =>
    fieldExtract ty n (srcA s c.wave o l n) (srcB s c.wave o l 8) (min (srcC s c.wave o l 8) n))

def execBfi (h : Hdr) (o : OpA) (s : State) : Out :=
  let ty := o.ty.toNat
  let n := intWidth ty
  .next (s.issueValue h o (shapeBfi o) false ty fun s c _ l =>
    fieldInsert n (srcA s c.wave o l n) (srcB s c.wave o l n) (srcC s c.wave o l 8)
      (min (slice (srcC s c.wave o l 16) 8 8) n))

def execPopc (h : Hdr) (o : OpA) (s : State) : Out :=
  .next (s.issueBits h o (shapeInt1 (tyUnsignedWide o.ty) o false) fun n a _ _ => popCount n a)

def execClz (h : Hdr) (o : OpA) (s : State) : Out :=
  .next (s.issueBits h o (shapeInt1 (tyUnsignedWide o.ty) o false) fun n a _ _ => leadingZeros n a)

def execCtz (h : Hdr) (o : OpA) (s : State) : Out :=
  .next (s.issueBits h o (shapeInt1 (tyUnsignedWide o.ty) o false) fun n a _ _ => trailingZeros n a)

def execBrev (h : Hdr) (o : OpA) (s : State) : Out :=
  .next (s.issueBits h o (shapeInt1 (tyUnsignedWide o.ty) o false) fun n a _ _ => reverseBits n a)

def execPrmt (h : Hdr) (o : OpA) (s : State) : Out :=
  .next (s.issueValue h o (shapePrmt o) false 6 fun s c _ l =>
    bytePermute (srcA s c.wave o l 32) (srcB s c.wave o l 32) (srcC s c.wave o l 32))

/-! ### Compare, select, move -/

/-- The predicate that X1 = 1 makes a comparison AND with (R189). -/
def andPred (s : State) (w : Wave) (o : OpA) (l : Nat) : Bool := !o.x1 || s.readP w l (o.c.toNat % 8)

def execIsetp (h : Hdr) (o : OpA) (s : State) : Out :=
  let ty := o.ty.toNat
  let n := intWidth ty
  .next (s.issueA h o (shapeIsetp o) false noTrap fun s c act =>
    predWrites o act fun l =>
      condInt o.x3.toNat (intOf ty (srcA s c.wave o l n)) (intOf ty (srcB s c.wave o l n)) && andPred s c.wave o l)

/-- The width of a raw copy (R181): TY 0 is 32 bits, TY 7 is 64. -/
def rawWidth (o : OpA) : Nat := if o.ty.toNat = 7 then 64 else 32
/-- The result type of a raw copy (R56): no sign extension. -/
def rawTy (o : OpA) : Nat := if o.ty.toNat = 7 then 7 else 6

/-- The lane whose predicate decides an ISEL with a uniform destination (log entry 61): of any lane, active or not, so that
the value does not depend on which lanes are active (R210); lane 0 where all agree, and in a deterministic job, whose value is
the same in every run (R55). -/
def State.iselLane (s : State) (c : Ctx) (p : Nat) : Nat :=
  if c.det then 0
  else ((List.range 32).find? fun l => s.readP c.wave l p != s.readP c.wave 0 p && s.choose l 4).getD 0

/-- ISEL (R189). It is uniform when A and B are (R154), and selects by each lane's own predicate where it writes a vector
register. -/
def execIsel (h : Hdr) (o : OpA) (s : State) : Out :=
  let p := o.c.toNat % 8
  let toUniform := (shapeIsel o).isUniform o && decide (192 ≤ o.d.toNat)
  .next (s.issueValue h o (shapeIsel o) false (rawTy o) fun s c _ l =>
    if s.readP c.wave (if toUniform then s.iselLane c p else l) p then srcA s c.wave o l (rawWidth o)
    else srcB s c.wave o l (rawWidth o))

def execMov (h : Hdr) (o : OpA) (s : State) : Out :=
  .next (s.issueValue h o (shapeMov o) false (rawTy o) fun s c _ l =>
    if o.ib then srcB s c.wave o l (rawWidth o) else srcA s c.wave o l (rawWidth o))

/-! ### Predicates -/

def execPlop (h : Hdr) (o : OpA) (s : State) : Out :=
  .next (s.issueA h o (shapePlop o) false noTrap fun s c act =>
    predWrites o act fun l =>
      predOp o.x3.toNat (s.readP c.wave l (o.a.toNat % 8)) (s.readP c.wave l (o.b.toNat % 8)))

def execPget (h : Hdr) (o : OpA) (s : State) : Out :=
  .next (s.issueA h o (shapePget o) false noTrap fun s c act =>
    act.map fun l =>
      .vec l o.d.toNat (BitVec.ofNat 32 (maskOf ((List.range 8).filter fun k => s.readP c.wave l k))))

def execPset (h : Hdr) (o : OpA) (s : State) : Out :=
  .next (s.issueA h o (shapePset o) false noTrap fun s c act =>
    act.flatMap fun l =>
      let a := srcA s c.wave o l 8
      let b := srcB s c.wave o l 8
      ((List.range 7).filter fun k => b.testBit k).map fun k => .pred l k (a.testBit k))

end Sys2Proof.Machine
end

