-- ==== Sys2Proof/Machine/Trans.lean ====
section
/-! DEFINITION. The transcendental functions FEX2, FLG2, FSIN, FCOS and FTANH (R78): correct rounding by enclosures of
the exact value in fixed point, with the precision doubled until both ends round alike. -/
namespace Sys2Proof

/-- 2^P × atan(1/n) or, with `alt = false`, 2^P × atanh(1/n), by its series; the error is below one unit a term. -/
def arcSeries (alt : Bool) (n : Nat) : Nat → Nat → Nat → Int → Int
  | 0, _, _, acc => acc
  | fuel + 1, k, p, acc =>
    let t : Int := (p / (2 * k + 1) : Nat)
    arcSeries alt n fuel (k + 1) (p / (n * n)) (if alt && k % 2 == 1 then acc - t else acc + t)

/-- 2^P × π by Machin's formula. -/
def piFixed (P : Nat) : Int :=
  16 * arcSeries true 5 (P / 4 + 4) 0 (2 ^ P / 5) 0 - 4 * arcSeries true 239 (P / 15 + 4) 0 (2 ^ P / 239) 0

/-- 2^P × ln 2 = 2^P × 2 atanh(1/3). -/
def ln2Fixed (P : Nat) : Int := 2 * arcSeries false 3 (P / 3 + 4) 0 (2 ^ P / 3) 0

/-- 2^P × e^r for a fixed-point r, by the series. -/
def expSeries (P : Nat) (r : Int) : Nat → Nat → Int → Int → Int
  | 0, _, _, acc => acc
  | fuel + 1, k, t, acc => expSeries P r fuel (k + 1) (t * r / (2 ^ P : Nat) / (k + 1 : Nat)) (acc + t)

/-- 2^P × e^r. -/
def expFixed (P : Nat) (r : Int) : Int := expSeries P r (P / 3 + 8) 0 (2 ^ P : Nat) 0

/-- 2^P × (sin r or cos r): terms from t by -r² / ((k+1)(k+2)). -/
def trigSeries (P : Nat) (r2 : Int) : Nat → Nat → Int → Int → Int
  | 0, _, _, acc => acc
  | fuel + 1, k, t, acc =>
    trigSeries P r2 fuel (k + 2) (-(t * r2 / (2 ^ P : Nat) / ((k + 1) * (k + 2) : Nat))) (acc + t)

def sinFixed (P : Nat) (r : Int) : Int := trigSeries P (r * r / (2 ^ P : Nat)) (P / 4 + 8) 1 r 0
def cosFixed (P : Nat) (r : Int) : Int := trigSeries P (r * r / (2 ^ P : Nat)) (P / 4 + 8) 0 (2 ^ P : Nat) 0

/-- 2^P × atanh(z) for a fixed-point z in (0, 1/3]. -/
def atanhSeries (P : Nat) (z2 : Int) : Nat → Nat → Int → Int → Int
  | 0, _, _, acc => acc
  | fuel + 1, k, t, acc => atanhSeries P z2 fuel (k + 1) (t * z2 / (2 ^ P : Nat)) (acc + t / (2 * k + 1 : Nat))

/-- 2^P × ln(m / 2^b) for 2^b ≤ m < 2^(b+1). -/
def lnFixed (P m b : Nat) : Int :=
  let z : Int := ((m - 2 ^ b) * 2 ^ P / (m + 2 ^ b) : Nat)
  2 * atanhSeries P (z * z / (2 ^ P : Nat)) (P / 3 + 8) 0 z 0

/-- A finite value as a fixed-point number of P fraction bits, rounded down. -/
def fixedOf (P : Nat) (neg : Bool) (m : Nat) (e : Int) : Int :=
  let v : Int := (if e + P ≥ 0 then m * 2 ^ (e + P).toNat else m / 2 ^ (-(e + P)).toNat : Nat)
  if neg then -v else v

/-- An approximation: 2^P × value × 2^(-shift) within `err` units. -/
structure Approx where
  v     : Int
  err   : Nat
  P     : Nat
  shift : Int := 0
  deriving DecidableEq, Repr

/-- The rounding of both ends of an enclosure, where they agree. -/
def Approx.round (f : Fmt) (rm : Nat) (ov : Bool) (a : Approx) : Option Nat :=
  let lo := a.v - a.err
  let hi := a.v + a.err
  if lo ≤ 0 ∧ 0 ≤ hi then none
  else
    let r (x : Int) : Nat := f.round rm ov (.fin (decide (x < 0)) x.natAbs (a.shift - a.P))
    if r lo = r hi then some (r lo) else none

/-- The first precision at which the enclosure rounds to one value; `fuel` doublings. -/
def refine (f : Fmt) (rm : Nat) (ov : Bool) (g : Nat → Approx) : Nat → Nat → Nat
  | 0, P => f.round rm ov (.fin (decide ((g P).v < 0)) (g P).v.natAbs ((g P).shift - (g P).P))
  | fuel + 1, P => match (g P).round f rm ov with
    | some r => r
    | none => refine f rm ov g fuel (2 * P)

/-- 2^x for a finite nonzero x with |x| < 2^12. -/
def exp2Approx (neg : Bool) (m : Nat) (e : Int) (P : Nat) : Approx :=
  let x := fixedOf P neg m e
  let n := x / (2 ^ P : Nat)
  let fr := x % (2 ^ P : Nat)
  { v := expFixed P (fr * ln2Fixed P / (2 ^ P : Nat)), err := 8 * P + 64, P, shift := n }

/-- FEX2 (Table 3-12). -/
def Fmt.ex2Bits (f : Fmt) (rm : Nat) (ov : Bool) (x : Nat) : Nat :=
  match f.decode x with
  | .nan => f.nan
  | .inf a => if a then f.signed false 0 else f.infinity false
  | .fin a m e =>
    if m = 0 then f.round 0 false (.fin false 1 0)
    else
      let n := (Fl.fin a m e).toInt 2
      if n ≥ 2048 then f.overflow false rm ov
      else if n < -2048 then f.roundRat rm ov false 1 (2 ^ 2048)
      else if e ≥ 0 ∨ m % 2 ^ (-e).toNat = 0 then f.round rm ov (.fin false 1 n)
      else refine f rm ov (exp2Approx a m e) 4 192

/-- FLG2 (Table 3-12): the value is k + ln(m / 2^b) / ln 2. -/
def Fmt.lg2Bits (f : Fmt) (rm : Nat) (ov : Bool) (x : Nat) : Nat :=
  match f.decode x with
  | .nan => f.nan
  | .inf a => if a then f.nan else f.infinity false
  | .fin a m e =>
    if m = 0 then f.infinity true
    else if a then f.nan
    else
      let b := Nat.log2 m
      let k := e + b
      if m = 2 ^ b then f.round rm ov (Fl.ofInt k 0 false)
      else refine f rm ov (fun P =>
        { v := k * (2 ^ P : Nat) + lnFixed P m b * (2 ^ P : Nat) / ln2Fixed P, err := 8 * P + 64, P }) 4 192

/-- sin (`cos = false`) or cos of a finite nonzero x: x = j × π/2 + r, with the argument's bits above the point added
to the precision of π. -/
def trigApprox (cos neg : Bool) (m : Nat) (e : Int) (P : Nat) : Approx :=
  let up := (e + Nat.log2 m + 2).toNat
  let W := P + up + 8
  let half := piFixed W / 2
  let x := fixedOf W false m e
  let j := (2 * x + half) / (2 * half)
  let r := (x - j * half) / (2 ^ (W - P) : Nat)
  let q := ((if cos then j + 1 else j) % 4).toNat
  let v := if q % 2 = 0 then sinFixed P r else cosFixed P r
  let v := if q ≥ 2 then -v else v
  { v := if neg && !cos then -v else v, err := 8 * P + 64, P }

def Fmt.sinBits (f : Fmt) (rm : Nat) (ov : Bool) (x : Nat) : Nat :=
  match f.decode x with
  | .nan => f.nan
  | .inf _ => f.nan
  | .fin a m e => if m = 0 then x else refine f rm ov (trigApprox false a m e) 4 512

def Fmt.cosBits (f : Fmt) (rm : Nat) (ov : Bool) (x : Nat) : Nat :=
  match f.decode x with
  | .nan => f.nan
  | .inf _ => f.nan
  | .fin a m e =>
    if m = 0 then f.round 0 false (.fin false 1 0) else refine f rm ov (trigApprox true a m e) 4 512

/-- tanh of a finite nonzero |x| < 32: (e^2x - 1) / (e^2x + 1). -/
def tanhApprox (neg : Bool) (m : Nat) (e : Int) (P : Nat) : Approx :=
  let y := 2 * fixedOf P false m e
  let n := y / ln2Fixed P
  let t := expFixed P (y - n * ln2Fixed P) * (2 ^ n.toNat : Nat)
  let one : Int := (2 ^ P : Nat)
  let v := (t - one) * one / (t + one)
  { v := if neg then -v else v, err := 16 * P + 64, P }

/-- FTANH (Table 3-12). From |x| = 32 on, the value lies between 1 - 2^-60 and 1. -/
def Fmt.tanhBits (f : Fmt) (rm : Nat) (ov : Bool) (x : Nat) : Nat :=
  match f.decode x with
  | .nan => f.nan
  | .inf a => f.round 0 false (.fin a 1 0)
  | .fin a m e =>
    if m = 0 then x
    else if (Fl.fin false 32 0).lt (.fin false m e) then f.roundRat rm ov a (2 ^ 60 - 1) (2 ^ 60)
    else refine f rm ov (tanhApprox a m e) 4 512

end Sys2Proof
end

