-- ==== Sys2Proof/Machine/FloatAlu.lean ====
section
/-! DEFINITION. The meanings of floating-point arithmetic (R190 to R193, R78). -/
namespace Sys2Proof.Machine

/-- The element format of a word's type. -/
def opFmt (o : OpA) : Fmt := fmtOf o.ty.toNat

def execFadd (h : Hdr) (o : OpA) (s : State) : Out :=
  .next (s.issueFp h o 0x20 (shapeF2 o (tyFP o.ty) true) 2 false fun a b _ => (opFmt o).addBits o.rm.toNat o.ov a b)

def execFsub (h : Hdr) (o : OpA) (s : State) : Out :=
  .next (s.issueFp h o 0x21 (shapeF2 o (tyFP o.ty) true) 2 false fun a b _ => (opFmt o).subBits o.rm.toNat o.ov a b)

def execFmul (h : Hdr) (o : OpA) (s : State) : Out :=
  .next (s.issueFp h o 0x22 (shapeF2 o (tyFP o.ty) true) 2 false fun a b _ => (opFmt o).mulBits o.rm.toNat o.ov a b)

def execFfma (h : Hdr) (o : OpA) (s : State) : Out :=
  .next (s.issueFp h o 0x23 (shapeFfma o) 3 false fun a b c => (opFmt o).fmaBits o.rm.toNat o.ov a b c)

def execFmin (h : Hdr) (o : OpA) (s : State) : Out :=
  .next (s.issueFp h o 0x24 (shapeF2 o (tyFP o.ty) false) 2 false fun a b _ => (opFmt o).minMax false a b)

def execFmax (h : Hdr) (o : OpA) (s : State) : Out :=
  .next (s.issueFp h o 0x25 (shapeF2 o (tyFP o.ty) false) 2 false fun a b _ => (opFmt o).minMax true a b)

/-- FSETP: with SP = 1 slag is an unordered NaN, which every slag pattern already is (R77). -/
def execFsetp (h : Hdr) (o : OpA) (s : State) : Out :=
  let ty := o.ty.toNat
  let n := fpBits ty
  let f := fmtOf ty
  .next (s.issueA h o (shapeFsetp o) false
    (fun s c act => if o.sp then none else slagTrap 0x26 0 act
      [⟨0, ty, fun l => srcA s c.wave o l n⟩, ⟨1, ty, fun l => srcB s c.wave o l n⟩])
    (fun s c act => predWrites o act fun l =>
      condFloat o.x3.toNat ((f.decode (srcA s c.wave o l n)).compare (f.decode (srcB s c.wave o l n))) &&
        andPred s c.wave o l))

def execFrcp (h : Hdr) (o : OpA) (s : State) : Out :=
  .next (s.issueFp h o 0x27 (shapeF1 o (tyFT o.ty)) 1 true fun a _ _ => (opFmt o).rcpBits o.rm.toNat o.ov a)

def execFrsq (h : Hdr) (o : OpA) (s : State) : Out :=
  .next (s.issueFp h o 0x28 (shapeF1 o (tyFT o.ty)) 1 true fun a _ _ => (opFmt o).rsqBits o.rm.toNat o.ov a)

def execFsqrt (h : Hdr) (o : OpA) (s : State) : Out :=
  .next (s.issueFp h o 0x29 (shapeF1 o (tyF o.ty)) 1 true fun a _ _ => (opFmt o).sqrtBits o.rm.toNat o.ov a)

def execFdiv (h : Hdr) (o : OpA) (s : State) : Out :=
  .next (s.issueFp h o 0x2A (shapeF2 o (tyF o.ty) true) 2 true fun a b _ => (opFmt o).divBits o.rm.toNat o.ov a b)

def execFex2 (h : Hdr) (o : OpA) (s : State) : Out :=
  .next (s.issueFp h o 0x2B (shapeF1 o (tyFT o.ty)) 1 true fun a _ _ => (opFmt o).ex2Bits o.rm.toNat o.ov a)

def execFlg2 (h : Hdr) (o : OpA) (s : State) : Out :=
  .next (s.issueFp h o 0x2C (shapeF1 o (tyFT o.ty)) 1 true fun a _ _ => (opFmt o).lg2Bits o.rm.toNat o.ov a)

def execFsin (h : Hdr) (o : OpA) (s : State) : Out :=
  .next (s.issueFp h o 0x2D (shapeF1 o (tyFT o.ty)) 1 true fun a _ _ => (opFmt o).sinBits o.rm.toNat o.ov a)

def execFcos (h : Hdr) (o : OpA) (s : State) : Out :=
  .next (s.issueFp h o 0x2E (shapeF1 o (tyFT o.ty)) 1 true fun a _ _ => (opFmt o).cosBits o.rm.toNat o.ov a)

def execFtanh (h : Hdr) (o : OpA) (s : State) : Out :=
  .next (s.issueFp h o 0x2F (shapeF1 o (tyFT o.ty)) 1 true fun a _ _ => (opFmt o).tanhBits o.rm.toNat o.ov a)

def execFrnd (h : Hdr) (o : OpA) (s : State) : Out :=
  .next (s.issueFp h o 0x30 (shapeFrnd o) 1 false fun a _ _ => (opFmt o).rndBits o.rm.toNat a)

/-- FCLS examines slag without rejecting it (R192). -/
def execFcls (h : Hdr) (o : OpA) (s : State) : Out :=
  let ty := o.ty.toNat
  .next (s.issueValue h o (shapeFcls o) false 6 fun s c _ l => classMask ty (srcA s c.wave o l (fpBits ty)))

/-- FSCL: B is read as i32 whatever TY. -/
def execFscl (h : Hdr) (o : OpA) (s : State) : Out :=
  let ty := o.ty.toNat
  let n := fpBits ty
  .next (s.issueA h o (shapeFscl o) false
    (fun s c act => if o.sp && slagCarries ty then none else slagTrap 0x32 0 act [⟨0, ty, fun l => srcA s c.wave o l n⟩])
    (fun s c act => destWrites (shapeFscl o) o act ty fun l =>
      let a := srcA s c.wave o l n
      orSlag ty [(ty, a)] ((fmtOf ty).scaleBits o.rm.toNat o.ov a (toSigned 32 (srcB s c.wave o l 32)))))

end Sys2Proof.Machine
end

