-- ==== Sys2Proof/Machine/Convert.lean ====
section
/-! DEFINITION. The meanings of conversions and narrow formats (R194 to R198) and of TSLAG (R289). -/
namespace Sys2Proof.Machine

/-- The fields of a format slot (Table 3-10). -/
structure Slot where
  fmt : Nat
  off : Nat
  scl : Int
  deriving DecidableEq, Repr

/-- Format slot f(k) of a card (R72). -/
def Card.slot (c : Card) (k : Nat) : Slot :=
  let x := (c.formats.getD k 0).toNat
  { fmt := x % 16, off := slice x 4 4, scl := toSigned 8 (slice x 8 8) }

/-- The bits that a source of a type has. -/
def tyBits (ty : Nat) : Nat := if ty ≤ 7 then intWidth ty else fpBits ty

/-- FCVT (R195, R64): to the same type it only makes a NaN canonical. -/
def execFcvt (h : Hdr) (o : OpA) (s : State) : Out :=
  let st := (srcTy o).toNat
  let dt := o.ty.toNat
  let n := tyBits st
  .next (s.issueA h o (shapeFcvt o) false
    (fun s c act => if o.sp && slagCarries dt then none else slagTrap 0x40 0 act [⟨0, st, fun l => srcA s c.wave o l n⟩])
    (fun s c act => destWrites (shapeFcvt o) o act dt fun l =>
      let a := srcA s c.wave o l n
      orSlag dt [(st, a)]
        (if st = dt then (if ((fmtOf st).decode a).isNan then (fmtOf st).nan else a)
         else convertFloat (fmtOf st) (fmtOf dt) o.rm.toNat o.ov a)))

/-- ICVT (R195): from an integer, by R57 or `roundFp`; from a float to an integer, clamped, and slag is rejected. -/
def execIcvt (h : Hdr) (o : OpA) (s : State) : Out :=
  let st := (srcTy o).toNat
  let dt := o.ty.toNat
  let n := tyBits st
  .next (s.issueA h o (shapeIcvt o) false
    (fun s c act => if st ≤ 7 then none else slagTrap 0x41 0 act [⟨0, st, fun l => srcA s c.wave o l n⟩])
    (fun s c act => destWrites (shapeIcvt o) o act dt fun l =>
      let a := srcA s c.wave o l n
      if st ≤ 7 then
        if dt ≤ 7 then reduceInt dt o.ov (intOf st a) else intToFloat (fmtOf dt) o.rm.toNat o.ov (intOf st a)
      else floatToInt (fmtOf st) o.rm.toNat a dt))

/-- cv of R196, with the verdict of a slag operand carried where it is admitted. -/
def packElement (o : OpA) (x : Nat) : Nat :=
  let ty := o.ty.toNat
  orSlag ty (if slagCarries ty then [(10, x)] else []) (convertFloat f32 (fmtOf ty) o.rm.toNat o.ov x)

def execNpack (h : Hdr) (o : OpA) (s : State) : Out :=
  let ty := o.ty.toNat
  .next (s.issueA h o (shapeNpack o) false
    (fun s c act => if o.sp && slagCarries ty then none
      else slagTrap 0x42 0 act [⟨0, 10, fun l => srcA s c.wave o l 32⟩, ⟨1, 10, fun l => srcB s c.wave o l 32⟩])
    (fun s c act => destWrites (shapeNpack o) o act 6 fun l =>
      let a := packElement o (srcA s c.wave o l 32)
      let b := packElement o (srcB s c.wave o l 32)
      if ty = 8 ∨ ty = 9 then b * 2 ^ 16 + a
      else
        let x := srcC s c.wave o l 32
        if o.x1 then (b * 2 ^ 8 + a) * 2 ^ 16 + x % 2 ^ 16 else x / 2 ^ 16 * 2 ^ 16 + b * 2 ^ 8 + a))

def execNunpk (h : Hdr) (o : OpA) (s : State) : Out :=
  let ty := o.ty.toNat
  let n := fpBits ty
  let el (s : State) (c : Ctx) (l : Nat) : Nat := slice (srcA s c.wave o l 32) (n * o.x3.toNat) n
  .next (s.issueA h o (shapeNunpk o) false
    (fun s c act => if o.sp then none else slagTrap 0x43 0 act [⟨0, ty, fun l => el s c l⟩])
    (fun s c act => destWrites (shapeNunpk o) o act 10 fun l =>
      orSlag 10 [(ty, el s c l)] (convertFloat (fmtOf ty) f32 0 false (el s c l))))

/-- The slot of a word has a format that it does not admit (Table 18-4). -/
def slotTrap (c : Ctx) (k : Nat) (admitted : List Nat) (act : List Nat) : Option Trap :=
  let f := (c.card.slot k).fmt
  if admitted.contains f then none else some (.error 0x0007 k f act)

/-- BXHDR (R197): the block of the 32 lanes' values, +0 for a lane that is not active unless A is uniform. -/
def execBxhdr (h : Hdr) (o : OpA) (s : State) : Out :=
  let k := o.x3.toNat
  .next (s.issueA h o (shapeBxhdr o) false
    (fun s c act => (slotTrap c k [5, 6] act).or (slagTrap 0x44 0 act [⟨0, 10, fun l => srcA s c.wave o l 32⟩]))
    (fun s c act =>
      let slot := c.card.slot k
      let xs := (List.range 32).map fun i =>
        if o.ua || act.contains i then f32.decode (srcA s c.wave o i 32) else .fin false 0 0
      let (header, els) := packBx slot.fmt slot.off slot.scl o.ov xs
      destWrites (shapeBxhdr o) o act 6 fun l => els.getD l 0 * 2 ^ 16 + header))

/-- A narrow element of DOT4 through its slot (R198). -/
def dotElement (slot : Slot) (x : Nat) : Fl :=
  (if slot.fmt = 3 then e4m3.decode x else if slot.fmt = 4 then e5m2.decode x
   else Fl.ofInt (toSigned 8 x) 0 false).scale slot.scl

/-- DOT4 (R198, R80): four exact products and the accumulator, rounded once. -/
def dot4 (slot : Slot) (rm : Nat) (ov : Bool) (a b c : Nat) : Nat :=
  let sum := (List.range 4).foldl (fun t j =>
    let p := Fl.mul (dotElement slot (slice a (8 * j) 8)) (dotElement slot (slice b (8 * j) 8))
    match t with
    | none => some p
    | some t => some (Fl.add rm t p)) (none : Option Fl)
  f32.round rm ov (Fl.add rm (sum.getD .nan) (f32.decode c))

def execDot4 (h : Hdr) (o : OpA) (s : State) : Out :=
  let k := o.x3.toNat
  .next (s.issueA h o (shapeDot4 o) false
    (fun s c act => (slotTrap c k [3, 4, 7] act).or
      (if o.sp then none else slagTrap 0x45 0 act [⟨2, 10, fun l => srcC s c.wave o l 32⟩]))
    (fun s c act => destWrites (shapeDot4 o) o act 10 fun l =>
      let x := srcC s c.wave o l 32
      orSlag 10 [(10, x)] (dot4 (c.card.slot k) o.rm.toNat o.ov (srcA s c.wave o l 32) (srcB s c.wave o l 32) x)))

end Sys2Proof.Machine
end

