-- ==== Sys2Proof/Machine/Tensor.lean ====
section
/-! DEFINITION. Tensor shape records (R259) and tiles (R260). -/
namespace Sys2Proof.Machine

/-- A tensor shape record (Table 9-5). -/
structure Tsr where
  bits  : Nat
  base  : Nat
  hbase : Nat
  ndim  : Nat
  slot  : Nat
  padv  : Nat
  ext   : List Nat
  str   : List Int
  deriving DecidableEq, Repr

def parseTsr (x : Nat) : Tsr :=
  { bits := x, base := slice x 0 64, hbase := slice x 64 64, ndim := slice x 411 3, slot := slice x 408 3,
    padv := slice x 416 16, ext := (List.range 5).map fun d => slice x (128 + 56 * d) 24
    str := (List.range 5).map fun d => toSigned 32 (slice x (152 + 56 * d) 32) }

/-- The element size in half bytes of a format (R259). -/
def halfBytes (fmt : Nat) : Nat := [8, 4, 4, 2, 2, 2, 1, 2].getD fmt 2

/-- The format is one of the block formats. -/
def isBx (fmt : Nat) : Bool := fmt == 5 || fmt == 6

/-- The rules of R259 for a record of a format. -/
def Tsr.ok (t : Tsr) (fmt : Nat) : Bool :=
  slice t.bits 480 32 == 0 && slice t.bits 414 2 == 0 && decide (1 ≤ t.ndim ∧ t.ndim ≤ 5) && t.str.getD 0 0 == 0 &&
  ((List.range 5).all fun d =>
    if d < t.ndim then t.ext.getD d 0 != 0 else t.ext.getD d 0 == 0 && t.str.getD d 0 == 0) &&
  (if isBx fmt then
    t.ext.getD 0 0 % 32 == 0 &&
      (List.range 5).all fun d => d = 0 || t.str.getD d 0 % (16 * halfBytes fmt : Nat) == 0
   else t.hbase == 0)

/-- The extent of a dimension; one that does not exist acts as 1 (R259). -/
def Tsr.extent (t : Tsr) (d : Nat) : Nat := if d < t.ndim then t.ext.getD d 0 else 1

/-- The tile grid (R260). -/
def Tsr.grid (t : Tsr) (tx : List Nat) (d : Nat) : Nat := (t.extent d + tx.getD d 1 - 1) / tx.getD d 1

/-- The number of tiles N. -/
def Tsr.tiles (t : Tsr) (tx : List Nat) : Nat := (List.range 5).foldl (fun n d => n * t.grid tx d) 1

/-- The tile extents that R260 admits with a record of a format. -/
def Tsr.tileOk (t : Tsr) (fmt : Nat) (tx : List Nat) : Bool :=
  ((List.range 5).all fun d => d < t.ndim || tx.getD d 1 == 1) && (!isBx fmt || tx.getD 0 0 % 32 == 0)

/-- Grid coordinates of tile `n`: mixed radix, the order's first dimension lowest (R260). -/
def Tsr.tileCoords (t : Tsr) (tx order : List Nat) (n : Nat) : Tab Nat :=
  (order.foldl (fun (r : Nat × Tab Nat) d =>
    (r.1 / t.grid tx d, r.2.insert d (r.1 % t.grid tx d))) (n, [])).2

/-- A run of a tile's bytes: its offset and length, and the tensor address that it comes from, or the pattern that it
reads. -/
structure Seg where
  off : Nat
  len : Nat
  va  : Option Nat
  pad : List Byte := []
  deriving DecidableEq, Repr

/-- Tile bytes of elements, and where the headers begin (R260). -/
def tileElems (fmt : Nat) (tx : List Nat) : Nat :=
  (List.range 5).foldl (fun n d => n * tx.getD d 1) 1 * halfBytes fmt / 2
def tileHeaders (fmt : Nat) (tx : List Nat) : Nat := (tileElems fmt tx + 127) / 128 * 128

/-- The tile's size (R260). -/
def tileSize (fmt : Nat) (tx : List Nat) : Nat :=
  if isBx fmt then
    tileHeaders fmt tx + 2 * ((List.range 5).foldl (fun n d => n * tx.getD d 1) 1 / 32)
  else tileElems fmt tx

/-- What an element outside the extents reads (R260). -/
def Tsr.padBytes (t : Tsr) (fmt : Nat) : List Byte :=
  if isBx fmt then [0]
  else match halfBytes fmt with
    | 8 => bytesOfNat 4 (t.padv * 2 ^ 16)
    | 4 => bytesOfNat 2 t.padv
    | _ => bytesOfNat 1 t.padv

/-- The runs of row `r` of tile coordinates `g`: elements within the extents, elements beyond, and block headers. -/
def Tsr.rowSegs (t : Tsr) (fmt : Nat) (tx : List Nat) (g : Tab Nat) (r : Nat) : List Seg :=
  let x (d : Nat) : Nat := tx.getD d 1
  let h := halfBytes fmt
  let u : List Nat := [0, r % x 1, r / x 1 % x 2, r / (x 1 * x 2) % x 3, r / (x 1 * x 2 * x 3)]
  let c (d : Nat) : Nat := g.getD d 0 * x d + u.getD d 0
  let inside := [1, 2, 3, 4].all fun d => decide (c d < t.extent d)
  let n := if inside then min (x 0) (t.extent 0 - c 0) else 0
  let o : Int := (c 0 * h / 2 : Nat) + ([1, 2, 3, 4].foldl (fun (a : Int) d => a + c d * t.str.getD d 0) 0)
  let at_ (b : Nat) (k : Int) : Nat := ofSigned 64 ((b : Int) + k)
  let bytes (k : Nat) : Nat := k * h / 2
  let row := r * bytes (x 0)
  let elems : List Seg :=
    (if n = 0 then [] else [{ off := row, len := bytes n, va := some (at_ t.base o) }]) ++
    (if n < x 0 then [{ off := row + bytes n, len := bytes (x 0 - n), va := none, pad := t.padBytes fmt }] else [])
  let headers : List Seg :=
    if isBx fmt then (List.range (x 0 / 32)).map fun k =>
      { off := tileHeaders fmt tx + 2 * (r * (x 0 / 32) + k), len := 2
        va := if k * 32 < n then some (at_ t.hbase (2 * ((o + k * bytes 32) / (bytes 32 : Nat)))) else none
        pad := [0] }
    else []
  elems ++ headers

/-- The runs of tile `n`. -/
def Tsr.segs (t : Tsr) (fmt : Nat) (tx order : List Nat) (n : Nat) : List Seg :=
  let g := t.tileCoords tx order n
  (List.range (tx.getD 1 1 * tx.getD 2 1 * tx.getD 3 1 * tx.getD 4 1)).flatMap fun r => t.rowSegs fmt tx g r

/-- The bytes of a run that reads a pattern. -/
def Seg.padding (g : Seg) : List (Nat × Byte) :=
  (List.range g.len).map fun i => (g.off + i, g.pad.getD (i % g.pad.length) 0)

end Sys2Proof.Machine
end

