-- ==== Sys2Proof/Machine/Engine.lean ====
section
/-! DEFINITION. What the copy units and stream engines share: reads and writes of memory (R120, R142, R257, R410),
deliveries (R90, R262), addresses of commands (R256), footprint edges (R143). -/
namespace Sys2Proof.Machine

/-- An engine at work: who asks for its translations, the core through whose commit buffer it reads, its job. -/
structure Engine where
  q    : Requester
  core : Option Nat
  job  : Nat
  deriving DecidableEq, Repr

/-- Why an engine command fails (Table 21-1): CODE, INFO0, INFO1. -/
structure EngineError where
  code  : Nat
  info0 : Nat
  info1 : Nat
  deriving DecidableEq, Repr

/-- What an engine's access comes to. -/
inductive Got (α : Type) where
  | ok (x : α)
  | miss (on : List (Nat × Nat))
  /-- a scratchpad line that it reads is absent (R91) -/
  | absent
  | fail (e : EngineError)
  deriving DecidableEq, Repr

/-! ### Reads -/

/-- The addresses at which a range meets a new page, its first and last byte among them. -/
def pagesOf (va n : Nat) : List Nat := va :: ((List.range (n / 4096 + 1)).map fun i => va + min (i * 4096) (n - 1)) ++ [va + n - 1]

/-- One byte that an engine reads (R142): through its core's commit buffer and the home. Poison fails the command. -/
def State.engineByte (s : State) (e : Engine) (pa : Nat) : Got Byte :=
  match e.core.bind fun c => committedByte (s.core c) pa with
  | some b => .ok b
  | none => match s.poisonRead pa with
    | some k => .fail { code := 0x0209, info0 := pa / 32 * 32, info1 := k }
    | none => .ok (s.home pa)

/-- Ranges of global memory (address, length) read in order. -/
def State.engineRead (s : State) (e : Engine) (ranges : List (Nat × Nat)) : Got (List Byte) × State :=
  match s.translateAll e.q (ranges.flatMap fun r => pagesOf r.1 r.2) .read with
  | (.park on, s) => (.miss on, s)
  | (.error code a b _, s) => (.fail { code, info0 := a, info1 := b }, s)
  | (.ok pages, s) =>
    let addrs := ranges.flatMap fun r => (List.range r.2).map fun i => pageAddr pages (r.1 + i)
    match firstSome addrs fun a => match s.engineByte e a with | .fail x => some x | _ => none with
    | some x => (.fail x, s)
    | none => (.ok (addrs.map fun a => match s.engineByte e a with | .ok b => b | _ => 0), s)

/-- A range of a block's scratchpad read (R91, R428). -/
def State.scratchRead (s : State) (b off n : Nat) : Got (List Byte) :=
  let x := s.block b
  let offs := (List.range n).map fun i => off + i
  if x.absent.any fun l => decide (off < l * 128 + 128 ∧ l * 128 < off + n) then .absent
  else match if x.poison.isEmpty then none else offs.find? fun o => x.poison.contains (o / 4) with
    | some o => .fail { code := 0x0209, info0 := poisonPlace (o / 4 * 4), info1 := 1 }
    | none => .ok (x.bytesAt offs)

/-! ### Writes -/

/-- Global writes made in order up to the first page that faults (R257, R410): what is left, and the misses to wait
on. `fuel` bounds the pages. -/
def State.engineWrite (s : State) (e : Engine) : Nat → List (Nat × Byte) → (List (Nat × Byte) × List (Nat × Nat)) × State
  | 0, data => ((data, []), s)
  | _, [] => (([], []), s)
  | fuel + 1, (va, b) :: rest =>
    match s.translateAll e.q [va] .write with
    | (.ok pages, s) =>
      let here := ((va, b) :: rest).takeWhile fun p => p.1 / 4096 == va / 4096
      let (lost, s) := s.writeOut (here.map fun p => (pageAddr pages p.1, p.2))
      let s := s.reportLost (lostOf e.job lost)
      s.engineWrite e fuel (((va, b) :: rest).dropWhile fun p => p.1 / 4096 == va / 4096)
    | (.park on, s) => (((va, b) :: rest, on), s)
    | (.error .., s) => (((va, b) :: rest, []), s)

/-- The translation error that a command's global writes would meet: found before any byte is written (R428). -/
def State.writeError (s : State) (e : Engine) (data : List (Nat × Byte)) : Option EngineError :=
  match (s.translateAll e.q (distinct (data.map fun p => p.1 / 4096 * 4096)) .write).1 with
  | .error code a b _ => some { code, info0 := a, info1 := b }
  | _ => none

/-! ### Deliveries -/

/-- The lines that a delivery writes. -/
def Delivery.lines (d : Delivery) : List Nat := distinct (d.bytes.map fun p => p.1 / 128)

/-- A delivery is accepted: its lines are absent until it lands (R90). -/
def State.accept (s : State) (b : Nat) (d : Delivery) : State :=
  s.onBlock b fun x => { x with deliveries := x.deliveries ++ [d], absent := x.absent ++ d.lines }

/-- Lines whose presence waits for one delivery less. -/
def dropLines (absent lines : List Nat) : List Nat := lines.foldl (fun l n => l.erase n) absent

/-! ### Stream programs and their errors -/

/-- A record of an engine error (R427). -/
def State.engineError (s : State) (job source core bid task pc : Nat) (e : EngineError) : State :=
  let x := s.job job
  s.errorRecord x.asid x.card.addr x.card.eq
    { code := e.code, source, core, bid, pc, task, info0 := e.info0, info1 := e.info1 } (s.storesOf job)

/-- The engine that runs a program (R265, R410): its fault records name the core of the bound cluster's block 0. -/
def State.streamEngine (s : State) (e : Nat) (p : Program) : Engine :=
  let c := s.cluster p.cluster
  { q := { core := none, label := (s.block (s.blockOf p.cluster 0)).core, die := dieOfEngine e, engine := true,
           asid := (s.job p.job).asid, root := c.root, regt := c.regt }
    core := none, job := p.job }

/-- A ring object of a block of the bound cluster is poisoned, where the cluster has not ended. -/
def State.poisonTargets (s : State) (cluster : Nat) (l : List (Nat × Nat)) : State :=
  if (s.cluster cluster).life = .ended then s else l.foldl (fun s t => s.poisonRing t.1 t.2) s

/-- The claims of a push that fails are given back (R429): its deliveries go, and CLM is as before them, where no later
claim has been made (log entry 30). -/
def State.unclaimPush (s : State) (e k number : Nat) : State :=
  let mine (d : Delivery) : Bool := d.kind == 1 && d.owner == e * 16 + k && d.number == number && !d.accepted
  s.each s.blocks.keys fun s b =>
    let s := ((s.block b).deliveries.filter mine).foldl (fun s d => match d.claim with
      | some c =>
        if s.claimLives b c ∧ (s.ring b c.off).clm.toNat = (c.k + 1) % 2 ^ 32 then
          s.putScratch b (c.off + 16) 4 c.k
        else s
      | none => s) s
    s.onBlock b fun x => { x with deliveries := x.deliveries.filter fun d => !mine d }

/-- A stream command fails (R427, R429): the program stops, and the rings `targets` of the failing command and those of
the last SPUSH are poisoned. -/
def State.failStream (s : State) (e k : Nat) (targets : List (Nat × Nat)) (x : EngineError) : State :=
  let p := s.program e k
  let s := match p.push with | some (n, _) => s.unclaimPush e k n | none => s
  let s := s.poisonTargets p.cluster (distinct (targets ++ p.targets))
  let s := s.onProgram e k fun p => { p with busy := false, state := 4, push := none, got := [], misses := [], window := none }
  s.engineError p.job 2 (s.block (s.blockOf p.cluster 0)).core 0 (s.cluster p.cluster).task p.here.toNat x

/-- An SPUSH fails whose claim was of an earlier initialisation of a ring (R431): the program stops, the reinitialised
objects alone are poisoned. -/
def State.failPush (s : State) (e k : Nat) (x : Push) : State :=
  let p := s.program e k
  let s := match p.push with | some (n, _) => s.unclaimPush e k n | none => s
  let s := s.poisonTargets p.cluster (x.stale.map fun t => (t.1, t.2.1))
  let s := if p.busy then
      s.onProgram e k fun p => { p with busy := false, state := 4, push := none, got := [], misses := [], window := none }
    else s
  let first := x.stale.headD (0, 0, 0)
  s.engineError p.job 2 (s.block (s.blockOf p.cluster 0)).core 0 (s.cluster p.cluster).task x.pc.toNat
    { code := 0x020C, info0 := first.2.1, info1 := first.2.2 }

/-! ### Landing -/

/-- A push of a program whose deliveries have all landed has completed (R144), or fails for a stale claim (R431). -/
def State.endPush (s : State) (e k number : Nat) : State :=
  match (s.program e k).inflight.find? fun x => x.number == number with
  | none => s
  | some x =>
    let s := s.onProgram e k fun p => { p with inflight := p.inflight.filter fun y => y.number != number }
    if x.stale.isEmpty then s.onProgram e k fun p => { p with pushes := p.pushes + 1 } else s.failPush e k x

/-- Delivery `k` of a block lands (R90): its bytes are written and its lines come nearer to presence; then rings
advance (R262), and the push of a stream program whose last delivery this was has ended. -/
def State.land (s : State) (b k : Nat) : State :=
  match (s.block b).deliveries[k]? with
  | none => s
  | some d =>
    if d.landed || !d.accepted then s
    else
      let s := s.onBlock b fun x =>
        { x.store d.bytes with
          absent := dropLines x.absent d.lines
          deliveries := if d.claim.isSome then x.deliveries.set k { d with landed := true } else x.deliveries.eraseIdx k }
      let s := s.advanceRings b
      let left := s.blocks.any fun x => x.2.deliveries.any fun y =>
        y.kind == 1 && y.owner == d.owner && y.number == d.number && !y.landed
      if d.kind = 1 ∧ !left then s.endPush (d.owner / 16) (d.owner % 16) d.number else s

/-- An engine delivery lands (DELIVERY_LAND). -/
def execDeliveryLand (block k : Nat) (s : State) : Out := .next (s.land block k)

/-! ### Addresses of commands -/

/-- Where a command's address lies: in global memory, or at an offset of a block. -/
inductive Loc where
  | global (va : Nat)
  | scratch (block off : Nat)
  deriving DecidableEq, Repr

/-- The engine address violation (0x0202, Table 21-1): the address, its window, and whether it is misaligned. -/
def addressViolation (a g : Nat) : EngineError :=
  { code := 0x0202, info0 := a, info1 := windowOf a + if a % g = 0 then 0 else 256 }

/-- A generic address of a command with its length (R256): an address violation is 0x0202. -/
def State.locate (s : State) (b a n : Nat) (glob : Bool) : Except EngineError Loc :=
  let x := s.block b
  let card := (s.job (s.cluster x.cluster).job).card
  let bad : Except EngineError Loc := .error (addressViolation a 1)
  match windowOf a with
  | 0 => if glob && decide (a + n ≤ stackBase) then .ok (.global a) else bad
  | 2 =>
    let y := a - clusterBase
    if y / 2 ^ 20 < card.blocks ∧ y % 2 ^ 20 + n ≤ card.shared then
      .ok (.scratch (s.blockOf x.cluster (y / 2 ^ 20)) (y % 2 ^ 20))
    else bad
  | 3 => if a - blockBase + n ≤ card.shared then .ok (.scratch b (a - blockBase)) else bad
  | _ => bad

/-- The bytes at a location. -/
def State.readLoc (s : State) (e : Engine) (l : Loc) (n : Nat) : Got (List Byte) × State :=
  match l with
  | .global va => s.engineRead e [(va, n)]
  | .scratch b off => (s.scratchRead b off n, s)

/-- The address of a location in its space. -/
def Loc.addr : Loc → Nat
  | .global va => va
  | .scratch _ off => off

/-- The location `k` bytes on. -/
def Loc.shift (l : Loc) (k : Nat) : Loc :=
  match l with
  | .global va => .global (va + k)
  | .scratch b off => .scratch b (off + k)

/-- The bytes of a list of runs. -/
def runsLength (l : List (Loc × Nat)) : Nat := sumOf l Prod.snd

/-- The rest of a line, `k` bytes into a list of runs. -/
def nextPiece : List (Loc × Nat) → Nat → Option (Loc × Nat)
  | [], _ => none
  | (l, n) :: rest, k =>
    if k < n then some (l.shift k, min (n - k) (128 - (l.addr + k) % 128)) else nextPiece rest (k - n)

/-- Runs read on from where `got` ends, a line at a time: each line with the bytes of one moment (R150). After each line
the part may let other agents act, a choice (log entry 3). -/
def State.readOn (s : State) (e : Engine) (runs : List (Loc × Nat)) : Nat → List Byte → Got (List Byte) × State
  | 0, got => (.ok got, s)
  | fuel + 1, got =>
    match nextPiece runs got.length with
    | none => (.ok got, s)
    | some (l, n) =>
      match s.readLoc e l n with
      | (.ok b, s) =>
        if s.choose (l.addr / 128) 6 then (.ok (got ++ b), s) else s.readOn e runs fuel (got ++ b)
      | r => r

/-- The sources of a command read on: every page of them is translated first (R410). -/
def State.gather (s : State) (e : Engine) (runs : List (Loc × Nat)) (got : List Byte) : Got (List Byte) × State :=
  let pages := runs.flatMap fun r => match r.1 with | .global va => pagesOf va r.2 | .scratch .. => []
  match s.translateAll e.q pages .read with
  | (.park on, s) => (.miss on, s)
  | (.error code a b _, s) => (.fail { code, info0 := a, info1 := b }, s)
  | (.ok _, s) => s.readOn e runs (runsLength runs + 1) got

/-- A range of an address space for footprints: 0 is global memory, 1 + b the scratchpad of block b. -/
structure Span where
  space : Nat
  lo    : Nat
  hi    : Nat
  deriving DecidableEq, Repr

def Loc.span (l : Loc) (n : Nat) : Span :=
  match l with
  | .global va => { space := 0, lo := va, hi := va + n }
  | .scratch b off => { space := 1 + b, lo := off, hi := off + n }

/-- Overlap at 128-byte granularity (R143). -/
def Span.meets (x y : Span) : Bool :=
  x.space == y.space && decide (x.lo < x.hi ∧ y.lo < y.hi ∧ x.lo / 128 ≤ (y.hi - 1) / 128 ∧ y.lo / 128 ≤ (x.hi - 1) / 128)

/-- The footprints of a command: what it reads and what it writes. -/
structure Prints where
  reads  : List Span
  writes : List Span
  deriving DecidableEq, Repr

/-- A footprint edge of R143. -/
def Prints.edge (later earlier : Prints) : Bool :=
  let m (a b : List Span) : Bool := a.any fun x => b.any fun y => x.meets y
  m later.reads earlier.writes || m later.writes earlier.reads || m later.writes earlier.writes

/-- INFO1 of 0x0201 for a decoding problem (Table 21-1). -/
def problemCode : Problem → Nat
  | .reservedCommand => 0
  | .commandReserved => 2
  | _ => 3

end Sys2Proof.Machine
end

