-- ==== Sys2Proof/Machine/Cards.lean ====
section
/-! DEFINITION. Job cards (R308): reading (R449), the checks of acceptance (R309), footprints and conflicts (R313), the
order of jobs (R314). -/
namespace Sys2Proof.Machine

/-! ### Reading -/

/-- `n` bytes that the scheduler reads (R449): `none` where they lie on a malformed entry or cannot be read at all. -/
def State.schedRead (s : State) (q : Requester) (va n : Nat) : Got (Option Nat) × State :=
  if va + n > stackBase then (.ok none, s)
  else match s.engineRead { q, core := none, job := 0 } [(va, n)] with
    | (.ok b, s) => (.ok (some (natOfBytes b)), s)
    | (.miss on, s) => (.miss on, s)
    | (_, s) => (.ok none, s)

/-- Several ranges read in order, up to the first that waits. -/
def State.schedReads (s : State) (q : Requester) : List (Nat × Nat) → Got (List (Option Nat)) × State
  | [] => (.ok [], s)
  | (va, n) :: rest =>
    match s.schedRead q va n with
    | (.ok x, s) =>
      match s.schedReads q rest with
      | (.ok l, s) => (.ok (x :: l), s)
      | r => r
    | (.miss on, s) => (.miss on, s)
    | (.absent, s) => (.absent, s)
    | (.fail e, s) => (.fail e, s)

/-- What the scheduler reads of a card: the card, its extension record, its footprint and binding lists, the queue
control blocks of CQ, SQ, EQ and of its stages; `none` for what lies on a malformed entry. -/
structure CardImage where
  card  : Nat
  ext   : Option Nat
  foot  : Option Nat
  binds : Option Nat
  qcbs  : List (Option Nat)
  deriving DecidableEq, Repr

def xptrOf (card : Nat) : Nat := slice card 704 64
def nstgOf (ext : Nat) : Nat := slice ext 264 3
def bcountOf (ext : Nat) : Nat := slice ext 64 9

/-- Stage `k` of an extension record: SENTRY, IQ, LOW, HIGH, reserved bits. -/
def stageOf (ext k : Nat) : Nat := slice ext (512 + 256 * k) 256

/-- A card's further parts read (R308, R449). An extension record or list that breaks its alignment or length is not
read: the card is invalid by that. -/
def State.readParts (s : State) (q : Requester) (card : Nat) : Got CardImage × State :=
  let x := xptrOf card
  let nothing : Got (Option Nat) × State := (.ok (some 0), s)
  match if x = 0 ∨ x % 256 ≠ 0 then nothing else s.schedRead q x 256 with
  | (.ok ext, s) =>
    let e := ext.getD 0
    let fc := slice card 640 5
    let bc := bcountOf e
    let stages := (List.range (min 4 (nstgOf e))).map fun k => slice (stageOf e k) 64 64
    let qs := [slice card 448 64, slice card 512 64, slice card 576 64] ++ stages
    match s.schedReads q ([(slice card 646 58 * 64, if fc ≤ 16 then 16 * fc else 0),
        (slice e 0 64, if bc ≤ 256 then 32 * bc else 0)] |>.filter fun r => r.2 != 0) with
    | (.ok lists, s) =>
      let foot := if fc = 0 ∨ fc > 16 then some 0 else lists.headD none
      let binds := if bc = 0 ∨ bc > 256 then some 0 else lists.getLast?.getD none
      match s.schedReads q (qs.map fun a => (a, 64)) with
      | (.ok qcbs, s) => (.ok { card, ext, foot, binds, qcbs }, s)
      | (.miss on, s) => (.miss on, s)
      | (_, s) => (.ok { card, ext, foot, binds, qcbs := qs.map fun _ => none }, s)
    | (.miss on, s) => (.miss on, s)
    | (_, s) => (.ok { card, ext, foot := none, binds := none, qcbs := [] }, s)
  | (.miss on, s) => (.miss on, s)
  | (_, s) => (.ok { card, ext := none, foot := none, binds := none, qcbs := [] }, s)

/-! ### The card's fields -/

def footprintOf (x : Nat) : Footprint := { kind := slice x 126 2, base := slice x 0 64, len := slice x 64 48 }

/-- The binding of a card's entry (R308, Table 12-4). Its objects and regions in scratchpads and its barriers leave the
cluster open, and with a block-window address or CL = 0 the block (`Binding.opened`). -/
def bindingEntry (x : Nat) : Binding :=
  let obj := slice x 0 64
  let base := slice x 64 64
  let kind := slice x 158 2
  let block (a : Nat) : Option Nat := if windowOf a = 2 then some ((a - clusterBase) / 2 ^ 20) else none
  let off (a : Nat) : Nat := if windowOf a = 2 then (a - clusterBase) % 2 ^ 20 else a - blockBase
  let o : Obj :=
    match kind with
    | 3 => { kind := 1, block := if obj / 1024 % 2 = 1 then some 0 else none, addr := obj % 1024 }
    | 2 => { kind := 2, block := block obj, addr := off obj }
    | 1 => { kind := 4, addr := obj }
    | _ => if windowOf obj = 0 then wordObj' obj
           else { kind := 0, block := block obj, addr := blockBase + off obj / 8 * 8 }
  if windowOf base = 0 then { obj := o, base, len := 128 * slice x 128 30 }
  else { obj := o, scratch := true, block := block base, base := off base, len := 128 * slice x 128 30 }
where wordObj' (va : Nat) : Obj := { kind := 0, addr := va / 8 * 8 }

/-- A binding entry lies in the ranges that BIND admits (R240). -/
def bindingOk (shared blocks bars x : Nat) : Bool :=
  let obj := slice x 0 64
  let base := slice x 64 64
  let n := 128 * slice x 128 30
  let within (a n g : Nat) : Bool :=
    decide (a % g = 0) && match windowOf a with
      | 0 => decide (a + n ≤ stackBase)
      | 2 => decide ((a - clusterBase) / 2 ^ 20 < blocks ∧ (a - clusterBase) % 2 ^ 20 + n ≤ shared)
      | 3 => decide (a - blockBase + n ≤ shared)
      | _ => false
  slice x 160 96 == 0 && (n == 0 || (within base n 128 && match slice x 158 2 with
    | 3 => decide (obj % 1024 < bars ∧ obj < 2048)
    | 2 => windowOf obj != 0 && within obj 32 32
    | 1 => windowOf obj == 0 && within obj 64 64
    | _ => within obj 8 8))

/-- The card as the machine keeps it. -/
def CardImage.parse (i : CardImage) (addr : Word) : Card :=
  let c := i.card
  let e := i.ext.getD 0
  let binary (n w p : Nat) : Word := BitVec.ofNat 64 (slice n p w)
  { addr, entry := binary c 64 0, rbase := binary c 64 64, rcount := slice c 128 32, rsize := slice c 160 32
    blocks := slice c 192 3 + 1, waves := slice c 195 6 + 1, regs := 8 * (slice c 201 5 + 1), cqe := slice c 206 7
    slots := slice c 213 7, bars := slice c 220 11, det := c.testBit 231, step := c.testBit 232, priv := c.testBit 233
    shared := slice c 256 32, stack := slice c 288 16, replicas := slice c 304 16
    deadline := if c.testBit 368 then some (BitVec.ofNat 48 (slice c 320 48)) else none
    emu := binary c 64 384, cq := binary c 64 448, sq := binary c 64 512, eq := binary c 64 576
    formats := (List.range 8).map fun k => BitVec.ofNat 32 (slice c (768 + 32 * k) 32)
    uimg := (List.range 16).map fun k => binary c 64 (1024 + 64 * k)
    foot := (List.range (slice c 640 5)).map fun k => footprintOf (slice (i.foot.getD 0) (128 * k) 128)
    prologue := binary e 64 128, engine := slice e 256 6 }

/-- The card's bindings: equal entries are one, and entries with LEN 0 add nothing (R308, R240). -/
def CardImage.bindings (i : CardImage) : List Binding :=
  distinct (((List.range (bcountOf (i.ext.getD 0))).map fun k => bindingEntry (slice (i.binds.getD 0) (256 * k) 256)).filter
    fun b => b.len != 0)

def CardImage.stages (i : CardImage) : List Stage :=
  let e := i.ext.getD 0
  (List.range (nstgOf e)).map fun k =>
    let x := stageOf e k
    { entry := BitVec.ofNat 64 (slice x 0 64), iq := BitVec.ofNat 64 (slice x 64 64), low := slice x 128 32
      high := slice x 160 32 }

/-! ### The conditions of R309 -/

/-- Condition 1: reserved fields and ranges of Tables 12-1 to 12-4. -/
def CardImage.fieldsOk (i : CardImage) (addr : Nat) : Bool :=
  let c := i.card
  let e := i.ext.getD 0
  let k := i.parse 0
  let rs := k.rsize
  addr % 256 == 0 && slice c 645 1 == 0 && slice c 369 15 == 0 && slice c 234 22 == 0 && xptrOf c % 256 == 0 &&
  decide (slice c 640 5 ≤ 16) && k.emu.toNat % 8 == 0 && k.stack % 16 == 0 && decide (k.stack ≤ 4096) &&
  k.shared % 128 == 0 && decide (k.bars ≤ 1024 ∧ k.slots ≤ 64 ∧ k.cqe ≤ 64) &&
  (rs == 0 || (rs % 8 == 0 && decide (8 ≤ rs ∧ rs ≤ 65536))) && k.entry.toNat % 8 == 0 &&
  (rs == 0 || nstgOf e != 0 || k.rbase.toNat % 8 == 0) &&
  slice e 1536 512 == 0 && slice e 267 245 == 0 && slice e 262 2 == 0 && slice e 192 64 == 0 && slice e 73 55 == 0 &&
  decide (nstgOf e ≤ 4 ∧ bcountOf e ≤ 256) && (decide (k.engine ≤ 31) || k.engine == 63) &&
  k.prologue.toNat % 32 == 0 && slice e 0 64 % 32 == 0 &&
  ((List.range 4).all fun j => slice (stageOf e j) 192 64 == 0) &&
  ((List.range (min 16 (slice c 640 5))).all fun j =>
    let x := slice (i.foot.getD (2 ^ 126 + 2 ^ 71)) (128 * j) 128
    i.foot.isNone ||
      (slice x 126 2 != 0 && slice x 112 14 == 0 && slice x 64 48 != 0 && slice x 64 48 % 128 == 0 &&
        slice x 0 64 % 128 == 0)) &&
  ((List.range (min 256 (bcountOf e))).all fun j =>
    i.binds.isNone || bindingOk k.shared k.blocks k.bars (slice (i.binds.getD 0) (256 * j) 256))

/-- A queue control block of the right entry size; one that lies on a malformed entry is condition 10's. -/
def queueOk (x : Option Nat) (addr lgsz : Nat) : Bool :=
  match x with
  | none => true
  | some n => addr % 64 == 0 && match parseQcb n with
    | some q => q.lgsz == lgsz
    | none => false

/-- The conditions of R309 in order; `true` where one holds good. `priv` says that the card came through a privileged
queue. -/
def CardImage.conditions (i : CardImage) (addr : Nat) (priv : Bool) : List Bool :=
  let k := i.parse 0
  let nstg := nstgOf (i.ext.getD 0)
  let q (n : Nat) : Option Nat := i.qcbs.getD n none
  let stages := i.stages
  [ i.fieldsOk addr,
    if nstg = 0 then k.entry != 0 && k.rcount != 0 else k.entry == 0 && k.rcount == 0 && k.rsize == 0,
    decide (k.waves * k.regs * 32 ≤ 65536 ∧ (k.waves + k.slots) * k.regs * 32 ≤ 65536 ∧ k.waves + k.slots ≤ 64),
    decide (k.shared + 32 * k.waves * k.stack ≤ 524288) && (k.cqe == 0 || decide (64 + 32 * k.cqe ≤ k.shared)),
    k.formats.all fun f =>
      let fmt := f.toNat % 16
      decide (fmt ≤ 7) && slice f.toNat 16 16 == 0 && (!isBx fmt || slice f.toNat 4 4 != 0),
    queueOk (q 0) k.cq.toNat 5 && queueOk (q 1) k.sq.toNat 5 && queueOk (q 2) k.eq.toNat 6 &&
      (List.range stages.length).all fun j => queueOk (q (3 + j)) (((stages[j]?).map fun x => x.iq.toNat).getD 0) 3,
    stages.all fun x => decide (x.low ≤ x.high),
    (!k.step || k.det) && !(k.det && nstg != 0) && !(k.replicas != 0 && nstg != 0),
    !k.priv || priv,
    i.ext.isSome && i.foot.isSome && i.binds.isSome && !i.qcbs.isEmpty && i.qcbs.all fun x => x.isSome ]

/-- The number of the first condition that a card breaks, counted from 1. -/
def CardImage.failed (i : CardImage) (addr : Nat) (priv : Bool) : Option Nat :=
  ((i.conditions addr priv).findIdx? fun ok => !ok).map (· + 1)

/-! ### Conflicts and order -/

/-- Two footprint entries overlap, at 128-byte granularity. -/
def Footprint.meets (a b : Footprint) : Bool :=
  decide (a.base / 128 ≤ (b.base + b.len - 1) / 128 ∧ b.base / 128 ≤ (a.base + a.len - 1) / 128)

/-- The read (kind 1) or write (kind 2) footprint of a card: all of memory where it names none. -/
def Card.prints (c : Card) (kind : Nat) : List Footprint :=
  if c.foot.isEmpty then [{ kind := 3, base := 0, len := 2 ^ 64 }]
  else c.foot.filter fun f => f.kind == kind || f.kind == 3

/-- Two cards of one address space conflict (R313). -/
def Card.conflicts (a b : Card) : Bool :=
  let m (x y : List Footprint) : Bool := x.any fun f => y.any fun g => f.meets g
  m (a.prints 2) (b.prints 1) || m (a.prints 1) (b.prints 2) || m (a.prints 2) (b.prints 2)

/-- A job's place in EDF order (R314), smaller for an earlier job. -/
def State.edfKey (s : State) (j : Job) : Nat :=
  (match j.card.deadline with
    | some d => (d.toNat + 2 ^ 48 + 2 ^ 47 - s.time.toNat % 2 ^ 48) % 2 ^ 48
    | none => 2 ^ 48) * 2 ^ 64 + j.order

/-- The ready jobs with undispatched tasks, in EDF order. -/
def State.readyJobs (s : State) : List (Nat × Job) :=
  sortBy (fun p => s.edfKey p.2) (s.jobs.filter fun p => p.2.phase == .ready)

end Sys2Proof.Machine
end

