-- ==== Sys2Proof/Machine/Accept.lean ====
section
/-! DEFINITION. The intake of job queues (R310, R311, R449) and the acceptance of jobs (R103, R111, R308, R309). -/
namespace Sys2Proof.Machine

/-! ### Job queues -/

/-- The number of table entries that JQTAB gives (Table 12-5). -/
def State.queueCount (s : State) : Nat := min 64 (s.jqtab.toNat % 128)

/-- Entry `q` of the job-queue table (R311): its 128 bits. -/
def State.queueEntry (s : State) (q : Nat) : Nat := s.tableNat (slice s.jqtab.toNat 10 42 * 1024 + 16 * q) 16

/-- The scheduler gives up a job queue until JQTAB is next written, with its host record of kind 8 (R434, R449). -/
def State.skipQueue (s : State) (q : Nat) (entryFault : Bool) : State :=
  let s := { s with skipped := s.skipped ++ [q] }
  s.hostRecord (8 + q * 2 ^ 8 + (if entryFault then 2 ^ 16 else 0) + slice (s.queueEntry q) 0 64 * 2 ^ 64 +
    s.time.toNat * 2 ^ 128)

/-- What an operation on a job queue means for the queue: the state with its skip or wait, where it stops. -/
def State.queueStops (s : State) (q : Nat) (r : Queued) : State :=
  match r with
  | .done .. => s
  | .park on => { s with skipMiss := s.skipMiss.insert q on }
  | .error .. => s.skipQueue q true
  | _ => s.skipQueue q false

/-- A job queue that the scheduler reads now: enabled, in a usable address space, neither skipped nor waiting. -/
def State.queueRequester (s : State) (q : Nat) : Option Requester :=
  let e := s.queueEntry q
  if !e.testBit 78 || s.skipped.contains q || (s.skipMiss.getD q []).any s.missHeld then none
  else s.scheduler (BitVec.ofNat 14 (slice e 64 14))

/-- A job queue holds an entry; what stops its reading is noted. -/
def State.queueWaits (s : State) (q : Nat) : Bool × State :=
  match s.queueRequester q with
  | none => (false, s)
  | some r =>
    match s.openQueue (.virtual r) (slice (s.queueEntry q) 0 64) .write with
    | (.ok (x, pa), s) => if x.lgsz = 4 then (s.found pa x none != 0, s) else (false, s.skipQueue q false)
    | (.error e, s) => (false, s.queueStops q e)

/-- An entry of a job queue is dequeued (R310, R311, R232); the next round position follows the queue. Nonzero reserved bits
of the entry and of the table's entry have no effect (log entry 74). -/
def State.takeFrom (s : State) (q : Nat) : State :=
  match s.queueRequester q with
  | none => s
  | some r =>
    let entry := s.queueEntry q
    match s.dequeue (.virtual r) (slice entry 0 64) 1 (· == 4) with
    | (.done _ (x :: _), s) =>
      let (n, s) := s.fresh
      let e : Taken := { card := BitVec.ofNat 64 (slice x 0 64), order := n, asid := BitVec.ofNat 14 (slice x 64 14),
                         priv := entry.testBit 79 }
      { s with round := if q + 1 < s.queueCount then q + 1 else 0, taken := s.taken ++ [e] }
    | (r, s) => s.queueStops q r

/-- The queues in the order of the round; the first that holds an entry is the one whose turn it is. -/
def State.intake (s : State) (q : Nat) : List Nat → State
  | [] => s
  | k :: rest =>
    match s.queueWaits k with
    | (true, s) => if k = q then s.takeFrom q else s
    | (false, s) => if k = q then s else s.intake q rest

/-- The queues from the round's position on. -/
def State.roundOrder (s : State) : List Nat :=
  (List.range s.queueCount).map fun i => (s.round + i) % s.queueCount

/-! ### Acceptance -/

/-- Accepted jobs that have not completed, and entries taken (R311). -/
def State.jobsHeld (s : State) : Nat :=
  (s.jobs.filter fun p => p.2.phase == .waiting || p.2.phase == .ready || p.2.phase == .running).length + s.taken.length

/-- A card that is not accepted (R103, R309, R433): its error record and its KIND 5 record, where the card could be
read; else the host's copy alone. -/
def State.rejectCard (s : State) (t : Taken) (card : Option Card) (code info0 info1 : Nat) : State :=
  let s := match card with
    | some c => s.errorRecord t.asid t.card c.eq { code := code, source := 4, core := 0, pc := 0, task := 0, info0 := info0, info1 := info1 }
    | none => s
  let info := code + info0 % 256 * 2 ^ 16
  let s := match card with
    | some c => s.jobRecord t.asid t.card c.sq 5 info code
    | none => s.hostRecord (2 + 5 * 2 ^ 8 + t.asid.toNat * 2 ^ 16 + code * 2 ^ 32 + t.card.toNat * 2 ^ 64 +
        s.time.toNat * 2 ^ 128 + info * 2 ^ 192)
  match t.regen with
  | some (die, serial) => s.failRegen t.card die serial
  | none => s

/-- The deadline of a regeneration job (R111): the earliest of the jobs whose waves are parked on the page. -/
def State.regenDeadline (s : State) (die serial : Nat) : Option (BitVec 48) :=
  let js := (s.wavesOnMiss die serial).map fun w => s.job (s.cluster (s.wave w).cluster).job
  (minBy (js.filter fun j => j.card.deadline.isSome) s.edfKey).bind fun j => j.card.deadline

/-- A valid card becomes a job (R312). -/
def State.admitJob (s : State) (t : Taken) (q : Requester) (i : CardImage) : State :=
  let card := i.parse t.card
  let card := match t.regen with
    | some (die, serial) => { card with deadline := s.regenDeadline die serial }
    | none => card
  let (n, s) := s.fresh
  let (step, s) := match s.groups.find t.asid.toNat with
    | some g => if card.step && g.enabled then
        (g.steps + 1, { s with groups := s.groups.insert t.asid.toNat { g with steps := g.steps + 1 } }) else (0, s)
    | none => (0, s)
  let (first, limit) := if t.regen.isSome then (t.task, t.task + 1) else (0, card.rcount)
  let j : Job := { card, asid := t.asid, root := q.root, regt := q.regt, order := t.order, next := first, limit := limit,
                   bindings := i.bindings,
                   changes := i.bindings.map (fun b => { id := 0, add := true, binding := b }), stages := i.stages, regen := t.regen, step := step }
  { s with jobs := s.jobs.insert n j }

/-- A card's 256 bytes: a regeneration job's by its physical address. -/
def State.readCard (s : State) (t : Taken) (q : Requester) : Got (Option Nat) × State :=
  if t.phys then (.ok (if (s.poisonAt t.card.toNat).isSome then none else some (s.tableNat t.card.toNat 256)), s)
  else s.schedRead q t.card.toNat 256

/-- A taken entry is examined: the misses that it waits for, or it is accepted or rejected. -/
def State.examineCard (s : State) (t : Taken) : Option (List (Nat × Nat)) × State :=
  match s.scheduler t.asid with
  | none => (none, s.rejectCard t none 0x0211 t.asid.toNat (s.descriptorBits t.asid).toNat)
  | some q =>
    match s.readCard t q with
    | (.miss on, s) => (some on, s)
    | (.ok (some n), s) =>
      match s.readParts q n with
      | (.miss on, s) => (some on, s)
      | (.ok i, s) =>
        let failed := i.failed t.card.toNat t.priv
        let failed := if t.regen.isSome ∧ (i.parse t.card).rsize ≠ 16 then some 1 else failed
        match failed with
        | some k => (none, s.rejectCard t (some (i.parse t.card)) 0x0210 k 0)
        | none => (none, s.admitJob t q i)
      | (_, s) => (none, s.rejectCard t none 0x0210 10 0)
    | (_, s) => (none, s.rejectCard t none 0x0210 10 0)

/-- Every taken entry that does not wait is examined, in acceptance order. -/
def State.examineTaken (s : State) : State :=
  s.taken.foldl (fun s t =>
    if t.miss.any s.missHeld then s
    else
      let rest (s : State) : State := { s with taken := s.taken.filter fun x => x.order != t.order }
      match s.examineCard t with
      | (none, s) => rest s
      | (some on, s) =>
        { s with taken := s.taken.map fun x => if x.order = t.order then { x with miss := on } else x }) s

/-- JOB_ACCEPT (R311): queue `entry` of the table gives one entry, where it is its turn; every entry taken is examined. -/
def execJobAccept (entry : Nat) (s : State) : Out :=
  let s' := if s.bootReady ∧ s.jobsHeld < 4096 then s.intake entry s.roundOrder else s
  .next s'.examineTaken

/-! ### Readiness -/

/-- A job that may still write before its completion point. -/
def Phase.active : Phase → Bool
  | .waiting | .ready | .running => true
  | _ => false

/-- A failed or cancelled job still writes: a store that it committed has not reached its home, or a copy or stream command
of it that was accepted has not completed (R336, R377). -/
def State.stillWrites (s : State) (j : Nat) : Bool :=
  !(s.storesOf j).isEmpty ||
    ([Phase.failed, Phase.cancelled].contains (s.job j).phase &&
      ((s.blocks.any fun b => (s.cluster b.2.cluster).job == j && !b.2.copies.isEmpty) ||
        s.engines.any fun e => e.2.any fun p => p.2.busy && p.2.job == j))

/-- A waiting job has nothing more to wait for (R313, R349): no earlier job or entry of its address space conflicts or
may, every write of a conflicting one is at its home (R145), and as a step job of a replica group none before it is
undecided. -/
def State.mayStart (s : State) (j : Job) : Bool :=
  !(s.jobs.any fun p => p.2.asid == j.asid && decide (p.2.order < j.order) &&
      (p.2.phase.active || s.stillWrites p.1) && j.card.conflicts p.2.card) &&
  !(s.taken.any fun t => t.asid == j.asid && decide (t.order < j.order)) &&
  (j.step == 0 || match s.groups.find j.asid.toNat with
    | some g => !g.stopped && !(s.jobs.any fun p => p.2.asid == j.asid && p.2.step != 0 &&
        decide (p.2.order < j.order) && p.2.phase.unfinished)
    | none => true)

/-- Waiting jobs that may start become ready. -/
def State.startJobs (s : State) : State :=
  s.each s.jobs.keys fun s j =>
    let x := s.job j
    if x.phase = .waiting ∧ s.mayStart x then s.onJob j fun x => { x with phase := .ready } else s

end Sys2Proof.Machine
end

