-- ==== Sys2Proof/Machine/Atomics.lean ====
section
/-! DEFINITION. The meanings of ATOM and RED (R225 to R228). -/
namespace Sys2Proof.Machine

/-- The word traps with 0x0013 in a deterministic job (R393). `cls` is the class code of Table 6-16. -/
def forbidden (op cls : Nat) (act : List Nat) : Trap := .error 0x0013 (op + cls * 2 ^ 8) 0 act

/-- The registers that hold an atomic's operands (R225). -/
def atomRegs (o : OpM) : List Nat :=
  let n := if o.w.toNat = 3 then 2 else 1
  (List.range (if opnOf o = 9 then 2 * n else n)).map fun i => o.d.toNat + i

/-- An operand of a lane: the k-th value of W's width from v(D). -/
def atomValue (s : State) (w : Wave) (o : OpM) (l k : Nat) : Word :=
  if o.w.toNat = 3 then s.readPair w l (o.d.toNat + 2 * k) else (s.readV w l (o.d.toNat + k)).setWidth 64

/-- Some active lane's operation is performed in global memory, outside the cluster (R323). -/
def atomReach (o : OpM) : Reach := fun s c act => (genericAddrs s c o 16 act).any fun p => windowOf p.2 == 0

/-- A lane's operation; `pa` is the physical address of a global lane. -/
def atomOp (s : State) (w : Wave) (o : OpM) (l pa : Nat) : RedOp :=
  let cas := opnOf o = 9
  { lane := l, pa, ty := widthOf o, opn := opnOf o, v := atomValue s w o l (if cas then 1 else 0),
    c := if cas then atomValue s w o l 0 else 0 }

/-- A floating-point atomic on f32 rejects a slag operand v (R227). -/
def atomSlag (s : State) (w : Wave) (o : OpM) (op : Nat) (act : List Nat) : Option Trap :=
  if 10 ≤ opnOf o ∧ opnOf o ≤ 12 ∧ o.w.toNat = 2 then
    (slagTrap op 2 act [⟨3, 10, fun l => (s.readV w l o.d.toNat).toNat⟩])
  else none

/-- One lane's read-modify-write on a block's scratchpad: the old value. -/
def State.atomicLocal (s : State) (o : RedOp) (b : Nat) (offs : List Nat) : Nat × State :=
  let old := natOfBytes ((s.block b).bytesAt offs)
  match atomicNew o.opn o.ty old o.v.toNat o.c.toNat with
  | some new => (old, s.onBlock b fun x => x.softStore (offs.zip (bytesOfNat o.ty new)))
  | none => (old, s)

/-- One lane's read-modify-write (R227) at a scope: in the commit buffer at wave and block scope (R122, R134), else at the
home after the core's older stores to the line (R117), or at the scratchpad's copy. The core's own cached copies of the
line go (R94). A write over a port that is down is lost (R438). -/
def State.atomicLane (s : State) (c : Ctx) (scope : Nat) (o : RedOp) (p : Place) : Nat × State :=
  match p with
  | .global va =>
    let s := s.dropLine c.core (lineOf o.pa)
    if scope < 3 then s.atomicNear { core := c.core, job := c.job, wave := c.w } va o
    else
      let (lost, s) := s.drainLine c.core (lineOf o.pa)
      let s := s.reportLost lost
      if s.routeDown o.pa then (0, s.reportLost [{ job := c.job, pa := o.pa }])
      else s.atomicWide c.cl c.core scope o
  | .local b _ offs => s.atomicLocal o b offs

/-- Steps 2 to 6 of R399 for ATOM and RED. A RED meets no poison of a port that is down: it is lost (R438). -/
def State.prepareAtomic (s : State) (c : Ctx) (o : OpM) (op : Nat) (returns : Bool) (act : List Nat) :
    Except Effect (List (Nat × Place) × Tab Nat) × State :=
  let g := widthOf o
  if c.det && (returns || (8 ≤ opnOf o && opnOf o ≤ 12)) then (.error (.trap s (forbidden op 2 act)), s)
  else match s.placeAll c [0, 1, 2, 3] g (.oneOr g) (genericAddrs s c o 16 act) with
    | .error t => (.error (.trap s t), s)
    | .ok spots =>
      match atomSlag s c.wave o op act with
      | some t => (.error (.trap s t), s)
      | none =>
        match s.wordPages c g .write spots with
        | (.error e, s) => (.error e, s)
        | (.ok pages, s) =>
          if s.someAbsent spots then (.error (.again s .absent), s)
          else match s.poisonTrap g pages
              (fun _ pa => (committedByte (s.core c.core) pa).isNone && (returns || !s.routeDown pa)) spots with
            | some t => (.error (.trap s t), s)
            | none => (.ok (spots, pages), s)

/-- The physical address of a place's first byte. -/
def placeAddr (pages : Tab Nat) : Place → Nat
  | .global va => pageAddr pages va
  | _ => 0

/-- The operations of a word's global lanes, with their virtual addresses. -/
def globalOps (s : State) (c : Ctx) (o : OpM) (spots : List (Nat × Place)) (pages : Tab Nat) : List (Nat × RedOp) :=
  spots.filterMap fun p => match p.2 with
    | .global va => some (va, atomOp s c.wave o p.1 (pageAddr pages va))
    | _ => none

/-- The lanes performed in ascending order: the old values, by lane. -/
def State.performAtomic (s : State) (c : Ctx) (o : OpM) (scope : Nat) (pages : Tab Nat) (spots : List (Nat × Place)) :
    List (Nat × Nat) × State :=
  let r := spots.foldl (fun (r : List (Nat × Nat) × State) p =>
    let (old, s) := r.2.atomicLane c scope (atomOp s c.wave o p.1 (placeAddr pages p.2)) p.2
    (r.1 ++ [(p.1, old)], s)) ([], s)
  (r.1, r.2.noteAtomics c (globalOps s c o spots pages))

/-- SC, where 0 selects device scope (R225). -/
def State.atomScope (s : State) (c : Ctx) (o : OpM) (spots : List (Nat × Place)) : Nat :=
  s.scopeFor c (if o.sc.toNat = 0 then 5 else o.sc.toNat) spots

def execAtom (h : Hdr) (o : OpM) (s : State) : Out :=
  let g := widthOf o
  let ord := o.ord.toNat
  .next (s.issueBoundary h (groupRegs o) (atomRegs o ++ baseRegs o true)
    (fun s c act => match s.prepareAtomic c o 0x10 true act with
      | (.error e, _) => some e
      | (.ok _, _) => none)
    (fun s c act => match s.prepareAtomic c o 0x10 true act with
      | (.error e, _) => e
      | (.ok (spots, pages), s) =>
        let objs := s.wordObjs c g spots
        let sc := s.atomScope c o spots
        let perform (s : State) : Effect :=
          let words := syncWords g pages spots
          let s := if ord % 2 = 1 then s.noteAcquire c sc words else s
          let s := s.noteWrites c (decide (2 ≤ ord)) words
          let s := if 2 ≤ ord then s.noteRelease c sc words else s
          let (olds, s) := s.performAtomic c o sc pages spots
          let s := s.countConflicts g spots
          let s := if ord % 2 = 1 then s.acquire c sc objs [] else s
          .done s [] (olds.flatMap fun p => vecWrites (if o.w.toNat = 3 then 7 else 6) p.1 o.d.toNat p.2)
        if ord ≥ 2 then s.releaseThen c sc objs perform else perform s)
    (baseUni o) (atomReach o))

/-- A relaxed RED (R228): global lanes are buffered, scratchpad and stack lanes performed at once. -/
def State.redRelaxed (s : State) (c : Ctx) (o : OpM) (spots : List (Nat × Place)) (pages : Tab Nat) : Effect :=
  let sc := s.atomScope c o spots
  match bufferRed (s.wave c.w).rsb sc (globalOps s c o spots pages) with
  | .error va => .trap s (.error 0x0008 va 0 (spots.map Prod.fst))
  | .ok rsb =>
    let s := (s.onWave c.w fun w => { w with rsb }).noteWrites c true (syncWords (widthOf o) pages (nearLanes spots))
    let (_, s) := s.performAtomic c o sc pages (nearLanes spots)
    .done (s.countConflicts (widthOf o) spots) [] []

/-- RED (R228): relaxed, buffered; with ORD = 01 performed at once; with 10 and 11 a boundary and a release on its
words. -/
def execRed (h : Hdr) (o : OpM) (s : State) : Out :=
  let g := widthOf o
  let src := atomRegs o ++ baseRegs o true
  .next (if o.ord.toNat < 2 then
    s.issueWord h [] src fun s c act =>
      match s.prepareAtomic c o 0x11 false act with
      | (.error e, _) => e
      | (.ok (spots, pages), s) =>
        if o.ord.toNat = 0 then s.redRelaxed c o spots pages
        else
          let s := s.noteWrites c true (syncWords g pages spots)
          .done ((s.performAtomic c o (s.atomScope c o spots) pages spots).2.countConflicts g spots) [] []
  else
    s.issueBoundary h [] src
      (fun s c act => match s.prepareAtomic c o 0x11 false act with
        | (.error e, _) => some e
        | (.ok _, _) => none)
      (fun s c act => match s.prepareAtomic c o 0x11 false act with
        | (.error e, _) => e
        | (.ok (spots, pages), s) =>
          let sc := s.atomScope c o spots
          s.releaseThen c sc (s.wordObjs c g spots) fun s =>
            let s := (s.noteWrites c true (syncWords g pages spots)).noteRelease c sc (syncWords g pages spots)
            .done ((s.performAtomic c o sc pages spots).2.countConflicts g spots) [] [])
      (baseUni o) (atomReach o))

end Sys2Proof.Machine
end

