-- ==== Sys2Proof/Machine/Ecdsa.lean ====
section
/-! DEFINITION. ECDSA verification on the 384-bit Brainpool random curve (R352). Curve and scheme are those of RFC 5639 and of
the standards that it rests on, which the spec names by name alone (log entry 10). -/
namespace Sys2Proof.Machine

/-- brainpoolP384r1: the field's prime, the coefficient a, the base point, and its order. -/
def curveP : Nat :=
  0x8CB91E82A3386D280F5D6F7E50E641DF152F7109ED5456B412B1DA197FB71123ACD3A729901D1A71874700133107EC53
def curveA : Nat :=
  0x7BC382C63D8C150C3C72080ACE05AFA0C2BEA28E4FB22787139165EFBA91F90F8AA5814A503AD4EB04A8C7DD22CE2826
def curveBase : Nat × Nat :=
  (0x1D1C64F068CF45FFA2A63A81B7C13F6B8847A3E77EF14FE3DB7FCAFE0CBD10E8E826E03436D646AAEF87B2E247D4AF1E,
   0x8ABE1D7520F9C2A45CB1EB8E95CFD55262B70B29FEEC5864E19C054FF99129280E4646217791811142820341263C5315)
def curveN : Nat :=
  0x8CB91E82A3386D280F5D6F7E50E641DF152F7109ED5456B31F166E6CAC0425A7CF3AB6AF6B7FC3103B883202E9046565

/-- b to the power e, modulo m, for an exponent of 384 bits. -/
def powMod (m b e : Nat) : Nat :=
  (List.range 384).reverse.foldl (fun r i => r * r % m * (if e.testBit i then b else 1) % m) 1

/-- The inverse modulo a prime. -/
def invMod (m a : Nat) : Nat := powMod m (a % m) (m - 2)

/-- The sum of two points of the curve; `none` is the point at infinity. -/
def addPoints : Option (Nat × Nat) → Option (Nat × Nat) → Option (Nat × Nat)
  | none, q => q
  | p, none => p
  | some (x1, y1), some (x2, y2) =>
    let p := curveP
    if x1 = x2 ∧ (y1 + y2) % p = 0 then none
    else
      let l := if x1 = x2 then (3 * x1 * x1 + curveA) * invMod p (2 * y1) % p
        else (y2 + p - y1) * invMod p (x2 + p - x1) % p
      let x := (l * l + 2 * p - x1 - x2) % p
      some (x, (l * (x1 + p - x) + p - y1) % p)

/-- A multiple of a point. -/
def mulPoint (k : Nat) (q : Nat × Nat) : Option (Nat × Nat) :=
  (List.range 384).reverse.foldl (fun r i => if k.testBit i then addPoints (addPoints r r) (some q) else addPoints r r) none

/-- The signature (r, s) over a digest holds for a public key. -/
def ecdsaHolds (key : Nat × Nat) (digest r s : Nat) : Bool :=
  0 < r && r < curveN && 0 < s && s < curveN &&
    let w := invMod curveN s
    match addPoints (mulPoint (digest * w % curveN) curveBase) (mulPoint (r * w % curveN) key) with
    | none => false
    | some (x, _) => x % curveN == r

end Sys2Proof.Machine
end

