-- ==== Sys2Proof/Machine/MatrixArray.lean ====
section
/-! DEFINITION. The arithmetic of the matrix engine: element values (R69, R74, R274), chunk sums (R81), the elements of
MMA (R279) and MAS (R285), the addresses of MCONV (R282), the conversion of MSTA (R283). -/
namespace Sys2Proof.Machine

/-- Chunks of a matrix format (Table 10-1). -/
def chunksOf (fmt : Nat) : Nat := [0, 2, 2, 4, 4, 4, 8, 4].getD fmt 0

/-- The formats that Table 10-1 pairs with a plane's format. -/
def pairsWith (plane a : Nat) : Bool :=
  match plane with
  | 3 => a == 3 || a == 4
  | 4 => a == 3 || a == 4
  | 0 => false
  | f => a == f && decide (f ≤ 7)

/-- Bytes of an operand tile of `n` rows or columns, headers included (R274). -/
def operandBytes (fmt n : Nat) : Nat := 128 * n + if isBx fmt then 2 * n * chunksOf fmt else 0

/-- The value of an element of a format through its slot (R69, R74). -/
def elementValue (slot : Slot) (header x : Nat) : Fl :=
  let v : Fl :=
    match slot.fmt with
    | 1 => f16.decode x
    | 2 => bf16.decode x
    | 3 => e4m3.decode x
    | 4 => e5m2.decode x
    | 7 => Fl.ofInt (toSigned 8 x) 0 false
    | f => bxDecode f header x
  v.scale slot.scl

/-- Element `k` of a row or column of 128 bytes (R274). -/
def rowElement (fmt : Nat) (byte : Nat → Byte) (k : Nat) : Nat :=
  match halfBytes fmt with
  | 4 => (byte (2 * k)).toNat + 256 * (byte (2 * k + 1)).toNat
  | 1 => slice (byte (k / 2)).toNat (4 * (k % 2)) 4
  | _ => (byte k).toNat

/-- A row or column of an operand: its values by chunk, its headers, its poisoned chunks. -/
structure Line where
  chunks  : List (List Fl)
  headers : List Nat
  poison  : List Nat := []
  deriving DecidableEq, Repr

/-- A row or column from its bytes and its headers. -/
def lineOfBytes (slot : Slot) (byte : Nat → Byte) (header : Nat → Nat) : Line :=
  let c := chunksOf slot.fmt
  { chunks := (List.range c).map fun i => (List.range 32).map fun k =>
      elementValue slot (header i) (rowElement slot.fmt byte (32 * i + k))
    headers := (List.range c).map header }

/-- Row or column `i` of an operand tile of `n` (R274), from its bytes by offset in the tile. -/
def tileLine (slot : Slot) (n : Nat) (byte : Nat → Byte) (i : Nat) : Line :=
  lineOfBytes slot (fun k => byte (128 * i + k)) fun c =>
    if isBx slot.fmt then
      let h := 128 * n + 2 * (i * chunksOf slot.fmt + c)
      (byte h).toNat + 256 * (byte (h + 1)).toNat
    else 0

/-- The exact sum of a chunk's products (R81). -/
def chunkSum (a b : List Fl) : Fl :=
  match List.zipWith Fl.mul a b with
  | [] => .fin false 0 0
  | p :: rest => rest.foldl (fun t x => Fl.add 0 t x) p

/-- An element of MMA or MCONV (R279): the bits after every chunk. -/
def mmaElement (clr sat : Bool) (x : Nat) (a b : Line) : Nat :=
  if !clr && (slagCode 10 x).isSome then x
  else (a.chunks.zip b.chunks).foldl (fun x p =>
    let t := f32.round 0 sat (chunkSum p.1 p.2)
    f32.round 0 sat (Fl.add 0 (f32.decode x) (f32.decode t))) (if clr then 0 else x)

/-- A comparison of the monitor (R285): false with a NaN, or an infinite E or Rm. -/
def monitorLt (e rm x y : Fl) : Bool := e.isFinite && rm.isFinite && x.lt y

def magOf (x : Fl) : Fl := if x.isNeg then x.neg else x

/-- How an element of MAS ended: its bits, the chunks spent, and the verdict of the slag if it was abandoned. -/
structure MasResult where
  bits  : Nat
  spent : Nat
  slag  : Option Nat
  deriving DecidableEq, Repr

/-- The monitor's loop from chunk `c` (R285): the chunks left, x, E, and the bounds left; `tau` is the sample of each
boundary in THR mode. -/
def masLoop (tau : Option (Nat → Nat)) : List (List Fl × List Fl) → Nat → Nat → Nat → List Fl → MasResult
  | [], c, x, _, _ => { bits := x, spent := c, slag := none }
  | (a, b) :: rest, c, x, e, bounds =>
    let rm := bounds.foldl (fun t y => Fl.add 0 t y) (.fin false 0 0)
    let xv := f32.decode x
    let ev := f32.decode e
    let stop (v : Nat) : MasResult := { bits := slagBits 10 v, spent := c, slag := some v }
    let sgn := tau.isNone
    if sgn && monitorLt ev rm rm (Fl.add 0 xv ev.neg) then stop 2
    else if sgn && monitorLt ev rm (Fl.add 0 xv ev) rm.neg then stop 3
    else if (match tau with
      | some f => monitorLt ev rm (Fl.add 0 (Fl.add 0 xv ev) rm) (f32.decode (f c))
      | none => false) then stop 1
    else
      let t := f32.round 0 false (chunkSum a b)
      let x := f32.round 0 false (Fl.add 0 xv (f32.decode t))
      let mag := Fl.add 0 (magOf (f32.decode t)) (magOf (f32.decode x))
      let e := f32.round 3 false (Fl.add 0 (Fl.add 0 ev (mag.scale (-23))) (.fin false 1 (-148)))
      masLoop tau rest (c + 1) x e (bounds.drop 1)

/-- The bounds of an element's chunks (R285): 32 × β(A) × β(B). -/
def masBounds (sa sb : Slot) (a b : Line) : List Fl :=
  List.zipWith (fun h k => (Fl.mul (bxBound sa.fmt h sa.scl) (bxBound sb.fmt k sb.scl)).scale 5) a.headers b.headers

/-- An element of MAS (R285). -/
def masElement (tau : Option (Nat → Nat)) (sa sb : Slot) (a b : Line) : MasResult :=
  masLoop tau (a.chunks.zip b.chunks) 0 0 0 (masBounds sa sb a b)

/-! ### MCONV -/

/-- The window fields of a shape record (Table 9-5). -/
structure Window where
  dl : Nat
  cs : Nat
  wx : Nat
  wy : Nat
  px : Nat
  py : Nat
  deriving DecidableEq, Repr

def Tsr.window (t : Tsr) : Window :=
  { dl := max (slice t.bits 432 8) 1, cs := max (slice t.bits 472 8) 1, wx := max (slice t.bits 440 8) 1
    wy := max (slice t.bits 448 8) 1, px := slice t.bits 456 8, py := slice t.bits 464 8 }

/-- Element `kk` of generated row `p` (R282): its coordinates, `none` for the padding. -/
def Tsr.convCoords (t : Tsr) (p kk : Nat) : Option (List Nat) :=
  let w := t.window
  let n (d : Nat) : Nat := t.extent d
  let out (ext pad size : Nat) : Int := ((ext : Int) + 2 * pad - w.dl * (size - 1) - 1) / w.cs + 1
  let ox := out (n 1) w.px w.wx
  let oy := out (n 2) w.py w.wy
  if ox < 1 ∨ oy < 1 then none
  else
    let ow := ox.toNat
    let oh := oy.toNat
    let nb := p / (ow * oh)
    let fx := kk / n 0 % w.wx
    let fy := kk / (n 0 * w.wx)
    let x : Int := (p % ow * w.cs + fx * w.dl : Nat) - (w.px : Int)
    let y : Int := (p / ow % oh * w.cs + fy * w.dl : Nat) - (w.py : Int)
    if fy ≥ w.wy ∨ nb ≥ n 3 * n 4 ∨ x < 0 ∨ x ≥ n 1 ∨ y < 0 ∨ y ≥ n 2 then none
    else some [kk % n 0, x.toNat, y.toNat, nb % n 3, nb / n 3]

/-- The half-byte offset from BASE of an element of dimension 0 at coordinates (R259). -/
def Tsr.elemOffset (t : Tsr) (fmt : Nat) (g : List Nat) : Int :=
  (g.getD 0 0 * halfBytes fmt : Nat) +
    2 * ([1, 2, 3, 4].foldl (fun (a : Int) d => a + (g.getD d 0 : Nat) * t.str.getD d 0) 0)

/-- The scratchpad bytes of an element: first byte, how many, and the header's two bytes for a block format. -/
structure ConvBytes where
  off : Int
  len : Nat
  hdr : Option Int
  deriving DecidableEq, Repr

def Tsr.convBytes (t : Tsr) (fmt : Nat) (g : List Nat) : ConvBytes :=
  let h := t.elemOffset fmt g
  let base (a : Nat) : Int := (a : Int) - (blockBase : Nat)
  { off := base t.base + h / 2, len := max 1 (halfBytes fmt / 2)
    hdr := if isBx fmt then some (base t.hbase + 2 * (h / (32 * halfBytes fmt : Nat))) else none }

/-- A generated row (R282), from the scratchpad's bytes. -/
def Tsr.convLine (t : Tsr) (slot : Slot) (p k0 : Nat) (byte : Nat → Byte) : Line :=
  let c := chunksOf slot.fmt
  let at2 (o : Nat) : Nat := (byte o).toNat + 256 * (byte (o + 1)).toNat
  let one (k : Nat) : Nat × Nat :=
    match t.convCoords p (k0 + k) with
    | none => (0, if isBx slot.fmt then 0 else natOfBytes (t.padBytes slot.fmt))
    | some g =>
      let b := t.convBytes slot.fmt g
      let o := b.off.toNat
      let x := match halfBytes slot.fmt with
        | 4 => at2 o
        | 1 => slice (byte o).toNat (4 * ((t.elemOffset slot.fmt g) % 2).toNat) 4
        | _ => (byte o).toNat
      (match b.hdr with | some h => at2 h.toNat | none => 0, x)
  { chunks := (List.range c).map fun i => (List.range 32).map fun k =>
      let e := one (32 * i + k)
      elementValue slot e.1 e.2
    headers := (List.range c).map fun i => (one (32 * i)).1 }

/-! ### MSTA -/

/-- An element as MSTA stores it (R283). -/
def storedElement (slot : Slot) (x : Nat) : Nat :=
  let f := if slot.fmt = 1 then f16 else if slot.fmt = 2 then bf16 else f32
  match slagCode 10 x with
  | some v => if slot.fmt = 2 then slagBits 9 v else x
  | none => f.round 0 false ((f32.decode x).scale (-slot.scl))

end Sys2Proof.Machine
end

