-- ==== Sys2Proof/Machine/Matrix.lean ====
section
/-! DEFINITION. The matrix engine (R271 to R290, R386 to R388): ownership, the gang latch, operations in acceptance
order, and the meanings of its words. -/
namespace Sys2Proof.Machine

/-! ### Fields of matrix words (Tables 10-2, 10-3) -/

def mOp (w : Word) : Nat := slice w.toNat 48 8
def mTile (w : Word) : Nat := slice w.toNat 40 2
def mClr (w : Word) : Bool := w.getLsbD 42
def mSolo (w : Word) : Bool := w.getLsbD 43
def mQ (w : Word) : Bool := w.getLsbD 44
def mOut (w : Word) : Bool := w.getLsbD 45
def mSat (w : Word) : Bool := w.getLsbD 46
def mThr (w : Word) : Bool := w.getLsbD 47
/-- The format slot of MLD (D[2:0]), of the others (OFF20[19:17]). -/
def mSlot (w : Word) : Nat := if mOp w = 0x31 then slice w.toNat 40 3 else slice w.toNat 29 3
def mRowg (w : Word) : Nat := slice w.toNat 26 3
def mRows (w : Word) : Nat := slice w.toNat 23 3 + 1
/-- OP, D, OFF20 and MODM: what matched words agree in (R276). -/
def mAgreed (w : Word) : Word := w &&& 0x00FFFF00FFFFFFFF

/-! ### Ownership (R271) -/

/-- The host block of a wave, whose matrix state its words use. -/
def State.hostBlock (s : State) (c : Ctx) : Nat := s.blockOf c.cl c.wave.host

def State.onMatrix (s : State) (b : Nat) (f : Matrix → Matrix) : State :=
  s.onBlock b fun x => { x with matrix := f x.matrix }

/-- A block owns its core's engine, or takes it: whether it may go on. A block that waits keeps its place in the order
of first claims. The first claim finds every part of the state zero. -/
def State.claimMatrix (s : State) (b : Nat) : Bool × State :=
  let k := (s.block b).core
  let x := s.core k
  if x.owner = some b then (true, s)
  else if x.owner = none ∧ (x.claims.isEmpty ∨ x.claims.head? = some b) then
    let s := s.onCore k fun x => { x with owner := some b, claims := x.claims.filter (· != b) }
    (true, if (s.block b).matrix.claimed then s
      else s.onBlock b fun x => { x with matrix := { x.matrix with claimed := true }, abn := [] })
  else (false, if x.claims.contains b then s else s.onCore k fun x => { x with claims := x.claims ++ [b] })

/-- A matrix word's conditions once its block owns the engine; else the wave parks. -/
def State.owned (s : State) (c : Ctx) (k : State → Option Effect) : Option Effect :=
  match s.claimMatrix (s.hostBlock c) with
  | (true, s) => k s
  | (false, s) => some (.again s .retry)

/-- The effect of a matrix word of an owner. -/
def State.withMatrix (s : State) (c : Ctx) (k : State → Nat → Effect) : Effect :=
  match s.claimMatrix (s.hostBlock c) with
  | (true, s) => k s (s.hostBlock c)
  | (false, s) => .again s .retry

/-! ### Planes in acceptance order -/

/-- The format of a plane: 0 where it was never loaded. -/
def Plane.fmt (p : Plane) : Nat := if p.loaded then p.slot.toNat % 16 else 0

/-- The formats of the active and the shadow plane behind the accepted operations (R272, R278). -/
def Matrix.formats (m : Matrix) (card : Card) : Nat × Nat :=
  m.ops.foldl (fun f o =>
    if mOp o.word = 0x32 then (f.2, f.1)
    else if mOp o.word = 0x31 then (f.1, (card.slot (mSlot o.word)).fmt)
    else f) (m.active.fmt, m.shadow.fmt)

/-! ### Acceptance (R272, R284) -/

/-- The scratchpad addresses that MCONV's rows are generated from (R282), 32 rows a member. -/
def convAddrs (t : Tsr) (slot : Slot) (p0 k0 rows : Nat) : List ConvBytes :=
  (List.range rows).flatMap fun r =>
    (List.range (32 * chunksOf slot.fmt)).filterMap fun k =>
      (t.convCoords (p0 + r) (k0 + k)).map fun g => t.convBytes slot.fmt g

/-- The ranges of the scratchpad that an operation reads: offset and length. -/
def MatrixOp.ranges (m : MatrixOp) (card : Card) : List (Nat × Nat) :=
  let slot := card.slot (mSlot m.word)
  match mOp m.word with
  | 0x31 => [(m.a0.toNat % 2 ^ 32, operandBytes slot.fmt 64)]
  | 0x33 => if mQ m.word then [] else m.members.map fun x => (x.act, operandBytes slot.fmt 32)
  | 0x34 =>
    (if mQ m.word then [] else m.members.map fun x => (x.act, operandBytes slot.fmt 32)) ++
      if mThr m.word then [(m.a1.toNat % 2 ^ 32, 128 * m.members.length)] else []
  | 0x35 =>
    let t := parseTsr m.tsr
    (convAddrs t (card.slot t.slot) (m.a1.toNat % 2 ^ 32) (m.a1.toNat / 2 ^ 32) (32 * m.members.length)).flatMap
      fun x => (x.off.toNat, x.len) :: (match x.hdr with | some h => [(h.toNat, 2)] | none => [])
  | _ => []

/-- The 128-byte lines of ranges. -/
def rangeLines (l : List (Nat × Nat)) : List Nat :=
  distinct (l.flatMap fun r => (List.range ((r.1 + r.2 + 127) / 128 - r.1 / 128)).map fun i => r.1 / 128 + i)

/-- A line of a block's scratchpad. -/
def Block.lineAt (x : Block) (n : Nat) : List Byte := x.bytesAt ((List.range 128).map fun i => 128 * n + i)

/-- An operation is accepted: it takes its place behind the others, with its operand lines as they stand (R284). -/
def State.acceptOp (s : State) (b : Nat) (card : Card) (m : MatrixOp) : State :=
  let x := s.block b
  let m := { m with number := x.matrix.count,
                    snap := (rangeLines (m.ranges card)).foldl (fun t n => t.insert n [x.lineAt n]) [] }
  s.onMatrix b fun y => { y with ops := y.ops ++ [m], count := y.count + 1 }

/-- An operand line is absent: the issuing waves park until it is present (R91). -/
def State.operandAbsent (s : State) (b : Nat) (card : Card) (m : MatrixOp) : Bool :=
  !(s.block b).absent.isEmpty && (rangeLines (m.ranges card)).any fun n => (s.block b).absent.contains n

/-- The line of a later moment, noted where it differs. -/
def addMoment (now : List Byte) (l : List (List Byte)) : List (List Byte) :=
  if l.getLast? = some now then l else l ++ [now]

/-- A moment at which accepted operation `n` may fetch an operand line (R284, R286). -/
def State.senseOperand (s : State) (b n line : Nat) : State :=
  let x := s.block b
  if x.absent.contains line then s
  else s.onMatrix b fun y => { y with ops := y.ops.map fun m =>
    if m.number = n then { m with snap := m.snap.modify line (addMoment (x.lineAt line)) } else m }

/-- The conditions on an operand offset (Table 18-5). -/
def offsetTrap (c : Ctx) (off n align : Nat) (act : List Nat) : Option Trap :=
  if off % align ≠ 0 ∨ off + n > c.card.shared then some (.error 0x000F off 0 act) else none

/-- 0x000D: the plane's and the operand's FMT, and OP. -/
def formatTrap (ok : Bool) (plane a op : Nat) (act : List Nat) : Option Trap :=
  if ok then none else some (.error 0x000D (plane + 16 * a) op act)

/-- 0x000E: the row groups lie beyond the tile. -/
def rowTrap (w : Word) (n : Nat) (act : List Nat) : Option Trap :=
  if mRowg w + n > 6 then some (.error 0x000E (mRowg w) n act) else none

/-- The words of an operand set for a format (R280). -/
def setWords (fmt : Nat) : Nat := 32 + (if isBx fmt then chunksOf fmt / 2 else 0)

/-! ### MCONV's record -/

/-- The rules of R259 and R282 on a shape record. -/
def Tsr.convOk (t : Tsr) (slot : Slot) (card : Card) (p0 k0 rows : Nat) : Bool :=
  t.ok slot.fmt && windowOf t.base == 3 && (!isBx slot.fmt || (windowOf t.hbase == 3 && k0 % 32 == 0)) &&
  (convAddrs t slot p0 k0 rows).all fun x =>
    decide (0 ≤ x.off ∧ x.off + x.len ≤ card.shared) &&
      match x.hdr with | some h => decide (0 ≤ h ∧ h + 2 ≤ card.shared) | none => true

/-- MCONV's shape record (R282): read once, through the region store buffer, the commit buffer and the home. -/
def State.convRecord (s : State) (c : Ctx) (va : Nat) (act : List Nat) : Except Effect Nat × State :=
  if windowOf va ≠ 0 ∨ va + 64 > stackBase ∨ va % 64 ≠ 0 then (.error (.trap s (.error 0x0010 va 0 act)), s)
  else
    let spots := [(act.headD 0, Place.global va)]
    match s.wordPages c 64 .read spots with
    | (.error (.trap s (.error code x y _)), _) => (.error (.trap s (.error code x y act)), s)
    | (.error e, s) => (.error e, s)
    | (.ok pages, s) =>
      let p : LoadPath := { core := c.core, skip := true, fill := false }
      let rsb := (s.wave c.w).rsb
      let fresh (pa : Nat) : Bool := (bufferedByte rsb pa).isNone && (committedByte (s.core c.core) pa).isNone
      match s.poisonTrap 64 pages (fun _ => fresh) spots with
      | some (.error code x y _) => (.error (.trap s (.error code x y act)), s)
      | some t => (.error (.trap s t), s)
      | none => (.ok (natOfBytes ((List.range 64).map fun i => s.loadByte p rsb (pageAddr pages (va + i)))), s)

/-! ### MMA, MAS and MCONV -/

/-- A member of a match: its context, its uniform operands s(A) and s(A + 1), its active lanes. -/
structure Matched where
  c   : Ctx
  a0  : Word
  a1  : Word
  act : List Nat

/-- What the whole operation's examination comes to (R387): accepted, not yet, or a trap of every member. -/
inductive Examination where
  | accepted (s : State)
  | later (e : Effect)
  | trap (s : State) (t : Trap)

/-- The conditions of Table 18-5 on a whole operation, in its order, and its acceptance. -/
def State.examine (s : State) (b : Nat) (ms : List Matched) : Examination :=
  match ms with
  | [] => .accepted s
  | m :: _ =>
    let w := m.c.word
    let card := m.c.card
    let g := ms.length
    let op := mOp w
    let q := mQ w
    let plane := ((s.block b).matrix.formats card).1
    let take (tsr : Nat) (n : Nat) (s : State) : Examination :=
      let members := ms.map fun x =>
        { wave := x.c.w, act := x.a0.toNat % 2 ^ 32, set := if q then (s.wave x.c.w).q1.take n else [] : Member }
      let op : MatrixOp :=
        { word := w, pc := m.c.pc, lanes := m.act, number := 0, members, a0 := m.a0, a1 := m.a1, tsr }
      if s.operandAbsent b card op then .later (.again s .absent)
      else
        let s := if q then ms.foldl (fun s x => s.onWave x.c.w fun w => { w with q1 := w.q1.drop n }) s else s
        .accepted (s.acceptOp b card op)
    if op = 0x35 then
      match s.convRecord m.c m.a0.toNat m.act with
      | (.error (.trap s (.error 0x0010 x y l)), _) =>
        -- the format and row conditions stand before the record's own
        (match rowTrap w g m.act with
        | some t => .trap s t
        | none => .trap s (.error 0x0010 x y l))
      | (.error (.trap s t), _) => .trap s t
      | (.error e, _) => .later e
      | (.ok bits, s) =>
        let t := parseTsr bits
        let slot := card.slot t.slot
        match (formatTrap (pairsWith plane slot.fmt) plane slot.fmt op m.act).or (rowTrap w g m.act) with
        | some t => .trap s t
        | none =>
          if t.convOk slot card (m.a1.toNat % 2 ^ 32) (m.a1.toNat / 2 ^ 32) (32 * g) then take bits 0 s
          else .trap s (.error 0x0010 m.a0.toNat 0 m.act)
    else
      let fmt := (card.slot (mSlot w)).fmt
      let ok := if op = 0x34 then plane == fmt && isBx fmt else pairsWith plane fmt
      let n := operandBytes fmt 32
      let offs : Option Trap :=
        if q then none else firstSome ms fun x => offsetTrap m.c (x.a0.toNat % 2 ^ 32) n 128 m.act
      let cell : Option Trap :=
        if op = 0x34 ∧ mThr w then offsetTrap m.c (m.a1.toNat % 2 ^ 32) (128 * g) 4 m.act else none
      match (((formatTrap ok plane fmt op m.act).or (rowTrap w g m.act)).or offs).or cell with
      | some t => .trap s t
      | none =>
        let k := setWords fmt
        if q && ms.any fun x => decide ((s.wave x.c.w).q1.length < k) then .later (.again s .retry)
        else take 0 k s

/-- A program error of several waves (R387): each writes its own record. -/
def State.failMembers (s : State) (ms : List Matched) (t : Matched → Trap) : State :=
  match ms with
  | [] => s
  | [m] => match t m with
    | .error code x y _ => s.programError m.c code x y m.act
    | _ => s
  | m :: rest =>
    let j := s.job m.c.job
    let s := match t m with
      | .error code x y _ => s.errorRecord j.asid j.card.addr j.card.eq (m.c.record code x y m.act) (s.storesOf m.c.job)
      | _ => s
    s.failMembers rest t

/-- The wave of a block with a number sr.wid, where it has not ended. -/
def State.gangWave (s : State) (b wid : Nat) : Option Nat :=
  (s.waves.find? fun p => p.2.wid == wid && s.blockOf p.2.cluster p.2.host == b && !p.2.ended).map Prod.fst

/-- The waves that a mask names, ascending; `none` stands for one that has ended. -/
def State.gangWaves (s : State) (b : Nat) (mask : Word) : List (Option Nat) :=
  (onesOf 64 mask.toNat).map fun i => s.gangWave b i

/-- A named wave that has ended (R387); one whose threads wait in a sift has not. -/
def State.gangGone (s : State) (b : Nat) (mask : Word) : Option Nat :=
  let x := s.block b
  let sifting (i : Nat) : Bool := match (s.cluster x.cluster).sift with
    | some f => (f.unis.find (65536 * x.index + i)).isSome
    | none => false
  (onesOf 64 mask.toNat).find? fun i => (s.gangWave b i).isNone && !sifting i

/-- The latched word of a wave, where it waits in the latch with this mask. -/
def State.latched (s : State) (mask : Word) (k : Nat) : Option Matched :=
  let w := s.wave k
  match w.park with
  | some (.latch word pc a0 a1 act) =>
    if w.gang = mask then some { c := s.ctxFor { wave := k, lanes := w.lanes, pc, word }, a0, a1, act } else none
  | _ => none

/-- A wave that waits in the latch (R276, R387): the rendezvous fails where a named wave has ended; it matches once every
named wave waits with the same mask. -/
def State.wakeLatch (s : State) (c : Ctx) : State :=
  match c.wave.park with
  | some (.latch ..) =>
    let b := s.hostBlock c
    let mask := c.wave.gang
    let all := s.gangWaves b mask
    let waiting := all.filterMap fun k => k.bind (s.latched mask)
    match s.gangGone b mask with
    | some i => s.failMembers waiting fun m => .error 0x000B mask.toNat i m.act
    | none =>
      if waiting.length < all.length ∨ all.isEmpty then s
      else
        let first := (waiting.headD { c, a0 := 0, a1 := 0, act := [] }).c.word
        if waiting.any fun m => mAgreed m.c.word != mAgreed first then
          s.failMembers waiting fun m => .error 0x000C m.c.word.toNat first.toNat m.act
        else match s.examine b waiting with
          | .accepted s => waiting.foldl (fun s m => s.onWave m.c.w fun w => { w with park := none }) s
          | .later (.miss s _) => s
          | .later _ => s
          | .trap s t => s.failMembers waiting fun _ => t
  | _ => s

/-- MMA, MAS and MCONV (R276, R279, R282, R285): alone with SOLO, else through the latch. The wait for a complete set of q1
or for an operand line follows the commit (R38). -/
def State.issueMatrixOp (s : State) (h : Hdr) (o : OpM) : State :=
  let a (s : State) (c : Ctx) : Word := s.readU c.wave (o.a.toNat % 64)
  let b (s : State) (c : Ctx) : Word := s.readU c.wave (o.a.toNat % 64 + 1)
  (s.issueBoundary h [] []
    (fun s c act => s.owned c fun s =>
      let x := s.hostBlock c
      if mSolo c.word then
        match s.examine x [{ c, a0 := a s c, a1 := b s c, act }] with
        | .accepted _ => none
        | .later (.again ..) => none
        | .later e => some e
        | .trap s t => some (.trap s t)
      else if c.wave.gang = 0 then some (.trap s (.error 0x000A 0 c.card.waves act))
      else (s.gangGone x c.wave.gang).map fun i => .trap s (.error 0x000B c.wave.gang.toNat i act))
    (fun s c act => s.withMatrix c fun s x =>
      if mSolo c.word then
        match s.examine x [{ c, a0 := a s c, a1 := b s c, act }] with
        | .accepted s => .done s [] []
        | .later e => e
        | .trap s t => .trap s t
      else .wait s [] (.latch c.word c.pc (a s c) (b s c) act))).wakeCur State.wakeLatch

def execMma (h : Hdr) (o : OpM) (s : State) : Out := .next (s.issueMatrixOp h o)
def execMas (h : Hdr) (o : OpM) (s : State) : Out := .next (s.issueMatrixOp h o)
def execMconv (h : Hdr) (o : OpM) (s : State) : Out := .next (s.issueMatrixOp h o)

/-! ### The other matrix words -/

/-- GANG (R275). -/
def execGang (h : Hdr) (o : OpM) (s : State) : Out :=
  .next (s.issueWord h [] [] fun s c act =>
    let mask := s.readU c.wave (o.a.toNat % 64)
    let n := popCount 64 mask.toNat
    if mask ≠ 0 ∧ (n < 2 ∨ n > 6 ∨ mask.toNat / 2 ^ c.card.waves ≠ 0 ∨ !mask.getLsbD c.wave.wid) then
      .trap s (.error 0x000A mask.toNat c.card.waves act)
    else .done (s.onWave c.w fun w => { w with gang := mask }) [] [])

/-- An operation of one wave, with its operand. -/
def soloOp (c : Ctx) (a0 : Word) (act : List Nat) : MatrixOp :=
  { word := c.word, pc := c.pc, lanes := act, number := 0, members := [{ wave := c.w, act := a0.toNat % 2 ^ 32 }], a0 }

/-- MLD (R278). -/
def execMld (h : Hdr) (o : OpM) (s : State) : Out :=
  .next (s.issueWord h [] [] fun s c act => s.withMatrix c fun s b =>
    let a0 := s.readU c.wave (o.a.toNat % 64)
    let fmt := (c.card.slot (o.d.toNat % 8)).fmt
    let shadow := ((s.block b).matrix.formats c.card).2
    match (formatTrap (fmt != 0) shadow fmt 0x31 act).or (offsetTrap c (a0.toNat % 2 ^ 32) (operandBytes fmt 64) 128 act)
      with
    | some t => .trap s t
    | none =>
      let op := soloOp c a0 act
      if s.operandAbsent b c.card op then .again s .absent else .done (s.acceptOp b c.card op) [] [])

/-- MSWP and MZERO (R278): boundaries without conditions of their own. -/
def State.issuePlain (s : State) (h : Hdr) : State :=
  s.issueBoundary h [] [] (fun s c _ => s.owned c fun _ => none)
    (fun s c act => s.withMatrix c fun s b => .done (s.acceptOp b c.card (soloOp c 0 act)) [] [])

def execMswp (h : Hdr) (_ : OpM) (s : State) : Out := .next (s.issuePlain h)
def execMzero (h : Hdr) (_ : OpM) (s : State) : Out := .next (s.issuePlain h)

/-- The words of two complete operand sets, by the active plane's format, which fixes the operand's headers (R273,
R280); the longest sets while no plane is active. -/
def State.q1Room (s : State) (c : Ctx) : Nat :=
  let f := ((s.block (s.hostBlock c)).matrix.formats c.card).1
  2 * setWords (if f = 0 then 6 else f)

/-- MPSH (R280). It waits, its commit made, while q1 or the core's buffer pool is full (R38, R330). -/
def execMpsh (h : Hdr) (o : OpM) (s : State) : Out :=
  .next (s.issueBoundary h [] [o.d.toNat] (fun s c _ => s.owned c fun _ => none)
    (fun s c act => s.withMatrix c fun s _ =>
      if c.wave.q1.length ≥ s.q1Room c || !s.poolTakes c.core 1 then .again s .retry
      else
      let row := (List.range 32).map fun l => if act.contains l then s.readV c.wave l o.d.toNat else 0
      .done (s.onWave c.w fun w => { w with q1 := w.q1 ++ [row] }) [] []))

/-- A popped column is poisoned in an active lane (R419). -/
def columnTrap (col : Column) (act : List Nat) : Option Trap :=
  match act.filter fun l => col.poison.contains l with
  | [] => none
  | l :: rest => some (.error 0x0106 (poisonPlace l) 5 (l :: rest))

/-- MPOP (R281). It waits, its commit made, while q0 is empty (R38). -/
def execMpop (h : Hdr) (o : OpM) (s : State) : Out :=
  .next (s.issueBoundary h [o.d.toNat] []
    (fun s c act => s.owned c fun s =>
      (c.wave.q0.head?.bind fun col => columnTrap col act).map fun t => .trap s t)
    (fun s c act => s.withMatrix c fun s _ =>
      match (s.wave c.w).q0 with
      | [] => .again s .retry
      | col :: rest =>
        match columnTrap col act with
        | some t => .trap s t
        | none => .done (s.onWave c.w fun w => { w with q0 := rest }) []
            (act.map fun l => .vec l o.d.toNat (col.vals.getD l 0))))

/-- Element `key` of a tile of a block. -/
def Matrix.elem (m : Matrix) (t key : Nat) : Reg := (m.tiles.getD t []).getD key 0

/-- The keys of the rows that an MSTA stores, in order. -/
def storeKeys (w : Word) : List Nat := (List.range (32 * mRows w * 64)).map fun i => 32 * mRowg w * 64 + i

/-- The first poisoned element among those that an MSTA stores (R419). -/
def Matrix.poisoned (m : Matrix) (w : Word) : Option Nat :=
  if m.poison.isEmpty then none else (storeKeys w).find? fun k => m.poison.contains (mTile w, k)

/-- The location of a tile element in an error record. -/
def elementPlace (w : Word) (key : Nat) : Nat := poisonPlace (mTile w * 2 ^ 16 + key)

/-- MSTA (R283, R388): with FMT 1 accepted once the operations before it are performed and its elements hold no
slag. -/
def execMsta (h : Hdr) (o : OpM) (s : State) : Out :=
  .next (s.issueWord h [] [] fun s c act => s.withMatrix c fun s b =>
    let m := (s.block b).matrix
    let a0 := s.readU c.wave (o.a.toNat % 64)
    let off := a0.toNat % 2 ^ 32
    let w := c.word
    let fmt := (c.card.slot (mSlot w)).fmt
    let n := 32 * mRows w * 64 * (if fmt = 0 then 4 else 2)
    match ((formatTrap (decide (fmt ≤ 2)) (m.formats c.card).1 fmt 0x39 act).or (rowTrap w (mRows w) act)).or
        (offsetTrap c off n 128 act) with
    | some t => .trap s t
    | none =>
      if (fmt = 1 ∧ !m.ops.isEmpty) ∨ !s.poolTakes c.core 1 then .again s .retry
      else
        let slag := if fmt = 1 then
            firstSome (storeKeys w) fun k => slagCode 10 (m.elem (mTile w) k).toNat
          else none
        match slag with
        | some v => .trap s (.slag 0x39 2 (slagBits 10 v) 3 act)
        | none =>
          match if m.ops.isEmpty then m.poisoned w else none with
          | some k => .trap s (.error 0x0106 (elementPlace w k) 5 act)
          | none =>
            let d : Delivery := { kind := 2, owner := b, number := m.count, accepted := false }
            let lines := rangeLines [(off, n)]
            let s := s.onBlock b fun x => { x with deliveries := x.deliveries ++ [d], absent := x.absent ++ lines }
            .done (s.acceptOp b c.card (soloOp c a0 act)) [] [])

/-- ASTHR (R287). -/
def execAsthr (h : Hdr) (o : OpM) (s : State) : Out :=
  let v (s : State) (c : Ctx) (l : Nat) : Nat := (s.readV c.wave l o.d.toNat).toNat
  .next (s.issueWord h [] (o.d.toNat :: baseRegs o false) fun s c act =>
    match s.placeAll c [3] 4 .free (windowAddrs s c o blockBase act) with
    | .error t => .trap s t
    | .ok spots =>
      match slagTrap 0x15 2 act [⟨3, 10, fun l => v s c l⟩] with
      | some t => .trap s t
      | none =>
        if s.someAbsent spots then .again s .absent
        else match s.poisonTrap 4 [] (fun _ _ => false) spots with
          | some t => .trap s t
          | none =>
            let value (l : Nat) : Nat := v s c l
            let s' := spots.foldl (fun s p => match p.2 with
              | .local b _ offs =>
                let old := natOfBytes ((s.block b).bytesAt offs)
                let x := value p.1
                let new := if (f32.decode x).isNan then old else f32.minMax true old x
                s.onBlock b fun y => y.softStore (offs.zip (bytesOfNat 4 new))
              | .global _ => s) s
            .done (s'.countConflicts 4 spots) [] [])

/-- TSLAG (R289). -/
def execTslag (h : Hdr) (o : OpA) (s : State) : Out :=
  let ty := o.ty.toNat
  .next (s.issueValue h o (shapeTslag o) false 6 fun s c _ l => (slagCode ty (srcA s c.wave o l (fpBits ty))).getD 0)

/-! ### Operations performed (R272, R279, R281, R283, R284) -/

/-- Bytes within a line at the moments since acceptance at which an operation may read them (R284), oldest first; now is
one of them unless a delivery to the line is under way. -/
def State.opMoments (s : State) (b : Nat) (m : MatrixOp) (o len : Nat) : List (List Byte) :=
  (m.snap.getD (o / 128) []).map (fun l => (l.drop (o % 128)).take len) ++
    if (s.block b).absent.contains (o / 128) then [] else [(s.block b).bytesAt ((List.range len).map fun i => o + i)]

/-- A byte that an operation reads (R284): its value at a moment from acceptance on, a choice where a write has changed it
(log entry 3); in a deterministic job that of acceptance, the same in every run (R290, R55). -/
def State.opByte (s : State) (b : Nat) (det : Bool) (m : MatrixOp) (o : Nat) : Byte :=
  let vals := (s.opMoments b m o 1).map fun l => l.headD 0
  if det then vals.headD 0 else match (List.range vals.length).find? fun i => s.choose (b * 2 ^ 20 + o) (100 + i) with
  | some i => vals.getD i 0
  | none => vals.getLast?.getD 0

/-- The poisoned chunks of row `i` of an operand tile at an offset. -/
def Block.linePoison (x : Block) (fmt off n i : Nat) : List Nat :=
  if x.poison.isEmpty then []
  else
    let len := 16 * halfBytes fmt
    (List.range (chunksOf fmt)).filter fun c =>
      ((List.range len).any fun k => x.poison.contains ((off + 128 * i + len * c + k) / 4)) ||
        (isBx fmt && x.poison.contains ((off + 128 * n + 2 * (i * chunksOf fmt + c)) / 4))

/-- A row from a set of q1 (R280): element words, then header words. -/
def setLine (slot : Slot) (set : List (List Reg)) (lane : Nat) : Line :=
  let word (k : Nat) : Nat := ((set.getD k []).getD lane 0).toNat
  lineOfBytes slot (fun k => BitVec.ofNat 8 (word (k / 4) / 2 ^ (8 * (k % 4))))
    fun c => if isBx slot.fmt then slice (word (32 + c / 2)) (16 * (c % 2)) 16 else 0

/-- Row `i` of member `j` of an operation. -/
def State.opRow (s : State) (b : Nat) (card : Card) (m : MatrixOp) (j i : Nat) : Line :=
  let byte := s.opByte b card.det m
  let mem := m.members.getD j { wave := 0, act := 0 }
  if mOp m.word = 0x35 then
    let t := parseTsr m.tsr
    let slot := card.slot t.slot
    let p := m.a1.toNat % 2 ^ 32 + 32 * j + i
    let k0 := m.a1.toNat / 2 ^ 32
    let x := s.block b
    let bad (c : Nat) : Bool := (List.range 32).any fun k =>
      match t.convCoords p (k0 + 32 * c + k) with
      | some g =>
        let y := t.convBytes slot.fmt g
        x.poison.contains (y.off.toNat / 4) || (match y.hdr with | some h => x.poison.contains (h.toNat / 4) | none => false)
      | none => false
    { t.convLine slot p k0 byte with
      poison := if x.poison.isEmpty then [] else (List.range (chunksOf slot.fmt)).filter bad }
  else
    let slot := card.slot (mSlot m.word)
    if mQ m.word then setLine slot mem.set i
    else { tileLine slot 32 (fun k => byte (mem.act + k)) i with poison := (s.block b).linePoison slot.fmt mem.act 32 i }

/-- A slot's fields from its contents. -/
def slotOf (x : BitVec 32) : Slot :=
  { fmt := x.toNat % 16, off := slice x.toNat 4 4, scl := toSigned 8 (slice x.toNat 8 8) }

/-- The columns of a weight plane. -/
def Plane.columns (p : Plane) : List Line :=
  (List.range 64).map fun n =>
    { tileLine (slotOf p.slot) 64 (fun k => p.bytes.getD k 0) n with
      poison := (List.range 8).filter fun c => p.poison.contains (8 * n + c) }

/-- Samples at boundary `c` of values in the order of their moments: from some boundary on, none before `from`, the next
value is sampled, a choice (log entry 3). -/
def State.sampleAt (s : State) (key : Nat) : Nat → List Nat → Nat → Nat
  | _, [], _ => 0
  | _, [x], _ => x
  | start, x :: rest, c =>
    match (List.range 8).find? fun k => decide (start ≤ k) && s.choose key (16 + 8 * rest.length + k) with
    | some k => if k ≤ c then s.sampleAt key k rest c else x
    | none => x

/-- The threshold samples of an element (R286): in a deterministic job the one of acceptance; else at each boundary a value
that the cell held at a moment no earlier than acceptance and than the sample before. -/
def State.tauSamples (s : State) (b : Nat) (m : MatrixOp) (det : Bool) (row n : Nat) : Nat → Nat :=
  let off := m.a1.toNat % 2 ^ 32 + 4 * row
  let vals := (s.opMoments b m off 4).map natOfBytes
  fun c => if det then vals.headD 0 else s.sampleAt (row * 64 + n) 0 vals c

/-- What one element of an operation comes to: its bits, whether it is poisoned, and the monitor's result. -/
def State.opElement (s : State) (b : Nat) (card : Card) (m : MatrixOp) (active : Slot) (row n : Nat) (x : Reg)
    (wasPoison : Bool) (ra cb : Line) : Nat × Bool × Option MasResult :=
  let dirty := ra.poison ++ cb.poison
  if mOp m.word = 0x34 then
    let tau := if mThr m.word then some (s.tauSamples b m card.det row n) else none
    let r := masElement tau (card.slot (mSlot m.word)) active ra cb
    (r.bits, dirty.any fun c => decide (c < r.spent), some r)
  else
    let kept := !mClr m.word && (slagCode 10 x.toNat).isSome
    (mmaElement (mClr m.word) (mSat m.word) x.toNat ra cb,
      if kept then wasPoison else !dirty.isEmpty || (!mClr m.word && wasPoison), none)

/-- The monitor's counts of an element (R288). -/
def countMas (abn : Tab Word) (r : MasResult) : Tab Word :=
  let add (t : Tab Word) (i : Nat) : Tab Word := t.put i (t.getD i 0 + 1) 0
  match r.slag with
  | some v => add (add abn r.spent) (8 + v)
  | none => add abn 8

/-- MMA, MAS and MCONV performed: the tile's rows, the counts, the columns to push. -/
def State.performRows (s : State) (b : Nat) (card : Card) (m : MatrixOp) : State × Tab (List Column) :=
  let x := (s.block b).matrix
  let t := mTile m.word
  let active := slotOf x.active.slot
  let cols := x.active.columns
  let lo := 32 * mRowg m.word * 64
  let g := m.members.length
  let hi := lo + 32 * g * 64
  let rows := (List.range (32 * g)).map fun r =>
    let ra := s.opRow b card m (r / 32) (r % 32)
    cols.mapIdx fun n cb =>
      let key := lo + 64 * r + n
      s.opElement b card m active r n (x.elem t key) (x.poison.contains (t, key)) ra cb
  let flat := rows.flatten.mapIdx fun i e => (lo + i, e)
  let old := x.tiles.getD t []
  let tile : Tab Reg := (old.filter fun p => decide (p.1 < lo)) ++
    (flat.filterMap fun p => if p.2.1 % 2 ^ 32 = 0 then none else some (p.1, BitVec.ofNat 32 p.2.1)) ++
    (old.filter fun p => decide (hi ≤ p.1))
  let poison := (x.poison.filter fun p => !(p.1 == t && decide (lo ≤ p.2 ∧ p.2 < hi))) ++
    flat.filterMap fun p => if p.2.2.1 then some (t, p.1) else none
  let abn := flat.foldl (fun a p => match p.2.2.2 with | some r => countMas a r | none => a) (s.block b).abn
  let s := s.onBlock b fun y =>
    { y with abn, matrix := { y.matrix with tiles := y.matrix.tiles.put t tile [], poison } }
  let column (j n : Nat) : Column :=
    let e (i : Nat) : Nat × Bool × Option MasResult := (rows.getD (32 * j + i) []).getD n (0, false, none)
    { vals := (List.range 32).map fun i => BitVec.ofNat 32 (e i).1, poison := (List.range 32).filter fun i => (e i).2.1 }
  (s, if mOut m.word then m.members.mapIdx fun j k => (k.wave, (List.range 64).map (column j)) else [])

/-- MLD performed. -/
def State.performLoadPlane (s : State) (b : Nat) (card : Card) (m : MatrixOp) : State :=
  let off := m.a0.toNat % 2 ^ 32
  let fmt := (card.slot (mSlot m.word)).fmt
  let bytes : Tab Byte := (List.range (operandBytes fmt 64)).filterMap fun k =>
    let v := s.opByte b card.det m (off + k)
    if v = 0 then none else some (k, v)
  let poison := (List.range 64).flatMap fun n => ((s.block b).linePoison fmt off 64 n).map fun c => 8 * n + c
  s.onMatrix b fun x => { x with shadow := { slot := card.formats.getD (mSlot m.word) 0, loaded := true, bytes, poison } }

/-- MSTA performed: its delivery's bytes land (R283). Poison among its elements is a program error of its word
(R419). -/
def State.storeTile (s : State) (b : Nat) (card : Card) (m : MatrixOp) : State :=
  let x := (s.block b).matrix
  let slot := card.slot (mSlot m.word)
  let e := if slot.fmt = 0 then 4 else 2
  let off := m.a0.toNat % 2 ^ 32
  let bytes := (storeKeys m.word).flatMap fun k => bytesOfNat e (storedElement slot (x.elem (mTile m.word) k).toNat)
  let s := match x.poisoned m.word with
    | some k =>
      let w := ((m.members.headD { wave := 0, act := 0 }).wave)
      let c := s.ctxFor { wave := w, lanes := m.lanes, pc := m.pc, word := m.word }
      s.failJob (s.cluster (s.block b).cluster).job (c.record 0x0106 (elementPlace m.word k) 5 m.lanes)
    | none => s
  let k := (s.block b).deliveries.findIdx fun d => d.kind == 2 && d.number == m.number
  let s := s.onBlock b fun y => { y with deliveries := y.deliveries.modify k fun d =>
    { d with bytes := bytes.mapIdx fun i v => (off + i, v), accepted := true } }
  s.land b k

/-- Columns move into the q0 of a wave as far as it (R281) and its core's buffer pool (R330) have room: what is left. -/
def State.pushSome (s : State) (w : Nat) : List Column → List Column × State
  | [] => ([], s)
  | c :: rest =>
    let x := s.wave w
    if x.q0.length < 128 && s.poolTakes (s.coreOf x) 1 then
      (s.onWave w fun y => { y with q0 := y.q0 ++ [c] }).pushSome w rest
    else (c :: rest, s)

/-- Columns move into the q0 of members (R281); a wave that has ended takes none. -/
def State.pushColumns (s : State) (out : Tab (List Column)) : State × Tab (List Column) :=
  out.foldl (fun (r : State × Tab (List Column)) p =>
    let w := r.1.wave p.1
    if w.ended || (r.1.waves.find p.1).isNone then r
    else
      let (left, s) := r.1.pushSome p.1 p.2
      (s, if left.isEmpty then r.2 else r.2 ++ [(p.1, left)]))
    (s, [])

/-- An operation performed on its block (R272): the state, and the columns to push. -/
def State.performOp (s : State) (b : Nat) (card : Card) (m : MatrixOp) : State × Tab (List Column) :=
  match mOp m.word with
  | 0x24 => (s.onBlock b fun x => { x with abn := x.abn.put m.a1.toNat m.a0 0 }, [])
  | 0x31 => (s.performLoadPlane b card m, [])
  | 0x32 => (s.onMatrix b fun x => { x with active := x.shadow, shadow := x.active }, [])
  | 0x38 => (s.onMatrix b fun x =>
      { x with tiles := x.tiles.remove (mTile m.word), poison := x.poison.filter fun p => p.1 != mTile m.word }, [])
  | 0x39 => (s.storeTile b card m, [])
  | _ => s.performRows b card m

/-- The counters of a block behind its accepted operations (R288): those of acceptance order, whatever of them the engine
has performed. The first operation has been performed where it has columns left to push. -/
def State.countersBehind (s : State) (b : Nat) (card : Card) : Tab Word :=
  ((s.block b).matrix.ops.foldl (fun t m =>
    if m.out.isSome ∨ mOp m.word = 0x39 then t else (t.performOp b card m).1) s).block b |>.abn

/-- The first operation of a block is performed, or pushes more columns, and goes once it has nothing left to push;
`none` while it waits. -/
def State.matrixStep (s : State) (b : Nat) : Option State :=
  let card := (s.job (s.cluster (s.block b).cluster).job).card
  match (s.block b).matrix.ops with
  | [] => none
  | m :: _ =>
    let push (s : State) (out : Tab (List Column)) : State :=
      let (s, left) := s.pushColumns out
      s.onMatrix b fun x => { x with ops := if left.isEmpty then x.ops.drop 1
                                            else x.ops.modify 0 fun y => { y with out := some left } }
    match m.out with
    | some out => if (s.pushColumns out).2 = out then none else some (push s out)
    | none =>
      let (s, out) := s.performOp b card m
      some (push s out)

/-- The completion of a block's first matrix operation (MATRIX_OP_COMPLETE). -/
def execMatrixOpComplete (block : Nat) (s : State) : Out := .next ((s.matrixStep block).getD s)

end Sys2Proof.Machine
end

