-- ==== Sys2Proof/Machine/Control.lean ====
section
/-! DEFINITION. The meanings of words that are no instruction (R173), branches and calls (R206), meeting points, EXIT,
NOP, TRAP and SLEEP (R207 to R209, R49), and the end of a sleep. -/
namespace Sys2Proof.Machine

/-! ### Encodings that are not instructions -/

/-- sr.emu0 to sr.emu6 for a word that is not an instruction (Table 6-16). -/
def illegalEmu (w : Word) : List Nat :=
  let x := w.toNat
  let f (p n : Nat) : Nat := slice x p n
  let sext (p n : Nat) : Nat := ofSigned 64 (toSigned n (f p n))
  let cause (op cls : Nat) : Nat := 0x01 * 2 ^ 24 + op * 2 ^ 8 + cls
  if w.getLsbD 62 then [cause (f 56 6) 5, f 47 8, f 39 8, 0, 0, f 31 31, f 0 31]
  else match f 56 2 with
    | 0 => [cause (f 48 8) 0, f 40 8, f 32 8, f 24 8, f 16 8, 0, f 0 16]
    | 1 => [cause (f 48 8) 1, f 40 8, f 32 8, 0, 0, sext 0 32, 0]
    | 2 => [cause (f 48 8) 2, f 40 8, f 32 8, 0, 0, sext 12 20, f 0 12]
    | _ =>
      if f 48 8 < 4 then [cause (f 48 8) 3, f 0 8, 0, 0, 0, sext 8 40, f 0 8]
      else [cause (f 48 8) 4, f 40 8, f 32 8, 0, 0, sext 0 32, 0]

/-- The active lanes of any word by its guard fields: of a paired word, those of either half (R160, R163). -/
def wordLanes (w : Word) (s : State) (c : Ctx) : List Nat :=
  let guard (p : Nat) (l : Nat) : Bool := s.readP c.wave l (w.extractLsb' (p + 1) 3).toNat != w.getLsbD p
  if w.getLsbD 62 then c.lanes.filter fun l => guard 35 l || guard 4 l
  else c.lanes.filter fun l => guard 58 l

/-- A word that is not an instruction, with an active lane, traps with CAUSE 0x01 (R173); it is checked against no
other table (R384). -/
def State.issueIllegal (s : State) (w : Word) : State :=
  s.issueOn (w.getLsbD 63) (wordLanes w) [] [] fun s _ act => .trap s (.illegal (illegalEmu w) act)

def execIllegalEncoding (w : Word) (s : State) : Out := .next (s.issueIllegal w)

/-! ### Branches -/

/-- The issued threads advance, and the active ones go to their targets (R28, R206). -/
def State.branch (s : State) (c : Ctx) (act : List Nat) (target : Nat → Word) : State :=
  s.onWave c.w fun w => (w.advance c.lanes).onLanes act fun l t => { t with pc := target l }

/-- PC + 8 + 8 × TGT40 (R157). -/
def jumpTarget (pc : Word) (o : OpJ) : Word := pc + 8 + 8 * o.tgt.signExtend 64

def execBra (h : Hdr) (o : OpJ) (s : State) : Out :=
  .next (s.issueWord h [] [] fun s c act => .moved (s.branch c act fun _ => jumpTarget c.pc o) [])

/-- BRX and RET: an active lane whose target is not a multiple of 8 traps with 0x0005, and no lane moves
(Table 18-4). -/
def State.issueIndirect (s : State) (h : Hdr) (o : OpJ) : State :=
  let u := o.tgt.getLsbD 0
  let r := o.modc.toNat
  s.issueWord h [] (if u then [] else [r, r + 1]) fun s c act =>
    let target (l : Nat) : Word := if u then s.readU c.wave r else s.readPair c.wave l r
    match act.filter fun l => (target l).toNat % 8 != 0 with
    | [] => .moved (s.branch c act target) []
    | l :: rest => .trap s (.error 0x0005 (target l).toNat 0 (l :: rest))

def execBrx (h : Hdr) (o : OpJ) (s : State) : Out := .next (s.issueIndirect h o)

/-- RET differs from BRX only in timing (R206). -/
def execRet (h : Hdr) (o : OpJ) (s : State) : Out := .next (s.issueIndirect h o)

def execCall (h : Hdr) (o : OpJ) (s : State) : Out :=
  let r := o.modc.toNat
  .next (s.issueWord h [r, r + 1] [] fun s c act =>
    .moved (s.branch c act fun _ => jumpTarget c.pc o)
      (act.flatMap fun l => vecWrites 7 l r (c.pc + 8).toNat))

/-! ### Meeting points, NOP, TRAP, SLEEP -/

/-- mt set in each active lane (R27). -/
def State.setMeet (s : State) (h : Hdr) (mt : Ctx → Word) : State :=
  s.issueWord h [] [] fun s c act =>
    .done (s.onWave c.w fun w => w.onLanes act fun _ t => { t with mt := mt c }) [] []

def execMeet (h : Hdr) (o : OpS) (s : State) : Out :=
  .next (s.setMeet h fun c => c.pc + 8 + 8 * o.imm.signExtend 64)

def execMeetClear (h : Hdr) (_ : OpS) (s : State) : Out := .next (s.setMeet h fun _ => 0)

def execNop (h : Hdr) (_ : OpS) (s : State) : Out := .next (s.issueWord h [] [] fun s _ _ => .done s [] [])

def execTrap (h : Hdr) (o : OpS) (s : State) : Out :=
  .next (s.issueWord h [] [] fun s _ act => .trap s (.call o.imm.toNat act))

/-- SLEEP #n: the wave issues no word in the n arithmetic clocks after the SLEEP's own (R209). -/
def execSleep (h : Hdr) (o : OpS) (s : State) : Out :=
  .next (s.issueWord h [] [] fun s c _ =>
    .done (if o.imm.toNat = 0 then s else s.onWave c.w fun w => { w with wake := s.clk + o.imm.toNat + 1 }) [] [])

/-- The sleep of a wave is over (R209). -/
def execSleepEnd (wave : Nat) (s : State) : Out :=
  .next (if (s.wave wave).wake ≤ s.clk then s.onWave wave fun w => { w with wake := 0 } else s)

/-! ### EXIT -/

/-- The engine operations of a block that an EXIT waits for (R49): copy commands taken, accepted matrix operations with
their MSTA writes, stream deliveries whose slot is claimed. -/
def State.engineOps (s : State) (b : Nat) : List (Nat × Nat × Nat) :=
  let x := s.block b
  (x.copies.map fun e => (b, 0, e.entry)) ++
  (x.deliveries.filterMap fun d => if d.kind ≠ 0 ∧ !d.landed then some (b, d.kind, d.number) else none) ++
  (x.matrix.ops.map fun m => (b, 3, m.number))

/-- An engine operation that has not completed. -/
def State.opHeld (s : State) (o : Nat × Nat × Nat) : Bool := (s.engineOps o.1).contains o

/-- The end of an EXIT (R49, 4 and 5): q0 is discarded and the threads are no longer live. -/
def Wave.exitLanes (w : Wave) (lanes : List Nat) : Wave :=
  { w.onLanes lanes fun _ t => { t with live := false, handler := false } with q0 := [] }

def execExit (h : Hdr) (_ : OpS) (s : State) : Out :=
  .next (s.issueBoundary h [] []
    (fun s c _ => if (s.wave c.w).results.isEmpty then none else some (.settle s))
    (fun s c act =>
      let ops := (distinct (c.lanes.map fun l => s.homeBlock c l)).flatMap s.engineOps
      if ops.isEmpty then .done (s.onWave c.w fun w => w.exitLanes act) [] []
      else .wait s [] (.exit ops act)))

end Sys2Proof.Machine
end

