-- ==== Sys2Proof/Machine/Room.lean ====
section
/-! DEFINITION. The resources of cores that clusters hold (R25, R45, R50): registers, scratchpad, copy-queue entries,
barriers and slots; and the grants of GROW (R46). -/
namespace Sys2Proof.Machine

/-- The blocks of resident clusters on a core. -/
def State.blocksOn (s : State) (core : Nat) : List (Nat × Block) :=
  s.blocks.filter fun p => p.2.core == core && (s.cluster p.2.cluster).life.resident

/-- The waves of a block that stand in its slots, ended ones included. -/
def State.slotted (s : State) (b : Nat) : List Wave :=
  (s.waves.filter fun p => s.blockOf p.2.cluster p.2.host == b && !p.2.deferred).map Prod.snd

/-- The registers that a block holds on its core: those of its waves, and the starting allocation of its other slots
(R45, R293). -/
def State.blockRegs (s : State) (b : Nat) : Nat :=
  let card := (s.job (s.cluster (s.block b).cluster).job).card
  let ws := s.slotted b
  sumOf ws (fun w => 32 * w.alloc) + (card.waves + card.slots - ws.length) * card.regs * 32

/-- The registers held on a core (R45, R50). -/
def State.coreRegs (s : State) (core : Nat) : Nat :=
  sumOf (s.blocksOn core) fun p => if p.2.held then s.blockRegs p.1 else 0

/-- The slots of `n` that lie in each quadrant (R25): slot k in quadrant k mod 4. -/
def quadSlots (n : Nat) : List Nat := (List.range 4).map fun q => (n + 3 - q) / 4

/-- The resources that a block of a card takes: registers, scratchpad, copy-queue entries, barriers, and slots in each
quadrant (R25). -/
def Card.needs (c : Card) : List Nat :=
  [(c.waves + c.slots) * c.regs * 32, c.shared + 32 * c.waves * c.stack, c.cqe, c.bars] ++ quadSlots (c.waves + c.slots)

/-- What a core has of them (Table 1-2, R16). -/
def coreHas : List Nat := [65536, 524288, 64, 1024, 16, 16, 16, 16]

/-- Blocks of clusters that are not resident, whose accepted engine operations still write their scratchpads (R42). -/
def State.blocksBusy (s : State) (core : Nat) : List (Nat × Block) :=
  s.blocks.filter fun p => p.2.core == core && !(s.cluster p.2.cluster).life.resident && !(s.engineOps p.1).isEmpty

/-- What is held of them on a core: scratchpad until the cluster ends and its engine operations have completed, the
others while the block holds its resources (R50). `but` is a cluster that asks for room again. -/
def State.coreHeld (s : State) (core : Nat) (but : Option Nat) : List Nat :=
  let on := s.blocksOn core
  let held := on.filter fun p => p.2.held
  let card (p : Nat × Block) : Card := (s.job (s.cluster p.2.cluster).job).card
  let busy := (s.blocksBusy core).filter fun p => some p.2.cluster != but
  [s.coreRegs core, sumOf (on ++ busy) fun p => (card p).needs.getD 1 0, sumOf held fun p => (card p).cqe,
   sumOf held fun p => (card p).bars] ++
    (List.range 4).map fun q => sumOf held fun p => (quadSlots ((card p).waves + (card p).slots)).getD q 0

/-- A core has room for needs (R25); a power-gated one has none. -/
def State.hasRoom (s : State) (core : Nat) (needs : List Nat) (but : Option Nat) : Bool :=
  !(s.core core).gated && ((s.coreHeld core but).zip (needs.zip coreHas)).all fun p => decide (p.1 + p.2.1 ≤ p.2.2)

/-- A block of a card fits on a core (R25). -/
def State.fits (s : State) (core : Nat) (card : Card) : Bool := s.hasRoom core card.needs none

/-- The registers that the waves of a cluster hold on a core (R390): those of the waves in its blocks' slots, ended ones
included until the block returns its resources (R50). -/
def State.clusterRegs (s : State) (cl core : Nat) : Nat :=
  sumOf (s.waves.filter fun p => p.2.cluster == cl && s.coreOf p.2 == core && !p.2.deferred &&
    (s.block (s.blockOf cl p.2.host)).held) fun p => 32 * p.2.alloc

/-- The waves parked in GROW on a core, oldest request first (R46). -/
def State.growers (s : State) (core : Nat) : List (Nat × Wave) :=
  sortBy (fun p => (s.cluster p.2.cluster).order * 64 + p.2.wid)
    (s.waves.filter fun p => s.coreOf p.2 == core && (s.cluster p.2.cluster).life.resident &&
      match p.2.park with | some (.grow _) => true | _ => false)

/-- The oldest waiting request is granted where the core has room (R46): the new registers read 0. -/
def State.grantOne (s : State) (core : Nat) : Option State :=
  match s.growers core with
  | (k, w) :: _ =>
    match w.park with
    | some (.grow a) =>
      if s.coreRegs core + 32 * (a - w.alloc) ≤ 65536 then
        some (s.onWave k fun w => { w with alloc := a, park := none })
      else none
    | _ => none
  | [] => none

/-- Grants in age order; `fuel` bounds them by the number of requests. -/
def State.grantsOn (s : State) (core : Nat) : Nat → State
  | 0 => s
  | fuel + 1 => match s.grantOne core with
    | some s => s.grantsOn core fuel
    | none => s

/-- Every grant that a core can make. -/
def State.grant (s : State) (core : Nat) : State := s.grantsOn core (s.growers core).length

end Sys2Proof.Machine
end

