-- ==== Sys2Proof/Machine/Sift.lean ====
section
/-! DEFINITION. SIFT and SIFTH (R291 to R299, R391), the completion of a sift, and the placing of waves in slots (R25,
R296). -/
namespace Sys2Proof.Machine

/-! ### Slots -/

/-- A slot of a block holds a wave that has not ended. -/
def State.slotTaken (s : State) (b k : Nat) : Bool :=
  s.waves.any fun p => p.2.slot == k && !p.2.deferred && !p.2.ended && s.blockOf p.2.cluster p.2.host == b

/-- The slots of a block that are free. -/
def State.freeSlots (s : State) (b : Nat) : List Nat :=
  let card := (s.job (s.cluster (s.block b).cluster).job).card
  (List.range (card.waves + card.slots)).filter fun k => !s.slotTaken b k

/-- A wave takes a slot (R25, R296, R329): it joins the active set of its quadrant while that holds fewer than 8. -/
def State.placeWave (s : State) (k slot : Nat) : State :=
  let w := s.wave k
  let b := s.blockOf w.cluster w.host
  let core := (s.block b).core
  let old := (s.waves.filter fun p =>
    p.2.slot == slot && !p.2.deferred && p.2.ended && s.blockOf p.2.cluster p.2.host == b).map Prod.fst
  let s := { s with waves := s.waves.dropIf fun n _ => old.contains n }
  let mates := s.waves.filter fun p => s.coreOf p.2 == core && !p.2.ended && !p.2.deferred && p.2.slot % 4 == slot % 4 &&
    p.2.active && p.1 != k && (s.cluster p.2.cluster).life.resident
  let (n, s) := s.fresh
  s.onWave k fun w => { w with slot, deferred := false, active := decide (mates.length < 8), age := n, since := s.clk }

/-- Free slots of a block take its deferred waves (R296): the one of the lowest j in a deterministic job, else one that
the device chooses (log entry 3). `fuel` bounds the placements. -/
def State.placeDeferred (s : State) (b : Nat) : Nat → State
  | 0 => s
  | fuel + 1 =>
    let det := (s.job (s.cluster (s.block b).cluster).job).card.det
    let waiting := (s.waves.filter fun p => p.2.deferred && s.blockOf p.2.cluster p.2.host == b).map Prod.fst
    match waiting, s.freeSlots b with
    | k :: _, slot :: _ =>
      let pick := if det then k else (waiting.find? fun n => s.choose n 4).getD k
      (s.placeWave pick slot).placeDeferred b fuel
    | _, _ => s

/-! ### Arrival -/

/-- The payload registers of a SIFT or SIFTH. -/
def siftPayload (o : OpA) : List Nat := (List.range o.c.toNat).map fun i => o.a.toNat + i

/-- A domain other than cluster `cl`'s holds a place in the tray store (R291). -/
def Cluster.holdsPlace (c : Cluster) : Bool := c.trays || match c.sift with
  | some f => f.place
  | none => false

/-- Fewer than three domains other than cluster `cl`'s hold a place in a core group's tray store (R291). -/
def State.trayRoom (s : State) (group cl : Nat) : Bool :=
  decide ((s.clusters.filter fun p => p.1 != cl && p.2.group == group && p.2.holdsPlace).length < 3)

/-- Cluster `cl`'s domain holds, or may claim, one of its group's three places: fewer than three other domains hold one
(R291). -/
def State.trayFree (s : State) (cl : Nat) : Bool := s.trayRoom (s.cluster cl).group cl

/-- A domain whose threads are held for want of a place claims one that is free (R291): of several held domains that of the
lowest cluster, which `State.house` asks first (DESIGN CHOICE, log entry 88). -/
def State.claimTray (s : State) (cl : Nat) : State :=
  match (s.cluster cl).sift with
  | some f => if !f.place && s.trayFree cl then s.onCluster cl fun c => { c with sift := some { f with place := true } }
    else s
  | none => s

/-- What stops an arrival (R391): another PC, or a register at or above the starting allocation. -/
def siftTrap (s : State) (c : Ctx) (o : OpA) (sift : Bool) (act : List Nat) : Option Trap :=
  let regs := (if sift then [o.d.toNat] else []) ++ siftPayload o
  let wrong : Option Trap := (s.cluster c.cl).sift.bind fun f =>
    if f.pc = c.pc then none else some (.error 0x0011 f.pc.toNat 0 act)
  (wrong.or ((minBy (regs.filter fun r => decide (c.card.regs ≤ r)) id).map fun r =>
    .error 0x0004 r c.card.regs act)).or ((registerTrap c regs act).or (registerPoison c.wave regs act))

/-- The threads of a wave arrive (R293): they are no longer issued, and their state is held in the tray store. -/
def State.arrive (s : State) (c : Ctx) (o : OpA) (sift : Bool) (act : List Nat) : State :=
  let w := s.wave c.w
  let pay := siftPayload o
  let one (l : Nat) : Thread :=
    let t := w.thread l
    let key : Word := if sift then BitVec.ofNat 64 ((t.v.getD o.d.toNat 0).toNat % 2 ^ o.b.toNat) else t.key
    { t with key, v := t.v.filter fun p => pay.contains p.1 }
  let cl := s.cluster c.cl
  let f := cl.sift.getD { word := c.word, pc := c.pc, place := s.trayFree c.cl }
  let f := { f with
    arrived := f.arrived ++ act.map one, unis := f.unis.insert w.runKey w.uni
    lanes := f.lanes.insert w.runKey (f.lanes.getD w.runKey [] ++ act) }
  (s.onCluster c.cl fun x => { x with sift := some f }).onWave c.w fun w =>
    { w.onLanes act fun _ t => { t with live := false } with q0 := [], q1 := [] }

/-- A matrix operation in which a wave takes part has columns still to push (R293). -/
def State.pushesTo (s : State) (c : Ctx) : Bool :=
  (s.block (s.hostBlock c)).matrix.ops.any fun m => mOut m.word && m.members.any fun x => x.wave == c.w

/-- SIFT and SIFTH: settled and committed, the wave waits for its columns and for its stores to reach cluster scope
(R294), and its issued threads arrive. -/
def State.issueSift (s : State) (h : Hdr) (o : OpA) (sift : Bool) : State :=
  s.issueBoundary h [] []
    (fun s c act =>
      if !(s.wave c.w).results.isEmpty then some (.settle s)
      else (siftTrap s c o sift act).map fun t => .trap s t)
    (fun s c act =>
      if s.pushesTo c then .again s .matrix
      else s.releaseThen c 3 [noObj] fun s => .moved ((s.noteRelease c 3 [siftCode c.cl]).arrive c o sift act) [])

def execSift (h : Hdr) (o : OpA) (s : State) : Out := .next (s.issueSift h o true)
def execSifth (h : Hdr) (o : OpA) (s : State) : Out := .next (s.issueSift h o false)

/-! ### Completion -/

/-- A rebuilt wave (R295, R298): its host and number, and its threads by lane. -/
structure Rebuilt where
  host    : Nat
  wid     : Nat
  threads : List (Nat × Thread)

/-- Groups of 32 in order; `fuel` bounds them by the number of threads. -/
def groupsOf {α : Type} : Nat → List α → List (List α)
  | 0, _ => []
  | fuel + 1, l => if l.isEmpty then [] else l.take 32 :: groupsOf fuel (l.drop 32)

/-- The waves that a SIFT builds (R295). -/
def siftWaves (arrived : List Thread) : List Rebuilt :=
  let hosts := sortBy id (distinct (arrived.map fun t => t.bid))
  let list := sortBy (fun t => t.key.toNat) (sortBy (fun t => t.tid) arrived)
  let groups := (distinct (list.map fun t => t.key.toNat)).flatMap fun x =>
    groupsOf arrived.length (list.filter fun t => t.key.toNat == x)
  groups.mapIdx fun j g =>
    { host := hosts.getD (j % hosts.length) 0, wid := j / hosts.length, threads := g.mapIdx fun l t => (l, t) }

/-- The dispatch-time wave and lane of a thread (R298). -/
def dispatchWid (card : Card) (t : Thread) : Nat := t.tid % card.threads / 32 - t.bid * card.waves

/-- The waves that a SIFTH builds (R298). -/
def sifthWaves (card : Card) (arrived : List Thread) : List Rebuilt :=
  let places := sortBy id (distinct (arrived.map fun t => t.bid * 64 + dispatchWid card t))
  places.map fun p =>
    { host := p / 64, wid := p % 64
      threads := (arrived.filter fun t => t.bid * 64 + dispatchWid card t == p).map fun t => (t.tid % 32, t) }

/-- A thread as a rebuilt wave starts it (Table 11-2). -/
def rebuiltThread (pc : Word) (t : Thread) : Thread :=
  { t with live := true, pc := pc + 8, mt := 0, startPc := pc + 8, startMt := 0, txn := none, handler := false,
           startH := false }

/-- A rebuilt wave enters the state: placed in its slot, or deferred. -/
def State.rebuild (s : State) (cl : Nat) (card : Card) (f : Sift) (r : Rebuilt) : State :=
  let low := match f.unis with | (_, u) :: _ => u | [] => []
  let thread (l : Nat) : Thread :=
    match r.threads.find? fun p => p.1 == l with
    | some p => rebuiltThread f.pc p.2
    | none => {}
  let (k, s) := s.fresh
  let w : Wave :=
    { cluster := cl, host := r.host, wid := r.wid, slot := r.wid, threads := (List.range 32).map thread,
      uni := low.filter fun p => decide (p.1 < 32), alloc := card.regs, deferred := true }
  let s := s.setWave k w
  if r.wid < card.waves + card.slots then s.placeWave k r.wid else s

/-- Every thread of the sift's domain acquires at its completion what the arrivals released (R294). -/
def State.siftAcquired (s : State) (cl : Nat) (f : Sift) : State :=
  s.onJob (s.cluster cl).job fun j =>
    if !j.rebound then j
    else
      let x := j.hb.standing [3 * 2 ^ 40 + cl] [siftCode cl]
      { j with hb := (f.arrived.foldl (fun d t => d.learn (agentOf cl t.tid) x) j.hb).clear [siftCode cl] }

/-- Every live thread of a cluster's domain has arrived. -/
def State.siftReady (s : State) (cl : Nat) (f : Sift) : Bool :=
  !f.arrived.isEmpty && !(s.waves.any fun p => p.2.cluster == cl && p.2.threads.any fun t => t.live)

/-- The completion of a cluster's sift (R293 to R298): `none` while it waits. Poisoned records trap every thread of the
domain (R445). -/
def State.siftStep (s : State) (cl : Nat) : Option State :=
  let c := s.cluster cl
  match c.sift with
  | none => none
  | some f =>
    let card := (s.job c.job).card
    if !s.siftReady cl f || !c.life.resident || !f.place then none
    else if f.poison then
      some (s.failTogether c.job (f.lanes.map fun p =>
        { code := 0x0106, source := 0, core := (s.block (s.blockOf cl (p.1 / 65536))).core, wid := p.1 % 65536,
          bid := p.1 / 65536, lanes := maskOf p.2, pc := f.pc.toNat, task := c.task, info0 := poisonPlace 0, info1 := 7 }))
    else
      let waves := if f.word.toNat / 2 ^ 48 % 256 = 0x60 then siftWaves f.arrived else sifthWaves card f.arrived
      let s := { s with waves := s.waves.dropIf fun _ w => w.cluster == cl }
      let s := s.onCluster cl fun x => { x with sift := none, trays := true }
      let s := (waves.foldl (fun s r => s.rebuild cl card f r) s).siftAcquired cl f
      some ((distinct (waves.map fun r => (s.block (s.blockOf cl r.host)).core)).foldl
        (fun s k => s.acquireAt k 3 [(s.job c.job).bound cl fun _ => false] [noObj] fun _ => none) s)

/-- A sift completes (SIFT_COMPLETE). -/
def execSiftComplete (cluster : Nat) (s : State) : Out := .next ((s.siftStep cluster).getD s)

end Sys2Proof.Machine
end

