-- ==== Sys2Proof/Machine/Sched.lean ====
section
/-! DEFINITION. Dealing (R318), pre-emption by discard (R39, R43, R48, R316, R32), the start of clusters (R25, R26, R52,
R95, R327), dispatch (R319, R322), stages (R324, R325), late and waiting records (R315, R317). -/
namespace Sys2Proof.Machine

/-! ### Pre-emption and resumption -/

/-- A thief that loses its cluster before step 4 of a steal returns the entry (R321). -/
def State.cancelSteals (s : State) (cores : List Nat) : State :=
  s.each (s.steals.filter fun p => cores.contains p.2.thief && p.2.step < 4) fun s p =>
    let s := { s with steals := s.steals.remove p.1 }
    match p.2.chunk with
    | none => s
    | some c => if p.2.reclaimed then s else s.onCore p.2.victim fun k =>
        { k with queue := k.queue.map fun e => if e.job = c.job ∧ e.first = c.first then { e with lent := false } else e }

/-- A cluster is pre-empted by discard (R39): every wave is dropped to its region start; the matrix engines that its
blocks own are free (R271), the state staying with the blocks (R40). -/
def State.preempt (s : State) (cl : Nat) : State :=
  let c := s.cluster cl
  let s := s.cancelSteals (distinct (c.blocks.map fun b => (s.block b).core))
  let s := { s with waves := s.waves.mapVals fun w => if w.cluster = cl then w.drop else w }
  let s := { s with cores := s.cores.mapVals fun k =>
    { k with owner := k.owner.filter fun b => !c.blocks.contains b
             claims := k.claims.filter fun b => !c.blocks.contains b } }
  s.onCluster cl fun c => { c with life := .preempted (match c.life with | .halted h => some h | _ => none) }

/-- What a block needs to be resident again (R43). -/
def State.blockNeeds (s : State) (b : Nat) : List Nat :=
  let card := (s.job (s.cluster (s.block b).cluster).job).card
  let room := card.shared + 32 * card.waves * card.stack
  if (s.block b).held then [s.blockRegs b, room, card.cqe, card.bars] ++ quadSlots (card.waves + card.slots)
  else [0, room, 0, 0, 0, 0, 0, 0]

/-- Cores of a group for blocks with the given needs, block by block: the first takes `lead` where it is given, the
others the lowest-numbered cores with room (R25, R319). -/
def State.seats (s : State) (group : Nat) (but : Option Nat) : Option Nat → List (List Nat) → List Nat → Option (List Nat)
  | _, [], _ => some []
  | lead, n :: rest, used =>
    let here := match lead with | some c => [c] | none => (List.range 8).map fun i => group * 8 + i
    match here.find? fun c => !used.contains c && s.hasRoom c n but with
    | some c => (s.seats group but none rest (c :: used)).map fun l => c :: l
    | none => none

/-- The waves of a cluster that hold slots join the active sets of their quadrants again, oldest first. -/
def State.seatWaves (s : State) (cl : Nat) : State :=
  let s := { s with waves := s.waves.mapVals fun w => if w.cluster = cl then { w with active := false } else w }
  s.each (sortBy (fun p => p.2.age) (s.waves.filter fun p => p.2.cluster == cl && !p.2.ended && !p.2.deferred)) fun s p =>
    s.placeWave p.1 p.2.slot

/-- A block of a job comes to another core (R43): lines that the core and its die hold may be older than what the job's
threads have acquired, and go (R131, R145; log entry 68). -/
def State.moveBlock (s : State) (job b core : Nat) : State :=
  let from' := (s.block b).core
  let s := s.onBlock b fun x => { x with core := core }
  if from' = core then s
  else
    let s := s.onCore core fun k => { k with l1 := [], lookup := [], lastJob := some job }
    if dieOfCore from' = dieOfCore core then s else s.onDie (dieOfCore core) fun d => { d with rdc := [] }

/-- A pre-empted cluster goes on, in place or on other cores (R43): the stores that its waves committed reach their
homes first, so that its threads find them. -/
def State.resumeOn (s : State) (cl : Nat) (cores : List Nat) : State :=
  let c := s.cluster cl
  let old := c.blocks.map fun b => (s.block b).core
  let s := if old = cores then s else
    old.foldl (fun s k =>
      let (lost, s) := s.drainIf k fun e => e.job == c.job
      s.reportLost lost) s
  let s := (c.blocks.zip cores).foldl (fun s p => s.moveBlock c.job p.1 p.2) s
  let s := s.onCluster cl fun c =>
    { c with group := groupOfCore (cores.headD 0)
             life := match c.life with | .preempted (some h) => .halted h | _ => .running }
  s.seatWaves cl

/-- The device may save a cluster's blocks (R42, R90): their engine operations have completed and their lines are
present. -/
def State.savable (s : State) (c : Cluster) : Bool :=
  c.blocks.all fun b => (s.engineOps b).isEmpty && (s.block b).deliveries.all (fun d => d.landed) && (s.block b).absent.isEmpty

/-- The cores on which a pre-empted cluster can go on (R43): its own, else, once it can be saved, those of a group that
the device chooses (log entry 3); a domain that holds a place in its tray store goes only where it finds one (R291). -/
def State.resumeAt (s : State) (cl : Nat) : Option (List Nat) :=
  let c := s.cluster cl
  let needs := c.blocks.map s.blockNeeds
  let own := c.blocks.map fun b => (s.block b).core
  if (own.zip needs).all fun p => s.hasRoom p.1 p.2 (some cl) then some own
  else if !s.savable c then none
  else
    let tray (g : Nat) : Bool := !c.holdsPlace || g == c.group || s.trayRoom g cl
    let all := ((List.range 20).filter tray).filterMap fun g => s.seats g (some cl) none needs []
    ((all.find? fun l => s.choose (l.headD 0) 5).or all.head?)

/-- GROW_STALL_PREEMPT (R48): no wave of the core has issued for 1,024 clocks and one waits in GROW. -/
def execGrowStallPreempt (core : Nat) (s : State) : Out :=
  .next (match (s.growers core).getLast? with
    | some p =>
      if (s.core core).idle + 1024 ≤ s.clk then (s.preempt p.2.cluster).grant core else s
    | none => s)

/-! ### Dealing -/

/-- Records of a job not yet dealt. -/
def Job.undealt (j : Job) : Nat := j.limit - j.next

/-- The cores that are not power-gated. -/
def State.awake (s : State) : List Nat := (List.range 160).filter fun c => !(s.core c).gated

/-- The scheduler stalls while it holds records and core 0 has no entry of class 3 for another (R317, R330). -/
def State.recordsStall (s : State) : Bool := s.held.any fun h => !h.pooled

/-- R318: chunks of the first ready job in EDF order. -/
def State.deal (s : State) : State :=
  let cores := s.awake
  match s.readyJobs.find? fun p => !p.2.card.det && p.2.stages.isEmpty && decide (0 < p.2.undealt) with
  | none => s
  | some (j, _) =>
    s.each cores fun s c =>
      let x := s.job j
      if x.undealt = 0 ∨ 4 ≤ (s.core c).queue.length then s
      else
        let p := 2 * cores.length
        let n := max 1 ((x.undealt + p - 1) / p)
        (s.onCore c fun k => { k with queue := k.queue ++ [{ job := j, first := x.next, count := n }] }).onJob j fun x =>
          { x with next := x.next + n }

def execDeal (s : State) : Out := .next (if s.recordsStall then s else s.deal)

/-! ### The start of a cluster -/

/-- The record address of a task (Table 2-2). -/
def Card.record (c : Card) (task : Nat) : Word :=
  if c.rsize = 0 then BitVec.ofNat 64 task else c.rbase + BitVec.ofNat 64 (task * c.rsize)

/-- The lines of the remote-data caches that a job's declared reads overlap are invalidated before its first task
(R95); `root` is the table of its address space as it stands at that dispatch (R103). -/
def State.clearRdc (s : State) (j : Job) (root : Nat) : State :=
  let reads := (j.card.prints 1).map fun f => ({ obj := { kind := 0, addr := 0 }, base := f.base, len := f.len } : Binding)
  let reach (va : Nat) : Option Nat :=
    match s.walk j.asid root va with
    | .leaf l _ => some (l.addr va)
    | _ => none
  let hit : Nat → Bool := if j.card.foot.isEmpty ∨ reads.isEmpty then fun _ => true else boundLine reads reach
  { s with dies := s.dies.mapVals fun d => { d with rdc := d.rdc.filter fun p => !hit p.1 } }

/-- A wave as dispatch makes it (R26, R52). -/
def freshWave (cl bid wid task : Nat) (card : Card) (entry : Word) : Wave :=
  let thread (l : Nat) : Thread :=
    { tid := task * card.threads + (bid * card.waves + wid) * 32 + l, bid, live := true, pc := entry, startPc := entry }
  { cluster := cl, host := bid, wid, slot := wid, threads := (List.range 32).map thread
    uni := (card.uimg.mapIdx fun i x => (i, x)).filter fun p => p.2 != 0
    alloc := card.regs, deferred := true }

/-- A cluster's prologue starts in a free program slot, or waits for one (R327). -/
def State.startPrologue (s : State) (cl : Nat) : State :=
  let c := s.cluster cl
  let card := (s.job c.job).card
  if !c.prologue || c.life == .dropped then s
  else match s.findSlot card.engine (dieOfCore (s.block (s.blockOf cl 0)).core) with
    | none => s
    | some (e, k) =>
      let (_, s) := s.startProgram e k card.prologue c.recordAt cl c.job
      (s.onProgram e k fun p => { p with prologue := true }).onCluster cl fun c => { c with prologue := false }

/-- The card's bindings in a cluster that starts, as though each of its threads executed BIND for every entry before its first
word (R308): a global one that an UNBIND has removed comes back, whatever the number of bindings (log entry 87); one that stands
there is in force for them. Those of a cluster's own objects are in its view from the start. -/
def State.bindCard (s : State) (cl : Nat) : State :=
  let c := s.cluster cl
  if !(s.job c.job).rebound then s
  else
    let who := (List.range (s.job c.job).card.threads).map fun i =>
      (agentOf cl (c.task * (s.job c.job).card.threads + i), 0)
    let card := (s.job c.job).changes.filter fun x => x.id == 0 && !x.binding.isLocal && !x.binding.scratch
    s.each card fun s x =>
      let j := s.job c.job
      if !(j.table cl).contains x.binding then
        let (n, s) := s.fresh
        s.onJob c.job fun j => j.rebind (n + 1) true x.binding who
      else if j.lastChange x.binding = 0 then s
      else s.onJob c.job fun j => j.learnChange (j.lastChange x.binding) who

/-- A task's cluster starts on its cores (R25, R26, R52): its number. A replicated task's program is its primary run's
(R327, log entry 69). -/
def State.startCluster (s : State) (j task : Nat) (recordAt entry : Word) (cores : List Nat) (run : Option Run)
    (stage : Option Nat) : Nat × State :=
  let x := s.job j
  let (root, regt) := (s.descriptor x.asid).getD (x.root, x.regt)
  let s := if x.begun then s else s.clearRdc x root
  let s := s.onJob j fun x => { x with begun := true }
  let (cl, s) := s.fresh
  let (blocks, s) := (List.range x.card.blocks).foldl (fun (r : List Nat × State) i =>
    let (b, s) := r.2.fresh
    let y : Block := { cluster := cl, index := i, core := cores.getD i 0 }
    (r.1 ++ [b], { s with blocks := s.blocks.insert b y })) ([], s)
  let c : Cluster := { job := j, task := task, recordAt := recordAt, root := root, regt := regt,
                       group := groupOfCore (cores.headD 0), blocks := blocks, order := cl, run := run, stage := stage,
                       prologue := x.card.prologue != 0 && (run.map fun r => r.role == 0).getD true }
  let s := { s with clusters := s.clusters.insert cl c }
  let places := (List.range x.card.blocks).flatMap fun b => (List.range x.card.waves).map fun w => (b, w)
  let s := s.each places fun s p =>
    let (k, s) := s.fresh
    (s.setWave k (freshWave cl p.1 p.2 task x.card entry)).placeWave k p.2
  (cl, (s.bindCard cl).startPrologue cl)

/-! ### Dispatch -/

/-- A job has 256 records held for one of its queues (R317). -/
def State.blockedByRecords (s : State) (j : Job) : Bool :=
  [j.card.cq, j.card.sq, j.card.eq].any fun q =>
    decide (256 ≤ (s.held.filter fun h => h.asid == j.asid && h.queue == q).length)

/-- Where a task can be placed: the cores of its cluster, and of its secondary run (R323). -/
structure Seat where
  cores : List Nat
  twin  : Option (List Nat) := none
  deriving DecidableEq, Repr

/-- A task is run twice (R323). -/
def Card.replicated (c : Card) (task : Nat) : Bool := c.replicas != 0 && task % c.replicas == 0

/-- A seat whose block 0 is on core `lead`. -/
def State.seat (s : State) (card : Card) (task lead : Nat) : Option Seat :=
  let needs := List.replicate card.blocks card.needs
  let g := groupOfCore lead
  match s.seats g none (some lead) needs [] with
  | none => none
  | some cores =>
    if card.replicated task then
      (firstSome ((List.range 20).filter (· != g)) fun h => s.seats h none none needs []).map fun t =>
        { cores, twin := some t }
    else some { cores }

/-- The first seat of the device (R322). -/
def State.firstSeat (s : State) (card : Card) (task : Nat) : Option Seat :=
  firstSome (List.range 160) fun c => s.seat card task c

/-- A task that a core may dispatch: its job's place in EDF order, job, index, and whether it stands in the core's
queue. -/
structure Offer where
  key   : Nat
  job   : Nat
  task  : Nat
  queued : Bool
  deriving DecidableEq, Repr

/-- The tasks that a core may dispatch, in EDF order (R319, R322). -/
def State.offers (s : State) (c : Nat) : List Offer :=
  let own := (s.core c).queue.filterMap fun e =>
    let j := s.job e.job
    if e.lent || j.phase != .ready then none
    else some { key := s.edfKey j, job := e.job, task := e.first, queued := true : Offer }
  let det := s.readyJobs.filterMap fun p =>
    if p.2.card.det && p.2.stages.isEmpty && decide (0 < p.2.undealt) then
      some { key := s.edfKey p.2, job := p.1, task := p.2.next, queued := false : Offer }
    else none
  sortBy (fun o => o.key * 2 ^ 33 + o.task) (own ++ det)

/-- A seat for an offer of core `c`: a queued task's with block 0 on the core; a deterministic one's where the first
seat is the core's. -/
def State.seatFor (s : State) (c : Nat) (o : Offer) : Option Seat :=
  let card := (s.job o.job).card
  if o.queued then s.seat card o.task c
  else (s.firstSeat card o.task).filter fun x => x.cores.head? == some c

/-- The task leaves its queue entry (R319), or its job's undispatched records (R322). -/
def State.takeTask (s : State) (c : Nat) (o : Offer) : State :=
  if o.queued then s.onCore c fun k =>
    { k with queue := k.queue.filterMap fun e =>
        if e.job = o.job ∧ e.first = o.task ∧ !e.lent then
          if e.count ≤ 1 then none else some { e with first := e.first + 1, count := e.count - 1, started := true }
        else some e }
  else s.onJob o.job fun x => { x with next := x.next + 1 }

/-- Every task of a job has been dispatched (Table 12-6). -/
def State.allDispatched (s : State) (j : Nat) : Bool :=
  let x := s.job j
  if x.stages.isEmpty then
    decide (x.undealt = 0) && !(s.cores.any fun k => k.2.queue.any fun e => e.job == j) &&
      !(s.steals.any fun p => !p.2.reclaimed && match p.2.chunk with | some e => e.job == j | none => false)
  else x.stages.all fun g => g.marked

/-- A task is dispatched (R319, R322, R323): an address space that has become unusable fails the job (R103). -/
def State.dispatch (s : State) (c : Nat) (o : Offer) (x : Seat) : State :=
  let j := s.job o.job
  if (s.descriptor j.asid).isNone then
    s.failJob o.job { code := 0x0211, source := 4, core := 0, pc := 0, task := o.task, info0 := j.asid.toNat,
                      info1 := (s.descriptorBits j.asid).toNat }
  else
    let s := s.takeTask c o
    let start (s : State) (cores : List Nat) (run : Option Run) : Nat × State :=
      s.startCluster o.job o.task (j.card.record o.task) j.card.entry cores run none
    match x.twin with
    | none => (start s x.cores none).2
    | some t =>
      let (a, s) := start s x.cores (some { role := 0 })
      let (b, s) := start s t (some { role := 1, twin := some a })
      s.onCluster a fun y => { y with run := some { role := 0, twin := some b } }

/-! ### Stages: roles and depths -/

/-- The role of a core for a staged job (R324). -/
def State.role (s : State) (c j : Nat) : Nat := (s.core c).roles.getD j (c % max 1 (s.job j).stages.length)

/-- The depth of the input queue of stage `k`: `none` while it cannot be read. -/
def State.depth (s : State) (j k : Nat) : Option Nat × State :=
  let x := s.job j
  match s.scheduler x.asid, x.stages[k]? with
  | some q, some g =>
    match s.openQueue (.virtual q) g.iq.toNat .read with
    | (.ok (z, pa), s) => (some (s.found pa z none), s)
    | (.error _, s) => (none, s)
  | _, _ => (none, s)

/-- The depth of each stage's input queue: `none` while one cannot be read. -/
def State.depths (s : State) (j : Nat) : Option (List Nat) × State :=
  (List.range (s.job j).stages.length).foldl (fun (r : Option (List Nat) × State) k =>
    match r.1 with
    | none => r
    | some l => match r.2.depth j k with
      | (some n, s) => (some (l ++ [n]), s)
      | (none, s) => (none, s)) (some [], s)

/-- The stage whose role a core holds has an entry to take. -/
def State.stageWork (s : State) (c j : Nat) : Bool :=
  match (s.job j).stages[s.role c j]?, (s.depth j (s.role c j)).1 with
  | some g, some n => !g.marked && decide (0 < n)
  | _, _ => false

/-- A staged job before a place in EDF order has an entry for a core to take; with `room`, one that the core has room
for. -/
def State.stagedBefore (s : State) (c key : Nat) (room : Bool) : Bool :=
  s.readyJobs.any fun p => !p.2.stages.isEmpty && decide (s.edfKey p.2 < key) && !s.blockedByRecords p.2 &&
    (!room || (s.seat p.2.card 0 c).isSome) && s.stageWork c p.1

/-! ### Pre-emption for room -/

/-- The clusters that R316 may pre-empt for a job in a group, in its order: latest in EDF order, youngest dispatched,
deterministic ones last. -/
def State.victims (s : State) (group key : Nat) : List Nat :=
  let big := 2 ^ 128
  (sortBy (fun p =>
      let j := s.job p.2.job
      (if j.card.det then 2 ^ 512 else 0) + (big - s.edfKey j) * 2 ^ 64 + (2 ^ 64 - p.2.order))
    (s.clusters.filter fun p => p.2.group == group && p.2.life.resident && decide (key < s.edfKey (s.job p.2.job)))).map
    Prod.fst

/-- The state once the engine operations of clusters that are not resident have completed: the room that a pre-emption
comes to give (R42). -/
def State.quiet (s : State) : State :=
  { s with blocks := s.blocks.mapVals fun b =>
      if (s.cluster b.cluster).life.resident then b
      else { b with copies := [], deliveries := [], matrix := { b.matrix with ops := [] } } }

/-- Clusters pre-empted one at a time until a task has a seat; `none` where all of them do not make room. -/
def State.preemptUntil (s : State) (ok : State → Bool) : List Nat → Option State
  | [] => if ok s.quiet then some s else none
  | v :: rest => if ok s.quiet then some s else (s.preempt v).preemptUntil ok rest

/-- Room for a task by pre-emption in a group, and for the other run of a replicated one in another group: `primary` says
that the first run has room, `ok` that the whole task has. -/
def State.roomIn (s : State) (key : Nat) (twice : Bool) (primary ok : State → Bool) (group : Nat) : Option State :=
  (s.preemptUntil primary (s.victims group key)).bind fun s =>
    if ok s.quiet then some s
    else if twice then
      firstSome ((List.range 20).filter (· != group)) fun h => s.preemptUntil ok (s.victims h key)
    else none

/-- A core of the device has room for a task's first run with block 0 on it. -/
def State.hasLead (s : State) (card : Card) (c : Nat) : Bool :=
  (s.seats (groupOfCore c) none (some c) (List.replicate card.blocks card.needs) []).isSome

/-- Room for the next task of the earliest ready job in EDF order (R316). -/
def State.makeRoom (s : State) (c : Nat) (o : Offer) : Option State :=
  let first := s.readyJobs.find? fun p => !s.allDispatched p.1
  if (first.map Prod.fst) != some o.job then none
  else
    let card := (s.job o.job).card
    let twice := card.replicated o.task
    if o.queued then s.roomIn o.key twice (fun s => s.hasLead card c) (fun s => (s.seatFor c o).isSome) (groupOfCore c)
    else if (s.firstSeat card o.task).isSome then none
    else
      (firstSome (List.range 20) fun g =>
        s.roomIn o.key twice (fun s => (List.range 160).any (s.hasLead card)) (fun s => (s.firstSeat card o.task).isSome)
          g).filter fun s => (s.quiet.seatFor c o).isSome

/-- A cluster has a wave that waits in CWAIT. -/
def State.inCwait (s : State) (cl : Nat) : Bool :=
  s.waves.any fun p => p.2.cluster == cl && match p.2.park with
    | some (.counter ..) => true
    | _ => false

/-- The clusters of a job's tasks above an index that wait in CWAIT, lowest task first; pre-empted ones wait on. -/
def State.waiters (s : State) (j task : Nat) : List (Nat × Cluster) :=
  sortBy (fun p => p.2.task) (s.clusters.filter fun p => p.2.job == j && decide (task < p.2.task) &&
    (p.2.life.resident || match p.2.life with | .preempted _ => true | _ => false) && s.inCwait p.1)

/-- The place that R32 gives a task while a higher one of its job waits in CWAIT: room anywhere; without room, the
highest-index waiter is pre-empted for it. -/
def State.placeBelow (s : State) (o : Offer) : Option (Option Seat × State) :=
  let seat (s : State) : Option Seat := s.firstSeat (s.job o.job).card o.task
  match s.waiters o.job o.task with
  | [] => none
  | l => match seat s with
    | some x => some (some x, s)
    | none =>
      if (seat s.quiet).isSome then none
      else ((l.filter fun p => p.2.life.resident).getLast?).map fun p => (seat (s.preempt p.1), s.preempt p.1)

/-- A task's place, by pre-emption where R316 or R32 gives one; after a pre-emption the place may have to wait for the
victims' engine operations. -/
def State.placeOffer (s : State) (c : Nat) (o : Offer) : Option (Option Seat × State) :=
  match s.seatFor c o with
  | some x => some (some x, s)
  | none => match s.makeRoom c o with
    | some s => some (s.seatFor c o, s)
    | none => s.placeBelow o

/-- The offers of a core that may be dispatched: no queue of theirs has 256 held records (R317), and no staged job before
them in EDF order has an entry that the core has room for. -/
def State.freeOffers (s : State) (c : Nat) : List Offer :=
  (s.offers c).filter fun o => !s.blockedByRecords (s.job o.job) && !s.stagedBefore c o.key true

/-- A core has a staged job's entry to take, room for its task, and no task before it in EDF order (R324). -/
def State.stagedRequest (s : State) (c : Nat) : Bool :=
  s.readyJobs.any fun p => !p.2.stages.isEmpty && !s.blockedByRecords p.2 &&
    !((s.offers c).any fun o => decide (o.key < s.edfKey p.2)) && (s.seat p.2.card 0 c).isSome && s.stageWork c p.1

/-- A lower core of the group has a task, of a queue or of a stage, that it can place: its turn comes first (R319). -/
def State.lowerRequests (s : State) (core : Nat) : Bool :=
  (List.range (core % 8)).any fun i =>
    let c := groupOfCore core * 8 + i
    ((s.freeOffers c).any fun o => (s.seatFor c o).isSome) || s.stagedRequest c

/-- CLUSTER_DISPATCH of a core (R13, R319, R322, R316, R32): the first task in EDF order that has a place is dispatched. -/
def execClusterDispatch (core : Nat) (s : State) : Out :=
  .next (if 160 ≤ core || s.recordsStall || s.lowerRequests core then s
    else match firstSome (s.freeOffers core) fun o => (s.placeOffer core o).map fun r => (o, r) with
    | some (o, some x, s) => s.dispatch core o x
    | some (_, none, s) => s
    | none => s)

/-- The lowest-index task of a job that is not dispatched (R32). -/
def State.lowestTask (s : State) (j : Nat) : Option Nat :=
  let x := s.job j
  let queued := s.cores.flatMap fun k => (k.2.queue.filter fun e => e.job == j).map fun e => e.first
  let rest := if x.stages.isEmpty && decide (0 < x.undealt) then [x.next] else []
  minBy (queued ++ rest) id

/-- CLUSTER_RESUME (R43). The room of a cluster that waits in CWAIT goes first to a lower-index task of its job that is
not dispatched (R32). -/
def State.resumeCluster (s : State) (cl : Nat) : State :=
  let c := s.cluster cl
  let yields := s.inCwait cl && match s.lowestTask c.job with
    | some t => decide (t < c.task) && (s.quiet.firstSeat (s.job c.job).card t).isSome
    | none => false
  match c.life with
  | .preempted _ => match if yields then none else s.resumeAt cl with
    | some cores => s.resumeOn cl cores
    | none => s
  | _ => s

def execClusterResume (cluster : Nat) (s : State) : Out := .next (s.resumeCluster cluster)

/-! ### Records -/

/-- The time counter has passed a deadline (R315). -/
def passed (time : Word) (d : BitVec 48) : Bool :=
  let n := (time.setWidth 48 - d).toNat
  decide (1 ≤ n ∧ n < 2 ^ 47)

/-- The one late record of a job whose deadline has passed (R315). -/
def State.noteLate (s : State) (job : Nat) : State :=
  let j := s.job job
  match j.card.deadline with
  | some d =>
    if !j.late && passed s.time d then
      (s.onJob job fun x => { x with late := true }).jobRecord j.asid j.card.addr j.card.sq 2 d.toNat 0
    else s
  | none => s

/-- JOB_LATE (R315). -/
def execJobLate (job : Nat) (s : State) : Out :=
  .next (if (s.job job).phase.active && !s.recordsStall then s.noteLate job else s)

/-- RECORD_RETRY (R317): record `k` of those held. -/
def execRecordRetry (k : Nat) (s : State) : Out := .next (s.retryRecord k)

/-! ### Stages -/

/-- The stage governor (R325): the role that core `c` takes. -/
def State.govern (s : State) (c j : Nat) (depth : List Nat) : Nat :=
  let st := (s.job j).stages
  let k := s.role c j
  let d (i : Nat) : Nat := depth.getD i 0
  let ended (i : Nat) : Bool := ((st[i]?).map fun g => g.ended).getD false
  let high (i : Nat) : Nat := ((st[i]?).map fun g => g.high).getD 0
  let low (i : Nat) : Nat := ((st[i]?).map fun g => g.low).getD 0
  let all := List.range st.length
  let cores := ((List.range 160).filter fun c => s.role c j == k).length
  if cores ≤ 1 ∨ ended k then
    if ended k then ((all.find? fun i => !ended i).getD k) else k
  else
    let far := minBy (all.filter fun i => decide (high i ≤ d i)) fun i => 2 ^ 64 - (d i - high i)
    match far with
    | some h => if h ≠ k ∧ d k < high k then h else if d k < low k then deepest all d k else k
    | none => if d k < low k then deepest all d k else k
where
  /-- the other stage with the deepest queue, the lowest on ties -/
  deepest (all : List Nat) (d : Nat → Nat) (k : Nat) : Nat :=
    (minBy (all.filter (· != k)) fun i => 2 ^ 64 - d i).getD k

/-- A stage's next entry starts a task on a core, or ends the stage (R324, R326). -/
def State.stageTake (s : State) (j k : Nat) (g : Stage) (seat : Seat) : State :=
  let x := s.job j
  let onStage (s : State) (f : Stage → Stage) : State :=
    s.onJob j fun x => { x with stages := x.stages.mapIdx fun i y => if i = k then f y else y }
  match s.scheduler x.asid with
  | none => s.failJob j { code := 0x0211, source := 4, core := 0, pc := 0, task := 4 * g.taken + k,
                          info0 := x.asid.toNat, info1 := (s.descriptorBits x.asid).toNat }
  | some q =>
    match s.dequeue (.virtual q) g.iq.toNat 1 (· == 3) with
    | (.done _ (0 :: _), s) => onStage s fun y => { y with marked := true }
    | (.done _ (a :: _), s) =>
      ((onStage s fun y => { y with taken := y.taken + 1 }).startCluster j (4 * g.taken + k) (BitVec.ofNat 64 a) g.entry
        seat.cores none (some k)).2
    | (_, s) => s

/-- The governor at a task boundary of a core (R325): its role is chosen anew in every staged job that has had its first
dispatch, at which a core takes its first role (R324). -/
def State.governAt (s : State) (core : Nat) : State :=
  s.each ((s.jobs.filter fun p => p.2.phase == .ready && p.2.begun && !p.2.stages.isEmpty).map Prod.fst) fun s j =>
    match s.depths j with
    | (some l, s) => s.onCore core fun y => { y with roles := y.roles.insert j (s.govern core j l) }
    | (none, s) => s

/-- A place for the next task of a staged job's stage on a core, by pre-emption where the job is the earliest ready one
in EDF order and an entry waits (R316). -/
def State.stageSeat (s : State) (core j : Nat) : Option Seat × State :=
  let card := (s.job j).card
  let first := s.readyJobs.find? fun p => !s.allDispatched p.1
  let at' (s : State) : Option Seat := s.seat card 0 core
  match at' s with
  | some x => (some x, s)
  | none =>
    if (first.map Prod.fst) = some j ∧ s.stageWork core j then
      match s.preemptUntil (fun s => (at' s).isSome) (s.victims (groupOfCore core) (s.edfKey (s.job j))) with
      | some s => (at' s, s)
      | none => (none, s)
    else (none, s)

/-- STAGE_DISPATCH (R324, R326): a core takes one entry for its role, where it has room and no task earlier in EDF
order. -/
def execStageDispatch (core job : Nat) (s : State) : Out :=
  let x := s.job job
  let k := s.role core job
  .next (if 160 ≤ core ∨ x.phase ≠ .ready ∨ (s.core core).gated ∨ s.blockedByRecords x ∨ s.recordsStall ∨ s.lowerRequests core then s
    else match x.stages[k]? with
      | none => s
      | some g =>
        let earlier := (s.offers core).any (fun o => decide (o.key < s.edfKey x)) || s.stagedBefore core (s.edfKey x) false
        if g.marked || earlier then s
        else
          let s := s.onCore core fun y => { y with roles := y.roles.insert job k }
          match s.stageSeat core job with
          | (some seat, s) => s.stageTake job k g seat
          | (none, s) => s)

end Sys2Proof.Machine
end

