-- ==== Sys2Proof/Machine/Sha.lean ====
section
/-! DEFINITION. SHA-384, which R349, R352 and R353 name, as FIPS 180-4 defines it (log entry 10). -/
namespace Sys2Proof

/-- The greatest number of at most `bits` bits whose `k`-th power is at most `n`. -/
def rootBits (k n : Nat) : Nat → Nat → Nat
  | 0, r => r
  | b + 1, r => if (r + 2 ^ b) ^ k ≤ n then rootBits k n b (r + 2 ^ b) else rootBits k n b r

/-- The first 64 bits of the fraction of the `k`-th root of `p`. -/
def rootFraction (k p : Nat) : Word := BitVec.ofNat 64 (rootBits k (p * 2 ^ (64 * k)) 70 0)

/-- The first `n` primes. -/
def primes (n : Nat) : List Nat :=
  ((List.range 420).filter fun p => 2 ≤ p ∧ (List.range p).all fun d => d < 2 ∨ p % d ≠ 0).take n

/-- The 80 constants: cube roots of the first 80 primes. -/
def shaConstants : List Word := (primes 80).map (rootFraction 3)

/-- The initial value of SHA-384: square roots of the ninth to sixteenth primes. -/
def shaStart : List Word := ((primes 16).drop 8).map (rootFraction 2)

def shaRot (x : Word) (n : Nat) : Word := x.rotateRight n

/-- The message schedule, extended by `fuel` words. -/
def shaSchedule : Nat → List Word → List Word
  | 0, w => w
  | fuel + 1, w =>
    let g (i : Nat) : Word := w.getD (w.length - i) 0
    let s0 := shaRot (g 15) 1 ^^^ shaRot (g 15) 8 ^^^ (g 15 >>> 7)
    let s1 := shaRot (g 2) 19 ^^^ shaRot (g 2) 61 ^^^ (g 2 >>> 6)
    shaSchedule fuel (w ++ [g 16 + s0 + g 7 + s1])

/-- One round on the eight working words, with its constant and its schedule word. -/
def shaRound (v : List Word) (kw : Word × Word) : List Word :=
  match v with
  | [a, b, c, d, e, f, g, h] =>
    let s1 := shaRot e 14 ^^^ shaRot e 18 ^^^ shaRot e 41
    let t1 := h + s1 + ((e &&& f) ^^^ (~~~e &&& g)) + kw.1 + kw.2
    let s0 := shaRot a 28 ^^^ shaRot a 34 ^^^ shaRot a 39
    let t2 := s0 + ((a &&& b) ^^^ (a &&& c) ^^^ (b &&& c))
    [t1 + t2, a, b, c, d + t1, e, f, g]
  | v => v

/-- A number of big-endian bytes. -/
def natOfBig (l : List Byte) : Nat := natOfBytes l.reverse

/-- A number in `n` big-endian bytes. -/
def bigBytes (n v : Nat) : List Byte := (bytesOfNat n v).reverse

/-- One 128-byte block absorbed. -/
def shaBlock (h : List Word) (block : List Byte) : List Word :=
  let w := (List.range 16).map fun i => BitVec.ofNat 64 (natOfBig ((block.drop (8 * i)).take 8))
  let v := (shaConstants.zip (shaSchedule 64 w)).foldl shaRound h
  (h.zip v).map fun p => p.1 + p.2

/-- A message with its padding. -/
def shaPadded (m : List Byte) : List Byte :=
  m ++ [0x80] ++ List.replicate ((128 + 111 - m.length % 128) % 128) 0 ++ bigBytes 16 (8 * m.length)

/-- The SHA-384 digest of a message as a number of 48 big-endian bytes. -/
def sha384 (m : List Byte) : Nat :=
  let p := shaPadded m
  let h := (List.range (p.length / 128)).foldl (fun h i => shaBlock h ((p.drop (128 * i)).take 128)) shaStart
  (h.take 6).foldl (fun n x => n * 2 ^ 64 + x.toNat) 0

end Sys2Proof
end

