-- ==== Sys2Proof/Machine/Manage.lean ====
section
/-! DEFINITION. The management registers (R332, R356, Tables 13-2, 14-4, 19-3), the lifetime counters (R357, R448),
power, clocks and temperature (R354, R355), machine errors and soft errors (R445, R446), power gating (R435). -/
namespace Sys2Proof.Machine

/-! ### Reading registers -/

/-- Four 16-bit fields as one register (Table 12-9). -/
def packPool (l : List Nat) : Word := BitVec.ofNat 64 (l.mapIdx fun i x => x * 2 ^ (16 * i)).sum

/-- A lifetime counter as it reads: stored and not yet flushed (R448). Counter 66 is BOOTNO. -/
def State.lifetime (s : State) (i : Nat) : Nat := 
  min (2 ^ 64 - 1) (if i = 66 then s.bootNo else s.stored.getD i 0 + s.counts.getD i 0)

/-- The fault-buffer registers of a die at 0x00_0500 to 0x00_0578 (Table 19-3). -/
def State.faultRegister (s : State) (k d : Nat) : Word :=
  let x := s.die d
  match k with
  | 0 => BitVec.ofNat 64 x.fbBase
  | 1 => x.fbPut.setWidth 64
  | 2 => x.fbGet.setWidth 64
  | _ => BitVec.ofNat 64 (x.dcnt * 2 ^ 32 + if x.dropped then 1 else 0)

/-- Bytes of a window as a word. -/
def windowWord (t : Tab Byte) (a : Nat) : Word := BitVec.ofNat 64 (natOfBytes ((List.range 8).map fun i => t.getD (a + i) 0))

/-- The aligned 8 bytes at a BAR0 offset (Tables 13-1, 13-2, 14-4, 19-3, R351, R357): write-only registers and places
outside a window read 0. -/
def State.readRegister (s : State) (off : Nat) : Word :=
  let n (x : Nat) : Word := BitVec.ofNat 64 x
  if off = 0 then 0x10D40
  else if off = 8 then s.devid.setWidth 64
  else if off = 0x10 then n ((if s.bootReady then 1 else 0) + (if s.bootDegr then 2 else 0) + s.bootStep * 2 ^ 8)
  else if off = 0x18 then s.logHead.setWidth 64
  else if off = 0x100 then n (s.pstate.toNat + s.effective * 2 ^ 8)
  else if 0x108 ≤ off ∧ off < 0x128 then (s.die ((off - 0x108) / 8)).temp.setWidth 64
  else if off = 0x200 then s.astbase
  else if off = 0x208 then s.jqtab
  else if off = 0x210 then s.hrq
  else if 0x300 ≤ off ∧ off < 0x320 then n (s.die ((off - 0x300) / 8)).faultDepth
  else if 0x320 ≤ off ∧ off < 0x340 then (s.die ((off - 0x320) / 8)).ingBase
  else if 0x360 ≤ off ∧ off < 0x3A0 then (s.pmodes.getD ((off - 0x360) / 8) 0).setWidth 64
  else if 0x3A0 ≤ off ∧ off < 0x3C0 then n (s.die ((off - 0x3A0) / 8)).igDrop
  else if off = 0x400 then s.mbtx.setWidth 64
  else if off = 0x408 then s.mbrx.setWidth 64
  else if 0x500 ≤ off ∧ off < 0x580 then s.faultRegister ((off - 0x500) / 32) ((off - 0x500) / 8 % 4)
  else if 0x100000 ≤ off ∧ off < 0x100000 + 0x100 * 160 then
    let c := s.core ((off - 0x100000) / 256)
    match off % 256 with
    | 0 => packPool c.poolMin
    | 8 => packPool c.poolCap
    | 16 => c.sconf
    | _ => 0
  else if 0x200000 ≤ off ∧ off < 0x200000 + 8 * 71 then n (s.lifetime ((off - 0x200000) / 8))
  else if 0x300000 ≤ off ∧ off < 0x310000 then
    let e := s.bootLog.getD ((off - 0x300000) / 16) 0
    if off % 16 = 0 then e.setWidth 64 else (e >>> 64).setWidth 64
  else if 0x400000 ≤ off ∧ off < 0x401000 then
    let x := s.slots.getD ((off - 0x400000) / 64) {}
    match off % 64 with
    | 0 => x.entry.setWidth 64
    | 8 => (x.entry >>> 64).setWidth 64
    | 24 => n x.status
    | _ => 0
  else if 0x500000 ≤ off ∧ off < 0x501000 then windowWord s.mailIn (off - 0x500000)
  else if 0x501000 ≤ off ∧ off < 0x502000 then windowWord s.mailOut (off - 0x501000)
  else if off = 0x600000 then n (if s.busy then 256 else 0)
  else if off = 0x600008 then s.arg0
  else if off = 0x600010 then s.arg1
  else if off = 0x600018 then s.result
  else 0

/-! ### Registers with behaviour of their own -/

/-- PSTATE (R354): REQ. -/
def State.writePstate (s : State) (v : Word) : State := { s with pstate := v.setWidth 2 }

def execPstateWrite (v : Word) (s : State) : Out := .next (s.writePstate v)

/-- PMODE (R337, R438): taken only while the link is down; MODE 3 is ignored. A port that failed retrains took down may
train again. -/
def State.writePmode (s : State) (p : Nat) (v : Word) : State :=
  let x := s.links.getD p {}
  if p ≥ 8 ∨ x.up ∨ v.setWidth 2 = 3#2 then s
  else { s with pmodes := s.pmodes.put p (v.setWidth 2) 0, links := s.links.put p { x with failed := 0 } {} }

def execPmodeWrite (port : Nat) (v : Word) (s : State) : Out := .next (s.writePmode port v)

/-- POOLMIN or POOLCAP (R330): ignored in full where a field would exceed 4,096, a minimum its cap, or the sum of the
minimums 4,096. -/
def State.writePool (s : State) (c : Nat) (cap : Bool) (v : Word) : State :=
  let new := (List.range 4).map fun i => slice v.toNat (16 * i) 16
  let k := s.core c
  let mins := if cap then k.poolMin else new
  let caps := if cap then new else k.poolCap
  if c < 160 ∧ (new.all fun x => decide (x ≤ 4096)) ∧ ((mins.zip caps).all fun p => decide (p.1 ≤ p.2)) ∧ mins.sum ≤ 4096 then
    s.onCore c fun k => { k with poolMin := mins, poolCap := caps }
  else s

def execPoolWrite (core : Nat) (cap : Bool) (v : Word) (s : State) : Out := .next (s.writePool core cap v)

/-- SCONF (R89, R356): writing 1 to bit 0 clears the count. -/
def State.clearSconf (s : State) (c : Nat) (v : Word) : State :=
  if c < 160 ∧ v.getLsbD 0 then s.onCore c fun k => { k with sconf := 0 } else s

def execSconfClear (core : Nat) (v : Word) (s : State) : Out := .next (s.clearSconf core v)

/-- IGDROP (R439): writing 1 to bit 0 clears the count. -/
def State.clearIgdrop (s : State) (d : Nat) (v : Word) : State :=
  if d < 4 ∧ v.getLsbD 0 then s.onDie d fun x => { x with igDrop := 0 } else s

def execIgdropClear (die : Nat) (v : Word) (s : State) : Out := .next (s.clearIgdrop die v)

/-- FBGET (R412): taken within the filled range only. -/
def State.writeFbget (s : State) (d : Nat) (v : Word) : State :=
  let x := s.die d
  let n := v.setWidth 32
  if d < 4 ∧ (n - x.fbGet).toNat ≤ (x.fbPut - x.fbGet).toNat then s.onDie d fun x => { x with fbGet := n } else s

def execFbgetWrite (die : Nat) (v : Word) (s : State) : Out := .next (s.writeFbget die v)

/-- FAULTDEPTH and FBBASE (R412): taken only while the ring is empty; a depth outside 8 to 4,096 is ignored. -/
def State.writeFaultConfig (s : State) (d : Nat) (base : Bool) (v : Word) : State :=
  let x := s.die d
  if 4 ≤ d ∨ x.fbPut ≠ x.fbGet then s
  else if base then s.onDie d fun x => { x with fbBase := slice v.toNat 12 40 * 4096 }
  else if 8 ≤ v.toNat ∧ v.toNat ≤ 4096 then s.onDie d fun x => { x with faultDepth := v.toNat }
  else s

def execFaultBufferConfigWrite (die : Nat) (base : Bool) (v : Word) (s : State) : Out :=
  .next (s.writeFaultConfig die base v)

/-- DROPPED (R412): writing 1 clears it and DCNT. -/
def State.clearDropped (s : State) (d : Nat) (v : Word) : State :=
  if d < 4 ∧ v.getLsbD 0 then s.onDie d fun x => { x with dropped := false, dcnt := 0 } else s

def execDroppedClear (die : Nat) (v : Word) (s : State) : Out := .next (s.clearDropped die v)

/-! ### The lifetime counters -/

/-- The counts go to the persistent store (R357). -/
def State.flushCounts (s : State) : State :=
  { s with
    stored := (distinct s.counts.keys).foldl (fun t i => t.put i (s.lifetime i) 0) s.stored
    counts := [], flushed := s.poweredOn }

/-- COUNTER_FLUSH (R357): every 60 s. -/
def execCounterFlush (s : State) : Out :=
  .next (if s.flushed + 60000000000 ≤ s.poweredOn then s.flushCounts else s)

/-- VOLTAGE_DROOP (Table 14-5). -/
def execVoltageDroop (die severity : Nat) (s : State) : Out :=
  .next (if die < 4 ∧ severity < 4 then s.count (16 + 4 * die + severity) 1 else s)

/-- The bin of the temperature histogram for a temperature in units of 1/16 °C (Table 14-5). -/
def tempBin (t : BitVec 16) : Nat := min 15 (((t.toInt / 16).toNat - 40) / 5)

/-- Seconds that pass count in the bin of the hottest junction. -/
def State.countSeconds (s : State) (n : Nat) : State :=
  if n = 0 then s
  else s.count (maxOf [0, 1, 2, 3] fun d => tempBin (s.die d).temp) n

/-! ### Machine errors -/

def errorClass : MachineErrorClass → Nat
  | .controlState => 0
  | .overTemperature => 1
  | .edgeDown => 2

/-- A machine error (R446): the device stops, every accepted job that has not completed fails with 0x021F, whose error record
names class and die (Table 21-1), the host is told, and the counts are flushed. -/
def State.machineError (s : State) (cls : Nat) (die : Nat) : State :=
  if s.stopped.isSome then s
  else
    let open' := (s.jobs.filter fun p => p.2.phase.unfinished).map Prod.fst
    let s := s.each open' fun s j =>
      let x := s.job j
      let e : ErrorRecord := { code := 0x021F, source := 4, core := 0, pc := 0, task := 0, info0 := cls, info1 := die }
      let s := s.errorRecord x.asid x.card.addr x.card.eq e
      (s.endJob j .failed 0x021F).jobRecord x.asid x.card.addr x.card.sq 3 0x021F 0x021F
    let s := s.hostRecord (3 + cls * 2 ^ 8 + die % 4 * 2 ^ 16 + (Config.detail s.freeCtr).toNat * 2 ^ 64 +
      s.time.toNat * 2 ^ 128)
    ({ s with stopped := some (cls, die), bootReady := false }.signal 3).flushCounts

def execMachineError (cls : MachineErrorClass) (die : Nat) (s : State) : Out :=
  .next (if die < 4 then s.machineError (errorClass cls) die else s)

/-! ### Temperature -/

/-- Thermal thresholds in units of 1/16 °C: 95 °C and 105 °C (R355). -/
def threshold (floor : Nat) : Int := if floor = 1 then 1520 else 1680

/-- The floor that a temperature raises (R355). -/
def floorOf (t : Int) : Nat := if threshold 2 ≤ t then 2 else if threshold 1 ≤ t then 1 else 0

/-- A die's temperature 5 °C below the threshold of its floor begins the 10 ms of R355, or ends them. -/
def DieState.cooling (x : DieState) (time : Nat) : DieState :=
  if x.floor = 0 ∨ threshold x.floor - 80 < x.temp.toInt then { x with cool := none }
  else if x.cool.isSome then x else { x with cool := some time }

/-- THERMAL_FLOOR_RISE (R355): a die (R13) reports its temperature. -/
def execThermalFloorRise (die : Nat) (temp : BitVec 16) (s : State) : Out :=
  let s' := s.onDie die fun x => { x with temp, floor := max x.floor (floorOf temp.toInt) }.cooling s.poweredOn
  .next (if 4 ≤ die then s else if 1840 < temp.toInt then s'.machineError 1 die else s')

/-- THERMAL_FLOOR_FALL (R355): 10 ms below the threshold lower the floor by one state. -/
def execThermalFloorFall (die : Nat) (s : State) : Out :=
  .next (match (s.die die).cool with
    | some t =>
      if t + 10000000 ≤ s.poweredOn then
        s.onDie die fun x => { x with floor := x.floor - 1, cool := none }.cooling s.poweredOn
      else s
    | none => s)

/-! ### Soft errors -/

/-- A corrected error of a structure of a die (Table 14-5). -/
def State.corrected (s : State) (structure' die : Nat) : State := s.count (32 + 4 * structure' + die % 4) 1

/-- The die of a block. -/
def State.blockDie (s : State) (b : Nat) : Nat := dieOfCore (s.block b).core

/-- Poison of home memory at a unit (R419). -/
def State.poisonHome (s : State) (unit code : Nat) : State := { s with poison := s.poison.insert unit code }

/-- SOFT_ERROR (R445, Table 21-9): corrected and counted, or poison, or for copies a line or entry removed (which, is the
device's: log entry 3); in control state a machine error. -/
def State.softError (s : State) (place : SoftErrorPlace) (fixed : Bool) : State :=
  match place with
  | .register w l r =>
    if fixed then s.corrected 0 (dieOfCore (s.coreOf (s.wave w)))
    else s.onWave w fun x => if x.rpoison.contains (l, r) then x else { x with rpoison := x.rpoison ++ [(l, r)] }
  | .scratch b k =>
    if fixed then s.corrected 0 (s.blockDie b)
    else s.onBlock b fun x => if x.poison.contains k then x else { x with poison := x.poison ++ [k] }
  | .tile b t row col =>
    if fixed then s.corrected 0 (s.blockDie b)
    else s.onBlock b fun x => { x with matrix := { x.matrix with poison := x.matrix.poison ++ [(t, 64 * row + col)] } }
  | .cache d =>
    let keep (t : Tab (List Byte)) : Tab (List Byte) := t.filter fun p => !s.choose p.1 6
    let one (k : Nat × CoreState) : Nat × CoreState :=
      if dieOfCore k.1 = d then (k.1, { k.2 with l1 := keep k.2.l1, lookup := keep k.2.lookup }) else k
    let s' := { s with cores := s.cores.map one }
    (if fixed then s else s'.onDie d fun x => { x with rdc := keep x.rdc }).corrected 0 d
  | .l2Clean d =>
    (if fixed then s
      else { s with cxlClean := s.cxlClean.filter fun x => !(homeDie (x.1 * 128) == some d && s.choose x.1 6) }).corrected 1 d
  | .l2Dirty pa =>
    let a := s.served pa.toNat
    match homeDie a with
    | some d => if fixed then s.corrected 1 d else s.poisonHome (a / 32) 2
    | none => s
  | .hbm pa =>
    match regionOf pa.toNat, homeDie pa.toNat with
    | some .hbm, some d => if fixed then s.corrected 3 d else s.poisonHome (pa.toNat / 32) 3
    | _, _ => s
  | .cxl pa =>
    match regionOf pa.toNat with
    | some (.cxl n) => if fixed then s.count (67 + n) 1 else s.poisonHome (pa.toNat / 64 * 2) 4
    | _ => s
  | .tray cl =>
    if fixed then s.corrected 2 ((s.cluster cl).group / 5)
    else s.onCluster cl fun x => { x with sift := x.sift.map fun f => { f with poison := true } }
  | .tlb d =>
    let keep (l : List Leaf) : List Leaf := l.filter fun x => !s.choose x.va 6
    let one (k : Nat × CoreState) : Nat × CoreState :=
      if dieOfCore k.1 = d then (k.1, { k.2 with tlb := keep k.2.tlb }) else k
    ({ s with cores := s.cores.map one }.onDie d fun x => { x with l2tlb := keep x.l2tlb }).corrected 0 d
  | .control d => s.machineError 0 d

/-- The package has the named unit (R13). -/
def placeExists : SoftErrorPlace → Bool
  | .cache d | .l2Clean d | .tlb d | .control d => decide (d < 4)
  | _ => true

def execSoftError (place : SoftErrorPlace) (correctable : Bool) (s : State) : Out :=
  .next (if placeExists place then s.softError place correctable else s)

/-! ### Power gating -/

/-- A core holds task-queue entries, or work (R321, R435). -/
def State.coreBusy (s : State) (c : Nat) : Bool :=
  let k := s.core c
  !k.queue.isEmpty || !k.commit.isEmpty || !(s.blocksOn c).isEmpty || !(s.blocksBusy c).isEmpty ||
    s.steals.any fun p => p.2.victim == c && p.2.chunk.isSome

/-- CORE_POWER_GATING (R435): a core that holds entries or work is not gated. A gated core keeps nothing in its
caches. -/
def execCorePowerGating (core : Nat) (gate : Bool) (s : State) : Out :=
  .next (if core ≥ 160 then s
    else if !gate then s.onCore core fun k => { k with gated := false }
    else if s.coreBusy core then s
    else s.onCore core fun k => { k with gated := true, l1 := [], lookup := [], tlb := [], lastJob := none })

end Sys2Proof.Machine
end

