-- ==== Sys2Proof/Machine/Fabric.lean ====
section
/-! DEFINITION. Links (R337, R438, R439), time (R341, R342), accesses of peer devices (R338, R339), replicated devices
(R349, R437). -/
namespace Sys2Proof.Machine

/-! ### Links -/

def State.link (s : State) (l : Link) : LinkState :=
  match l with
  | .port p => s.links.getD p {}
  | .edge e => s.edges.getD e {}

def State.setLink (s : State) (l : Link) (x : LinkState) : State :=
  match l with
  | .port p => { s with links := s.links.put p x {} }
  | .edge e => { s with edges := s.edges.put e x {} }

/-- The link's number in a kind 7 host record, and its lifetime counter (Tables 14-5 and 21-3). -/
def linkNumber : Link → Nat × Nat
  | .port p => (p, 48 + p)
  | .edge e => (8 + e, 56 + e)

/-- Some port's link is up in a mode (Table 13-4). -/
def State.portUp (s : State) (mode : BitVec 2) : Bool :=
  (List.range 8).any fun p => (s.links.getD p {}).up && s.pmodes.getD p 0 == mode

/-- A kind 7 host record (R434). -/
def State.linkEvent (s : State) (l : Link) (event : Nat) : State :=
  s.hostRecord (7 + (linkNumber l).1 * 2 ^ 8 + event * 2 ^ 16 + s.time.toNat * 2 ^ 128)

/-- FLIT_CRC_ERROR (R438): the flit is sent again; 16 errors within 1 ms, or four of one flit, start a retrain. -/
def execFlitCrcError (link : Link) (flit : Nat) (s : State) : Out :=
  let x := s.link link
  let errors := (x.errors.filter fun t => decide (s.poweredOn < t + 1000000)) ++ [s.poweredOn]
  let n := (Tab.getD (α := Nat) x.flits flit 0) + 1
  .next (if !x.up || x.training then s
    else if 16 ≤ errors.length ∨ 4 ≤ n then s.setLink link { x with errors := [], flits := [], training := true }
    else s.setLink link { x with errors, flits := Tab.insert (α := Nat) x.flits flit n })

/-- RETRAIN_DONE (R438, R439): a retrain ends; the third failure in a row takes the port down, which for an edge is a
machine error. -/
def execRetrainDone (link : Link) (ok : Bool) (s : State) : Out :=
  let x := s.link link
  .next (if !x.training then s
    else
      let s := s.count (linkNumber link).2 1
      if ok then (s.setLink link { x with training := false, failed := 0 }).linkEvent link 0
      else if x.failed < 2 then s.setLink link { x with failed := x.failed + 1 }
      else
        let s := (s.setLink link { x with training := false, up := false, failed := 3 }).linkEvent link 1
        match link with
        | .port _ => s
        | .edge e => s.machineError 2 ([0, 0, 1, 2].getD e 0))

/-- PORT_LINK_UP (R337): the link of an enabled port comes up. A port that failed retrains took down waits for a write of
PMODE (R438). -/
def execPortLinkUp (port : Nat) (s : State) : Out :=
  let x := s.links.getD port {}
  .next (if port ≥ 8 ∨ x.up ∨ s.pmodes.getD port 0 = 0 ∨ 3 ≤ x.failed then s
    else { s with links := s.links.put port { up := true } {} })

/-! ### Time -/

/-- The counter is `d` nanoseconds behind the grandmaster (R342): lock, with a forward step at first lock or for more than
1 ms; the rest is slewed. -/
def State.discipline (s : State) (d : Int) : State :=
  if 0 < d ∧ (!s.lockedOnce ∨ 1000000 < d) then
    { s with
      time := laterTime s.time d.toNat
      locked := true, lockedOnce := true, offset := 0, slewRest := 0 }
  else { s with locked := true, lockedOnce := true, offset := d }

/-- A Sync's time of sending is known (R341): with the path delay it gives the offset. A step of the counter makes the times
of the Sync useless. -/
def State.synced (s : State) (origin receipt : Word) : State :=
  match s.ptp.delay with
  | some delay =>
    let s' := s.discipline (origin.toNat + delay - receipt.toNat)
    if s'.time = s.time then s' else { s' with ptp := { s'.ptp with sync := none, sent := none } }
  | none => s

/-- What the follower does with a message of the best master (R341): announcements choose it; the others give the times t1 to
t4 of the end-to-end mechanism, whose mean path delay is ((t2 - t1) + (t4 - t3)) / 2 (log entry 9). -/
def State.follow (s : State) (source : Nat) (b : PtpBody) : State :=
  let chosen := (s.ptp.best.map Prod.snd) == some source
  match b with
  | .announce rank =>
    if (s.ptp.best.map fun x => decide (x.1 ≤ rank)).getD false && !chosen then s
    else if chosen then { s with ptp := { s.ptp with best := some (rank, source) } }
    else { s with ptp := { best := some (rank, source) } }
  | .sync seq origin =>
    if !chosen then s
    else
      let t2 := s.time
      let s := { s with ptp := { s.ptp with sync := some (seq, origin, t2) } }
      match origin with
      | some t1 => s.synced t1 t2
      | none => s
  | .followUp seq t1 =>
    match s.ptp.sync with
    | some (n, none, t2) =>
      if chosen ∧ n = seq then { s with ptp := { s.ptp with sync := some (seq, some t1, t2) } }.synced t1 t2 else s
    | _ => s
  | .delayResp seq t4 =>
    match s.ptp.sync, s.ptp.sent with
    | some (_, some t1, t2), some (n, t3) =>
      if chosen ∧ n = seq then
        let delay : Int := (((t2.toNat : Int) - t1.toNat) + ((t4.toNat : Int) - t3.toNat)) / 2
        let s' := { s with ptp := { s.ptp with sent := none, delay := some delay } }
        if s.locked then s' else s'.synced t1 t2
      else s
    | _, _ => s

/-- PTP_MESSAGE (R340 to R342): taken at an Ethernet-mode port, in the configured domain. -/
def execPtpMessage (m : PtpMessage) (s : State) : Out :=
  .next (if (s.links.getD m.port {}).up && s.pmodes.getD m.port 0 == 2 && m.domain == s.domain then s.follow m.source m.body
    else s)

/-- PTP_LOCK_LOSS (R342): the counter runs at the nominal rate. -/
def execPtpLockLoss (s : State) : Out := .next { s with locked := false, offset := 0, slewRest := 0, ptp := {} }

/-- PTP_DELAY_REQUEST (R340, R341): the one kind of frame that an Ethernet port transmits. -/
def execPtpDelayRequest (port : Nat) (s : State) : Out :=
  .next (if (s.links.getD port {}).up && s.pmodes.getD port 0 == 2 then
    { s with dreqs := s.dreqs + 1, ptp := { s.ptp with sent := some (BitVec.ofNat 16 s.dreqs, s.time) } }
  else s)

/-! ### Peer devices -/

/-- An answer or message to a peer: kind 0 the value of a load or an atomic, 1 a digest (step, digest). -/
def State.send (s : State) (peer : BitVec 10) (kind value : Nat) : State :=
  { s with outbox := s.outbox ++ [(peer, kind, value)] }

/-- PEER_ACCESS (R338, R339): served at the home slice of this device's HBM. It comes in at a port in device-fabric mode
(R340). -/
def execPeerAccess (peer : BitVec 10) (a : PeerAccess) (s : State) : Out :=
  .next (if !s.portUp 1 then s else match a with
    | .load off n => s.send peer 0 (s.homeNat off.toNat n)
    | .store off data => s.writeHomes (data.mapIdx fun i b => ((off.toNat + i) % 2 ^ 39, b))
    | .atomic off opn wide v c =>
      let (old, s) := s.atomicHome { lane := 0, pa := off.toNat, ty := if wide then 8 else 4, opn := opn.toNat, v, c }
      s.send peer 0 old)

/-! ### Replicated devices -/

/-- The digest of a step's committed stores (R349): by task, then by line; address, byte mask, data. -/
def stepDigest (j : Job) : Nat :=
  sha384 ((sortBy (fun x => x.1 * 2 ^ 64 + x.2.1) j.stores).flatMap fun x =>
    bytesOfNat 8 x.2.1 ++ bytesOfNat 16 (maskOf (x.2.2.map Prod.fst)) ++ (List.range 128).map fun i => x.2.2.getD i 0)

/-- The completion record of a job (Table 12-7), in place of which a step may get KIND 7 or 8 (Table 21-2). -/
def State.completionRecord (s : State) (j kind info : Nat) : State :=
  let x := s.job j
  s.jobRecord x.asid x.card.addr x.card.cq kind info 0

/-- The tasks that a completion record reports: replica re-runs are among them. -/
def Job.tasksDone (j : Job) : Nat := j.tasks + j.reruns

/-- A step's host record, kind 5 or 6 (R434). -/
def State.peerRecord (s : State) (g : Group) (asid step kind : Nat) : State :=
  s.hostRecord (kind + g.peer.toNat * 2 ^ 16 + step * 2 ^ 32 + asid * 2 ^ 64 + s.time.toNat * 2 ^ 128)

/-- The pending step of a group is decided by the peer's digest (R349, R437). -/
def State.decideStep (s : State) (asid digest : Nat) : State :=
  match s.groups.find asid with
  | none => s
  | some g =>
    match g.pending with
    | none => s
    | some (step, j, _) =>
      let s := { s with groups := s.groups.insert asid { g with
        pending := none, decided := step, arrived := g.arrived.filter fun a => decide (step < a.1) } }
      let s := s.onJob j fun x => { x with phase := .completed }
      if digest = stepDigest (s.job j) then s.completionRecord j 1 (s.job j).tasksDone
      else
        let s := ((s.completionRecord j 7 step).peerRecord g asid step 5).count 65 1
        { s with groups := s.groups.modify asid fun g => { g with stopped := true } }

/-- A step job of a group comes to its completion point (R349): its digest goes to the peer over the device fabric (R21); with
no link there it is lost (log entry 85). -/
def State.holdStep (s : State) (asid j : Nat) (g : Group) : State :=
  let x := s.job j
  let s := s.onJob j fun x => { x with phase := .held }
  let s := if s.peerDown g.peer.toNat then s else s.send g.peer 1 (x.step * 2 ^ 384 + stepDigest x)
  let s := { s with groups := s.groups.insert asid { g with pending := some (x.step, j, s.time.toNat) } }
  match g.arrived.find? fun a => a.1 == x.step with
  | some a => s.decideStep asid a.2
  | none => s

/-- REPLICA_DIGEST (R349, R437): over the device fabric (R21) a digest arrives; one for a step already decided is
discarded. -/
def execReplicaDigest (asid : BitVec 14) (step : Nat) (digest : BitVec 384) (s : State) : Out :=
  .next (if !s.portUp 1 then s else match s.groups.find asid.toNat with
    | none => s
    | some g =>
      if !g.enabled then s
      else match g.pending with
        | some (n, _, _) =>
          if n = step then s.decideStep asid.toNat digest.toNat
          else if n < step then
            { s with groups := s.groups.insert asid.toNat { g with arrived := g.arrived ++ [(step, digest.toNat)] } }
          else s
        | none =>
          let decided := s.jobs.any fun p => p.2.asid == asid && p.2.card.step && p.2.step == step && !p.2.phase.active
          if decided then s
          else { s with groups := s.groups.insert asid.toNat { g with arrived := g.arrived ++ [(step, digest.toNat)] } })

/-- The peer has sent no digest for `limit` ns (R437): the pending step is unconfirmed. -/
def State.expireStep (s : State) (asid limit : Nat) : State :=
  match s.groups.find asid with
  | none => s
  | some g =>
    match g.pending with
    | some (step, j, t) =>
      if s.time.toNat < t + limit then s
      else
        let s := { s with groups := s.groups.insert asid { g with pending := none, decided := step, stopped := true } }
        let s := s.onJob j fun x => { x with phase := .completed }
        (s.completionRecord j 8 step).peerRecord g asid step 6
    | none => s

/-- REPLICA_DIGEST_TIMEOUT (R437): 100 ms. -/
def execReplicaDigestTimeout (asid : BitVec 14) (s : State) : Out := .next (s.expireStep asid.toNat 100000000)

end Sys2Proof.Machine
end

