-- ==== Sys2Proof/Machine/Ingest.lean ====
section
/-! DEFINITION. Media ingest (R343 to R348, R439 to R443): descriptors, packets, frames, records. -/
namespace Sys2Proof.Machine

/-! ### Descriptors -/

/-- A field of a stream descriptor (Table 13-7). -/
def dfield (d : BitVec 512) (p n : Nat) : Nat := slice d.toNat p n

def dSlots (d : BitVec 512) : Nat := dfield d 160 12
def dSlotSize (d : BitVec 512) : Nat := dfield d 128 32
def dWidth (d : BitVec 512) : Nat := dfield d 176 16
def dHeight (d : BitVec 512) : Nat := dfield d 192 16
def dGroupLines (d : BitVec 512) : Nat := dfield d 208 16
def dStride (d : BitVec 512) : Nat := dfield d 224 32
def dFormat (d : BitVec 512) : Nat := dfield d 360 4
def dKind (d : BitVec 512) : Nat := dfield d 364 2
def dAsid (d : BitVec 512) : BitVec 14 := BitVec.ofNat 14 (dfield d 448 14)

/-- The fields of a descriptor with what Table 13-7 and Table 13-6 admit, by their lowest bit. -/
def descriptorChecks (d : BitVec 512) : List (Nat × Bool) :=
  let f := dfield d
  let h := dHeight d
  [ (0, f 0 64 % 128 == 0),
    (128, decide (1024 + h * dStride d ≤ dSlotSize d) && dSlotSize d % 128 == 0),
    (160, dSlots d != 0),
    (172, f 172 4 == 0),
    (176, match dKind d with
      | 1 => decide (1 ≤ dWidth d ∧ dWidth d ≤ 64)
      | 2 => dWidth d == 0
      | _ => true),
    (192, decide (1 ≤ h ∧ h ≤ 6144)),
    (208, decide (1 ≤ dGroupLines d ∧ dGroupLines d ≤ h)),
    (224, dStride d % 128 == 0),
    (317, f 317 3 == 0),
    (359, f 359 1 == 0),
    (360, match dKind d with
      | 0 => decide (dFormat d ≤ 5)
      | 1 => decide (dFormat d ≤ 1)
      | _ => dFormat d == 0),
    (364, dKind d != 3),
    (369, decide (f 369 2 ≤ 1)),
    (371, f 371 13 == 0),
    (462, f 462 2 == 0),
    (464, f 464 48 == 0) ]

/-- The queue of a descriptor is well formed with records of 32 bytes (LGSZ 5 in Table 13-7), as far as its control block can be read now (log
entry 45). -/
def State.ingestQueueOk (s : State) (die : Nat) (d : BitVec 512) : Bool :=
  match s.scheduler (dAsid d) die with
  | none => true
  | some q => match s.walk q.asid q.root (dfield d 64 64) with
    | .leaf l _ => (parseQcb (s.homeNat (l.addr (dfield d 64 64)) 64)).any fun x => x.lgsz == 5
    | _ => true

/-- INGSET (R344, R434): the descriptor is read; enabled, its stream may begin; one that breaks the table is reported. -/
def State.setIngest (s : State) (die : Nat) (v : Word) : State :=
  let k := v.toNat % 128
  let at' := (s.die die).ingBase.toNat % 2 ^ 52 + 64 * k
  let d := BitVec.ofNat 512 (s.tableNat at' 64)
  if 4 ≤ die then s
  else if !d.getLsbD 368 then s.onDie die fun x => { x with ingest := x.ingest.remove k }
  else match (descriptorChecks d ++ [(64, s.ingestQueueOk die d)]).find? fun (c : Nat × Bool) => !c.2 with
    | some c =>
      (s.onDie die fun x => { x with ingest := x.ingest.remove k }).hostRecord
        (4 + die * 2 ^ 8 + k * 2 ^ 16 + c.1 * 2 ^ 32 + s.time.toNat * 2 ^ 128)
    | none => s.onDie die fun x => { x with ingest := x.ingest.insert k { desc := d } }

def execIngsetWrite (die : Nat) (v : Word) (s : State) : Out := .next (s.setIngest die v)

/-! ### Times -/

/-- The RTP clock of a stream (R348). -/
def rtpRate (d : BitVec 512) : Nat := if dKind d = 1 then 48000 else 90000

/-- The deadline of a frame (R348): a time before the epoch where the greatest such n is negative. -/
def frameDeadline (d : BitVec 512) (rtpTs : BitVec 32) (first : Word) : Int :=
  let r := rtpRate d
  let top : Int := (first.toNat * r / 1000000000 : Nat)
  let n := top - (top - rtpTs.toNat) % 2 ^ 32
  n * 1000000000 / r + dfield d 416 32

/-! ### Lines -/

/-- Pixels and bytes of a pgroup (Table 13-7, FMT of video). -/
def pgroup (fmt : Nat) : Nat × Nat := [(2, 5), (2, 4), (2, 6), (1, 3), (4, 15), (4, 15)].getD fmt (1, 1)

/-- The bytes of a line that the format defines. -/
def lineLength (d : BitVec 512) : Nat :=
  let (px, pb) := pgroup (dFormat d)
  (dWidth d + px - 1) / px * pb

/-- The byte offset of line `l` in a slot. -/
def lineOffset (d : BitVec 512) (l : Nat) : Nat := 1024 + l * dStride d

/-- The virtual address of a frame's slot. -/
def slotAddr (d : BitVec 512) (slot : Nat) : Nat := dfield d 0 64 + slot * dSlotSize d

/-- The ingest engine of a die as a requester (R345, R443). -/
def State.ingestEngine (s : State) (die : Nat) (d : BitVec 512) : Option Engine :=
  (s.scheduler (dAsid d) die).map fun q => { q, core := none, job := 0 }

/-- Bytes written at a virtual address by the ingest engine: whether they were; a fault is recorded, and the write is
not retried (R443). A write over a fabric port that is down is lost, as an engine's (R345, R438), with no job to fail for it
(log entry 85). -/
def State.ingestWrite (s : State) (die : Nat) (d : BitVec 512) (va : Nat) (bytes : List Byte) : Bool × State :=
  match s.ingestEngine die d with
  | none => (false, s)
  | some e =>
    match s.translateAll e.q (pagesOf va bytes.length) .write with
    | (.ok pages, s) => (true, (s.writeOut (bytes.mapIdx fun i b => (pageAddr pages (va + i), b))).2)
    | (_, s) => (false, s)

/-- Every byte up to `n` lies in one of the ranges. -/
def coversAll (ranges : List (Nat × Nat)) (n : Nat) : Bool :=
  (sortBy Prod.fst ranges).foldl (fun (up : Nat) r => if r.1 ≤ up then max up r.2 else up) 0 ≥ n

/-- A discarded packet or frame is counted (R439). -/
def State.dropPacket (s : State) (die : Nat) : State :=
  s.onDie die fun x => { x with igDrop := min (2 ^ 64 - 1) (x.igDrop + 1) }

def State.stream (s : State) (die k : Nat) : Option Stream := (s.die die).ingest.find k

def State.onStreamOf (s : State) (die k : Nat) (f : Stream → Stream) : State :=
  s.onDie die fun x => { x with ingest := x.ingest.modify k f }

def State.onFrame (s : State) (die k : Nat) (f : Frame → Frame) : State :=
  s.onStreamOf die k fun x => { x with frame := x.frame.map f }

/-! ### Records and closing -/

/-- An ingest record (Table 13-9) is enqueued (R346). -/
def State.ingestRecord (s : State) (die k : Nat) (x : Stream) (f : Frame) (kind status lg : Nat) (arrive : Word) : State :=
  s.postRecord (dAsid x.desc) (BitVec.ofNat 64 (dfield x.desc 64 64)) 5
    (kind + status * 2 ^ 8 + k * 2 ^ 16 + die * 2 ^ 24 + f.number % 2 ^ 32 * 2 ^ 32 + f.slot * 2 ^ 64 + lg * 2 ^ 80 +
      f.rtpTs.toNat * 2 ^ 96 + arrive.toNat * 2 ^ 128 + (BitVec.ofInt 64 f.deadline).toNat * 2 ^ 192) die

/-- The timestamps of closed frames with one more, while they are less than half of the timestamps' range behind it (log entry
45). -/
def noteClosed (closed : List (BitVec 32)) (ts : BitVec 32) : List (BitVec 32) :=
  ts :: closed.filter fun t => t != ts && decide ((ts - t).toNat < 2 ^ 31)

/-- A frame closes (R346, R440, R441): missing lines are filled, the header is written with OWN := 1, and the record
follows. A frame that was not stored had its record when it was refused. -/
def State.closeFrame (s : State) (die k status : Nat) : State :=
  match s.stream die k with
  | none => s
  | some x =>
    match x.frame with
    | none => s
    | some f =>
      let shut (s : State) : State := s.onStreamOf die k fun y => { y with frame := none, closed := noteClosed y.closed f.rtpTs }
      if !f.stored then shut s
      else
        let d := x.desc
        let missing := (List.range (dHeight d)).filter fun l => !f.present.contains l
        let fill := (List.range (dStride d)).map fun i => BitVec.ofNat 8 (dfield d (384 + 8 * (i % 4)) 8)
        let (bad, s) :=
          if dfield d 369 2 = 1 then
            missing.foldl (fun (r : Bool × State) l =>
              let (ok, s) := r.2.ingestWrite die d (slotAddr d f.slot + lineOffset d l) fill
              (r.1 || !ok, s)) (f.failedTr, s)
          else (f.failedTr, s)
        let status := if bad then 5 else if status = 0 ∧ !missing.isEmpty then 3 else status
        let header := 1 + status * 2 ^ 8 + missing.length * 2 ^ 112 + f.number % 2 ^ 32 * 2 ^ 128 + f.rtpTs.toNat * 2 ^ 160 +
          f.first.toNat * 2 ^ 192 + f.last.toNat * 2 ^ 256 + maskOf f.present * 2 ^ 2048
        let (ok, s) := s.ingestWrite die d (slotAddr d f.slot) (bytesOfNat 1024 header)
        let s := s.ingestRecord die k x f 2 (if ok then status else 5) missing.length f.last
        shut s

/-- A packet opens a frame (R346, R442): stored where its slot's OWN reads 0; else its record says STATUS 1. An OWN that reads
as poison does not read 0. -/
def State.openFrame (s : State) (die k : Nat) (rtpTs : BitVec 32) (seq : Nat) : State :=
  match s.stream die k with
  | none => s
  | some x =>
    let d := x.desc
    let slot := x.count % dSlots d
    let (own, failed, s) :=
      match s.ingestEngine die d with
      | none => (0, true, s)
      | some e =>
        match s.translateAll e.q [slotAddr d slot] .read with
        | (.ok pages, s) =>
          let pa := pageAddr pages (slotAddr d slot)
          (if (s.poisonRead pa).isSome then 1 else (s.home pa).toNat, false, s)
        | (_, s) => (0, true, s)
    let f : Frame := { number := x.count, slot := slot, rtpTs := rtpTs, first := s.time, last := s.time,
                       deadline := frameDeadline d rtpTs s.time, stored := own == 0, failedTr := failed, nextSeq := seq }
    let s := s.onStreamOf die k fun y => { y with frame := some f, count := y.count + 1, resumed := false }
    if own = 0 then s else s.ingestRecord die k x f 2 1 (dHeight d) s.time

/-- Lines have become present: their groups that are complete are reported (R346). -/
def State.reportGroups (s : State) (die k : Nat) : State :=
  match s.stream die k with
  | none => s
  | some x =>
    match x.frame with
    | none => s
    | some f =>
      let d := x.desc
      let lgs := dGroupLines d
      let all := List.range ((dHeight d + lgs - 1) / lgs)
      let full := all.filter fun g => !f.groups.contains g &&
        ((List.range lgs).map fun i => g * lgs + i).all fun l => decide (dHeight d ≤ l) || f.present.contains l
      let s := s.each full fun s g => s.ingestRecord die k x f 1 0 g s.time
      s.onFrame die k fun f => { f with groups := f.groups ++ full }

/-- Bytes of a packet are written into line `l` at an offset (R345); `whole` says that the line is then present. A place
outside the frame's lines is discarded and counted. -/
def State.writeLine (s : State) (die k l off : Nat) (bytes : List Byte) (whole : Bool) : State :=
  match s.stream die k with
  | none => s
  | some x =>
    let d := x.desc
    let limit := if whole then dStride d else lineLength d
    match x.frame with
    | none => s
    | some f =>
      if dHeight d ≤ l ∨ limit < off + bytes.length then s.dropPacket die
      else
        let (ok, s) := s.ingestWrite die d (slotAddr d f.slot + lineOffset d l + off) bytes
        if !ok then s.onFrame die k fun f => { f with failedTr := true }
        else s.onFrame die k fun f =>
          let ranges := f.written.getD l [] ++ [(off, off + bytes.length)]
          let done := whole || coversAll ranges (lineLength d)
          { f with written := f.written.insert l ranges
                   present := if done ∧ !f.present.contains l then f.present ++ [l] else f.present }

/-- A payload with zeros up to the stride (R345). -/
def padded (d : BitVec 512) (p : Packet) : List Byte :=
  let bytes := p.segments.flatMap fun g => g.bytes
  bytes ++ List.replicate (dStride d - bytes.length) 0

/-- A packet of the open frame is stored (R345). `line` is that of an audio or ancillary packet. -/
def State.storePacket (s : State) (die k : Nat) (x : Stream) (p : Packet) (line : Nat) : State :=
  let d := x.desc
  match (s.stream die k).bind fun y => y.frame with
  | none => s
  | some f =>
    let s := s.onFrame die k fun f => { f with last := s.time }
    if !f.stored then s.dropPacket die
    else
      let s :=
        if dKind d = 0 then
          let (px, pb) := pgroup (dFormat d)
          p.segments.foldl (fun s g => s.writeLine die k g.line (g.offset / px * pb) g.bytes false) s
        else s.writeLine die k line 0 (padded d p) true
      s.reportGroups die k

/-! ### Packets -/

/-- A descriptor's stream takes a packet (R340, R344). -/
def admits (d : BitVec 512) (port : Nat) (p : Packet) : Bool :=
  (dfield d 366 2).testBit port && dfield d 256 32 == p.group.toNat && dfield d 288 16 == p.udpPort.toNat &&
    (dfield d 320 32 == 0 || dfield d 320 32 == p.src.toNat) && dfield d 352 7 == p.pt.toNat &&
    match p.vlan with
    | some v => dfield d 316 1 == 1 && dfield d 304 12 == v.toNat
    | none => dfield d 316 1 == 0

/-- A video or ancillary packet (R346, R441): one of a closed frame is discarded; a new RTP timestamp closes the open frame; the marker closes its own. -/
def State.mediaPacket (s : State) (die k : Nat) (x : Stream) (p : Packet) : State :=
  let late := x.closed.contains p.rtpTs && (x.frame.map fun f => f.rtpTs) != some p.rtpTs
  if late then s.dropPacket die
  else
    let s := match x.frame with
      | some f => if f.rtpTs = p.rtpTs then s else (s.closeFrame die k 4).openFrame die k p.rtpTs p.seq.toNat
      | none => s.openFrame die k p.rtpTs p.seq.toNat
    let first := (((s.stream die k).bind fun y => y.frame).map fun f => f.nextSeq).getD 0
    let s := s.storePacket die k x p ((p.seq.toNat + 65536 - first) % 65536)
    if p.marker then s.closeFrame die k 0 else s

/-- An audio packet (R346, R441): its line is its place among the HEIGHT packets of its frame. One behind the open frame is
late; once a marker has ended a seek, every other packet than those of the frame that the deadline closed opens a frame
(R442). -/
def State.audioPacket (s : State) (die k : Nat) (x : Stream) (p : Packet) : State :=
  let h := dHeight x.desc
  let base := x.base.getD p.seq.toNat
  let n := (p.seq.toNat + 65536 - base) % 65536
  if (if x.resumed then 65536 - h else 32768) ≤ n then s.dropPacket die
  else
    -- `base` is where the open frame, or the next one, begins
    let start := base + n / h * h
    let s := if n < h then s else s.closeFrame die k 4
    let s := match (s.stream die k).bind fun y => y.frame with
      | some _ => s
      | none => s.openFrame die k p.rtpTs start
    let s := s.onStreamOf die k fun y => { y with base := some (start % 65536) }
    let s := s.storePacket die k x p (n % h)
    if n % h = h - 1 then
      (s.closeFrame die k 0).onStreamOf die k fun y => { y with base := some ((start + h) % 65536) }
    else s

/-- Before a stream has begun, a packet is the first of a frame that begins it (R344): an audio packet; a video packet that
holds the start of the frame, or that follows packets of another frame; of ancillary packets those alone, and any that may be
first (log entry 45). -/
def State.beginsStream (s : State) (die : Nat) (x : Stream) (p : Packet) : Bool :=
  x.began || dKind x.desc == 1 || (x.skipTs.isSome && x.skipTs != some p.rtpTs) ||
    (if dKind x.desc = 0 then p.segments.any fun g => g.line == 0 && g.offset == 0 else x.skipTs.isNone && s.choose die 7)

/-- A stream's packet: in seek it is discarded, and a marker ends the seek (R442). -/
def State.streamPacket (s : State) (die k : Nat) (p : Packet) : State :=
  match s.stream die k with
  | none => s
  | some x =>
    if x.seek then
      (s.dropPacket die).onStreamOf die k fun y => { y with seek := !p.marker, resumed := p.marker }
    else if dKind x.desc = 0 ∧ p.field then s.dropPacket die
    else if !s.beginsStream die x p then (s.dropPacket die).onStreamOf die k fun y => { y with skipTs := some p.rtpTs }
    else
      let s := s.onStreamOf die k fun y => { y with began := true }
      if dKind x.desc = 1 then s.audioPacket die k x p else s.mediaPacket die k x p

/-- INGEST_PACKET (R340, R345): a frame on port `port` (0 or 1) of a die in Ethernet mode. -/
def execIngestPacket (die port : Nat) (p : Packet) (s : State) : Out :=
  let n := 2 * die + port
  let ks := ((s.die die).ingest.filter fun x => admits x.2.desc port p).map Prod.fst
  .next (if 4 ≤ die ∨ 2 ≤ port ∨ !((s.links.getD n {}).up && s.pmodes.getD n 0 == 2) then s
    else if !p.good ∨ ks.isEmpty then s.dropPacket die
    else s.each ks fun s k => s.streamPacket die k p)

/-- The time counter has passed the open frame's deadline by more than `slack` ns: the frame closes, and the stream seeks
(R441, R442). -/
def State.passDeadline (s : State) (die desc slack : Nat) : State :=
  match (s.stream die desc).bind fun x => x.frame with
  | some f =>
    if f.deadline + slack < s.time.toNat then
      (s.closeFrame die desc 2).onStreamOf die desc fun y =>
        { y with seek := true, base := y.base.map fun b => (b + dHeight y.desc) % 65536 }
    else s
  | none => s

/-- FRAME_DEADLINE (R441). -/
def execFrameDeadline (die desc : Nat) (s : State) : Out := .next (s.passDeadline die desc 0)

end Sys2Proof.Machine
end

