-- ==== Sys2Proof/Machine/Queues.lean ====
section
/-! DEFINITION. The meanings of ENQ, DEQ and QWAIT (R229 to R233). -/
namespace Sys2Proof.Machine

/-- The QCB address: s(A), or the pair of the lowest active lane (R230). -/
def queueAddr (s : State) (c : Ctx) (o : OpM) (act : List Nat) : Nat := baseOf s c.wave o (act.headD 0)

/-- Steps 2 and 3 of R399 for a queue instruction. -/
def State.queuePlace (s : State) (c : Ctx) (op : Nat) (addr : Nat) (act : List Nat) : Option Trap :=
  if c.det then some (forbidden op 2 act)
  else match s.placeAll c [0] 64 .free [(act.headD 0, addr)] with
    | .error (.error code a b _) => some (.error code a b act)
    | .error t => some t
    | .ok _ => none

/-- Why a queue operation is not performed, as the word's effect (Table 19-2, R230, R409); `none` when it is. -/
def queueStop (s : State) (c : Ctx) (addr d : Nat) (act : List Nat) : Queued → Option Effect
  | .done .. => none
  | .malformed bits => some (.trap s (.error 0x0107 addr bits act))
  | .park on => some (.miss s on)
  | .poison sector k => some (.trap s (.error 0x0106 sector k act))
  | .error code a b => some (.trap s (.error code a b act))
  | .registers _ => some (.trap s (.error 0x0004 (max d c.wave.alloc) c.wave.alloc act))

/-- The registers of an entry lie below the allocation (R230). -/
def entryFits (c : Ctx) (d lgsz : Nat) : Bool := d + 2 ^ lgsz / 4 ≤ c.wave.alloc

/-- The registers of an entry. -/
def entryRegs (d lgsz : Nat) : List Nat := (List.range (2 ^ lgsz / 4)).map fun i => d + i

/-- A lane's entry of 2^lgsz bytes from v(d) on. -/
def entryValue (s : State) (w : Wave) (d lgsz l : Nat) : Nat :=
  (List.range (2 ^ lgsz / 4)).foldl (fun n i => n + (s.readV w l (d + i)).toNat * 2 ^ (32 * i)) 0

/-- The entry registers of a dequeued entry. -/
def entryWrites (l d lgsz x : Nat) : List RegWrite :=
  (List.range (2 ^ lgsz / 4)).map fun i => .vec l (d + i) (BitVec.ofNat 32 (slice x (32 * i) 32))

/-- The status predicate: true in the first `k` active lanes (R231, R232). -/
def statusWrites (o : OpM) (act : List Nat) (k : Nat) : List RegWrite :=
  act.mapIdx fun i l => .pred l (o.off.toNat % 8) (decide (i < k))

/-- SC, where 0 selects device scope (R230), as the lanes make it act (R116). -/
def State.queueScope (s : State) (c : Ctx) (o : OpM) (act : List Nat) : Nat :=
  s.widen c (if o.sc.toNat = 0 then 5 else o.sc.toNat) act

/-- The core's older stores to a queue control block reach it before an operation that is performed at its home, and the
core's cached copies of the line go (R117, R94). -/
def State.queueHome (s : State) (c : Ctx) (addr : Nat) : State :=
  match s.translateAll (s.requester c) [addr] .write with
  | (.ok pages, s) =>
    let line := lineOf (pageAddr pages addr)
    let (lost, s) := (s.dropLine c.core line).drainLine c.core line
    s.reportLost lost
  | _ => s

/-- Poison that an operation reads in a queue's control block, or in the entries at `at` (R399, step 6): the word's
effect. -/
def State.queuePoison (s : State) (c : Ctx) (addr : Nat) (entries : Qcb → List Nat) (act : List Nat) : Option Effect :=
  match s.openQueue (.virtual (s.requester c)) addr .read with
  | (.ok (q, pa), s) =>
    let spans := (List.range 64).map (fun i => pa + i) ++
      (match s.translateAll (s.requester c) (entries q) .read with
        | (.ok pages, _) => (entries q).flatMap fun a => (List.range (2 ^ q.lgsz)).map fun i => pageAddr pages a + i
        | _ => [])
    firstSome spans fun x => (s.poisonRead x).map fun k => .trap s (.error 0x0106 (x / 32 * 32) k act)
  | _ => none

/-! ### ENQ -/

/-- The ENQ of the active lanes' entries at the home slice. -/
def State.enqueueLanes (s : State) (c : Ctx) (o : OpM) (act : List Nat) : Queued × State :=
  s.enqueue (.virtual (s.requester c)) (queueAddr s c o act) fun lgsz =>
    if entryFits c o.d.toNat lgsz then some (act.map fun l => entryValue s c.wave o.d.toNat lgsz l) else none

/-- The entries of an ENQ may stay unseen by other waves until something orders them before those (R138): a choice of
the part (log entry 3). -/
def State.hideEntries (s : State) (c : Ctx) (addr k : Nat) (before : Tab Unseen) : State :=
  if k = 0 ∨ !s.choose addr 6 then s
  else match s.reachOf c addr with
    | none => s
    | some pa =>
      let key := s.served pa
      let mine := match before.find key with
        | some u => if u.wave = c.w then u.count else 0
        | none => 0
      { s with unseen := s.unseen.insert key { count := k + mine, wave := c.w, va := addr } }

/-- The poison of the entry registers after v(D) (R399, step 6), once the entry's size is known. -/
def State.entryPoison (s : State) (c : Ctx) (o : OpM) (addr : Nat) (act : List Nat) : Option Effect :=
  match s.openQueue (.virtual (s.requester c)) addr .read with
  | (.ok (q, _), s) => (registerPoison c.wave (entryRegs o.d.toNat q.lgsz) act).map fun t => .trap s t
  | _ => none

def execEnq (h : Hdr) (o : OpM) (s : State) : Out :=
  .next (s.issueBoundary h [] (o.d.toNat :: baseRegs o true)
    (fun s c act => (s.queuePlace c 0x12 (queueAddr s c o act) act).map fun t => .trap s t)
    (fun s c act =>
      let addr := queueAddr s c o act
      s.releaseOn c (s.queueScope c o act) [queueObj addr] fun s =>
        let s := s.queueHome c addr
        match s.enqueueLanes c o act with
        | (.done k lost, s') =>
          match (s.queuePoison c addr (fun _ => []) act).or (s.entryPoison c o addr act) with
          | some e => e
          | none =>
            let s' := s'.noteRelease c (s.queueScope c o act) (s.queueCodes (.virtual (s.requester c)) addr k true)
            .done ((s'.hideEntries c addr k s.unseen).reportLost (lostOf c.job lost)) [] (statusWrites o act k)
        | (r, s) => (queueStop s c addr o.d.toNat act r).getD (.done s [] []))
    (baseUni o) (fun _ _ _ => true))

/-! ### DEQ and QWAIT -/

/-- The DEQ of as many entries as lanes are active, at the home slice. -/
def State.dequeueLanes (s : State) (c : Ctx) (o : OpM) (act : List Nat) : Queued × State :=
  s.dequeue (.virtual (s.requester c)) (queueAddr s c o act) act.length (entryFits c o.d.toNat) (some c.w)

/-- The entry size of a queue, once it is known to be well formed. -/
def State.queueSize (s : State) (c : Ctx) (addr : Nat) : Nat :=
  match s.openQueue (.virtual (s.requester c)) addr .read with
  | (.ok (q, _), _) => q.lgsz
  | _ => 3

def execDeq (h : Hdr) (o : OpM) (s : State) : Out :=
  .next (s.issueBoundary h [o.d.toNat] (baseRegs o true)
    (fun s c act => (s.queuePlace c 0x13 (queueAddr s c o act) act).map fun t => .trap s t)
    (fun s c act =>
      let addr := queueAddr s c o act
      let s := s.queueHome c addr
      let lgsz := s.queueSize c addr
      match s.dequeueLanes c o act with
      | (.done k es, s') =>
        match s.queuePoison c addr (fun q => (List.range k).map fun i => q.entry (q.head + i)) act with
        | some e => e
        | none =>
          let s' := if k = 0 then s' else s'.acquire c (s.queueScope c o act) [queueObj addr] (s.queueCodes (.virtual (s.requester c)) addr k false)
          .done s' [] (((act.zip es).flatMap fun p => entryWrites p.1 o.d.toNat lgsz p.2) ++ statusWrites o act k)
      | (r, s) => (queueStop s c addr o.d.toNat act r).getD (.done s [] []))
    (baseUni o) (fun _ _ _ => true))

/-- QWAIT's fresh read of a queue (R233, R92): the entries that it finds, or what stops the word. -/
def State.readQueue (s : State) (c : Ctx) (addr : Nat) (act : List Nat) : Except Effect Nat × State :=
  match s.translateAll (s.requester c) [addr] .read with
  | (.park on, s) => (.error (.miss s on), s)
  | (.error code a b _, s) => (.error (.trap s (.error code a b act)), s)
  | (.ok pages, s) =>
    let pa := pageAddr pages addr
    let path : LoadPath := { core := c.core, skip := true, fill := false }
    let n := natOfBytes ((List.range 64).map fun i => s.loadByte path [] (pa + i))
    match parseQcb n with
    | none => (.error (.trap s (.error 0x0107 addr (slice n 64 64) act)), s)
    | some q =>
      match firstSome (List.range 64) fun i =>
          if s.fromHome c path (pa + i) then (s.poisonRead (pa + i)).map fun k => (pa + i, k) else none with
      | some (x, k) => (.error (.trap s (.error 0x0106 (x / 32 * 32) k act)), s)
      | none => (.ok (s.found pa q (some c.w)), s)

/-- QWAIT: the word issues again, after its commit, until it finds TAIL ≠ HEAD (R233). -/
def execQwait (h : Hdr) (o : OpM) (s : State) : Out :=
  .next (s.issueBoundary h [] (baseRegs o true)
    (fun s c act => (s.queuePlace c 0x14 (queueAddr s c o act) act).map fun t => .trap s t)
    (fun s c act => match s.readQueue c (queueAddr s c o act) act with
      | (.error e, _) => e
      | (.ok n, s) => if n = 0 then .again s .retry else .done s [] [])
    (baseUni o))

end Sys2Proof.Machine
end

