-- ==== Sys2Proof/Machine/Sys.lean ====
section
/-! DEFINITION. The meanings of REGION, GROW, SHRINK and JOB (R245, R246, R46, R47), RSP and WSP (R247 to R249), EMURET
(R250), HALT and TLBINV (R251). -/
namespace Sys2Proof.Machine

def execRegion (h : Hdr) (_ : OpS) (s : State) : Out :=
  .next (s.issueBoundary h [] [] (fun _ _ _ => none) (fun s _ _ => .done s [] []))

/-! ### Registers -/

/-- GROW (R46, R390). -/
def execGrow (h : Hdr) (o : OpS) (s : State) : Out :=
  let n := o.imm.toNat % 32
  .next ((s.issueBoundary h [] []
    (fun s c act => settleNone s c fun s =>
      let new := c.wave.alloc + 8 * n
      let held := s.clusterRegs c.cl c.core + 256 * n
      if n ≠ 0 ∧ (new > 256 ∨ held > 65536) then some (.trap s (.error 0x0009 new held act)) else none)
    (fun s c _ =>
      if n = 0 then .done s [] []
      else .wait s [] (.grow (c.wave.alloc + 8 * n)))).wakeCur fun s c => s.grant c.core)
where
  settleNone (s : State) (c : Ctx) (k : State → Option Effect) : Option Effect :=
    if (s.wave c.w).results.isEmpty then k s else some (.settle s)

/-- The registers at or above an allocation are lost (R47). -/
def Wave.shrinkTo (w : Wave) (a : Nat) : Wave :=
  { w with
    alloc := a
    threads := w.threads.map fun t => { t with v := t.v.dropIf fun r _ => decide (a ≤ r) }
    rpoison := w.rpoison.filter fun p => decide (p.2 < a) }

def execShrink (h : Hdr) (o : OpS) (s : State) : Out :=
  .next (s.issueBoundary h [] []
    (fun s c _ => if (s.wave c.w).results.isEmpty then none else some (.settle s))
    (fun s c _ =>
      .done (s.onWave c.w fun w => w.shrinkTo (max (min 8 w.alloc) (w.alloc - 8 * (o.imm.toNat % 32)))) [] []))

/-! ### JOB -/

/-- A submission entry (R310). -/
def submission (card asid : Nat) : Nat := card + asid * 2 ^ 64

/-- Aperture and alignment of JOB's queue and card addresses (R399, R401): apertures first. -/
def jobAddrs (s : State) (c : Ctx) (o : OpS) (act : List Nat) : Option Trap :=
  let q := (s.readU c.wave (uniField o.d)).toNat
  let card := (s.readU c.wave (uniField o.a)).toNat
  let bad (a g : Nat) : Option Trap :=
    if windowOf a = 0 ∧ a + g ≤ stackBase then none else some (.error 0x0103 a (windowOf a) act)
  match (bad q 64).or (bad card 256) with
  | some t => some t
  | none =>
    if q % 64 ≠ 0 then some (.error 0x0102 q 64 act)
    else if card % 256 ≠ 0 then some (.error 0x0102 card 256 act)
    else none

/-- The ENQ of a submission entry at the home slice; of another entry size, its low bytes or zeros above it (log entry
18). -/
def State.enqueueJob (s : State) (c : Ctx) (o : OpS) : Queued × State :=
  let card := (s.readU c.wave (uniField o.a)).toNat
  s.enqueue (.virtual (s.requester c)) (s.readU c.wave (uniField o.d)).toNat fun lgsz =>
    some [submission card (s.job c.job).asid.toNat % 2 ^ (8 * 2 ^ lgsz)]

def execJob (h : Hdr) (o : OpS) (s : State) : Out :=
  let q (s : State) (c : Ctx) : Nat := (s.readU c.wave (uniField o.d)).toNat
  .next (s.issueBoundary h [] []
    (fun s c act =>
      match jobAddrs s c o act with
      | some t => some (.trap s t)
      | none => none)
    (fun s c act => s.releaseThen c 5 [noObj] fun s =>
      let s := s.queueHome c (q s c)
      match s.enqueueJob c o with
      | (.done k lost, s') =>
        (s.queuePoison c (q s c) (fun _ => []) act).getD
          (.done ((s'.noteRelease c 5 []).reportLost (lostOf c.job lost))
            (act.map fun l => .pred l (o.imm.toNat % 8) (k != 0)) [])
      | (r, s) => (queueStop s c (q s c) 0 act r).getD (.done s [] []))
    [uniField o.d, uniField o.a] (fun _ _ _ => true))

/-! ### Special registers -/

/-- A WSP of a counter that waits for its place among the block's matrix operations (R288). -/
def isCounterWrite (m : MatrixOp) : Bool := slice m.word.toNat 48 8 == 0x24

/-- Special register `i` as lane `l` reads it (Table 8-14). Registers of a block are those of the wave's host block,
whose engine and core serve the wave. A counter reads as the latest WSP has left it, one still waiting included, and in a
deterministic job as all accepted operations leave it, which is the same in every run (R290; log entry 66). -/
def State.special (s : State) (c : Ctx) (i l : Nat) : Word :=
  let t := c.wave.thread l
  let n (x : Nat) : Word := BitVec.ofNat 64 x
  let b := s.block (s.blockOf c.cl c.wave.host)
  match i with
  | 0x000 => n t.tid
  | 0x001 => n l
  | 0x002 => n c.wave.wid
  | 0x003 => n t.bid
  | 0x004 => n c.wave.host
  | 0x005 => n c.task
  | 0x006 => (s.cluster c.cl).recordAt
  | 0x007 => t.key
  | 0x008 => n c.core
  | 0x009 => n (groupOfCore c.core)
  | 0x00A => n (dieOfCore c.core)
  | 0x010 => s.time
  | 0x011 => n s.clk
  | 0x018 => t.seed
  | 0x019 => t.tstat
  | 0x020 => n c.wave.alloc
  | 0x021 => n c.card.waves
  | 0x022 => n c.card.blocks
  | 0x023 => n c.card.rcount
  | 0x024 => n c.card.rsize
  | 0x025 => n c.card.shared
  | 0x026 => n c.card.stack
  | 0x027 => match c.card.deadline with | some d => d.setWidth 64 | none => n (2 ^ 48 - 1)
  | 0x028 => (s.job c.job).asid.setWidth 64
  | _ =>
    if 0x040 ≤ i ∧ i ≤ 0x04F then
      if c.det then (s.countersBehind (s.blockOf c.cl c.wave.host) c.card).getD (i - 0x040) 0
      else (firstSome b.matrix.ops.reverse fun m =>
        if isCounterWrite m ∧ m.a1.toNat = i - 0x040 then some m.a0 else none).getD (b.abn.getD (i - 0x040) 0)
    else if 0x080 ≤ i ∧ i ≤ 0x087 then c.wave.emu.getD (i - 0x080) 0
    else 0

/-- Index and X64 of IMM32 (R247). -/
def spIndex (o : OpS) : Nat := o.imm.toNat % 1024
def spWide (o : OpS) : Bool := o.imm.getLsbD 10

/-- The registers that RSP's D or WSP's A names. -/
def spRegs (o : OpS) (f : BitVec 8) : List Nat :=
  if 192 ≤ f.toNat then [] else if spWide o then [f.toNat, f.toNat + 1] else [f.toNat]

def execRsp (h : Hdr) (o : OpS) (s : State) : Out :=
  let d := o.d.toNat
  let i := spIndex o
  .next (s.issueWord h (spRegs o o.d) [] fun s c act =>
    let writes : List RegWrite :=
      if 192 ≤ d then (act.head?.toList).map fun l => .uni (d - 192) (s.special c i l)
      else act.flatMap fun l =>
        let x := s.special c i l
        if spWide o then [.vec l d (x.setWidth 32), .vec l (d + 1) ((x >>> 32).setWidth 32)]
        else [.vec l d (x.setWidth 32)]
    if i = 0x010 ∨ i = 0x011 then .done s [] writes else .done s writes [])

/-- A write of a special register (R249): of the writable ones, sr.seed, sr.abn0 to sr.abn15, and sr.emu7 in the
handler. A counter's write takes effect in acceptance order with the block's matrix operations (R288). -/
def State.setSpecial (s : State) (c : Ctx) (i : Nat) (act : List Nat) (x : Nat → Word) : State :=
  let low := x (act.headD 0)
  if i = 0x018 then s.onWave c.w fun w => w.onLanes act fun l t => { t with seed := x l }
  else if 0x040 ≤ i ∧ i ≤ 0x04F then
    s.onBlock (s.blockOf c.cl c.wave.host) fun b =>
      if b.matrix.ops.isEmpty then { b with abn := b.abn.put (i - 0x040) low 0 }
      else { b with matrix := { b.matrix with
        ops := b.matrix.ops ++ [{ word := c.word, pc := c.pc, lanes := act, number := b.matrix.count, members := [],
                                  a0 := low, a1 := BitVec.ofNat 64 (i - 0x040) }]
        count := b.matrix.count + 1 } }
  else if i = 0x087 ∧ c.wave.handlerMode then s.onWave c.w fun w => { w with emu := w.emu.put 7 low 0 }
  else s

def execWsp (h : Hdr) (o : OpS) (s : State) : Out :=
  let a := o.a.toNat
  .next (s.issueWord h [] (spRegs o o.a) fun s c act =>
    let x (l : Nat) : Word :=
      if 192 ≤ a then s.readU c.wave (a - 192)
      else if spWide o then s.readPair c.wave l a
      else (s.readV c.wave l a).setWidth 64
    .done (s.setSpecial c (spIndex o) act x) [] [])

/-! ### Handler return -/

/-- EMURET (R250, R382): outside the handler it is not an instruction. -/
def execEmuret (h : Hdr) (_ : OpS) (s : State) : Out :=
  .next (match s.ctx with
    | some c =>
      if c.wave.handlerMode then
        s.issueBoundary h [] []
          (fun s c _ => if (s.wave c.w).results.isEmpty then none else some (.settle s))
          (fun s c act => .moved (s.onWave c.w fun w => (w.advance (s.curLanes c)).leaveHandler act) [])
      else s.issueIllegal c.word
    | none => s)

/-! ### Halt and invalidation -/

/-- A privileged word in an unprivileged job (Table 18-4). -/
def privTrap (c : Ctx) (op : Nat) (act : List Nat) : Option Trap :=
  if c.card.priv then none else some (.error 0x0006 op 0 act)

/-- The halt record (R335), with the cluster stopped. Its handle counts this HALT among those performed since reset, so that
the first is 1: the spec leaves open whether it does (DESIGN CHOICE, log entry 84). -/
def State.haltCluster (s : State) (c : Ctx) (code : Nat) : State :=
  let halts := s.halts + 1
  let handle := (s.block (s.blockOf c.cl 0)).core + halts.toNat * 2 ^ 8
  let s := { s with halts }.onCluster c.cl fun x => { x with life := .halted handle }
  s.hostRecord (1 + code * 2 ^ 8 + handle * 2 ^ 32 + c.pc.toNat * 2 ^ 64 + s.time.toNat * 2 ^ 128 +
    (s.job c.job).asid.toNat * 2 ^ 192)

/-- The secondary run of a replicated task meets the HALT that its primary has performed (R323): it stops under its primary's
handle, unless the host has resumed that already. -/
def State.haltBeside (s : State) (c : Ctx) : State :=
  match (s.cluster c.cl).run.bind fun r => r.twin with
  | none => s
  | some t => match (s.cluster t).life with
    | .halted h => s.onCluster c.cl fun x => { x with life := .halted h }
    | .preempted (some h) => s.onCluster c.cl fun x => { x with life := .halted h }
    | _ => s

/-- HALT (R251): it settles, commits, and stops its cluster. It is no region boundary for an open transaction, but its
commit is one that a replicated task makes once (R323). -/
def execHalt (h : Hdr) (o : OpS) (s : State) : Out :=
  .next (s.issueBoundaryIn h [] [] (fun s _ act => (act, s))
    (fun s c act => match privTrap c 0x30 act with
      | some t => some (.trap s t)
      | none => if (s.wave c.w).results.isEmpty then none else some (.settle s))
    (fun s c _ => .done (if s.follows c then s.haltBeside c else s.haltCluster c (o.imm.toNat % 256)) [] [])
    [] (fun _ _ _ => true))

/-- The range of addresses whose translations an invalidation removes (R251): ASID, base and log2 of the size; `none`
for every ASID. -/
def State.invalRange (s : State) (asid : BitVec 14) (va mode : Nat) : Option (BitVec 14 × Nat × Nat) :=
  match mode with
  | 0 =>
    let held := (s.cores.flatMap fun k => k.2.tlb) ++ (s.dies.flatMap fun d => d.2.l2tlb)
    let bits := maxOf (held.filter fun l => l.asid == asid && va / 2 ^ l.bits * 2 ^ l.bits == l.va) fun l => l.bits
    some (asid, va / 2 ^ max 12 bits * 2 ^ max 12 bits, max 12 bits)
  | 1 => some (asid, 0, 64)
  | _ => none

/-- An address of an address space lies in the range of an invalidation. -/
def inRange (range : Option (BitVec 14 × Nat × Nat)) (asid : BitVec 14) (va : Nat) : Bool :=
  match range with
  | none => true
  | some (a, base, bits) => a == asid && va / 2 ^ bits * 2 ^ bits == base

/-- The waves with buffered or transactional stores that used a removed translation (R251, R408). -/
def State.storing (s : State) (range : Option (BitVec 14 × Nat × Nat)) : List Nat :=
  let hit := inRange range
  (s.waves.filter fun p =>
    let asid := (s.job (s.cluster p.2.cluster).job).asid
    (p.2.rsb.any fun e => match e with | .store _ va .. => hit asid va | .red _ va .. => hit asid va) ||
      p.2.threads.any fun t => match t.txn with
        | some x => x.wlines.any fun l => hit asid (l * 128)
        | none => false).map Prod.fst

/-- The committed stores (core, commit number) that used a removed translation and have not reached their homes (R251,
R121). -/
def State.sending (s : State) (range : Option (BitVec 14 × Nat × Nat)) : List (Nat × Nat) :=
  s.cores.flatMap fun k => (k.2.commit.filter fun e => inRange range (s.job e.job).asid e.va).map fun e => (k.1, e.number)

/-- The stores of an invalidation that have still to reach their homes. -/
def State.stillSending (s : State) (stores : List (Nat × Nat)) : List (Nat × Nat) :=
  stores.filter fun p => (s.core p.1).commit.any fun e => e.number == p.2

/-- The waves of an invalidation whose stores are still buffered: a wave leaves when its buffer is empty (R251). -/
def State.stillStoring (s : State) (on : List Nat) : List Nat :=
  on.filter fun k => match s.waves.find k with
    | some w => !w.rsb.isEmpty || w.threads.any fun t => t.txn.isSome
    | none => false

/-- What an invalidation goes on waiting for: waves whose stores are still buffered; stores not yet home, with those that
the waves waited for have committed since. -/
def State.pursue (s : State) (on : List Nat) (stores : List (Nat × Nat)) : List Nat × List (Nat × Nat) :=
  let since := s.cores.flatMap fun k => (k.2.commit.filter fun e => on.contains e.wave).map fun e => (k.1, e.number)
  (s.stillStoring on, distinct (s.stillSending stores ++ since))

/-- TLBINV (R251, R408): the removal, then a wait for every store that used a removed translation: those not yet committed,
and those committed and not yet home. Its own wave's uncommitted stores are among them: TLBINV is no boundary, so that they
commit at none while it waits, and such a program waits until something ends its region (log entry 28). -/
def execTlbinv (h : Hdr) (o : OpS) (s : State) : Out :=
  .next (s.issueWord h [] [] fun s c act =>
    match privTrap c 0x31 act with
    | some t => .trap s t
    | none =>
      let asid := (s.readU c.wave (uniField o.d)).setWidth 14
      let va := (s.readU c.wave (uniField o.a)).toNat
      let mode := o.imm.toNat % 4
      let range := s.invalRange asid va mode
      let on := s.storing range
      let stores := s.sending range
      let s := s.invalidateTlbs asid va mode
      if on.isEmpty && stores.isEmpty then .done s [] [] else .wait s [] (.inval on stores))

end Sys2Proof.Machine
end

