-- ==== Sys2Proof/Machine/HostPort.lean ====
section
/-! DEFINITION. The host's port: enqueue slots (R333), host commands (R334 to R336, R342, R349, R415), writes of registers
(R332, R356), the firmware mailbox (R353). -/
namespace Sys2Proof.Machine

/-! ### Enqueue slots -/

/-- The ENQ of a slot (R333): the status that it ends with, or the misses that it waits for (R449). Status 3 also stands for
an address space without a root and for a queue that is well formed but of another entry size, or behind a port that is
down (DESIGN CHOICE, log entries 38 and 81). -/
def State.slotEnq (s : State) (slot : Nat) (entry : BitVec 128) : Except (List (Nat × Nat)) Nat × State :=
  let e := s.queueEntry slot
  if s.queueCount ≤ slot ∨ !e.testBit 78 then (.ok 2, s)
  else match s.scheduler (BitVec.ofNat 14 (slice e 64 14)) with
    | none => (.ok 3, s)
    | some q =>
      match s.enqueue (.virtual q) (slice e 0 64) fun lgsz => if lgsz = 4 then some [entry.toNat] else none with
      | (.done 0 _, s) => (.ok 2, s)
      | (.done _ _, s) => (.ok 1, s)
      | (.park on, s) => (.error on, s)
      | (_, s) => (.ok 3, s)

/-- The oldest enqueue of a slot that is still in progress is performed, or waits. The status is that of the latest GO: 0
until its enqueue has ended. -/
def State.advanceSlot (s : State) (slot : Nat) : State :=
  let x := s.slots.getD slot {}
  match x.waiting with
  | [] => s
  | e :: rest =>
    match s.slotEnq slot e with
    | (.error on, s) => { s with slots := s.slots.insert slot { x with status := 0, on } }
    | (.ok n, s) =>
      { s with slots := s.slots.insert slot { x with status := if rest.isEmpty then n else 0, waiting := rest, on := [] } }

/-- The enqueues that wait for misses which a replay has released (R449). -/
def State.retrySlots (s : State) : State :=
  s.slots.foldl (fun s p => if p.2.on.any s.missHeld then s else s.advanceSlot p.1) s

/-- ENQUEUE_GO (R333): every GO enqueues the entry that the slot then holds, after the enqueues of earlier GOs. -/
def State.enqueueSlot (s : State) (slot : Nat) : State :=
  let x := s.slots.getD slot {}
  if slot ≥ 64 then s
  else
    let s := { s with slots := s.slots.insert slot { x with status := 0, waiting := x.waiting ++ [x.entry] } }
    if x.waiting.isEmpty then s.advanceSlot slot else s

def execEnqueueGo (slot : Nat) (s : State) : Out := .next (s.enqueueSlot slot)

/-! ### Host commands -/

/-- A host command completes (R334). -/
def State.hostDone (s : State) (result : Nat) : State :=
  { s with busy := false, result := BitVec.ofNat 64 result, hostWait := none }.signal 0

/-- A host command that runs: the one that OP names (R334). -/
def State.onCommand (s : State) (op : Nat) (f : State → State) : State :=
  if s.busy ∧ s.op.toNat = op then f s else s

/-- INVALIDATE (R334, R251): translations are removed at once; the command completes when the stores that used them have
been committed. -/
def execInvalidate (s : State) : Out :=
  .next (s.onCommand 1 fun s =>
    let a := s.arg0.toNat
    if a ≠ a % 2 ^ 14 + slice a 16 2 * 2 ^ 16 then s.hostDone 1
    else
      let asid := s.arg0.setWidth 14
      let mode := slice a 16 2
      let range := s.invalRange asid s.arg1.toNat mode
      let (on, s) := match s.hostWait with
        | some on => (on, s)
        | none => ((s.storing range, s.sending range), s.invalidateTlbs asid s.arg1.toNat mode)
      let on := s.pursue on.1 on.2
      if on.1.isEmpty && on.2.isEmpty then s.hostDone 0 else { s with hostWait := some on })

/-- A cluster is halted under a handle, pre-empted or not. -/
def Life.haltedAs (h : Nat) : Life → Bool
  | .halted k => k == h
  | .preempted (some k) => k == h
  | _ => false

/-- What the resume command leaves of a halted cluster's life: it goes on, or will when it is placed again. -/
def Life.resumed : Life → Life
  | .halted _ => .running
  | .preempted _ => .preempted none
  | l => l

/-- RESUME (R334, R251): the cluster halted under the handle goes on, and with it the twin that its replicated task has
halted under the same (R323). -/
def execResume (s : State) : Out :=
  .next (s.onCommand 2 fun s =>
    let named (c : Cluster) : Bool := c.life.haltedAs s.arg0.toNat
    if 2 ^ 32 ≤ s.arg0.toNat ∨ s.arg1 ≠ 0 then s.hostDone 1
    else if s.clusters.any fun p => named p.2 then
      { s with clusters := s.clusters.mapVals fun c => if named c then { c with life := c.life.resumed } else c }.hostDone 0
    else s.hostDone 2)

/-- CANCEL (R336): the oldest unfinished job of the card and address space. -/
def execCancel (s : State) : Out :=
  .next (s.onCommand 3 fun s =>
    if s.arg0.toNat % 256 ≠ 0 ∨ 2 ^ 14 ≤ s.arg1.toNat then s.hostDone 1
    else match minBy (s.jobs.filter fun p => p.2.card.addr == s.arg0 && p.2.asid == s.arg1.setWidth 14 && p.2.phase.active)
        fun p => p.2.order with
      | some (j, x) =>
        ((s.endJob j .cancelled 0).jobRecord x.asid x.card.addr x.card.cq 4 x.tasksDone 0 (s.storesOf j)).hostDone 0
      | none => s.hostDone 2)

/-- REPLAY_ALL (R415): the fault misses of an address space, or all, on every die. -/
def execReplayAll (s : State) : Out :=
  .next (s.onCommand 4 fun s =>
    let a := s.arg0.toNat
    if a ≠ a % 2 ^ 14 + slice a 32 1 * 2 ^ 32 ∨ s.arg1 ≠ 0 then s.hostDone 1
    else ([0, 1, 2, 3].foldl (fun s d =>
      s.releaseMisses d fun m => !m.regen && (a.testBit 32 || m.asid == s.arg0.setWidth 14)) s).hostDone 0)

/-- The step jobs of an address space that no digest has decided, in acceptance order. -/
def State.heldSteps (s : State) (asid : Nat) : List Nat :=
  (sortBy (fun p => p.2.order) (s.jobs.filter fun p => p.2.asid.toNat == asid && p.2.step != 0 && p.2.phase.unfinished)).map
    Prod.fst

/-- A group whose step did not match, or was not confirmed, is paired again: the first held job becomes the step behind the
one decided (R437). -/
def State.renumberSteps (s : State) (asid : Nat) (g : Group) : Group × State :=
  if !g.stopped then (g, s)
  else
    let held := s.heldSteps asid
    ({ g with stopped := false, steps := g.decided + held.length },
      held.zipIdx.foldl (fun s p => s.onJob p.1 fun x => { x with step := g.decided + 1 + p.2 }) s)

/-- REPLICA_GROUP (R349, R437): EN pairs, or pairs again a group that there is, whose pending digest stays (log
entry 44); without EN the held jobs run unpaired, and with no group to end, or with another peer than its own, the command is
done all the same (RESULT 0; DESIGN CHOICE, log entry 82). -/
def execReplicaGroup (s : State) : Out :=
  .next (s.onCommand 5 fun s =>
    let a := s.arg0.toNat
    let asid := s.arg1.toNat
    if a ≠ a % 2 ^ 10 + slice a 16 1 * 2 ^ 16 ∨ 2 ^ 14 ≤ asid ∨ a % 2 ^ 10 = s.devid.toNat then s.hostDone 1
    else
      let peer := s.arg0.setWidth 10
      let old := s.groups.find asid
      if a.testBit 16 then
        let (g, s) := match old with
          | some g => s.renumberSteps asid { g with peer, enabled := true }
          | none => ({ peer, enabled := true }, s)
        { s with groups := s.groups.insert asid g }.hostDone 0
      else
        let unpair (j : Job) : Job := if j.asid.toNat = asid then { j with step := 0 } else j
        let s := { s with groups := s.groups.remove asid, jobs := s.jobs.mapVals unpair }
        let s := match old.bind fun g => g.pending with
          | some (_, j, _) =>
            (s.onJob j fun x => { x with phase := .completed }).completionRecord j 1 (s.job j).tasksDone
          | none => s
        s.hostDone 0)

/-- SET_TIME (R342): without PTP lock, and never backwards. The times of a Sync and of a delay request taken before it are
useless behind it (R341). -/
def execSetTime (s : State) : Out :=
  .next (s.onCommand 6 fun s =>
    if s.arg1 ≠ 0 ∨ s.locked ∨ s.arg0 < s.time then s.hostDone 1
    else { s with time := s.arg0, ptp := { s.ptp with sync := none, sent := none } }.hostDone 0)

/-- HOST_COMMAND_INVALID (R334): an OP outside Table 13-3. -/
def execHostCommandInvalid (op : Byte) (s : State) : Out :=
  .next (if 1 ≤ op.toNat ∧ op.toNat ≤ 6 then s else s.onCommand op.toNat fun s => s.hostDone 1)

/-! ### The mailbox -/

/-- The attestation report (R353): nonce, image, boot log of the current start, BOOTNO, signature. -/
def State.report (s : State) (image : Nat) (nonce : List Byte) : List Byte :=
  let log := ((List.range 4096).map fun i => (s.logHead + BitVec.ofNat 12 i).toNat).filterMap fun k =>
    (s.bootLog.find k).filter fun e => slice e.toNat 32 32 == s.bootNo % 2 ^ 32
  let body := nonce ++ bigBytes 48 image ++ bigBytes 48 (sha384 (log.flatMap fun e => bytesOfNat 16 e.toNat)) ++
    bytesOfNat 4 s.bootNo ++ List.replicate 12 0
  let (r, q) := Config.identitySign (sha384 body)
  body ++ bigBytes 48 r ++ bigBytes 48 q

/-- MAILBOX_REQUEST (R353, R356): a write of MBTX. A request that holds a nonce is answered with the report; what firmware
answers to any other, the spec does not say: length and bytes are free (log entry 3). Without running firmware (R350, step 3)
nothing answers. -/
def State.ringMailbox (s : State) (len : BitVec 13) : State :=
  let s := { s with mbtx := len }
  match s.firmware with
  | none => s
  | some image =>
    let reply := if 48 ≤ len.toNat then s.report image ((List.range 48).map fun i => s.mailIn.getD i 0)
      else (List.range ((Config.freeWord s.freeCtr 0).toNat % 4097)).map fun i => (Config.freeWord s.freeCtr (i + 1)).setWidth 8
    { s with mailOut := reply.mapIdx (fun i b => (i, b)), mbrx := BitVec.ofNat 32 (2 ^ 31 + reply.length) }.signal 2

def execMailboxRequest (len : BitVec 13) (s : State) : Out := .next (s.ringMailbox len)

/-- MBRX_READ (R356): a read clears VALID. -/
def execMbrxRead (s : State) : Out := .next { s with mbrx := s.mbrx &&& 0x7FFFFFFF#32 }

/-! ### Writes of registers -/

/-- A doubleword of a window of bytes written. -/
def putWindow (t : Tab Byte) (a : Nat) (v : Word) : Tab Byte :=
  (bytesOfNat 8 v.toNat).mapIdx (fun i b => (a + i, b)) |>.foldl (fun t p => t.insert p.1 p.2) t

/-- The aligned 8 bytes at a BAR0 offset written (Tables 13-1, 13-2, 14-4, 19-3). Registers with behaviour of their own have
it here too; a read-only register and a place outside a window ignore the write. -/
def State.writeRegister (s : State) (off : Nat) (v : Word) : State :=
  if off = 8 then { s with devid := v.setWidth 10 }
  else if off = 0x100 then s.writePstate v
  else if off = 0x200 then { s with astbase := v &&& 0x000FFFFFFFFC0000 }
  else if off = 0x208 then { s with jqtab := v &&& 0x000FFFFFFFFFFC7F, skipped := [], skipMiss := [] }
  else if off = 0x210 then { s with hrq := v }
  else if 0x300 ≤ off ∧ off < 0x320 then s.writeFaultConfig ((off - 0x300) / 8) false v
  else if 0x320 ≤ off ∧ off < 0x340 then s.onDie ((off - 0x320) / 8) fun d => { d with ingBase := v }
  else if 0x340 ≤ off ∧ off < 0x360 then s.setIngest ((off - 0x340) / 8) v
  else if 0x360 ≤ off ∧ off < 0x3A0 then s.writePmode ((off - 0x360) / 8) v
  else if 0x3A0 ≤ off ∧ off < 0x3C0 then s.clearIgdrop ((off - 0x3A0) / 8) v
  else if off = 0x400 then s.ringMailbox (v.setWidth 13)
  else if 0x500 ≤ off ∧ off < 0x520 then s.writeFaultConfig ((off - 0x500) / 8) true v
  else if 0x540 ≤ off ∧ off < 0x560 then s.writeFbget ((off - 0x540) / 8) v
  else if 0x560 ≤ off ∧ off < 0x580 then s.clearDropped ((off - 0x560) / 8) v
  else if 0x100000 ≤ off ∧ off < 0x100000 + 0x100 * 160 then
    let c := (off - 0x100000) / 256
    match off % 256 with
    | 0 => s.writePool c false v
    | 8 => s.writePool c true v
    | 16 => s.clearSconf c v
    | _ => s
  else if 0x400000 ≤ off ∧ off < 0x401000 then
    let k := (off - 0x400000) / 64
    let x := s.slots.getD k {}
    match off % 64 with
    | 0 => { s with slots := s.slots.insert k { x with entry := (x.entry &&& (0xFFFFFFFFFFFFFFFF#128 <<< 64)) ||| v.setWidth 128 } }
    | 8 => { s with slots := s.slots.insert k { x with entry := (x.entry &&& 0xFFFFFFFFFFFFFFFF#128) ||| (v.setWidth 128 <<< 64) } }
    | 16 => s.enqueueSlot k
    | _ => s
  else if 0x500000 ≤ off ∧ off < 0x501000 then { s with mailIn := putWindow s.mailIn (off - 0x500000) v }
  else if 0x600000 ≤ off ∧ off < 0x600040 ∧ s.busy then s
  else if off = 0x600000 then { s with op := v.setWidth 8, busy := true, hostWait := none }
  else if off = 0x600008 then { s with arg0 := v }
  else if off = 0x600010 then { s with arg1 := v }
  else s

/-- Registers whose write acts by itself, with what it acts on in the low 4 bytes: OP, INGSET, MBTX, GO, and those that a 1
in bit 0 clears. -/
def actsLow (a : Nat) : Bool :=
  a == 0x600000 || a == 0x400 || decide (0x340 ≤ a ∧ a < 0x360 ∨ 0x3A0 ≤ a ∧ a < 0x3C0 ∨ 0x560 ≤ a ∧ a < 0x580) ||
    decide (0x400000 ≤ a ∧ a < 0x401000 ∧ a % 64 = 16) ||
    decide (0x100000 ≤ a ∧ a < 0x100000 + 0x100 * 160 ∧ a % 256 = 16)

/-- REGISTER_WRITE (R332, R356): an aligned write of 8 bytes, or of 4, which keeps the other 4. -/
def execRegisterWrite (off : BitVec 24) (wide : Bool) (v : Word) (s : State) : Out :=
  let o := off.toNat
  let a := o / 8 * 8
  let old := s.readRegister a
  .next (if wide then (if o % 8 = 0 then s.writeRegister a v else s)
    else if o % 8 = 0 then s.writeRegister a ((old &&& 0xFFFFFFFF00000000) ||| (v &&& 0xFFFFFFFF))
    else if o % 8 = 4 ∧ !actsLow a then s.writeRegister a ((old &&& 0xFFFFFFFF) ||| (v <<< 32))
    else s)

end Sys2Proof.Machine
end

