-- ==== Sys2Proof/Machine/Boot.lean ====
section
/-! DEFINITION. Bring-up (R15, R350 to R352, R447), loss of power and orderly shutdown (R357). -/
namespace Sys2Proof.Machine

/-! ### The boot steps -/

/-- One entry appended to the boot log, with the time since power-on (R351). -/
def State.logBoot (s : State) (step result detail : Nat) : State :=
  { s with
    bootLog := s.bootLog.insert s.logHead.toNat
      (BitVec.ofNat 128 (detail + result * 2 ^ 16 + step * 2 ^ 24 + s.bootNo % 2 ^ 32 * 2 ^ 32 + s.poweredOn % 2 ^ 64 * 2 ^ 64))
    logHead := s.logHead + 1
    bootStep := step }

/-- The latest entry of a step that the boot log still holds (R351): the ring's oldest entry stands at LOGHEAD. -/
def State.latestEntry (s : State) (step : Nat) : Option (BitVec 128) :=
  ((sortBy (fun p => (p.1 + 4096 - s.logHead.toNat) % 4096) (s.bootLog.filter fun p => slice p.2.toNat 24 8 == step)).getLast?).map
    Prod.snd

/-- A step takes its alternate path (R350, R447): its latest entry in the log says that its primary path failed. -/
def State.takesAlternate (s : State) (step : Nat) : Bool :=
  1 < step && decide (step < 8) &&
    (s.latestEntry step).any fun e => slice e.toNat 16 8 == 1 && !e.getLsbD 15

/-- A step takes `n` nanoseconds. -/
def State.bootTime (s : State) (n : Nat) : State :=
  let s := s.countSeconds ((s.poweredOn + n) / 1000000000 - s.poweredOn / 1000000000)
  { s with poweredOn := s.poweredOn + n, time := laterTime s.time n }

/-! ### Firmware images -/

/-- A little-endian field of an image's header. -/
def imageField (img : List Byte) (p n : Nat) : Nat := natOfBytes ((img.drop p).take n)

/-- A big-endian field of an image's header. -/
def imageBig (img : List Byte) (p n : Nat) : Nat := natOfBytes ((img.drop p).take n).reverse

/-- The digest that an image's signature signs (R352): over bytes 0 to 15 and the body. -/
def imageDigest (img : List Byte) : Nat := sha384 (img.take 16 ++ img.drop 256)

/-- A firmware image is accepted (R352): its header is as the rule lays it out, its signature holds, and its version is high
enough. That the length counts the header is log entry 10's. -/
def imageAccepted (img : List Byte) : Bool :=
  decide (256 ≤ img.length) && imageField img 0 8 == img.length && ((img.drop 112).take 144).all (· == 0) &&
    ecdsaHolds Config.fusedKey (imageDigest img) (imageBig img 16 48) (imageBig img 64 48) && decide (Config.minVersion ≤ imageField img 8 8)

/-- The image that step 3 verifies on a path (Table 14-1). -/
def bootImage (b : BootInputs) (alternate : Bool) : List Byte := if alternate then b.imageB else b.imageA

/-! ### Routes between dies -/

/-- The number of the edge between two adjacent dies (Table 14-5). -/
def edgeBetween (a b : Nat) : Nat :=
  if min a b = 0 then (if max a b = 1 then 0 else 1) else if min a b = 1 then 2 else 3

/-- The dies that traffic from die `a` to die `b` passes (R15), given which edges are trained: straight to an adjacent die; to
the diagonal one X first, and where an edge of that path is untrained Y first; an adjacent pair whose edge is untrained over the
other three edges. -/
def dieRoute (up : Nat → Bool) (a b : Nat) : List Nat :=
  if a ^^^ b = 3 then
    (if up (edgeBetween a (a ^^^ 1)) && up (edgeBetween (a ^^^ 1) b) then [a, a ^^^ 1, b] else [a, a ^^^ 2, b])
  else if up (edgeBetween a b) then [a, b]
  else [a, 3 - b, 3 - a, b]

/-- Step 4: every route between two dies (R15), by 4 × source + destination. -/
def State.routeDies (s : State) : State :=
  let up (e : Nat) : Bool := (s.edges.getD e {}).up
  let pairs := (List.range 16).filter fun k => k / 4 != k % 4
  { s with paths := pairs.map fun k => (k, dieRoute up (k / 4) (k % 4)) }

/-! ### The steps -/

/-- A step passes on the path that it takes. Step 6 enumerates every CXL port, or on its alternate path leaves some
disabled. -/
def stepPasses (b : BootInputs) (alternate : Bool) (step : Nat) : Bool :=
  let failed := (b.edges.filter fun e => !e).length
  (if alternate then b.alternateOk else b.primaryOk).getD (step - 1) false &&
    match step with
    | 3 => imageAccepted (bootImage b alternate)
    | 4 => decide (b.edges.length = 4) && (if alternate then decide (failed ≤ 1) else failed == 0)
    | 6 => alternate || (decide (b.cxl.length = 4) && b.cxl.all id)
    | _ => true

/-- Step 7 (Table 14-1): the configuration of this start, or on the alternate path that of the start before. A PTP domain
outside Table 13-5 is not taken. -/
def State.configure (s : State) (b : BootInputs) (alternate : Bool) : State :=
  let (devid, modes, routes, domain) := if alternate then s.savedCfg else (b.devid, b.pmodes, b.routes, b.ptpDomain)
  let modes' := (List.range 8).map fun p => modes.getD p 0
  let tab : Tab (BitVec 2) := modes'.mapIdx fun i m => (i, if m = 3 then 0 else m)
  let table : Tab Nat := routes.foldl (fun t r => Tab.insert (α := Nat) t r.1 r.2) []
  { s with
    devid := devid, domain := if domain < 128 then domain else s.domain, savedCfg := (devid, modes, routes, domain)
    pmodes := tab.filter fun p => p.2 != 0
    routes := table }

/-- Step 8 (Table 14-1): the registers that the firmware configuration gives; READY. -/
def State.loadTables (s : State) (b : BootInputs) : State :=
  let s := { s with astbase := b.astbase &&& 0x000FFFFFFFFC0000, jqtab := b.jqtab &&& 0x000FFFFFFFFFFC7F, hrq := b.hrq }
  let s := [0, 1, 2, 3].foldl (fun s d =>
    (s.writeFaultConfig d false (b.faultDepth.getD d 8)).writeFaultConfig d true (b.fbbase.getD d 0)) s
  { s with bootReady := true }

/-- What a step that has passed does. -/
def State.doStep (s : State) (b : BootInputs) (alternate : Bool) (step : Nat) : State :=
  match step with
  | 2 => { s with bar0 := true }
  | 3 => { s with firmware := some (sha384 (bootImage b alternate)) }
  | 4 => { s with edges := (b.edges.mapIdx fun i up => (i, ({ up } : LinkState))).filter fun p => p.2.up }.routeDies
  | 6 => { s with cxlOff := (List.range 4).filter fun n => alternate && !b.cxl.getD n false }
  | 7 => s.configure b alternate
  | 8 => s.loadTables b
  | _ => s

/-- The boot steps in order, up to one that fails (R350, R447). -/
def State.bootSteps (s : State) (b : BootInputs) : List Nat → State
  | [] => s
  | step :: rest =>
    let alternate := s.takesAlternate step
    let detail := (b.details.getD (step - 1) 0).toNat
    let s := s.bootTime (b.took.getD (step - 1) 0)
    let s := { s with bootDegr := s.bootDegr || alternate }
    if stepPasses b alternate step then
      ((s.doStep b alternate step).logBoot step (if alternate then 3 else 0) detail).bootSteps b rest
    else
      let s := s.logBoot step 1 (detail + if alternate then 2 ^ 15 else 0)
      -- the control port is up once step 2 has passed; step 1 raises the vector by its own row
      if step = 2 then s else s.signal 3

/-- What survives a reset (R351, R357, R448): the persistent store, the model's own fields, and after a host-initiated
reset the memories and the time counter (log entry 8). -/
def State.afterReset (s : State) (power : Bool) : State :=
  let kept : State :=
    { agenda := s.agenda, pace := s.pace, freeCtr := s.freeCtr, nextId := s.nextId
      logHead := s.logHead, bootLog := s.bootLog, bootNo := s.bootNo, savedCfg := s.savedCfg
      stored := s.stored }
  if power then kept
  else { kept with mem := s.mem, poison := s.poison, counts := s.counts, time := s.time, poweredOn := s.poweredOn, flushed := s.flushed }

/-- RESET (R350): power-on, or a host-initiated reset. -/
def execReset (b : BootInputs) (s : State) : Out :=
  if !b.power ∧ !s.power then .next s
  else
    let s := s.afterReset b.power
    let s := { s with bootNo := s.bootNo + 1 }
    .next (s.bootSteps b [1, 2, 3, 4, 5, 6, 7, 8])

/-! ### Power -/

/-- The device without power: the persistent store alone is left. -/
def State.unpowered (s : State) : State := { s.afterReset true with power := false }

/-- POWER_LOSS (R357): counts not yet flushed are lost. -/
def execPowerLoss (s : State) : Out := .next s.unpowered

/-- ORDERLY_SHUTDOWN (R357): the counts are flushed first. -/
def execOrderlyShutdown (s : State) : Out := .next s.flushCounts.unpowered

end Sys2Proof.Machine
end

