-- ==== Sys2Proof/WellFormed.lean ====
section
/-! DEFINITION. Well-formed terms: what the checks of R172 and R255 (Machine/Legality.lean) let pass. -/
namespace Sys2Proof

/-- A well-formed term: an instruction of R172, an executable command of R255, or an event. -/
def WellFormed (i : Instr) : Bool := i.problem.isNone

end Sys2Proof
end

