-- ==== Sys2Proof/Decode.lean ====
section
/-! DEFINITION. The decoder of instruction words (R151 to R173) and of engine commands (R255, Tables 9-2, 9-3, 9-9),
total on any bits and rejecting by name, and after it the encoder, written from the same tables. -/
namespace Sys2Proof

/-! ### Fields of a word -/

/-- Table 6-1. -/
def hdrOf (w : Word) : Hdr :=
  { s := w.getLsbD 63, pg := w.extractLsb' 59 3, pn := w.getLsbD 58 }
/-- Tables 6-2 and 6-3. -/
def opAOf (w : Word) : OpA :=
  { d := w.extractLsb' 40 8, a := w.extractLsb' 32 8, b := w.extractLsb' 24 8, c := w.extractLsb' 16 8,
    ua := w.getLsbD 15, ub := w.getLsbD 14, uc := w.getLsbD 13, ty := w.extractLsb' 9 4, rm := w.extractLsb' 7 2,
    ov := w.getLsbD 6, x3 := w.extractLsb' 3 3, sp := w.getLsbD 2, ib := w.getLsbD 1, x1 := w.getLsbD 0 }
/-- Table 6-4. -/
def opBOf (w : Word) : OpB :=
  { d := w.extractLsb' 40 8, a := w.extractLsb' 32 8, imm := w.extractLsb' 0 32 }
/-- Tables 6-5 and 6-6. -/
def opMOf (w : Word) : OpM :=
  { d := w.extractLsb' 40 8, a := w.extractLsb' 32 8, off := w.extractLsb' 12 20, w := w.extractLsb' 9 3,
    sc := w.extractLsb' 6 3, ord := w.extractLsb' 4 2, cq := w.extractLsb' 2 2, ua := w.getLsbD 1, sg := w.getLsbD 0 }
/-- Layout C.J (R157). -/
def opJOf (w : Word) : OpJ := { tgt := w.extractLsb' 8 40, modc := w.extractLsb' 0 8 }
/-- Layout C.S (R157). -/
def opSOf (w : Word) : OpS :=
  { d := w.extractLsb' 40 8, a := w.extractLsb' 32 8, imm := w.extractLsb' 0 32 }
/-- Table 6-8: the half whose bit 0 is word bit `p`. -/
def halfAt (w : Word) (p : Nat) : Half :=
  { rop := w.extractLsb' (p + 25) 6, u := w.getLsbD (p + 24), d := w.extractLsb' (p + 16) 8,
    so := w.extractLsb' (p + 8) 8, pg := w.extractLsb' (p + 5) 3, pn := w.getLsbD (p + 4), imm := w.extractLsb' p 4 }
/-- Bit [62], K (R151). -/
def isPaired (w : Word) : Bool := w.getLsbD 62
/-- FC (Table 6-1). -/
def fcOf (w : Word) : BitVec 2 := w.extractLsb' 56 2
/-- OP (Table 6-1). -/
def opOf (w : Word) : Nat := (w.extractLsb' 48 8).toNat

/-! ### Opcode maps -/

/-- Table 6-12, class A. -/
def decodeA (op : Nat) (h : Hdr) (o : OpA) : Option Instr :=
  match op with
  | 0x00 => some (.iadd h o)
  | 0x01 => some (.isub h o)
  | 0x02 => some (.imul h o)
  | 0x03 => some (.imulh h o)
  | 0x04 => some (.imad h o)
  | 0x05 => some (.imin h o)
  | 0x06 => some (.imax h o)
  | 0x07 => some (.iabs h o)
  | 0x08 => some (.ineg h o)
  | 0x09 => some (.idiv h o)
  | 0x0A => some (.irem h o)
  | 0x0B => some (.lea h o)
  | 0x0C => some (.and h o)
  | 0x0D => some (.or h o)
  | 0x0E => some (.xor h o)
  | 0x0F => some (.andn h o)
  | 0x10 => some (.shl h o)
  | 0x11 => some (.shr h o)
  | 0x12 => some (.sar h o)
  | 0x13 => some (.rotl h o)
  | 0x14 => some (.funsh h o)
  | 0x15 => some (.bfx h o)
  | 0x16 => some (.bfi h o)
  | 0x17 => some (.popc h o)
  | 0x18 => some (.clz h o)
  | 0x19 => some (.ctz h o)
  | 0x1A => some (.brev h o)
  | 0x1B => some (.prmt h o)
  | 0x1C => some (.isetp h o)
  | 0x1D => some (.isel h o)
  | 0x1E => some (.mov h o)
  | 0x20 => some (.fadd h o)
  | 0x21 => some (.fsub h o)
  | 0x22 => some (.fmul h o)
  | 0x23 => some (.ffma h o)
  | 0x24 => some (.fmin h o)
  | 0x25 => some (.fmax h o)
  | 0x26 => some (.fsetp h o)
  | 0x27 => some (.frcp h o)
  | 0x28 => some (.frsq h o)
  | 0x29 => some (.fsqrt h o)
  | 0x2A => some (.fdiv h o)
  | 0x2B => some (.fex2 h o)
  | 0x2C => some (.flg2 h o)
  | 0x2D => some (.fsin h o)
  | 0x2E => some (.fcos h o)
  | 0x2F => some (.ftanh h o)
  | 0x30 => some (.frnd h o)
  | 0x31 => some (.fcls h o)
  | 0x32 => some (.fscl h o)
  | 0x40 => some (.fcvt h o)
  | 0x41 => some (.icvt h o)
  | 0x42 => some (.npack h o)
  | 0x43 => some (.nunpk h o)
  | 0x44 => some (.bxhdr h o)
  | 0x45 => some (.dot4 h o)
  | 0x50 => some (.shfl h o)
  | 0x51 => some (.vote h o)
  | 0x52 => some (.matchLanes h o)
  | 0x53 => some (.wred h o)
  | 0x54 => some (.wscan h o)
  | 0x55 => some (.plop h o)
  | 0x56 => some (.pget h o)
  | 0x57 => some (.pset h o)
  | 0x60 => some (.sift h o)
  | 0x61 => some (.sifth h o)
  | 0x62 => some (.rseed h o)
  | 0x63 => some (.rand h o)
  | 0x64 => some (.prune h o)
  | 0x65 => some (.spcmp h o)
  | 0x66 => some (.spexp h o)
  | 0x67 => some (.tslag h o)
  | _ => none

/-- Table 6-13, class B. -/
def decodeB (op : Nat) (h : Hdr) (o : OpB) : Option Instr :=
  match op with
  | 0x00 => some (.movi h o)
  | 0x01 => some (.movhi h o)
  | 0x02 => some (.iaddi h o)
  | 0x03 => some (.imuli h o)
  | 0x04 => some (.andi h o)
  | 0x05 => some (.ori h o)
  | 0x06 => some (.xori h o)
  | 0x07 => some (.isetpi h o)
  | 0x08 => some (.faddi h o)
  | 0x09 => some (.fmuli h o)
  | 0x0A => some (.fsetpi h o)
  | _ => none

/-- Table 6-14, class M. -/
def decodeM (op : Nat) (h : Hdr) (o : OpM) : Option Instr :=
  match op with
  | 0x00 => some (.ldg h o)
  | 0x01 => some (.stg h o)
  | 0x02 => some (.ldgs h o)
  | 0x03 => some (.stgs h o)
  | 0x04 => some (.lds h o)
  | 0x05 => some (.sts h o)
  | 0x06 => some (.ldc h o)
  | 0x07 => some (.stc h o)
  | 0x08 => some (.ldl h o)
  | 0x09 => some (.stl h o)
  | 0x0A => some (.ld h o)
  | 0x0B => some (.st h o)
  | 0x0C => some (.lkp h o)
  | 0x0D => some (.pref h o)
  | 0x10 => some (.atom h o)
  | 0x11 => some (.red h o)
  | 0x12 => some (.enq h o)
  | 0x13 => some (.deq h o)
  | 0x14 => some (.qwait h o)
  | 0x15 => some (.asthr h o)
  | 0x20 => some (.ring h o)
  | 0x21 => some (.awf h o)
  | 0x22 => some (.rls h o)
  | 0x23 => some (.strm h o)
  | 0x24 => some (.strq h o)
  | 0x30 => some (.gang h o)
  | 0x31 => some (.mld h o)
  | 0x32 => some (.mswp h o)
  | 0x33 => some (.mma h o)
  | 0x34 => some (.mas h o)
  | 0x35 => some (.mconv h o)
  | 0x36 => some (.mpsh h o)
  | 0x37 => some (.mpop h o)
  | 0x38 => some (.mzero h o)
  | 0x39 => some (.msta h o)
  | _ => none

/-- Table 6-15, layout C.J. -/
def decodeCJ (op : Nat) (h : Hdr) (o : OpJ) : Option Instr :=
  match op with
  | 0x00 => some (.bra h o)
  | 0x01 => some (.brx h o)
  | 0x02 => some (.call h o)
  | 0x03 => some (.ret h o)
  | _ => none

/-- Table 6-15, layout C.S. MEET with D = 0x01 is MEET #0 (Table 7-14). -/
def decodeCS (op : Nat) (h : Hdr) (o : OpS) : Option Instr :=
  match op with
  | 0x04 => some (if o.d.toNat == 1 then .meetClear h o else .meet h o)
  | 0x05 => some (.exit h o)
  | 0x06 => some (.nop h o)
  | 0x07 => some (.trap h o)
  | 0x08 => some (.sleep h o)
  | 0x10 => some (.binit h o)
  | 0x11 => some (.barv h o)
  | 0x12 => some (.bwait h o)
  | 0x13 => some (.bsync h o)
  | 0x14 => some (.cwait h o)
  | 0x15 => some (.fence h o)
  | 0x16 => some (.fencelk h o)
  | 0x17 => some (.bind h o)
  | 0x18 => some (.unbind h o)
  | 0x19 => some (.tbegin h o)
  | 0x1A => some (.tend h o)
  | 0x1B => some (.tabort h o)
  | 0x1C => some (.region h o)
  | 0x20 => some (.grow h o)
  | 0x21 => some (.shrink h o)
  | 0x22 => some (.job h o)
  | 0x23 => some (.rsp h o)
  | 0x24 => some (.wsp h o)
  | 0x25 => some (.emuret h o)
  | 0x30 => some (.halt h o)
  | 0x31 => some (.tlbinv h o)
  | _ => none

/-- The instruction that a word's opcode names, before the checks of R172; `none` for a reserved opcode. -/
def candidate (w : Word) : Option Instr :=
  if isPaired w then some (.pairedWord (w.getLsbD 63) (halfAt w 31) (halfAt w 0))
  else
    match (fcOf w).toNat with
    | 0 => decodeA (opOf w) (hdrOf w) (opAOf w)
    | 1 => decodeB (opOf w) (hdrOf w) (opBOf w)
    | 2 => decodeM (opOf w) (hdrOf w) (opMOf w)
    | _ => if opOf w < 4 then decodeCJ (opOf w) (hdrOf w) (opJOf w) else decodeCS (opOf w) (hdrOf w) (opSOf w)

/-- The checks of R172 on a candidate. -/
def checked (c : Option Instr) : Except Problem Instr :=
  match c with
  | none => .error .reservedOpcode
  | some i =>
    match i.problem with
    | none => .ok i
    | some p => .error p

/-- The instruction of a 64-bit word, or the reason of R172 for which it is none. -/
def decodeWord (w : Word) : Except Problem Instr := checked (candidate w)

/-! ### Engine commands -/

/-- The command of 32 bytes by its CMD and, for SSIG, its KIND; `none` for a reserved CMD (Table 9-2). -/
def commandCandidate (c : BitVec 256) : Option (Except Problem Instr) :=
  match (c.extractLsb' 0 8).toNat with
  | 0x01 => some (.ok (.ccopy
      { rng := c.getLsbD 8, len := c.extractLsb' 16 32, src := c.extractLsb' 64 64,
        dst := c.extractLsb' 128 64 }))
  | 0x02 => some (.ok (.ctile
      { rng := c.getLsbD 8, dir := c.getLsbD 9, tx4 := c.extractLsb' 16 16,
        tidx := c.extractLsb' 32 32, tsr := c.extractLsb' 64 64, spa := c.extractLsb' 128 64, tx0 := c.extractLsb' 192 16,
        tx1 := c.extractLsb' 208 16, tx2 := c.extractLsb' 224 16, tx3 := c.extractLsb' 240 16 }))
  | 0x03 => some (.ok (.cgath
      { rng := c.getLsbD 8, nidx := c.extractLsb' 16 16, tstr := c.extractLsb' 32 32,
        tbase := c.extractLsb' 64 64, trows := c.extractLsb' 128 32, rowb := c.extractLsb' 160 16,
        idx := c.extractLsb' 176 16, dst := c.extractLsb' 192 64 }))
  | 0x04 => some (if c.getLsbD 8 then .error .commandRange else
      .ok (.cscat
      { nidx := c.extractLsb' 16 16, tstr := c.extractLsb' 32 32, tbase := c.extractLsb' 64 64,
        trows := c.extractLsb' 128 32, rowb := c.extractLsb' 160 16, idx := c.extractLsb' 176 16,
        src := c.extractLsb' 192 64 }))
  | 0x05 => some (.ok (.cfill
      { rng := c.getLsbD 8, len := c.extractLsb' 16 32, pat := c.extractLsb' 64 64,
        dst := c.extractLsb' 128 64 }))
  | 0x10 => some (.ok (.swalk
      { rel := c.getLsbD 8, o0 := c.extractLsb' 16 3, o1 := c.extractLsb' 19 3,
        o2 := c.extractLsb' 22 3, o3 := c.extractLsb' 25 3, o4 := c.extractLsb' 28 3, start := c.extractLsb' 32 32,
        tsr := c.extractLsb' 64 64, tx0 := c.extractLsb' 128 16, tx1 := c.extractLsb' 144 16, tx2 := c.extractLsb' 160 16,
        tx3 := c.extractLsb' 176 16, tx4 := c.extractLsb' 192 16 }))
  | 0x11 => some (.ok (.spush { mc := c.getLsbD 8, bmask := c.extractLsb' 16 8, ring := c.extractLsb' 32 32 }))
  | 0x12 => some (.ok (.sloop { count := c.extractLsb' 16 32 }))
  | 0x13 => some (.ok .sendl)
  | 0x14 =>
    match (c.extractLsb' 9 2).toNat with
    | 0 => some (.ok (.ssigRed { rel := c.getLsbD 8, addr := c.extractLsb' 64 64, value := c.extractLsb' 128 64 }))
    | 1 => some (.ok (.ssigBarrier
      { bar := c.extractLsb' 64 10, cl := c.getLsbD 74, block := c.extractLsb' 75 3,
        count := c.extractLsb' 128 15 }))
    | 2 => some (.ok (.ssigEnq { rel := c.getLsbD 8, addr := c.extractLsb' 64 64, value := c.extractLsb' 128 64 }))
    | _ => some (.error .commandRange)
  | 0x15 => some (.ok (.smark { soff := c.extractLsb' 16 16 }))
  | 0x16 => some (.ok (.shalt { code := c.extractLsb' 8 8 }))
  | _ => none

/-- A term of which `encodeCommand` gives the bits (Tables 9-3 and 9-9, most significant field first). -/
def commandBits : Instr → Option (BitVec 256)
  | .ccopy c => some ((0#64 ++ c.dst ++ c.src ++ 0#16 ++ c.len ++ 0#7 ++ BitVec.ofBool c.rng ++ 0x01#8 : BitVec 256))
  | .ctile c => some ((c.tx3 ++ c.tx2 ++ c.tx1 ++ c.tx0 ++ c.spa ++ c.tsr ++ c.tidx ++ c.tx4 ++ 0#6 ++
      BitVec.ofBool c.dir ++ BitVec.ofBool c.rng ++ 0x02#8 : BitVec 256))
  | .cgath c => some ((c.dst ++ c.idx ++ c.rowb ++ c.trows ++ c.tbase ++ c.tstr ++ c.nidx ++ 0#7 ++
      BitVec.ofBool c.rng ++ 0x03#8 : BitVec 256))
  | .cscat c => some ((c.src ++ c.idx ++ c.rowb ++ c.trows ++ c.tbase ++ c.tstr ++ c.nidx ++ 0#8 ++ 0x04#8 : BitVec 256))
  | .cfill c => some ((0#64 ++ c.dst ++ c.pat ++ 0#16 ++ c.len ++ 0#7 ++ BitVec.ofBool c.rng ++ 0x05#8 : BitVec 256))
  | .swalk c => some ((0#48 ++ c.tx4 ++ c.tx3 ++ c.tx2 ++ c.tx1 ++ c.tx0 ++ c.tsr ++ c.start ++ 0#1 ++ c.o4 ++ c.o3 ++
      c.o2 ++ c.o1 ++ c.o0 ++ 0#7 ++ BitVec.ofBool c.rel ++ 0x10#8 : BitVec 256))
  | .spush c => some ((0#192 ++ c.ring ++ 0#8 ++ c.bmask ++ 0#7 ++ BitVec.ofBool c.mc ++ 0x11#8 : BitVec 256))
  | .sloop c => some ((0#208 ++ c.count ++ 0#8 ++ 0x12#8 : BitVec 256))
  | .sendl => some (0x13#256)
  | .ssigRed c => some ((0#64 ++ c.value ++ c.addr ++ 0#53 ++ 0#2 ++ BitVec.ofBool c.rel ++ 0x14#8 : BitVec 256))
  | .ssigBarrier c => some ((0#64 ++ 0#49 ++ c.count ++ 0#50 ++ c.block ++ BitVec.ofBool c.cl ++ c.bar ++ 0#53 ++ 1#2 ++
      0#1 ++ 0x14#8 : BitVec 256))
  | .ssigEnq c => some ((0#64 ++ c.value ++ c.addr ++ 0#53 ++ 2#2 ++ BitVec.ofBool c.rel ++ 0x14#8 : BitVec 256))
  | .smark c => some ((0#224 ++ c.soff ++ 0#8 ++ 0x15#8 : BitVec 256))
  | .shalt c => some ((0#240 ++ c.code ++ 0x16#8 : BitVec 256))
  | _ => none

/-- The command of 32 bytes, or the reason of Table 21-1 (0x0201) for which it is not executable: a reserved CMD, a
field out of range, or a nonzero reserved field (the bits are not those of any command). -/
def decodeCommand (c : BitVec 256) : Except Problem Instr :=
  match commandCandidate c with
  | none => .error .reservedCommand
  | some (.error p) => .error p
  | some (.ok i) =>
    if commandBits i = some c then
      match i.problem with
      | none => .ok i
      | some p => .error p
    else .error .commandReserved

/-! ### From bytes -/

/-- Eight bytes, lowest address first (R3), to an instruction; four times as many to a command. -/
def decodeBytes (bs : List Byte) : Except Problem Instr :=
  if bs.length ≤ 8 then decodeWord (BitVec.ofNat 64 (natOfBytes bs)) else decodeCommand (BitVec.ofNat 256 (natOfBytes bs))

/-- The host's question: the instruction of a table row whose bits are `w`. Words and commands of the YD40 are
little-endian, so the first word's bits lie at the lowest address; a row of more than 64 bits is an engine command. -/
def decodeTableWord (nbits w : Nat) : Option Instr :=
  match decodeBytes (bytesOfNat (if nbits ≤ 64 then 8 else 32) w) with
  | .ok i => some i
  | .error _ => none

/-! ### The encoder -/

/-- MODA (Table 6-3). -/
def modaBits (o : OpA) : BitVec 16 :=
  (BitVec.ofBool o.ua ++ BitVec.ofBool o.ub ++ BitVec.ofBool o.uc ++ o.ty ++ o.rm ++ BitVec.ofBool o.ov ++ o.x3 ++
    BitVec.ofBool o.sp ++ BitVec.ofBool o.ib ++ BitVec.ofBool o.x1 : BitVec 16)
/-- MODM (Table 6-6). -/
def modmBits (o : OpM) : BitVec 12 :=
  (o.w ++ o.sc ++ o.ord ++ o.cq ++ BitVec.ofBool o.ua ++ BitVec.ofBool o.sg : BitVec 12)
/-- Bits [63:48] of a single word (Table 6-1). -/
def hdrBits (h : Hdr) (fc : BitVec 2) (op : BitVec 8) : BitVec 16 :=
  (BitVec.ofBool h.s ++ 0#1 ++ h.pg ++ BitVec.ofBool h.pn ++ fc ++ op : BitVec 16)
def encA (op : BitVec 8) (h : Hdr) (o : OpA) : Word := (hdrBits h 0#2 op ++ o.d ++ o.a ++ o.b ++ o.c ++ modaBits o : BitVec 64)
def encB (op : BitVec 8) (h : Hdr) (o : OpB) : Word := (hdrBits h 1#2 op ++ o.d ++ o.a ++ o.imm : BitVec 64)
def encM (op : BitVec 8) (h : Hdr) (o : OpM) : Word := (hdrBits h 2#2 op ++ o.d ++ o.a ++ o.off ++ modmBits o : BitVec 64)
def encJ (op : BitVec 8) (h : Hdr) (o : OpJ) : Word := (hdrBits h 3#2 op ++ o.tgt ++ o.modc : BitVec 64)
def encS (op : BitVec 8) (h : Hdr) (o : OpS) : Word := (hdrBits h 3#2 op ++ o.d ++ o.a ++ o.imm : BitVec 64)
/-- Table 6-8. -/
def halfBits (x : Half) : BitVec 31 :=
  (x.rop ++ BitVec.ofBool x.u ++ x.d ++ x.so ++ x.pg ++ BitVec.ofBool x.pn ++ x.imm : BitVec 31)

/-- The word of an instruction (Tables 6-1 to 6-9, 6-12 to 6-15); `none` for a command or an event. -/
def encodeWord : Instr → Option Word
  | .iadd h o => some (encA 0x00#8 h o)
  | .isub h o => some (encA 0x01#8 h o)
  | .imul h o => some (encA 0x02#8 h o)
  | .imulh h o => some (encA 0x03#8 h o)
  | .imad h o => some (encA 0x04#8 h o)
  | .imin h o => some (encA 0x05#8 h o)
  | .imax h o => some (encA 0x06#8 h o)
  | .iabs h o => some (encA 0x07#8 h o)
  | .ineg h o => some (encA 0x08#8 h o)
  | .idiv h o => some (encA 0x09#8 h o)
  | .irem h o => some (encA 0x0A#8 h o)
  | .lea h o => some (encA 0x0B#8 h o)
  | .and h o => some (encA 0x0C#8 h o)
  | .or h o => some (encA 0x0D#8 h o)
  | .xor h o => some (encA 0x0E#8 h o)
  | .andn h o => some (encA 0x0F#8 h o)
  | .shl h o => some (encA 0x10#8 h o)
  | .shr h o => some (encA 0x11#8 h o)
  | .sar h o => some (encA 0x12#8 h o)
  | .rotl h o => some (encA 0x13#8 h o)
  | .funsh h o => some (encA 0x14#8 h o)
  | .bfx h o => some (encA 0x15#8 h o)
  | .bfi h o => some (encA 0x16#8 h o)
  | .popc h o => some (encA 0x17#8 h o)
  | .clz h o => some (encA 0x18#8 h o)
  | .ctz h o => some (encA 0x19#8 h o)
  | .brev h o => some (encA 0x1A#8 h o)
  | .prmt h o => some (encA 0x1B#8 h o)
  | .isetp h o => some (encA 0x1C#8 h o)
  | .isel h o => some (encA 0x1D#8 h o)
  | .mov h o => some (encA 0x1E#8 h o)
  | .fadd h o => some (encA 0x20#8 h o)
  | .fsub h o => some (encA 0x21#8 h o)
  | .fmul h o => some (encA 0x22#8 h o)
  | .ffma h o => some (encA 0x23#8 h o)
  | .fmin h o => some (encA 0x24#8 h o)
  | .fmax h o => some (encA 0x25#8 h o)
  | .fsetp h o => some (encA 0x26#8 h o)
  | .frcp h o => some (encA 0x27#8 h o)
  | .frsq h o => some (encA 0x28#8 h o)
  | .fsqrt h o => some (encA 0x29#8 h o)
  | .fdiv h o => some (encA 0x2A#8 h o)
  | .fex2 h o => some (encA 0x2B#8 h o)
  | .flg2 h o => some (encA 0x2C#8 h o)
  | .fsin h o => some (encA 0x2D#8 h o)
  | .fcos h o => some (encA 0x2E#8 h o)
  | .ftanh h o => some (encA 0x2F#8 h o)
  | .frnd h o => some (encA 0x30#8 h o)
  | .fcls h o => some (encA 0x31#8 h o)
  | .fscl h o => some (encA 0x32#8 h o)
  | .fcvt h o => some (encA 0x40#8 h o)
  | .icvt h o => some (encA 0x41#8 h o)
  | .npack h o => some (encA 0x42#8 h o)
  | .nunpk h o => some (encA 0x43#8 h o)
  | .bxhdr h o => some (encA 0x44#8 h o)
  | .dot4 h o => some (encA 0x45#8 h o)
  | .shfl h o => some (encA 0x50#8 h o)
  | .vote h o => some (encA 0x51#8 h o)
  | .matchLanes h o => some (encA 0x52#8 h o)
  | .wred h o => some (encA 0x53#8 h o)
  | .wscan h o => some (encA 0x54#8 h o)
  | .plop h o => some (encA 0x55#8 h o)
  | .pget h o => some (encA 0x56#8 h o)
  | .pset h o => some (encA 0x57#8 h o)
  | .sift h o => some (encA 0x60#8 h o)
  | .sifth h o => some (encA 0x61#8 h o)
  | .rseed h o => some (encA 0x62#8 h o)
  | .rand h o => some (encA 0x63#8 h o)
  | .prune h o => some (encA 0x64#8 h o)
  | .spcmp h o => some (encA 0x65#8 h o)
  | .spexp h o => some (encA 0x66#8 h o)
  | .tslag h o => some (encA 0x67#8 h o)
  | .movi h o => some (encB 0x00#8 h o)
  | .movhi h o => some (encB 0x01#8 h o)
  | .iaddi h o => some (encB 0x02#8 h o)
  | .imuli h o => some (encB 0x03#8 h o)
  | .andi h o => some (encB 0x04#8 h o)
  | .ori h o => some (encB 0x05#8 h o)
  | .xori h o => some (encB 0x06#8 h o)
  | .isetpi h o => some (encB 0x07#8 h o)
  | .faddi h o => some (encB 0x08#8 h o)
  | .fmuli h o => some (encB 0x09#8 h o)
  | .fsetpi h o => some (encB 0x0A#8 h o)
  | .ldg h o => some (encM 0x00#8 h o)
  | .stg h o => some (encM 0x01#8 h o)
  | .ldgs h o => some (encM 0x02#8 h o)
  | .stgs h o => some (encM 0x03#8 h o)
  | .lds h o => some (encM 0x04#8 h o)
  | .sts h o => some (encM 0x05#8 h o)
  | .ldc h o => some (encM 0x06#8 h o)
  | .stc h o => some (encM 0x07#8 h o)
  | .ldl h o => some (encM 0x08#8 h o)
  | .stl h o => some (encM 0x09#8 h o)
  | .ld h o => some (encM 0x0A#8 h o)
  | .st h o => some (encM 0x0B#8 h o)
  | .lkp h o => some (encM 0x0C#8 h o)
  | .pref h o => some (encM 0x0D#8 h o)
  | .atom h o => some (encM 0x10#8 h o)
  | .red h o => some (encM 0x11#8 h o)
  | .enq h o => some (encM 0x12#8 h o)
  | .deq h o => some (encM 0x13#8 h o)
  | .qwait h o => some (encM 0x14#8 h o)
  | .asthr h o => some (encM 0x15#8 h o)
  | .ring h o => some (encM 0x20#8 h o)
  | .awf h o => some (encM 0x21#8 h o)
  | .rls h o => some (encM 0x22#8 h o)
  | .strm h o => some (encM 0x23#8 h o)
  | .strq h o => some (encM 0x24#8 h o)
  | .gang h o => some (encM 0x30#8 h o)
  | .mld h o => some (encM 0x31#8 h o)
  | .mswp h o => some (encM 0x32#8 h o)
  | .mma h o => some (encM 0x33#8 h o)
  | .mas h o => some (encM 0x34#8 h o)
  | .mconv h o => some (encM 0x35#8 h o)
  | .mpsh h o => some (encM 0x36#8 h o)
  | .mpop h o => some (encM 0x37#8 h o)
  | .mzero h o => some (encM 0x38#8 h o)
  | .msta h o => some (encM 0x39#8 h o)
  | .bra h o => some (encJ 0x00#8 h o)
  | .brx h o => some (encJ 0x01#8 h o)
  | .call h o => some (encJ 0x02#8 h o)
  | .ret h o => some (encJ 0x03#8 h o)
  | .meet h o => some (encS 0x04#8 h o)
  | .meetClear h o => some (encS 0x04#8 h o)
  | .exit h o => some (encS 0x05#8 h o)
  | .nop h o => some (encS 0x06#8 h o)
  | .trap h o => some (encS 0x07#8 h o)
  | .sleep h o => some (encS 0x08#8 h o)
  | .binit h o => some (encS 0x10#8 h o)
  | .barv h o => some (encS 0x11#8 h o)
  | .bwait h o => some (encS 0x12#8 h o)
  | .bsync h o => some (encS 0x13#8 h o)
  | .cwait h o => some (encS 0x14#8 h o)
  | .fence h o => some (encS 0x15#8 h o)
  | .fencelk h o => some (encS 0x16#8 h o)
  | .bind h o => some (encS 0x17#8 h o)
  | .unbind h o => some (encS 0x18#8 h o)
  | .tbegin h o => some (encS 0x19#8 h o)
  | .tend h o => some (encS 0x1A#8 h o)
  | .tabort h o => some (encS 0x1B#8 h o)
  | .region h o => some (encS 0x1C#8 h o)
  | .grow h o => some (encS 0x20#8 h o)
  | .shrink h o => some (encS 0x21#8 h o)
  | .job h o => some (encS 0x22#8 h o)
  | .rsp h o => some (encS 0x23#8 h o)
  | .wsp h o => some (encS 0x24#8 h o)
  | .emuret h o => some (encS 0x25#8 h o)
  | .halt h o => some (encS 0x30#8 h o)
  | .tlbinv h o => some (encS 0x31#8 h o)
  | .pairedWord s h1 h2 => some ((BitVec.ofBool s ++ 1#1 ++ halfBits h1 ++ halfBits h2 : BitVec 64))
  | .illegalEncoding w => some w
  | _ => none

/-- The 32 bytes of an engine command; `none` for a word or an event. -/
def encodeCommand (i : Instr) : Option (BitVec 256) := commandBits i

/-- The bytes that hold an instruction or a command, lowest address first (R3). -/
def encode (i : Instr) : Option (List Byte) :=
  match encodeWord i with
  | some w => some (bytesOfNat 8 w.toNat)
  | none => (encodeCommand i).map fun c => bytesOfNat 32 c.toNat

end Sys2Proof
end

