-- ==== Sys2Proof/Machine/CopyUnit.lean ====
section
/-! DEFINITION. The copy units: taking entries (R253, R254, R431), the copy commands (R255 to R258), their completion
and failure (R144, R428), once for both runs of a replicated task (R323). -/
namespace Sys2Proof.Machine

/-- The copy unit that works for a block. -/
def State.copyEngine (s : State) (b : Nat) : Engine :=
  let x := s.block b
  let c := s.cluster x.cluster
  { q := { core := some x.core, die := dieOfCore x.core, engine := true, asid := (s.job c.job).asid, root := c.root,
           regt := c.regt }
    core := some x.core, job := c.job }

/-- The job card of a block. -/
def State.blockCard (s : State) (b : Nat) : Card := (s.job (s.cluster (s.block b).cluster).job).card

def State.copyEntry (s : State) (b n : Nat) : Option CopyEntry := (s.block b).copies.find? fun e => e.entry == n

def State.onCopy (s : State) (b n : Nat) (f : CopyEntry → CopyEntry) : State :=
  s.onBlock b fun x => { x with copies := x.copies.map fun e => if e.entry = n then f e else e }

/-- A status field of the command ring is changed, and its bytes are written (R431). -/
def State.setTaken (s : State) (b : Nat) (v : Word) : State :=
  (s.onBlock b fun x => { x with taken := v }).putScratch b 8 8 v.toNat
def State.setDone (s : State) (b : Nat) (v : Word) : State :=
  (s.onBlock b fun x => { x with done := v }).putScratch b 16 8 v.toNat
def State.setStat (s : State) (b : Nat) (v : Word) : State :=
  (s.onBlock b fun x => { x with stat := v }).putScratch b 24 8 v.toNat

/-- An entry leaves the copy queue and counts in DONE. -/
def State.finishCopy (s : State) (b n : Nat) : State :=
  (s.onBlock b fun x => { x with copies := x.copies.filter fun e => e.entry != n }).setDone b ((s.block b).done + 1)

/-- The address of entry `n` of a command ring (R253). -/
def State.entryAt (s : State) (b n : Nat) : Nat := 64 + 32 * (n % (s.blockCard b).cqe)

/-- A copy command fails (R427, R428). -/
def State.failCopy (s : State) (b n : Nat) (e : EngineError) : State :=
  let x := s.block b
  let c := s.cluster x.cluster
  let s := s.setStat b (BitVec.ofNat 64 (e.code + n % 2 ^ 32 * 2 ^ 32))
  let s := match (s.copyEntry b n).bind fun y => y.claim with
    | some k => s.poisonRing b k.off
    | none => s
  (s.finishCopy b n).engineError c.job 1 x.core x.index c.task (blockBase + s.entryAt b n) e

/-! ### Checks before the claim -/

/-- The ring object that a command names (R256): in P and aligned. -/
def State.ringAt (s : State) (b a : Nat) : Except EngineError Nat :=
  let off := a - blockBase
  if windowOf a ≠ 3 ∨ off + 32 > (s.blockCard b).shared ∨ a % 32 ≠ 0 then .error (addressViolation a 32) else .ok off

/-- The index list of CGATH and CSCAT lies in P (R256). -/
def State.listAt (s : State) (b : Nat) (idx nidx : Nat) : Except EngineError Nat :=
  if 8 * idx + 4 * nidx ≤ (s.blockCard b).shared then .ok (8 * idx)
  else .error { code := 0x0202, info0 := blockBase + 8 * idx, info1 := 3 }

/-- The rows that a gather or scatter may reach (R258). -/
def rowSpan (trows : BitVec 32) (tstr : BitVec 32) (rowb : BitVec 16) : Nat :=
  (trows.toNat - 1) * tstr.toNat + rowb.toNat

/-- A destination: a ring's slot, once claimed, or a location. -/
def State.target (s : State) (b : Nat) (rng : Bool) (a n : Nat) (glob : Bool) (claim : Option Claim) :
    Except EngineError (Option Loc) :=
  if rng then (s.ringAt b a).map fun _ => claim.map fun k => .scratch b k.base
  else (s.locate b a n glob).map some

/-- A CTILE's record: as it was read, or as it reads now; `none` where it cannot be read. -/
def State.tileRecord (s : State) (b : Nat) (y : CopyEntry) (va : Nat) : Got (Option Nat) :=
  match y.tsr with
  | some t => .ok (some t)
  | none => match (s.engineRead (s.copyEngine b) [(va, 64)]).1 with
    | .ok bytes => .ok (some (natOfBytes bytes))
    | .miss on => .miss on
    | _ => .ok none

/-- CTILE's part of the tensor (R258), and the tile's size. TIDX at or above the number of tiles is a field out of range
(R257). A record that cannot be read has no tile; while it waits for a page, no later command that meets global memory
goes before the CTILE (log entry 65). -/
def State.tilePrints (s : State) (b : Nat) (y : CopyEntry) (c : CmdTile) : Except EngineError (List Span × Nat) :=
  let tx := [c.tx0, c.tx1, c.tx2, c.tx3, c.tx4].map BitVec.toNat
  match s.tileRecord b y c.tsr.toNat with
  | .ok (some n) =>
    let t := parseTsr n
    let fmt := ((s.blockCard b).slot t.slot).fmt
    if !(t.ok fmt && t.tileOk fmt tx) then .ok ([], 1)
    else if c.tidx.toNat ≥ t.tiles tx then
      .error { code := 0x0201, info0 := match commandBits (.ctile c) with | some w => (w.setWidth 64).toNat | none => 0,
               info1 := 3 }
    else .ok ((t.segs fmt tx [0, 1, 2, 3, 4] c.tidx.toNat).filterMap fun g => g.va.map fun a => (Loc.global a).span g.len,
      tileSize fmt tx)
  | .miss _ => .ok ([{ space := 0, lo := 0, hi := 2 ^ 64 }], 1)
  | _ => .ok ([], 1)

/-- What a command breaks of R256 and R257, or its footprints (R258). -/
def State.copyPrints (s : State) (b : Nat) (y : CopyEntry) (i : Instr) : Except EngineError Prints :=
  let claim := y.claim
  let slot : List Span := claim.toList.map fun k => (Loc.scratch b k.base).span k.size
  let dst (l : Option Loc) (n : Nat) (rng : Bool) : List Span :=
    if rng then slot else l.toList.map fun l => l.span n
  match i with
  | .ccopy c => do
    let src ← s.locate b c.src.toNat c.len.toNat true
    let d ← s.target b c.rng c.dst.toNat c.len.toNat true claim
    pure { reads := [src.span c.len.toNat], writes := dst d c.len.toNat c.rng }
  | .cfill c => do
    let d ← s.target b c.rng c.dst.toNat c.len.toNat true claim
    pure { reads := [], writes := dst d c.len.toNat c.rng }
  | .cgath c => do
    let list ← s.listAt b c.idx.toNat c.nidx.toNat
    let n := rowSpan c.trows c.tstr c.rowb
    let t ← if windowOf c.tbase.toNat = 0 then s.locate b c.tbase.toNat n true
      else .error (addressViolation c.tbase.toNat 1)
    let m := c.nidx.toNat * c.rowb.toNat
    let d ← s.target b c.rng c.dst.toNat m false claim
    pure { reads := [(Loc.scratch b list).span (4 * c.nidx.toNat), t.span n], writes := dst d m c.rng }
  | .cscat c => do
    let list ← s.listAt b c.idx.toNat c.nidx.toNat
    let n := rowSpan c.trows c.tstr c.rowb
    let t ← if windowOf c.tbase.toNat = 0 then s.locate b c.tbase.toNat n true
      else .error (addressViolation c.tbase.toNat 1)
    let m := c.nidx.toNat * c.rowb.toNat
    let src ← s.locate b c.src.toNat m false
    pure { reads := [(Loc.scratch b list).span (4 * c.nidx.toNat), src.span m], writes := [t.span n] }
  | .ctile c => do
    let _ ← if windowOf c.tsr.toNat = 0 ∧ c.tsr.toNat % 64 = 0 then s.locate b c.tsr.toNat 64 true
      else .error (addressViolation c.tsr.toNat 64)
    let tensor ← s.tilePrints b y c
    let d ← s.target b c.rng c.spa.toNat tensor.2 false claim
    let near := dst d tensor.2 c.rng
    if c.dir then pure { reads := near, writes := tensor.1 } else pure { reads := tensor.1, writes := near }
  | _ => .error { code := 0x0201, info0 := 0, info1 := 1 }

/-- The ring object that a command delivers into. -/
def ringOf : Instr → Option Nat
  | .ccopy c => if c.rng then some (c.dst.toNat - blockBase) else none
  | .cfill c => if c.rng then some (c.dst.toNat - blockBase) else none
  | .cgath c => if c.rng then some (c.dst.toNat - blockBase) else none
  | .ctile c => if c.rng then some (c.spa.toNat - blockBase) else none
  | _ => none

/-- Why a command cannot be executed by a copy unit (R255), or the command. -/
def copyCommand (w : BitVec 256) : Except EngineError Instr :=
  let bad (k : Nat) : Except EngineError Instr := .error { code := 0x0201, info0 := (w.setWidth 64).toNat, info1 := k }
  let cmd := (w.setWidth 8).toNat
  if 0x10 ≤ cmd ∧ cmd ≤ 0x16 then bad 1
  else match decodeCommand w with
    | .ok i => .ok i
    | .error p => bad (problemCode p)

/-! ### Taking -/

/-- A command's claim (R254): a CTILE's record is read first, since its checks come before the claim (R428). `none` where
nothing can be done yet. -/
def State.claimFor (s : State) (b off : Nat) (y : CopyEntry) (i : Instr) : Option State :=
  let claim (s : State) : Option State :=
    match s.copyPrints b y i with
    | .error x => some (s.failCopy b y.entry x)
    | .ok _ =>
      if (s.ring b off).open then
        let heard := s.heardAt b [freeCode b off ((s.ring b off).clm.toNat % (s.ring b off).win)]
        let (k, s) := s.claimSlot b off
        some (s.onCopy b y.entry fun z => { z with claim := some k, told := joinKnown z.told heard })
      else none
  if y.misses.any s.missHeld then none
  else match i, y.tsr with
    | .ctile c, none =>
      match s.engineRead (s.copyEngine b) [(c.tsr.toNat, 64)] with
      | (.ok bytes, s) => some (s.onCopy b y.entry fun z => { z with tsr := some (natOfBytes bytes), misses := [] })
      | (.miss on, s) => some (s.onCopy b y.entry fun z => { z with misses := on })
      | _ => claim s
    | _, _ => claim s

/-- One turn of take() (R254, R428, R431): a claim still awaited comes first; then, where `more`, one more entry, where
NOTIFY is above TAKEN, the queue has room, no command has failed and its line is present. -/
def State.takeOne (s : State) (b : Nat) (more : Bool) : Option State :=
  let x := s.block b
  let card := s.blockCard b
  if card.cqe = 0 then none
  else
    match firstSome x.copies fun e => match copyCommand e.command with
      | .ok i => if e.claim.isNone then (ringOf i).map fun off => (e, i, off) else none
      | .error _ => none with
    | some (e, i, off) => s.claimFor b off e i
    | none =>
      let n := x.taken.toNat
      let notify := s.scratchNat b 0 8
      let off := s.entryAt b n
      if more ∧ x.stat = 0 ∧ n < notify ∧ (x.taken - x.done).toNat < card.cqe ∧ !(x.absent.contains (off / 128)) ∧
          !(x.absent.contains ((off + 31) / 128)) then
        let w := BitVec.ofNat 256 (s.scratchNat b off 32)
        let s := s.setTaken b (x.taken + 1)
        let told := s.heardAt b [localCode b 0]
        let s := s.onBlock b fun y => { y with copies := y.copies ++ [{ entry := n, command := w, told }] }
        some (match copyCommand w with
          | .error e => s.failCopy b n e
          | .ok i => match s.copyPrints b { entry := n, command := w } i with
            | .error e => s.failCopy b n e
            | .ok _ => s)
      else none

/-- Turns of take() as far as they go; `fuel` bounds them. -/
def State.take (s : State) (b : Nat) (more : Bool) : Nat → State
  | 0 => s
  | fuel + 1 => match s.takeOne b more with
    | some s => s.take b more fuel
    | none => s

/-- In a dropped block a command whose ring has no free slot never gets one, for no wave is left to release it: it leaves
the queue (log entry 53). -/
def State.dropUnclaimed (s : State) (b : Nat) : State :=
  let stuck (e : CopyEntry) : Bool := e.claim.isNone && !e.misses.any s.missHeld && match copyCommand e.command with
    | .ok i => ((ringOf i).map fun off => !(s.ring b off).open).getD false
    | .error _ => false
  if (s.block b).copies.any stuck then s.onBlock b fun x => { x with copies := x.copies.filter fun e => !stuck e } else s

/-- COPY_TAKE (R254): each entry takes at most three turns, its taking, its record and its claim. A block that has given
back its copy-queue reservation takes no more (R50). The commands already
taken of a block that is pre-empted (R42), or dropped (R336, R377), go on to their claims. -/
def execCopyTake (block : Nat) (s : State) : Out :=
  .next (match (s.cluster (s.block block).cluster).life with
    | .running | .halted _ => s.take block (s.block block).held 512
    | .preempted _ => s.take block false 512
    | .dropped => (s.take block false 512).dropUnclaimed block
    | .ended => s)

/-! ### Performing -/

/-- What the reads of a command give: global writes in order, and scratchpad bytes by block. -/
structure Moved where
  global  : List (Nat × Byte) := []
  scratch : List (Nat × Tab Byte) := []
  deriving DecidableEq, Repr

/-- Bytes put at a location. -/
def Loc.put (l : Loc) (bytes : List Byte) : Moved :=
  match l with
  | .global va => { global := bytes.mapIdx fun i b => ((va + i) % 2 ^ 64, b) }
  | .scratch b off => { scratch := [(b, bytes.mapIdx fun i x => (off + i, x))] }

/-- Data delivered to a command's destination: with a claim, it must fit the slot (0x0204). -/
def deliver (claim : Option Claim) (d : Option Loc) (bytes : List Byte) : Got Moved :=
  match claim with
  | some k =>
    if bytes.length > k.size then .fail { code := 0x0204, info0 := bytes.length, info1 := k.size }
    else match d with | some l => .ok (l.put bytes) | none => .ok {}
  | none => match d with | some l => .ok (l.put bytes) | none => .ok {}

def gotThen {α β : Type} (g : Got α × State) (f : α → State → Got β × State) : Got β × State :=
  match g with
  | (.ok x, s) => f x s
  | (.miss on, s) => (.miss on, s)
  | (.absent, s) => (.absent, s)
  | (.fail e, s) => (.fail e, s)

def gotOf {α : Type} (s : State) : Except EngineError α → Got α × State
  | .ok x => (.ok x, s)
  | .error e => (.fail e, s)

/-- What a copy command reads, and what it then writes (R257). -/
structure Plan where
  runs : List (Loc × Nat)
  put  : List Byte → Got Moved

/-- A copy command's plan: of a block's entry. -/
abbrev Perform := State → Nat → Engine → CopyEntry → Got Plan × State

/-- The global writes still to be made. A replicated task's are made once, by the primary, when its twin's command has
come to the same bytes (R323); the twin drops its own. -/
def State.writeCopy (s : State) (b n : Nat) : State :=
  match s.copyEntry b n with
  | none => s
  | some y =>
    let go (s : State) : State :=
      let r := s.engineWrite (s.copyEngine b) (y.data.length + 1) y.data
      r.2.onCopy b n fun z => { z with data := r.1.1, misses := r.1.2 }
    if y.data.isEmpty then s
    else match (s.cluster (s.block b).cluster).run with
      | none => go s
      | some r =>
        match r.twin with
        | none => if r.role = 0 then go s else s.onCopy b n fun z => { z with data := [] }
        | some t =>
          let b' := s.blockOf t (s.block b).index
          match s.copyEntry b' n with
          | some z =>
            if r.role = 0 ∧ z.begun ∧ (z.data = y.data ∨ z.data = []) then
              go (s.onCopy b' n fun z => { z with data := [] })
            else s
          | none =>
            if (s.block b').done.toNat > n then
              if r.role = 0 then go s else s.onCopy b n fun z => { z with data := [] }
            else s

/-- A copy command whose sources are read (R257, R428): its deliveries are accepted and its global writes made, up to a
fault; an error is found before any byte is written. -/
def State.beginCopy (s : State) (b n : Nat) (claim : Option Claim) (m : Got Moved) : State :=
  match m with
  | .ok m =>
    match s.writeError (s.copyEngine b) m.global with
    | some x => s.failCopy b n x
    | none =>
      -- a delivery takes an entry of class 1 (R330); the command waits for it
      if m.scratch.any fun p => !s.poolTakes (s.block p.1).core 1 then s
      else
      let s := m.scratch.foldl (fun s p =>
        s.accept p.1 { kind := 0, owner := b, number := n, bytes := p.2, claim }) s
      (s.onCopy b n fun z => { z with begun := true, data := m.global, misses := [], got := [] }).writeCopy b n
  | .fail x => s.failCopy b n x
  | _ => s

/-- A copy command reads on (R150, R410); once it has all its sources, it begins to write. -/
def State.readCopy (s : State) (b n : Nat) (y : CopyEntry) (p : Plan) : State :=
  match s.gather (s.copyEngine b) p.runs y.got with
  | (.miss on, s) => s.onCopy b n fun z => { z with misses := on }
  | (.absent, s) => s
  | (.fail x, s) => s.failCopy b n x
  | (.ok got, s) =>
    if got.length < runsLength p.runs then s.onCopy b n fun z => { z with got, misses := [] }
    else s.beginCopy b n y.claim (p.put got)

/-- A command takes an entry of class 0 of its core's buffer pool before it reads (R330). -/
def State.stage (s : State) (b : Nat) (y : CopyEntry) : Option State :=
  if y.staged then some s
  else if s.poolTakes (s.block b).core 0 then some (s.onCopy b y.entry fun z => { z with staged := true })
  else none

/-- A command of a block's copy queue goes on (R143, R410, R428): its reads, once its earlier commands with an edge have
completed, its claim is made and it is staged; then its writes. -/
def State.runCopy (s : State) (i : Instr) (perform : Perform) : State :=
  match s.command with
  | some (.copy b n) =>
    match s.copyEntry b n with
    | none => s
    | some y =>
      let e := s.copyEngine b
      if y.misses.any s.missHeld then s
      else if y.begun then s.writeCopy b n
      else if (ringOf i).isSome && y.claim.isNone then s
      else
        match s.copyPrints b y i with
        | .error x => s.failCopy b n x
        | .ok mine =>
          let earlier := (s.block b).copies.takeWhile fun z => z.entry != n
          let edge := earlier.any fun z => match copyCommand z.command with
            | .ok j => match s.copyPrints b z j with
              | .ok p => mine.edge p
              | .error _ => false
            | .error _ => false
          if edge then s
          else match s.stage b y with
            | none => s
            | some s => match perform s b e y with
              | (.miss on, s) => s.onCopy b n fun z => { z with misses := on }
              | (.absent, s) => s
              | (.fail x, s) => s.failCopy b n x
              | (.ok p, s) => s.readCopy b n y p
  | _ => s

def execCcopy (c : CmdCopy) (s : State) : Out :=
  .next (s.runCopy (.ccopy c) fun s b _ y =>
    gotThen (gotOf s (s.locate b c.src.toNat c.len.toNat true)) fun src s =>
    gotThen (gotOf s (s.target b c.rng c.dst.toNat c.len.toNat true y.claim)) fun d s =>
      (.ok { runs := [(src, c.len.toNat)], put := deliver y.claim d }, s))

/-- The pattern of CFILL at an address and a number of bytes (R257). -/
def fillBytes (pat : Word) (a n : Nat) : List Byte :=
  (List.range n).map fun j => BitVec.ofNat 8 (slice pat.toNat (8 * ((a + j) % 8)) 8)

def execCfill (c : CmdFill) (s : State) : Out :=
  .next (s.runCopy (.cfill c) fun s b _ y =>
    gotThen (gotOf s (s.target b c.rng c.dst.toNat c.len.toNat true y.claim)) fun d s =>
      let a := match y.claim with | some k => k.base | none => c.dst.toNat
      (.ok { runs := [], put := fun _ => deliver y.claim d (fillBytes c.pat a c.len.toNat) }, s))

/-- The index list, every index below TROWS (0x0203). -/
def State.indices (s : State) (b idx nidx trows : Nat) : Got (List Nat) × State :=
  match s.listAt b idx nidx with
  | .error e => (.fail e, s)
  | .ok off =>
    match s.scratchRead b off (4 * nidx) with
    | .ok bytes =>
      let l := (List.range nidx).map fun j => natOfBytes ((bytes.drop (4 * j)).take 4)
      match (l.mapIdx fun j i => (j, i)).find? fun p => decide (trows ≤ p.2) with
      | some p => (.fail { code := 0x0203, info0 := p.2, info1 := p.1 }, s)
      | none => (.ok l, s)
    | .absent => (.absent, s)
    | .miss on => (.miss on, s)
    | .fail e => (.fail e, s)

/-- The index list of a command, read once (R257). -/
def State.rowsOf (s : State) (b : Nat) (y : CopyEntry) (idx nidx trows : Nat) : Got (List Nat) × State :=
  match y.rows with
  | some l => (.ok l, s)
  | none => gotThen (s.indices b idx nidx trows) fun l s =>
      (.ok l, s.onCopy b y.entry fun z => { z with rows := some l })

def execCgath (c : CmdGather) (s : State) : Out :=
  let n := c.rowb.toNat
  .next (s.runCopy (.cgath c) fun s b _ y =>
    gotThen (gotOf s (s.target b c.rng c.dst.toNat (c.nidx.toNat * n) false y.claim)) fun d s =>
    gotThen (s.rowsOf b y c.idx.toNat c.nidx.toNat c.trows.toNat) fun l s =>
      (.ok { runs := l.map fun i => (.global ((c.tbase.toNat + i * c.tstr.toNat) % 2 ^ 64), n),
             put := deliver y.claim d }, s))

/-- The writes of CSCAT in ascending order of its rows (R257). -/
def scatterRows (c : CmdScatter) (rows : List Nat) (bytes : List Byte) : List (Nat × Byte) :=
  let n := c.rowb.toNat
  (rows.mapIdx fun j i =>
    ((bytes.drop (j * n)).take n).mapIdx fun k x => ((c.tbase.toNat + i * c.tstr.toNat + k) % 2 ^ 64, x)).flatten

def execCscat (c : CmdScatter) (s : State) : Out :=
  let n := c.rowb.toNat
  .next (s.runCopy (.cscat c) fun s b _ y =>
    gotThen (gotOf s (s.locate b c.src.toNat (c.nidx.toNat * n) false)) fun src s =>
    gotThen (s.rowsOf b y c.idx.toNat c.nidx.toNat c.trows.toNat) fun l s =>
      (.ok { runs := [(src, c.nidx.toNat * n)], put := fun bytes => .ok { global := scatterRows c l bytes } }, s))

/-- The TSR at an address as an engine reads it, with its format; 0x0205 where it breaks R259. -/
def State.readTsr (s : State) (e : Engine) (card : Card) (va : Nat) : Got (Tsr × Nat) × State :=
  gotThen (s.engineRead e [(va, 64)]) fun bytes s =>
    let t := parseTsr (natOfBytes bytes)
    let fmt := (card.slot t.slot).fmt
    if t.ok fmt then (.ok (t, fmt), s) else (.fail { code := 0x0205, info0 := va, info1 := 0 }, s)

/-- What reading a tile reads of memory, in the order of its runs (R260). -/
def tileRuns (segs : List Seg) : List (Loc × Nat) := segs.filterMap fun g => g.va.map fun a => (.global a, g.len)

/-- A tile of `size` bytes: those read of memory in the order of its runs, and the padding (R260). The bytes between the
elements of a BX tile and its headers are 0 (DESIGN CHOICE, log entry 79). -/
def tileBytes (segs : List Seg) (size : Nat) (bytes : List Byte) : List Byte :=
  let mem := segs.filter fun g => g.va.isSome
  let (_, placed) := mem.foldl (fun (r : List Byte × List (Nat × Byte)) g =>
    (r.1.drop g.len, r.2 ++ (r.1.take g.len).mapIdx fun i x => (g.off + i, x))) (bytes, [])
  let pads := (segs.filter fun g => g.va.isNone).flatMap Seg.padding
  let tab : Tab Byte := (placed ++ pads).foldl (fun t p => t.insert p.1 p.2) []
  (List.range size).map fun i => tab.getD i 0

/-- CTILE's record, read once when it starts (R259). -/
def State.tsrOf (s : State) (b : Nat) (y : CopyEntry) (va : Nat) : Got (Tsr × Nat) × State :=
  match y.tsr with
  | some n =>
    let t := parseTsr n
    let fmt := ((s.blockCard b).slot t.slot).fmt
    if t.ok fmt then (.ok (t, fmt), s) else (.fail { code := 0x0205, info0 := va, info1 := 0 }, s)
  | none => gotThen (s.readTsr (s.copyEngine b) (s.blockCard b) va) fun r s =>
      (.ok r, s.onCopy b y.entry fun z => { z with tsr := some r.1.bits })

def execCtile (c : CmdTile) (s : State) : Out :=
  let tx := [c.tx0, c.tx1, c.tx2, c.tx3, c.tx4].map BitVec.toNat
  .next (s.runCopy (.ctile c) fun s b _ y =>
    gotThen (s.tsrOf b y c.tsr.toNat) fun (t, fmt) s =>
    if !t.tileOk fmt tx then (.fail { code := 0x0205, info0 := c.tsr.toNat, info1 := 0 }, s)
    else
      let n := tileSize fmt tx
      let segs := t.segs fmt tx [0, 1, 2, 3, 4] c.tidx.toNat
      if c.dir then
        gotThen (gotOf s (s.locate b c.spa.toNat n false)) fun src s =>
          (.ok { runs := [(src, n)], put := fun bytes => .ok { global := segs.flatMap fun g => match g.va with
            | some a => ((bytes.drop g.off).take g.len).mapIdx fun i x => ((a + i) % 2 ^ 64, x)
            | none => [] } }, s)
      else
        gotThen (gotOf s (s.target b c.rng c.spa.toNat n false y.claim)) fun d s =>
          (.ok { runs := tileRuns segs, put := fun bytes => deliver y.claim d (tileBytes segs n bytes) }, s))

/-! ### Completion -/

/-- A copy command's deliveries have all landed. -/
def State.copyLanded (s : State) (b n : Nat) : Bool :=
  !(s.blocks.any fun x => x.2.deliveries.any fun d => d.kind == 0 && d.owner == b && d.number == n && !d.landed)

/-- A copy command can complete: its writes are at their points. -/
def State.copyDone (s : State) (b : Nat) (y : CopyEntry) : Bool :=
  y.begun && y.data.isEmpty && s.copyLanded b y.entry

/-- COPY_COMPLETE (R144): `k` is the entry's number. A claim of an earlier initialisation of its ring, which has not
advanced it, fails the command (R431). -/
def execCopyComplete (block k : Nat) (s : State) : Out :=
  .next (match s.copyEntry block k with
    | none => s
    | some y =>
      if !s.copyDone block y then s
      else match y.claim with
        | some c =>
          if y.advanced || s.claimLives block c then s.finishCopy block k
          else s.failCopy block k { code := 0x020C, info0 := c.off, info1 := c.k }
        | none => s.finishCopy block k)

end Sys2Proof.Machine
end

