-- ==== Sys2Proof/Machine/CrossLane.lean ====
section
/-! DEFINITION. The meanings of the cross-lane instructions (R199 to R202, R79). Their results are variable-latency. -/
namespace Sys2Proof.Machine

/-- Lane `i`'s source lane in SHFL, where it is a lane (R200). -/
def shuffleLane (mode i m : Nat) : Option Nat :=
  let j : Int := match mode with
    | 0 => m
    | 1 => (i : Int) - m
    | 2 => (i : Int) + m
    | _ => (Nat.xor i m : Nat)
  if 0 ≤ j ∧ j ≤ 31 then some j.toNat else none

def execShfl (h : Hdr) (o : OpA) (s : State) : Out :=
  .next (s.issueValue h o (shapeShfl o) true (rawTy o) fun s c act l =>
    match shuffleLane o.x3.toNat l (srcB s c.wave o l 32) with
    | some j => srcA s c.wave o (if act.contains j then j else l) (rawWidth o)
    | none => srcA s c.wave o l (rawWidth o))

def execVote (h : Hdr) (o : OpA) (s : State) : Out :=
  .next (s.issueA h o (shapeVote o) true noTrap fun s c act =>
    let q (l : Nat) : Bool := s.readP c.wave l (o.a.toNat % 8) != o.x1
    match o.x3.toNat with
    | 0 => predWrites o act fun _ => act.all q
    | 1 => predWrites o act fun _ => act.any q
    | 2 => predWrites o act fun _ => act.all q || act.all fun l => !q l
    | _ => destWrites (shapeVote o) o act 6 fun _ => maskOf (act.filter q))

def execMatchLanes (h : Hdr) (o : OpA) (s : State) : Out :=
  .next (s.issueValue h o (shapeMatch o) true 6 fun s c act l =>
    let a (j : Nat) : Nat := srcA s c.wave o j (rawWidth o)
    maskOf (act.filter fun j => a j == a l))

/-- One combine of WRED and WSCAN on bits (R202). -/
def combine (o : OpA) (x y : Nat) : Nat :=
  let ty := o.ty.toNat
  let n := intWidth ty
  if ty ≤ 7 then
    match o.x3.toNat with
    | 0 => reduceInt ty o.ov (intOf ty x + intOf ty y)
    | 1 => if intOf ty y < intOf ty x then y % 2 ^ n else x % 2 ^ n
    | 2 => if intOf ty x < intOf ty y then y % 2 ^ n else x % 2 ^ n
    | 3 => x &&& y
    | 4 => x ||| y
    | _ => x ^^^ y
  else
    let f := fmtOf ty
    match o.x3.toNat with
    | 0 => f.addBits o.rm.toNat o.ov x y
    | 1 => f.minMax false x y
    | _ => f.minMax true x y

/-- A combine of values that may be absent (R79). -/
def combineOpt (o : OpA) (x y : Option Nat) : Option Nat :=
  match x, y with
  | some a, some b => some (combine o a b)
  | some a, none => some a
  | none, y => y

/-- block_reduce over 2^k values, distances 2^(k-1) down to 1 (R79). -/
def blockReduce (o : OpA) : Nat → List (Option Nat) → Option Nat
  | 0, l => (l.headD none)
  | k + 1, l => blockReduce o k (List.zipWith (combineOpt o) (l.take (2 ^ k)) (l.drop (2 ^ k)))

/-- The largest k with an aligned block of 2^k lanes from `j` that ends at or before `i` (R79). -/
def blockSize (j i : Nat) : Nat :=
  ([5, 4, 3, 2, 1].find? fun k => j % 2 ^ k = 0 ∧ j + 2 ^ k ≤ i + 1).getD 0

/-- The inclusive prefix of lanes j to i (R79). -/
def prefixReduce (o : OpA) (vals : List (Option Nat)) (i : Nat) : Nat → Nat → Option Nat → Option Nat
  | 0, _, acc => acc
  | fuel + 1, j, acc =>
    if j > i then acc
    else
      let k := blockSize j i
      prefixReduce o vals i fuel (j + 2 ^ k) (combineOpt o acc (blockReduce o k ((vals.drop j).take (2 ^ k))))

/-- The lanes' values, absent for a lane that is not active. -/
def laneValues (s : State) (w : Wave) (o : OpA) (act : List Nat) : List (Option Nat) :=
  (List.range 32).map fun l => if act.contains l then some (srcA s w o l (tyBitsOf o)) else none
where
  tyBitsOf (o : OpA) : Nat := if o.ty.toNat ≤ 7 then intWidth o.ty.toNat else fpBits o.ty.toNat

/-- With SP = 1 a reduction of slag-holding lanes yields the slag of the lowest of them, as R202 states, whatever the order
of R79's combines (log entry 64); `vals` are the values combined, by lane. -/
def lowestSlag (o : OpA) (vals : List (Option Nat)) (r : Nat) : Nat :=
  let ty := o.ty.toNat
  if ty ≤ 7 then r else orSlag ty ((vals.filterMap id).map fun x => (ty, x)) r

/-- Slag in any active lane makes every active lane fault when it is not admitted (R385). -/
def reduceTrap (o : OpA) (op : Nat) (s : State) (c : Ctx) (act : List Nat) : Option Trap :=
  let ty := o.ty.toNat
  if ty ≤ 7 || (o.sp && slagCarries ty) then none
  else match slagTrap op 0 act [⟨0, ty, fun l => srcA s c.wave o l (fpBits ty)⟩] with
    | some (.slag op cls b k _) => some (.slag op cls b k act)
    | t => t

def execWred (h : Hdr) (o : OpA) (s : State) : Out :=
  .next (s.issueA h o (shapeWred o) true (reduceTrap o 0x53) fun s c act =>
    let vals := laneValues s c.wave o act
    let r := lowestSlag o vals ((blockReduce o 5 vals).getD 0)
    destWrites (shapeWred o) o act o.ty.toNat fun _ => r)

def execWscan (h : Hdr) (o : OpA) (s : State) : Out :=
  .next (s.issueA h o (shapeWscan o) true (reduceTrap o 0x54) fun s c act =>
    let vals := laneValues s c.wave o act
    let start (i : Nat) : Nat :=
      if o.x1 then ((act.filter fun l => decide (l ≤ i) && s.readP c.wave l (o.c.toNat % 8)).getLast?).getD 0 else 0
    destWrites (shapeWscan o) o act o.ty.toNat fun l =>
      lowestSlag o ((vals.take (l + 1)).drop (start l)) ((prefixReduce o vals l 32 (start l) none).getD 0))

end Sys2Proof.Machine
end

