-- ==== Sys2Proof/Machine/ImmB.lean ====
section
/-! DEFINITION. The meanings of the immediate instructions, class B (R204, R205). -/
namespace Sys2Proof.Machine

/-- IMM32 sign-extended to 64 bits. -/
def immWord (o : OpB) : Word := o.imm.signExtend 64

def execMovi (h : Hdr) (o : OpB) (s : State) : Out :=
  .next (s.issueB h o false (fun _ => o.imm.toNat) fun _ => immWord o)

/-- MOVHI: only uniform words (R169). -/
def execMovhi (h : Hdr) (o : OpB) (s : State) : Out :=
  .next (s.issueB h o false (fun _ => o.imm.toNat) fun d => o.imm ++ d.setWidth 32)

def execIaddi (h : Hdr) (o : OpB) (s : State) : Out :=
  .next (s.issueB h o true (fun a => (a + o.imm.toNat) % 2 ^ 32) fun a => a + immWord o)

def execImuli (h : Hdr) (o : OpB) (s : State) : Out :=
  .next (s.issueB h o true (fun a => a * o.imm.toNat % 2 ^ 32) fun a => a * immWord o)

def execAndi (h : Hdr) (o : OpB) (s : State) : Out :=
  .next (s.issueB h o true (fun a => a &&& o.imm.toNat) fun a => a &&& immWord o)

def execOri (h : Hdr) (o : OpB) (s : State) : Out :=
  .next (s.issueB h o true (fun a => a ||| o.imm.toNat) fun a => a ||| immWord o)

def execXori (h : Hdr) (o : OpB) (s : State) : Out :=
  .next (s.issueB h o true (fun a => a ^^^ o.imm.toNat) fun a => a ^^^ immWord o)

/-- The f32 operand A of a class B word in a lane: a vector register, or the low word of s(A). -/
def immOperand (s : State) (w : Wave) (uniform : Bool) (o : OpB) (l : Nat) : Nat :=
  if uniform then (s.readU w o.a.toNat).toNat % 2 ^ 32 else (s.readV w l o.a.toNat).toNat

/-- Class B floating-point forms always reject slag (R385). -/
def immSlag (s : State) (w : Wave) (uniform : Bool) (o : OpB) (op : Nat) (act : List Nat) : Option Trap :=
  slagTrap op 1 act [⟨0, 10, fun l => immOperand s w uniform o l⟩, ⟨1, 10, fun _ => o.imm.toNat⟩]

/-- FADDI and FMULI: nearest-even, IEEE-style overflow (R204). -/
def State.issueImmFp (s : State) (h : Hdr) (o : OpB) (op : Nat) (f : Nat → Nat → Nat) : State :=
  s.issueWord h (opBDst o) (opBSrc o true) fun s c act =>
    let u := opBUniform o
    match immSlag s c.wave u o op act with
    | some t => .trap s t
    | none =>
      if u then .done s [.uni (o.d.toNat - 192) (BitVec.ofNat 64 (f (immOperand s c.wave u o 0) o.imm.toNat))] []
      else .done s (act.map fun l =>
        .vec l o.d.toNat (BitVec.ofNat 32 (f (immOperand s c.wave u o l) o.imm.toNat))) []

def execFaddi (h : Hdr) (o : OpB) (s : State) : Out :=
  .next (s.issueImmFp h o 0x08 fun a x => f32.addBits 0 false a x)

def execFmuli (h : Hdr) (o : OpB) (s : State) : Out :=
  .next (s.issueImmFp h o 0x09 fun a x => f32.mulBits 0 false a x)

/-- The predicate of ISETPI and FSETPI in each active lane (R205): D[2:0], condition D[5:3], D[7:6] for a uniform A. -/
def State.issueSetpi (s : State) (h : Hdr) (o : OpB) (trap : State → Ctx → List Nat → Option Trap)
    (cond : State → Wave → Nat → Bool) : State :=
  s.issueWord h [] (if opBUniform o then [] else [o.a.toNat]) fun s c act =>
    match trap s c act with
    | some t => .trap s t
    | none => .done s (act.map fun l => .pred l (o.d.toNat % 8) (cond s c.wave l)) []

def execIsetpi (h : Hdr) (o : OpB) (s : State) : Out :=
  .next (s.issueSetpi h o noTrap fun s w l =>
    if opBUniform o then condImm (slice o.d.toNat 3 3) 64 (s.readU w o.a.toNat).toNat (immWord o).toNat
    else condImm (slice o.d.toNat 3 3) 32 (s.readV w l o.a.toNat).toNat o.imm.toNat)

def execFsetpi (h : Hdr) (o : OpB) (s : State) : Out :=
  .next (s.issueSetpi h o (fun s c act => immSlag s c.wave (opBUniform o) o 0x0A act) fun s w l =>
    condFloat (slice o.d.toNat 3 3)
      ((f32.decode (immOperand s w (opBUniform o) o l)).compare (f32.decode o.imm.toNat)))

end Sys2Proof.Machine
end

