-- ==== Sys2Proof/Machine/IntAlu.lean ====
section
/-! DEFINITION. The meanings of integer arithmetic (R183, R184, R58). -/
namespace Sys2Proof.Machine

/-- The quotient of R58 and Table 3-1. -/
def quotient (ty : Nat) (ov : Bool) (a b : Int) : Nat :=
  if b = 0 then ofSigned (intWidth ty) (if a < 0 then intMin ty else intMax ty)
  else reduceInt ty ov (a.tdiv b)

/-- The remainder of R58 and Table 3-1. -/
def remainder (ty : Nat) (a b : Int) : Nat := ofSigned (intWidth ty) (if b = 0 then a else a.tmod b)

def execIadd (h : Hdr) (o : OpA) (s : State) : Out :=
  .next (s.issueInt h o (shapeInt2 o true) false fun a b _ => reduceInt o.ty.toNat o.ov (a + b))

def execIsub (h : Hdr) (o : OpA) (s : State) : Out :=
  .next (s.issueInt h o (shapeInt2 o true) false fun a b _ => reduceInt o.ty.toNat o.ov (a - b))

def execImul (h : Hdr) (o : OpA) (s : State) : Out :=
  .next (s.issueInt h o (shapeInt2 o true) false fun a b _ => reduceInt o.ty.toNat o.ov (a * b))

def execImulh (h : Hdr) (o : OpA) (s : State) : Out :=
  .next (s.issueInt h o (shapeInt2 o false) false fun a b _ =>
    ofSigned (intWidth o.ty.toNat) (a * b / ((2 ^ intWidth o.ty.toNat : Nat) : Int)))

def execImad (h : Hdr) (o : OpA) (s : State) : Out :=
  .next (s.issueInt h o (shapeImad o) false fun a b c => reduceInt o.ty.toNat o.ov (a * b + c))

def execImin (h : Hdr) (o : OpA) (s : State) : Out :=
  .next (s.issueInt h o (shapeInt2 o false) false fun a b _ => ofSigned (intWidth o.ty.toNat) (min a b))

def execImax (h : Hdr) (o : OpA) (s : State) : Out :=
  .next (s.issueInt h o (shapeInt2 o false) false fun a b _ => ofSigned (intWidth o.ty.toNat) (max a b))

def execIabs (h : Hdr) (o : OpA) (s : State) : Out :=
  .next (s.issueInt h o (shapeInt1 (tySigned o.ty) o true) false fun a _ _ => reduceInt o.ty.toNat o.ov (a.natAbs : Nat))

def execIneg (h : Hdr) (o : OpA) (s : State) : Out :=
  .next (s.issueInt h o (shapeInt1 (tyInt o.ty) o true) false fun a _ _ => reduceInt o.ty.toNat o.ov (-a))

def execIdiv (h : Hdr) (o : OpA) (s : State) : Out :=
  .next (s.issueInt h o (shapeInt2 o true) true fun a b _ => quotient o.ty.toNat o.ov a b)

def execIrem (h : Hdr) (o : OpA) (s : State) : Out :=
  .next (s.issueInt h o (shapeInt2 o false) true fun a b _ => remainder o.ty.toNat a b)

/-- LEA: A a 64-bit pair or uniform register, B 32 bits, extended by TY; the result has 64 bits. -/
def execLea (h : Hdr) (o : OpA) (s : State) : Out :=
  .next (s.issueValue h o (shapeLea o) false 7 fun s c _ l =>
    ofSigned 64 ((srcA s c.wave o l 64 : Int) + intOf o.ty.toNat (srcB s c.wave o l 32) * ((2 ^ o.x3.toNat : Nat) : Int)))

end Sys2Proof.Machine
end

