-- ==== Sys2Proof/Machine/Lookup.lean ====
section
/-! DEFINITION. The meaning of LKP (R222, R223, R96). -/
namespace Sys2Proof.Machine

/-- m(i, n) of R223: wrapped, or clamped to 0 .. n - 1. -/
def tableIndex (wrap : Bool) (i : Int) (n : Nat) : Nat :=
  if wrap then (i % (n : Int)).toNat else (min (max i 0) ((n : Int) - 1)).toNat

/-- x - 0.5, its floor and the exact fraction (R223). -/
def splitCoord (x : Fl) : Int × Fl :=
  let u := Fl.add 0 x (.fin true 1 (-1))
  let i := u.toInt 2
  (i, Fl.add 0 u (Fl.ofInt (-i) 0 false))

/-- The elements that one coordinate weighs: indices with their exact weights, zero weights omitted. -/
def weights (x : Fl) : List (Int × Fl) :=
  let (i, f) := splitCoord x
  ([(i, Fl.add 0 (.fin false 1 0) f.neg), (i + 1, f)] : List (Int × Fl)).filter fun p => !p.2.isZero

/-- A table (R222): base, width, height, element bytes, whether it wraps. -/
structure Table where
  base : Nat
  wd   : Nat
  ht   : Nat
  g    : Nat
  wrap : Bool
  deriving DecidableEq, Repr

/-- The virtual address of an element, whose indices are brought into the table. -/
def Table.elem (t : Table) (ix iy : Int) (two : Bool) : Nat :=
  let x := tableIndex t.wrap ix t.wd
  let y := if two then tableIndex t.wrap iy t.ht else 0
  (t.base + (y * t.wd + x) * t.g) % 2 ^ 64

/-- The elements that a lane reads in linear mode: addresses with weights; `none` for a coordinate that is not
finite. -/
def Table.linear (t : Table) (two : Bool) (x y : Fl) : Option (List (Nat × Fl)) :=
  if !x.isFinite || (two && !y.isFinite) then none
  else some ((weights x).flatMap fun p =>
    if two then (weights y).map fun q => (t.elem p.1 q.1 true, Fl.mul p.2 q.2) else [(t.elem p.1 0 false, p.2)])

/-- The element that a lane reads in nearest mode. -/
def Table.nearest (t : Table) (two : Bool) (x y : Nat) : Nat := t.elem (toSigned 32 x) (toSigned 32 y) two

/-- A slag coordinate of linear mode, which reads v(D) and v(D + 1) as f32 values (R222): LKP is none of the instructions
that pass slag on, so it traps (R76). -/
def coordSlag (s : State) (w : Wave) (two : Bool) (d : Nat) (act : List Nat) : Option Trap :=
  slagTrap 0x0C 2 act ((if two then [d, d + 1] else [d]).map fun r => ⟨3, 10, fun l => (s.readV w l r).toNat⟩)

def execLkp (h : Hdr) (o : OpM) (s : State) : Out :=
  let two := o.off.getLsbD 0
  let lin := o.off.getLsbD 1
  let d := o.d.toNat
  let g := widthOf o
  .next (s.issueWord h [d] (if two then [d, d + 1] else [d]) fun s c act =>
    let lo := s.readU c.wave o.a.toNat
    let hi := s.readU c.wave (o.a.toNat + 1)
    let t : Table :=
      { base := lo.toNat, wd := hi.toNat % 2 ^ 32, ht := hi.toNat / 2 ^ 32, g, wrap := o.off.getLsbD 2 }
    let x (l : Nat) : Nat := (s.readV c.wave l d).toNat
    let y (l : Nat) : Nat := if two then (s.readV c.wave l (d + 1)).toNat else 0
    let parts (l : Nat) : Option (List (Nat × Fl)) :=
      if lin then t.linear two (f32.decode (x l)) (f32.decode (y l))
      else some [(t.nearest two (x l) (y l), .fin false 1 0)]
    let vas (l : Nat) : List Nat := ((parts l).getD []).map Prod.fst
    if t.wd = 0 ∨ (two ∧ t.ht = 0) then
      match s.placeAll c [0] 1 .free (act.map fun l => (l, t.base)) with
      | .error tr => .trap s tr
      | .ok _ =>
        if t.base % g ≠ 0 then .trap s (.error 0x0102 t.base g act)
        else .trap s (.error 0x010A lo.toNat hi.toNat act)
    else
      match s.placeAll c [0] g .free (act.flatMap fun l => (vas l).map fun a => (l, a)) with
      | .error tr => .trap s tr
      | .ok spots =>
        -- the base is misaligned although no lane reads an element (R401); then slag coordinates
        match (if t.base % g ≠ 0 then some (.error 0x0102 t.base g act) else none).or
            (if lin then coordSlag s c.wave two d act else none) with
        | some tr => .trap s tr
        | none =>
        match s.wordPages c g .read spots with
        | (.error e, _) => e
        | (.ok pages, s) =>
          let pa (a : Nat) : Nat := pageAddr pages a
          match s.poisonTrap g pages (s.lookupHome c.core c.det g) spots with
          | some tr => .trap s tr
          | none =>
            let elem (l a : Nat) : Nat :=
              natOfBytes ((List.range g).map fun i => s.lookupByte c.core c.det g l (pa a + i))
            let bad := act.filter fun l => lin && (vas l).any fun a => (slagCode 10 (elem l a)).isSome
            match bad with
            | l :: _ =>
              let v := (firstSome (vas l) fun a => slagCode 10 (elem l a)).getD 1
              .trap s (.slag 0x0C 2 (slagBits 10 v) 0 bad)
            | [] =>
              let value (l : Nat) : Nat :=
                if lin then match parts l with
                  | none => f32.nan
                  | some ps =>
                    let terms := ps.map fun p => Fl.mul p.2 (f32.decode (elem l p.1))
                    match terms with
                    | [] => 0
                    | z :: zs => f32.round 0 false (zs.foldl (Fl.add 0) z)
                else
                  let e := elem l ((vas l).headD 0)
                  if o.sg then ofSigned 32 (toSigned (8 * g) e) else e
              let lines := distinct ((act.flatMap vas).map fun a => pa a / 128)
              .done (lines.foldl (fun s n => s.fillLookup c.core n) s) []
                (act.map fun l => .vec l d (BitVec.ofNat 32 (value l))))

end Sys2Proof.Machine
end

