-- ==== Sys2Proof/Machine/Paired.lean ====
section
/-! DEFINITION. The meaning of the paired word (R161 to R163). -/
namespace Sys2Proof.Machine

/-- The second operand of a half in a lane. -/
def halfSo (s : State) (w : Wave) (x : Half) (l : Nat) : Nat :=
  if x.u then (s.readU w x.so.toNat).toNat % 2 ^ 32 else (s.readV w l x.so.toNat).toNat

/-- D op SO (Table 6-9). -/
def halfResult (x : Half) (a b : Nat) : Nat :=
  let k := x.imm.toNat
  let ov := x.imm.getLsbD 2
  let rm := k % 4
  let ity := if x.imm.getLsbD 0 then 6 else 2
  let low := orSlag 13 [(13, a % 2 ^ 16), (13, b % 2 ^ 16)]
  let high := orSlag 13 [(13, a / 2 ^ 16), (13, b / 2 ^ 16)]
  match x.rop.toNat with
  | 0 => reduceInt 2 (x.imm.getLsbD 0) (intOf 2 a + intOf 2 b)
  | 1 => reduceInt 2 (x.imm.getLsbD 0) (intOf 2 a - intOf 2 b)
  | 2 => a &&& b
  | 3 => a ||| b
  | 4 => a ^^^ b
  | 5 => shiftLeft 32 a k
  | 6 => shiftRight 32 a k
  | 7 => b
  | 8 => ofSigned 32 (min (intOf ity a) (intOf ity b))
  | 9 => ofSigned 32 (max (intOf ity a) (intOf ity b))
  | 10 => orSlag 10 [(10, a), (10, b)] (f32.addBits rm ov a b)
  | 11 => orSlag 10 [(10, a), (10, b)] (f32.mulBits rm ov a b)
  | 12 => orSlag 10 [(10, a), (10, b)] (f32.minMax false a b)
  | 13 => orSlag 10 [(10, a), (10, b)] (f32.minMax true a b)
  | 14 => low (bf16.addBits rm ov (a % 2 ^ 16) (b % 2 ^ 16)) + 2 ^ 16 * high (bf16.addBits rm ov (a / 2 ^ 16) (b / 2 ^ 16))
  | _ => low (bf16.mulBits rm ov (a % 2 ^ 16) (b % 2 ^ 16)) + 2 ^ 16 * high (bf16.mulBits rm ov (a / 2 ^ 16) (b / 2 ^ 16))

/-- The slag that a half rejects (R385): under its own IMM4[3]. -/
def halfSlag (s : State) (w : Wave) (x : Half) (act : List Nat) : Option Trap :=
  let r := x.rop.toNat
  if r < 10 || x.imm.getLsbD 3 then none
  else
    let ty := if r < 14 then 10 else 13
    slagTrap r 5 act [⟨0, ty, fun l => (s.readV w l x.d.toNat).toNat⟩, ⟨1, ty, fun l => halfSo s w x l⟩]

/-- The slag of both halves put together: the lowest faulting lane's half decides, the first half on a tie. -/
def pairSlag (a b : Option Trap) : Option Trap :=
  match a, b with
  | some (.slag op cls x k l), some (.slag op2 cls2 x2 k2 l2) =>
    let all := (List.range 32).filter fun i => l.contains i || l2.contains i
    if l2.headD 32 < l.headD 32 then some (.slag op2 cls2 x2 k2 all) else some (.slag op cls x k all)
  | some t, none => some t
  | none, t => t
  | some t, some _ => some t

/-- A half's writes in the lanes of its own guard. -/
def halfWrites (s : State) (w : Wave) (x : Half) (act : List Nat) : List RegWrite :=
  act.map fun l => .vec l x.d.toNat (BitVec.ofNat 32 (halfResult x (s.readV w l x.d.toNat).toNat (halfSo s w x l)))

def execPairedWord (settle : Bool) (h1 h2 : Half) (s : State) : Out :=
  let lanes (x : Half) (s : State) (c : Ctx) : List Nat := s.activeLanes c x.pg x.pn
  .next (s.issueOn settle
    (fun s c => c.lanes.filter fun l => (lanes h1 s c).contains l || (lanes h2 s c).contains l)
    (halfReads h1 ++ halfReads h2 ++ [h1.d.toNat, h2.d.toNat]) (halfReads h1 ++ halfReads h2)
    (fun s c _ =>
      match pairSlag (halfSlag s c.wave h1 (lanes h1 s c)) (halfSlag s c.wave h2 (lanes h2 s c)) with
      | some t => .trap s t
      | none => .done s (halfWrites s c.wave h1 (lanes h1 s c) ++ halfWrites s c.wave h2 (lanes h2 s c)) []))

end Sys2Proof.Machine
end

