-- ==== Sys2Proof/Machine/Pipeline.lean ====
section
/-! DEFINITION. How a wave comes to issue: meeting points (R28, R382), fetch and decoding (R152, R405), the first word of a
task (R95); and the pipeline's events: results that return (R166), exchanges between the active and the pending set (R329),
stores that reach their points (R127), table walks (R104). -/
namespace Sys2Proof.Machine

/-- RESULT_RETURN (R164, R166): outstanding result `k` of a wave is written; after the last the settle is over. -/
def execResultReturn (wave k : Nat) (s : State) : Out :=
  .next (if ((s.wave wave).results.find k).isSome then
      s.onWave wave fun w =>
        let w := s.returnResult w k
        { w with settle := w.settle && !w.results.isEmpty }
    else s)

/-- RELEASE_DRAIN_COMPLETE (R121, R127): entry `n` of a core's commit buffer reaches its point. -/
def execReleaseDrainComplete (core n : Nat) (s : State) : Out :=
  let (lost, s) := s.drainEntry core n
  .next (s.reportLost lost)

/-! ### Runnable waves (R31) -/

/-- A settle marker is not yet met (R164). -/
def Wave.settling (w : Wave) : Bool := w.settle && !w.results.isEmpty

/-- A wave is runnable (R31). -/
def State.runnable (s : State) (w : Wave) : Bool :=
  w.park.isNone && !w.settling && !w.ended && !w.deferred && w.threads.any (fun t => t.live) &&
    (s.cluster w.cluster).life == .running

/-! ### Meeting points -/

/-- The live threads among which R28 chooses: in handler mode those in the handler (R382). -/
def Wave.eligible (w : Wave) : List Nat :=
  let h := w.handlerMode
  w.liveLanes.filter fun l => !h || (w.thread l).handler

/-- A thread is held at its meeting point (R28). -/
def Thread.held (t : Thread) : Bool := t.mt != 0 && t.pc == t.mt

/-- The lowest PC of lanes. -/
def Wave.lowestPc (w : Wave) (lanes : List Nat) : Word :=
  ((minBy lanes fun l => (w.thread l).pc.toNat).map fun l => (w.thread l).pc).getD 0

/-- Meeting points that every thread aiming at them has reached are released (R28). -/
def Wave.meet (w : Wave) : Wave :=
  let live := w.eligible
  let reached := live.filter fun l =>
    (w.thread l).held && live.all fun k => (w.thread k).mt != (w.thread l).mt || (w.thread k).held
  w.onLanes reached fun _ t => { t with mt := 0 }

/-- The threads at the lowest PC go on where every live thread is held (R28). -/
def Wave.unblock (w : Wave) : Wave :=
  let live := w.eligible
  if live.all fun l => (w.thread l).held then
    let m := w.lowestPc live
    w.onLanes (live.filter fun l => (w.thread l).pc == m) fun _ t => { t with mt := 0 }
  else w

/-- R28: the threads of a wave to issue together, with the wave after the releases. -/
def Wave.issueSet (w : Wave) : List Nat × Wave :=
  let w := w.meet.unblock
  let free := w.eligible.filter fun l => !(w.thread l).held
  let p := w.lowestPc free
  (free.filter fun l => (w.thread l).pc == p, w)

/-! ### Fetch -/

/-- What a fetch gives. -/
inductive Fetched where
  | word (w : Word)
  | miss (on : List (Nat × Nat))
  | error (code info0 info1 : Nat)
  deriving DecidableEq, Repr

/-- The word at a PC (R152, R399, R405): aperture, alignment, translation, poison. It is read at its home. -/
def State.fetch (s : State) (c : Ctx) (pc : Nat) : Fetched × State :=
  if windowOf pc ≠ 0 ∨ pc + 8 > stackBase then (.error 0x0103 pc (windowOf pc), s)
  else if pc % 8 ≠ 0 then (.error 0x0102 pc 8, s)
  else match s.translateAll (s.requester c) [pc] .fetch with
    | (.park on, s) => (.miss on, s)
    | (.error code a b _, s) => (.error code a b, s)
    | (.ok pages, s) =>
      let pa := pageAddr pages pc
      match s.poisonRead pa with
      | some k => (.error 0x0106 (pa / 32 * 32) k, s)
      | none => (.word (BitVec.ofNat 64 (s.homeNat pa 8)), s)

/-- The instruction that a word is: one that decodes, or an encoding that is not an instruction (R173). -/
def instrOf (w : Word) : Instr :=
  match decodeWord w with
  | .ok i => i
  | .error _ => .illegalEncoding w

/-- A core that begins a task of another job than its last empties its L1 and its lookup cache (R95). -/
def State.beginTask (s : State) (c : Ctx) : State :=
  let first := !(s.waves.any fun p => p.2.cluster == c.cl && p.2.started && s.coreOf p.2 == c.core)
  if !first then s
  else s.onCore c.core fun k =>
    if k.lastJob = some c.job then k else { k with l1 := [], lookup := [], lastJob := some c.job }

/-- Wave `w` is about to issue: its threads are chosen (R28), and the core and the wave note the clock. -/
def State.openIssue (s : State) (w : Nat) : State :=
  let (lanes, x) := (s.wave w).issueSet
  let pc := x.lowestPc lanes
  let s := { s with cur := some { wave := w, lanes, pc, word := 0 } }
  let c := s.ctxFor { wave := w, lanes, pc, word := 0 }
  let s := (s.beginTask c).onCore c.core fun k => { k with idle := s.clk }
  s.setWave w { x with since := s.clk }

/-- The fetch of the word that the open issue executes: the state with the word, and the instruction: the wave has issued
(R291, R405); or the state after the fetch has parked or failed the wave. -/
def State.fetchCur (s : State) : State × Option Instr :=
  match s.cur with
  | none => (s, none)
  | some i =>
    let c := s.ctxFor i
    match s.fetch c i.pc.toNat with
    | (.word w, s) =>
      ({ s.onWave i.wave fun x => { x with started := true } with cur := some { i with word := w } }, some (instrOf w))
    | (.miss on, s) => (s.parkOnMiss c on, none)
    | (.error code a b, s) => (s.programError c code a b i.lanes, none)

/-! ### Table walks -/

/-- The memory form of a word of Tables 8-2 to 8-4 and 8-6, and what it does to global memory. -/
def memForm : Instr → Option (Hdr × OpM × Form × Access)
  | .ldg h o => some (h, o, formGlobal false, .read)
  | .ldgs h o => some (h, o, formGlobal true, .read)
  | .ld h o => some (h, o, formGeneric, .read)
  | .stg h o => some (h, o, formGlobal false, .write)
  | .stgs h o => some (h, o, formGlobal true, .write)
  | .st h o => some (h, o, formGeneric, .write)
  | .atom h o => some (h, o, formAtomic, .write)
  | .red h o => some (h, o, formAtomic, .write)
  | _ => none

/-- The accesses to global memory, by address, that the wave's next word is about to make: its fetch, and its lanes' bytes. -/
def State.nextAccesses (s : State) (k : Nat) : List (Nat × Access) :=
  let (lanes, w) := (s.wave k).issueSet
  let pc := w.lowestPc lanes
  let c := s.ctxFor { wave := k, lanes, pc, word := 0 }
  if windowOf pc.toNat ≠ 0 ∨ pc.toNat + 8 > stackBase ∨ pc.toNat % 8 ≠ 0 then []
  else (pc.toNat, .fetch) :: match (s.fetch c pc.toNat).1 with
    | .word x =>
      match memForm (instrOf x) with
      | none => []
      | some (h, o, f, acc) =>
        if !w.results.isEmpty then []
        else
          let c := { c with word := x }
          let g := widthOf o
          match s.placeAll c f.windows g (f.contig s c o) (f.addrs s c o (s.activeLanes c h.pg h.pn)) with
          | .error _ => []
          | .ok spots => (spots.flatMap (laneVas g)).map fun a => (a, acc)
    | _ => []

/-- Wave `k` is about to access a page in an address space. -/
def State.aboutToAccess (s : State) (k core : Nat) (asid : BitVec 14) (va : Nat) (acc : Access) : Bool :=
  let w := s.wave k
  s.coreOf w == core && w.active && s.runnable w && (s.job (s.cluster w.cluster).job).asid == asid &&
    (s.nextAccesses k).any fun p => p.1 / 4096 == va / 4096 && p.2 == acc

/-- PAGE_WALK (R104 to R111): the walk for an access that a wave on the core is about to make (log entry 86). A leaf fills the
TLBs. A fetch that finds none parks or fails its wave; any other access that finds none takes its fault, or begins its
regeneration, when its word issues and the checks before it have passed (R376, R399). -/
def execPageWalk (core : Nat) (asid : BitVec 14) (va : Word) (acc : Access) (s : State) : Out :=
  .next (match s.waves.find? fun p => s.aboutToAccess p.1 core asid va.toNat acc with
    | some (k, _) =>
      match s.translate (s.requester (s.ctxFor { wave := k, lanes := [], pc := 0, word := 0 })) va.toNat acc with
      | (.ok _ _, t) => t
      | _ => if acc = .fetch then (s.openIssue k).fetchCur.1 else s
    | none => s)

/-! ### Which wave issues (R329) -/

/-- The resident waves of a quadrant (R25). -/
def State.quadrant (s : State) (core q : Nat) : List (Nat × Wave) :=
  s.waves.filter fun p => !p.2.ended && !p.2.deferred && p.2.slot % 4 == q && s.coreOf p.2 == core &&
    (s.cluster p.2.cluster).life.resident

/-- The wave that a quadrant issues (R329): a starved one that waits longest, else the oldest ready one. -/
def State.issuePick (s : State) (core q : Nat) : Option Nat :=
  let ready := (s.quadrant core q).filter fun p =>
    p.2.active && s.runnable p.2 && decide (p.2.wake ≤ s.clk ∧ p.2.ready ≤ s.clk)
  let starved := ready.filter fun p => decide (p.2.since + 128 ≤ s.clk)
  ((minBy starved fun p => p.2.since).or (minBy ready fun p => p.2.age)).map Prod.fst

/-- Wave `x` leaves the active set for `y`, which may issue 2 clocks later. -/
def State.exchange (s : State) (x y : Nat) : State :=
  (s.onWave x fun w => { w with active := false, runFrom := s.clk }).onWave y fun w =>
    { w with active := true, ready := s.clk + 2 }

/-- WAVE_SWAP (R329). -/
def execWaveSwap (core quadrant : Nat) (s : State) : Out :=
  let ws := s.quadrant core quadrant
  let act := ws.filter fun p => p.2.active
  let pending := ws.filter fun p => !p.2.active && s.runnable p.2
  let youngest (l : List (Nat × Wave)) : Option (Nat × Wave) := minBy l fun p => 2 ^ 64 - p.2.age
  .next (match act.find? fun p => p.2.settling, minBy pending fun p => p.2.age with
    | some x, some y => s.exchange x.1 y.1
    | none, some y =>
      -- places in the active set that ended waves have left (log entry 16)
      if act.length < 8 then s.onWave y.1 fun w => { w with active := true, ready := s.clk + 2 } else
      match minBy (pending.filter fun p => decide (p.2.runFrom + 64 ≤ s.clk)) fun p => p.2.age with
      | none => s
      | some y =>
        match (youngest (act.filter fun p => decide (p.2.since + 64 ≤ s.clk))).or (youngest act) with
        | some x => s.exchange x.1 y.1
        | none => s
    | _, none => s)

end Sys2Proof.Machine
end

