-- ==== Sys2Proof/Machine/Replica.lean ====
section
/-! DEFINITION. Replicated tasks (R323, R436): the meeting of twin waves at a boundary, and the third run that settles a
divergence. -/
namespace Sys2Proof.Machine

/-- The hash with which a wave waits for its twin. -/
def Wave.twinHash (w : Wave) : Option Nat := match w.park with | some (.twin h) => some h | _ => none

/-- The wave of another run that stands at the same boundary of the same place. -/
def State.twinWave (s : State) (w : Wave) (cl : Nat) : Option (Nat × Wave) :=
  s.waves.find? fun p => p.2.cluster == cl && p.2.runKey == w.runKey && p.2.bounds == w.bounds

/-- The primary's wave may perform its boundary. -/
def State.letGo (s : State) (w : Nat) : State := s.onWave w fun x => { x with go := true, park := none }

/-- The third run of a task starts in a core group that neither run uses, where one has room (R436, step 3), with its
KIND 6 record and lifetime counter 64 (step 2). -/
def State.startThird (s : State) (first second : Nat) : State :=
  let a := s.cluster first
  let j := s.job a.job
  let needs := List.replicate j.card.blocks j.card.needs
  let groups := (List.range 20).filter fun g => g != a.group && g != (s.cluster second).group
  match firstSome groups fun g => s.seats g none none needs [] with
  | none => s
  | some cores =>
    let s := (s.jobRecord j.asid j.card.addr j.card.sq 6 a.task 0).count 64 1
    let s := s.onJob a.job fun x => { x with reruns := x.reruns + 1 }
    let (c, s) := s.startCluster a.job a.task a.recordAt j.card.entry cores (some { role := 2, twin := some first }) none
    s.onCluster first fun x => { x with run := x.run.map fun r => { r with third := some c } }

/-- At the diverging boundary the third run has hash `h` (R436, step 5). -/
def State.settleRuns (s : State) (first second third : Nat) (w t x : Nat) (h : Nat) : State :=
  let log := ((s.cluster first).run.map fun r => r.log).getD []
  if (s.wave w).twinHash = some h then
    let s := s.dropCluster second
    let s := s.onCluster first fun c => { c with run := some { role := 0, twin := some third, log } }
    let s := s.onCluster third fun c => { c with run := some { role := 1, twin := some first } }
    s.letGo w
  else if (s.wave t).twinHash = some h then
    let s := s.dropCluster first
    let s := s.onCluster second fun c => { c with run := some { role := 0, twin := some third, log } }
    let s := s.onCluster third fun c => { c with run := some { role := 1, twin := some second } }
    s.letGo t
  else
    let y := s.wave x
    let pc := ((s.wave w).thread ((s.wave w).lanes.headD 0)).pc
    let c := s.cluster first
    s.failJob c.job { code := 0x0212, source := 4, core := s.coreOf y, wid := y.wid, bid := y.host, pc := pc.toNat,
                      task := c.task, info0 := c.task, info1 := pc.toNat }

/-- REPLICA_COMMIT (R323, R436): the waves `wave` of a primary run and `twin` of its secondary stand at one boundary. -/
def State.replicaCommit (s : State) (wave twin : Nat) : State :=
  let w := s.wave wave
  let t := s.wave twin
  match w.twinHash, t.twinHash, (s.cluster w.cluster).run with
  | some a, some b, some r =>
    if r.role ≠ 0 ∨ r.twin ≠ some t.cluster ∨ w.runKey ≠ t.runKey ∨ w.bounds ≠ t.bounds then s
    else if a = b then s.letGo wave
    else match r.third with
      | none => s.startThird w.cluster t.cluster
      | some c =>
        match s.twinWave w c with
        | some (k, x) => match x.twinHash with
          | some h => s.settleRuns w.cluster t.cluster c wave twin k h
          | none => s
        | none => s
  | _, _, _ => s

def execReplicaCommit (wave twin : Nat) (s : State) : Out := .next (s.replicaCommit wave twin)

end Sys2Proof.Machine
end

