-- ==== Sys2Proof/Machine/Sparse.lean ====
section
/-! DEFINITION. The pruning generator (R300 to R302) and sparse compaction (R303 to R307). -/
namespace Sys2Proof.Machine

/-! ### RSEED, RAND, PRUNE -/

/-- One step of a thread's generator (R300): the new sr.seed and z. -/
def seedStep (seed : Word) : Word × Word :=
  let s := seed + 0x9E3779B97F4A7C15
  let z := (s ^^^ (s >>> 30)) * 0xBF58476D1CE4E5B9
  let z := (z ^^^ (z >>> 27)) * 0x94D049BB133111EB
  (s, z ^^^ (z >>> 31))

/-- The generators of lanes set. -/
def State.setSeeds (s : State) (c : Ctx) (act : List Nat) (f : Thread → Word) : State :=
  s.onWave c.w fun w => w.onLanes act fun _ t => { t with seed := f t }

/-- The vector registers that RSEED and PRUNE read at A. -/
def seedRegs (o : OpA) (wide : Bool) : List Nat :=
  if o.ua then [] else if wide then [o.a.toNat, o.a.toNat + 1] else [o.a.toNat]

/-- RSEED (R302). -/
def execRseed (h : Hdr) (o : OpA) (s : State) : Out :=
  .next (s.issueWord h [] (seedRegs o true) fun s c act =>
    .done (s.onWave c.w fun w => w.onLanes act fun l t =>
      { t with seed := BitVec.ofNat 64 (srcA s c.wave o l 64) ^^^ (BitVec.ofNat 64 t.tid * 0xD6E8FEB86659FD93) }) [] [])

/-- RAND (R302). -/
def execRand (h : Hdr) (o : OpA) (s : State) : Out :=
  let ty := o.ty.toNat
  let d := o.d.toNat
  .next (s.issueWord h (if ty = 7 then [d, d + 1] else [d]) [] fun s c act =>
    let z (l : Nat) : Nat := (seedStep (c.wave.thread l).seed).2.toNat
    let out (l : Nat) : List RegWrite :=
      if ty = 7 then vecWrites 7 l d (z l)
      else if ty = 6 then vecWrites 6 l d (z l / 2 ^ 32)
      else vecWrites 10 l d (f32.round 0 false (.fin false (z l / 2 ^ 40) (-24)))
    .done (s.setSeeds c act fun t => (seedStep t.seed).1) (act.flatMap out) [])

/-- The value that PRUNE gives (R302), from the step's u, the bits of x and of T. -/
def pruneBits (unb : Bool) (u x t : Nat) : Nat :=
  let xv := f32.decode x
  let tv := f32.decode t
  if xv.isNan then f32.nan
  else if xv.isZero then x
  else if !xv.isFinite || tv.isNan || tv.isZero || tv.isNeg then x
  else if !tv.isFinite then 0
  else
    let mag : Nat := x % 2 ^ 31
    let scaled := Fl.mul (.fin false u 0) tv
    if scaled.lt ((f32.decode mag).scale 24) then
      if unb then x / 2 ^ 31 * 2 ^ 31 + (if (f32.decode mag).lt tv then t % 2 ^ 31 else mag) else x
    else 0

/-- PRUNE (R302). It reads x and the threshold T as f32, and its slag rules are those of both (R76, R77; log entry 63). -/
def execPrune (h : Hdr) (o : OpA) (s : State) : Out :=
  .next (s.issueWord h [o.d.toNat] (seedRegs o false) fun s c act =>
    let x (l : Nat) : Nat := srcA s c.wave o l 32
    let t := (s.readU c.wave (o.b.toNat % 64)).toNat % 2 ^ 32
    match if o.sp then none else slagTrap 0x64 0 act [⟨0, 10, x⟩, ⟨1, 10, fun _ => t⟩] with
    | some t => .trap s t
    | none =>
      let out (l : Nat) : Nat :=
        let u := (seedStep (c.wave.thread l).seed).2.toNat / 2 ^ 40
        orSlag 10 [(10, x l), (10, t)] (pruneBits o.x1 u (x l) t)
      .done (s.setSeeds c act fun t => (seedStep t.seed).1) (act.flatMap fun l => vecWrites 10 l o.d.toNat (out l)) [])

/-! ### SPCMP and SPEXP -/

/-- `n` registers from one on. -/
def regRange (r n : Nat) : List Nat := (List.range n).map fun i => r + i

/-- The columns of a row with a nonzero element (R305). -/
def nonzeroCols (ty : Nat) (row : List Reg) : List Nat :=
  (List.range row.length).filter fun c =>
    let x := (row.getD c 0).toNat
    if ty = 10 then x % 2 ^ 31 != 0 else x != 0

/-- Four index bytes in each register. -/
def indexWords (k : Nat) (idx : List Nat) : List Nat :=
  (List.range ((k + 3) / 4)).map fun r => sumOf (List.range 4) fun j => idx.getD (4 * r + j) 0 * 2 ^ (8 * j)

/-- What SPCMP writes in a lane (R305): the values of the columns `cols` of a row, zeros behind them; their indices from
`cbase` on, 255 at most; the header. -/
def compactLane (k cbase off : Nat) (ovf : Bool) (row cols : List Nat) : List Nat :=
  ((List.range k).map fun p => match cols[p]? with
    | some x => row.getD x 0
    | none => 0) ++
  indexWords k (cols.map fun x => min (cbase + x) 255) ++ [if ovf then 0xFFFF else off * 16 + cols.length]

/-- SPCMP (R305). With no nonzero element in any active lane nothing overflows (R307), at OBASE 4,095 too (log entry
62). -/
def execSpcmp (h : Hdr) (o : OpA) (s : State) : Out :=
  let k := o.c.toNat
  let d := o.d.toNat
  .next (s.issueWord h (regRange d (compactRegs k)) (regRange o.a.toNat k) fun s c act =>
    let row (l : Nat) : List Reg := (List.range k).map fun i => s.readV c.wave l (o.a.toNat + i)
    let nz (l : Nat) : List Nat := nonzeroCols o.ty.toNat (row l)
    let base := (s.readU c.wave (o.b.toNat % 64)).toNat
    let cbase := slice base 16 8
    let off (l : Nat) : Nat := base % 2 ^ 12 + sumOf (act.filter fun j => decide (j < l)) fun j => (nz j).length
    let bad (l : Nat) : Bool :=
      decide ((nz l).length ≥ 15 ∨ off l ≥ 4095) ||
        (match (nz l).getLast? with | some x => decide (cbase + x ≥ 255) | none => false)
    let ovf := act.any bad && act.any fun l => !(nz l).isEmpty
    let lane (l : Nat) : List RegWrite :=
      ((compactLane k cbase (off l) ovf ((row l).map fun x => x.toNat) (nz l)).mapIdx fun i x =>
        .vec l (d + i) (BitVec.ofNat 32 x)) ++ [.pred l o.x3.toNat ovf]
    .done s (act.flatMap lane) [])

/-- A header that SPEXP cannot expand (R306). -/
def badHeader (k header : Nat) : Bool := decide (header / 16 = 0xFFF ∨ header % 16 = 15 ∨ header % 16 > k)

/-- The row that SPEXP gives in a lane (R306), from the registers of its compact form. -/
def expandLane (k cbase : Nat) (reg : Nat → Nat) : List Nat :=
  let header := reg (k + (k + 3) / 4) % 2 ^ 16
  let idx (p : Nat) : Nat := slice (reg (k + p / 4)) (8 * (p % 4)) 8
  let row : Tab Nat := if badHeader k header then [] else (List.range (header % 16)).foldl (fun t p =>
    if cbase ≤ idx p ∧ idx p - cbase < k then t.put (idx p - cbase) (reg p) 0 else t) []
  (List.range k).map fun i => row.getD i 0

/-- SPEXP (R306). -/
def execSpexp (h : Hdr) (o : OpA) (s : State) : Out :=
  let k := o.c.toNat
  let d := o.d.toNat
  let a := o.a.toNat
  .next (s.issueWord h (regRange d k) (regRange a (compactRegs k)) fun s c act =>
    let cbase := slice (s.readU c.wave (o.b.toNat % 64)).toNat 16 8
    let reg (l i : Nat) : Nat := (s.readV c.wave l (a + i)).toNat
    let lane (l : Nat) : List RegWrite :=
      ((expandLane k cbase (reg l)).mapIdx fun i x => .vec l (d + i) (BitVec.ofNat 32 x)) ++
        [.pred l o.x3.toNat (badHeader k (reg l (k + (k + 3) / 4) % 2 ^ 16))]
    .done s (act.flatMap lane) [])

end Sys2Proof.Machine
end

