-- ==== Sys2Proof/Machine/Steal.lean ====
section
/-! DEFINITION. Stealing of task-queue entries (R320, R321, R435). -/
namespace Sys2Proof.Machine

/-- Dies adjacent to a die, lower-numbered first, then the diagonal one (R14). -/
def nearDies (d : Nat) : List Nat := (List.range 4).filter (fun e => e != d && e != 3 - d) ++ [3 - d]

/-- The victims of a thief in its search order (R320); within another group its cores 0 to 7 ascending (log entry 80). -/
def victimOrder (c : Nat) : List Nat :=
  let g := groupOfCore c
  let d := dieOfGroup g
  let cores (h : Nat) : List Nat := (List.range 8).map fun i => h * 8 + i
  ((List.range 7).map fun i => g * 8 + (c % 8 + 1 + i) % 8) ++
  (((List.range 4).map fun i => d * 5 + (g % 5 + 1 + i) % 5) ++
    (nearDies d).flatMap fun e => (List.range 5).map fun i => e * 5 + i).flatMap cores

/-- A core may steal: it has nothing that it can place, room in its queue, an entry of its buffer pool (R330), and no steal
under way. -/
def State.idles (s : State) (c : Nat) : Bool :=
  decide (c < 160) && !(s.core c).gated && s.poolTakes c 3 && decide ((s.core c).queue.length < 16) && !(s.steals.any fun p => p.2.thief == c && p.2.step < 4) &&
    (s.offers c).all fun o => (s.seatFor c o).isNone

/-- STEAL_REQUEST (R320, step 1): the thief asks the first victim of its order. -/
def execStealRequest (thief : Nat) (s : State) : Out :=
  .next (if s.idles thief then
      let (n, s) := s.fresh
      { s with steals := s.steals.insert n { thief, victim := (victimOrder thief).headD 0 } }
    else s)

/-- The entry that a victim lends, with its queue after (R320): `none` where it refuses. An entry that is lent already does
not count among those that the victim holds, and is not its tail (log entry 80). -/
def lend (queue : List Chunk) : Option (Chunk × List Chunk) :=
  let free := queue.filter fun e => !e.lent
  match free.getLast? with
  | none => none
  | some e =>
    let mark : List Chunk := queue.map fun x => if x.job = e.job ∧ x.first = e.first then { x with lent := true } else x
    if 2 ≤ free.length ∨ !e.started then some (e, mark)
    else if 2 ≤ e.count then
      let n := e.count / 2
      let upper : Chunk := { job := e.job, first := e.first + (e.count - n), count := n }
      some (upper, (queue.map fun x => if x.job = e.job ∧ x.first = e.first then { x with count := x.count - n } else x) ++
        [{ upper with lent := true }])
    else none

/-- STEAL_LEND (R320, steps 2 and 3): the victim serves its oldest request. A refused thief asks its next victim. -/
def execStealLend (k : Nat) (s : State) : Out :=
  .next (match s.steals.find k with
    | none => s
    | some x =>
      let older := s.steals.any fun p => decide (p.1 < k) && p.2.victim == x.victim && p.2.step == 1
      if x.step ≠ 1 ∨ older then s
      else match lend (s.core x.victim).queue with
        | some (e, queue) =>
          let s := s.onCore x.victim fun c => { c with queue }
          { s with steals := s.steals.insert k { x with chunk := some e, step := 3, since := s.fabric } }
        | none =>
          let s := { s with steals := s.steals.remove k }
          match (victimOrder x.thief)[x.place + 1]? with
          | none => s
          | some v =>
            let (n, s) := s.fresh
            { s with steals := s.steals.insert n { thief := x.thief, victim := v, place := x.place + 1 } })

/-- A queue without the entry of a chunk that is lent. -/
def dropChunk (queue : List Chunk) (e : Chunk) : List Chunk :=
  queue.filter fun x => !(x.job == e.job && x.first == e.first && x.lent)

/-- A queue in which the entry of a chunk is no longer lent. -/
def unlend (queue : List Chunk) (e : Chunk) : List Chunk :=
  queue.map fun x => if x.job = e.job ∧ x.first = e.first then { x with lent := false } else x

/-- STEAL_ACCEPT (R320, step 4): the thief appends the entry and acknowledges; it dispatches from its copy once the
acknowledgement has been accepted (R321). A power-gated thief does nothing: the watchdog ends the steal (R321). -/
def execStealAccept (k : Nat) (s : State) : Out :=
  .next (match s.steals.find k with
    | some x =>
      match x.chunk with
      | some e =>
        if x.step ≠ 3 ∨ (s.core x.thief).gated then s
        else if (s.job e.job).phase.active then
          let s := s.onCore x.thief fun c => { c with queue := c.queue ++ [{ e with lent := true }] }
          { s with steals := s.steals.insert k { x with step := 4 } }
        else { s with steals := s.steals.remove k }
      | none => s
    | none => s)

/-- STEAL_ACK (R320, step 5; R321): the victim frees the entry, or refuses an acknowledgement after its reclaim, and the
thief discards its copy. -/
def execStealAck (k : Nat) (s : State) : Out :=
  .next (match s.steals.find k with
    | some x =>
      match x.chunk with
      | some e =>
        if x.step ≠ 4 then s
        else
          let s := { s with steals := s.steals.remove k }
          if x.reclaimed then s.onCore x.thief fun c => { c with queue := dropChunk c.queue e }
          else
            let s := s.onCore x.victim fun c => { c with queue := dropChunk c.queue e }
            s.onCore x.thief fun c => { c with queue := unlend c.queue e }
      | none => s
    | none => s)

/-- The victim reclaims what it lent (R321): no acknowledgement within `limit` fabric clocks of the transfer. The steal of a
thief that is power-gated ends with it; another thief's acknowledgement is still to be refused. -/
def State.reclaim (s : State) (k limit : Nat) : State :=
  match s.steals.find k with
  | some x =>
    match x.chunk with
    | some e =>
      if x.step < 3 ∨ x.reclaimed ∨ s.fabric < x.since + limit then s
      else
        let s := s.onCore x.victim fun c => { c with queue := unlend c.queue e }
        if (s.core x.thief).gated then { s with steals := s.steals.remove k }
        else { s with steals := s.steals.insert k { x with reclaimed := true } }
    | none => s
  | none => s

/-- STEAL_WATCHDOG (R321): 4,096 fabric clocks. -/
def execStealWatchdog (k : Nat) (s : State) : Out := .next (s.reclaim k 4096)

end Sys2Proof.Machine
end

