-- ==== Sys2Proof/Machine/StreamEngine.lean ====
section
/-! DEFINITION. The stream engines: the stream commands (R265 to R269), their errors (R429 to R431), the skip of a SLOOP
of COUNT 0. -/
namespace Sys2Proof.Machine

/-- A command has been performed, and the program goes on at an address, running; one whose job has failed or been
cancelled stops (R336). -/
def Program.goTo (p : Program) (a : Word) : Program :=
  if p.halting then { p with busy := false, state := 3 } else { p with here := a, state := 1, misses := [], window := none }

/-- The program goes on at the next command. -/
def State.nextCommand (s : State) (e k : Nat) : State :=
  s.onProgram e k fun p => p.goTo (p.here + 32)

/-- The program whose command an engine performs, with the engine. -/
def State.onStream (s : State) (f : State → Nat → Nat → Program → State) : State :=
  match s.command with
  | some (.stream e k) => if (s.program e k).busy then f s e k (s.program e k) else s
  | _ => s

/-! ### Walks and pushes -/

def walkOrder (c : CmdWalk) : List Nat :=
  let l := [c.o0, c.o1, c.o2, c.o3, c.o4].map BitVec.toNat
  if l.all (· == 0) then [0, 1, 2, 3, 4] else l

/-- REL adds PARM to an address (R267). -/
def relAddr (rel : Bool) (a : Word) (p : Program) : Word := if rel then a + p.parm else a

def execSwalk (c : CmdWalk) (s : State) : Out :=
  .next (s.onStream fun s e k p =>
    let va := (relAddr c.rel c.tsr p).toNat
    let card := (s.job p.job).card
    let tx := [c.tx0, c.tx1, c.tx2, c.tx3, c.tx4].map BitVec.toNat
    let bad (s : State) : State := s.failStream e k [] { code := 0x0205, info0 := va, info1 := 0 }
    if windowOf va ≠ 0 ∨ va + 64 > stackBase ∨ va % 64 ≠ 0 then s.failStream e k [] (addressViolation va 64)
    else match s.readTsr (s.streamEngine e p) card va with
      | (.miss on, s) => s.onProgram e k fun p => { p with misses := on }
      | (.absent, s) => s
      | (.fail x, s) => s.failStream e k [] x
      | (.ok (t, fmt), s) =>
        if !t.tileOk fmt tx then bad s
        else
          (s.onProgram e k fun p =>
            { p with walk := some { tsr := t.bits, tile := tx, order := walkOrder c,
                                    t := c.start.toNat % t.tiles tx } }).nextCommand e k)

/-- The rings that an SPUSH targets: block and offset. -/
def State.pushTargets (s : State) (c : CmdPush) (p : Program) : List (Nat × Nat) :=
  (onesOf 8 c.bmask.toNat).map fun i => (s.blockOf p.cluster i, c.ring.toNat)

/-- The bytes of a push by offset in a slot: the tile, then an armed stamp (R268). -/
def pushBytes (tile : List Byte) (stamp : Option Nat) (time : Word) : Tab Byte :=
  let t : Tab Byte := tile.mapIdx fun i b => (i, b)
  match stamp with
  | some o => (bytesOfNat 8 time.toNat).mapIdx (fun i b => (o + i, b)) |>.foldl (fun t x => t.insert x.1 x.2) t
  | none => t

/-- A program's release on codes of words (R144): whoever acquires there knows what happens before the program's commands. -/
def State.programTells (s : State) (p : Program) (keys codes : List Nat) : State :=
  if p.told.isEmpty then s
  else s.onJob p.job fun j => { j with hb := j.hb.publish p.told keys codes }

/-- The reach of an engine's release at device scope. -/
def deviceReach : List Nat := [5 * 2 ^ 40]

/-- The claims of an SPUSH (R268): one slot in each target at once, each held by a delivery that has no data yet. -/
def State.claimPush (s : State) (e k number : Nat) (targets : List (Nat × Nat)) : State :=
  targets.foldl (fun s t =>
    let heard := s.heardAt t.1 [freeCode t.1 t.2 ((s.ring t.1 t.2).clm.toNat % (s.ring t.1 t.2).win)]
    let (c, s) := s.claimSlot t.1 t.2
    let s := s.onProgram e k fun p => { p with told := joinKnown p.told heard }
    s.onBlock t.1 fun x => { x with deliveries := x.deliveries ++
      [{ kind := 1, owner := e * 16 + k, number, claim := some c, accepted := false }] }) s

/-- The deliveries of a push get their data and are accepted (R90). -/
def State.fillPush (s : State) (e k number : Nat) (bytes : Tab Byte) : State :=
  { s with blocks := s.blocks.mapVals fun x =>
      let mine (d : Delivery) : Bool := d.kind == 1 && d.owner == e * 16 + k && d.number == number && !d.accepted
      let fill (d : Delivery) : Delivery :=
        if mine d then
          { d with accepted := true, bytes := match d.claim with
              | some c => bytes.map fun b => (c.base + b.1, b.2)
              | none => [] }
        else d
      { x with
        absent := x.absent ++ (x.deliveries.filter mine).flatMap fun d => (fill d).lines
        deliveries := x.deliveries.map fill } }

/-- The slots that a push has claimed: block, offset, size. -/
def State.pushSlots (s : State) (e k number : Nat) : List (Nat × Nat × Nat) :=
  s.blocks.flatMap fun x => x.2.deliveries.filterMap fun d =>
    if d.kind == 1 && d.owner == e * 16 + k && d.number == number then d.claim.map fun c => (x.1, c.base, c.size)
    else none

/-- The slots that a push to rings would claim now. -/
def State.nextSlots (s : State) (targets : List (Nat × Nat)) : List (Nat × Nat × Nat) :=
  targets.map fun t => let r := s.ring t.1 t.2; (t.1, r.base + r.clm.toNat % r.win * r.ssize, r.ssize)

/-- A write-after-write edge of R143 between slots. -/
def slotsMeet (x y : List (Nat × Nat × Nat)) : Bool :=
  x.any fun a => y.any fun b => (Span.mk a.1 a.2.1 (a.2.1 + a.2.2)).meets ⟨b.1, b.2.1, b.2.1 + b.2.2⟩

/-- A push whose slots are claimed reads its tile once, a line at a time (R150), delivers it once the cores' buffer pools
have entries for its deliveries (R330), and moves the walk on (R268, steps 2 to 5). -/
def State.readPush (s : State) (e k : Nat) (targets : List (Nat × Nat)) : State :=
  let p := s.program e k
  match p.push, p.walk with
  | some (number, time), some w =>
    let t := parseTsr w.tsr
    let fmt := ((s.job p.job).card.slot t.slot).fmt
    let segs := t.segs fmt w.tile w.order w.t
    match s.gather (s.streamEngine e p) (tileRuns segs) p.got with
    | (.miss on, s) => s.onProgram e k fun p => { p with misses := on }
    | (.absent, s) => s
    | (.fail x, s) => s.failStream e k targets x
    | (.ok got, s) =>
      if got.length < runsLength (tileRuns segs) || targets.any (fun t => !s.poolTakes (s.block t.1).core 1) then
        s.onProgram e k fun p => { p with got, misses := [] }
      else
        let s := s.fillPush e k number (pushBytes (tileBytes segs (tileSize fmt w.tile) got) p.stamp time)
        let slots := s.pushSlots e k number
        (s.onProgram e k fun p =>
          { p with push := none, got := [], stamp := none, inflight := p.inflight ++ [{ number, pc := p.here, slots }], targets := targets
                   walk := some { w with t := (w.t + 1) % t.tiles w.tile } }).nextCommand e k
  | _, _ => s

/-- The rings that an SPUSH names which is not executable (R429): those of the blocks that the cluster has, where the ring
offset is one. -/
def State.rawTargets (s : State) (p : Program) (bmask off : Nat) : List (Nat × Nat) :=
  let card := (s.job (s.cluster p.cluster).job).card
  if off + 32 > card.shared ∨ off % 32 ≠ 0 then []
  else ((onesOf 8 bmask).filter fun i => decide (i < card.blocks)).map fun i => (s.blockOf p.cluster i, off)

/-- SPUSH (R268, R429, R430, R42). It claims once no earlier push of its program in flight has a slot that overlaps one of
its own (R143). -/
def execSpush (c : CmdPush) (s : State) : Out :=
  .next (s.onStream fun s e k p =>
    let cl := s.cluster p.cluster
    let card := (s.job cl.job).card
    let off := c.ring.toNat
    let targets := s.pushTargets c p
    let addr := blockBase + off
    if p.push.isSome then s.readPush e k targets
    else if c.bmask.toNat ≥ 2 ^ card.blocks then
      let bits := ((commandBits (.spush c)).map fun w => (w.setWidth 64).toNat).getD 0
      s.failStream e k (s.rawTargets p c.bmask.toNat off) { code := 0x0201, info0 := bits, info1 := 3 }
    else if off + 32 > card.shared ∨ off % 32 ≠ 0 then
      s.failStream e k [] { code := 0x0202, info0 := addr, info1 := 3 + if off % 32 ≠ 0 then 256 else 0 }
    else match cl.life with
      | .ended => s.failStream e k [] { code := 0x0208, info0 := c.bmask.toNat, info1 := off }
      | .dropped => s.failStream e k [] { code := 0x0208, info0 := c.bmask.toNat, info1 := off }
      | _ =>
        match p.walk with
        | none => s.failStream e k targets { code := 0x0206, info0 := 0, info1 := 0 }
        | some w =>
          let rings := targets.map fun t => s.ring t.1 t.2
          if (!cl.life.resident) ∨ rings.any fun r => !r.open then s.onProgram e k fun p => { p with state := 2, window := some (c.bmask.toNat, off) }
          else
            let t := parseTsr w.tsr
            let size := tileSize ((card.slot t.slot).fmt) w.tile
            let least := (minBy (rings.map fun r => r.ssize) id).getD 0
            if size > least then s.failStream e k targets { code := 0x0204, info0 := size, info1 := least }
            else match p.stamp.filter fun o => decide (o + 8 > least) with
              | some o => s.failStream e k targets { code := 0x0204, info0 := o + 8, info1 := least }
              | none =>
                if p.inflight.any fun x => slotsMeet (s.nextSlots targets) x.slots then s
                else
                  let (number, s) := s.fresh
                  let s := s.claimPush e k number targets
                  (s.onProgram e k fun p => { p with push := some (number, s.time), state := 1, window := none }).readPush e k targets)

/-! ### Loops, marks and the end -/

def execSloop (c : CmdLoop) (s : State) : Out :=
  .next (s.onStream fun s e k p =>
    if p.stack.length ≥ 4 then s.failStream e k [] { code := 0x0207, info0 := 1, info1 := 0 }
    else if c.count = 0 then (s.onProgram e k fun p => { p with skip := some 0 }).nextCommand e k
    else (s.onProgram e k fun p =>
      { p with stack := (c.count.toNat, p.here + 32) :: p.stack }).nextCommand e k)

/-- One command passed over after a SLOOP of COUNT 0, by its CMD (R268). -/
def State.skipCommand (s : State) (e k cmd : Nat) : State :=
  (s.onProgram e k fun p =>
    { p with skip := match p.skip with
        | some d => if cmd = 0x12 then some (d + 1) else if cmd = 0x13 then (if d = 0 then none else some (d - 1)) else some d
        | none => none }).nextCommand e k

def execSendl (s : State) : Out :=
  .next (s.onStream fun s e k p =>
    match p.stack with
    | [] => s.failStream e k [] { code := 0x0207, info0 := 0, info1 := 0 }
    | (n, a) :: rest =>
      if n > 1 then s.onProgram e k fun p => { p with stack := (n - 1, a) :: rest }.goTo a
      else (s.onProgram e k fun p => { p with stack := rest }).nextCommand e k)

def execSmark (c : CmdMark) (s : State) : Out :=
  .next (s.onStream fun s e k _ =>
    (s.onProgram e k fun p => { p with stamp := some (8 * c.soff.toNat) }).nextCommand e k)

/-- SHALT waits for every earlier command (R268). -/
def execShalt (_ : CmdHalt) (s : State) : Out :=
  .next (s.onStream fun s e k p =>
    if p.inflight.isEmpty then s.onProgram e k fun p => { p with busy := false, state := 3 } else s)

/-! ### Signals -/

/-- An SSIG acts once every earlier command of its program has completed (R268). -/
def State.onSignal (s : State) (f : State → Nat → Nat → Program → State) : State :=
  s.onStream fun s e k p => if p.inflight.isEmpty then f s e k p else s

/-- The address of a signal: in the global window and aligned, else 0x0202. -/
def sigAddr (a g : Nat) : Option EngineError :=
  if windowOf a ≠ 0 ∨ a + g > stackBase ∨ a % g ≠ 0 then some (addressViolation a g) else none

def execSsigRed (c : CmdSigWord) (s : State) : Out :=
  .next (s.onSignal fun s e k p =>
    let a := (relAddr c.rel c.addr p).toNat
    match sigAddr a 8 with
    | some x => s.failStream e k [] x
    | none =>
      match s.translateAll (s.streamEngine e p).q [a] .write with
      | (.park on, s) => s.onProgram e k fun p => { p with misses := on }
      | (.error code x y _, s) => s.failStream e k [] { code, info0 := x, info1 := y }
      | (.ok pages, s) =>
        let pa := pageAddr pages a
        if s.routeDown pa then (s.reportLost [{ job := p.job, pa }]).nextCommand e k
        else match s.poisonAt pa with
          | some x => s.failStream e k [] { code := 0x0209, info0 := pa / 32 * 32, info1 := x }
          | none =>
            let s := (s.atomicWide p.cluster (s.block (s.blockOf p.cluster 0)).core 5
              { lane := 0, pa, ty := 8, opn := 0, v := c.value, c := 0 }).2
            let s := if (s.job p.job).card.det then
                s.onJob p.job fun j => { j with det := j.det.engineRed p.known (pa / 8) }
              else s
            (s.programTells p deviceReach [wordCode (pa / 8)]).nextCommand e k)

/-- An SSIG at a barrier (R268, R430, 0x020A). -/
def execSsigBarrier (c : CmdSigBar) (s : State) : Out :=
  .next (s.onSignal fun s e k p =>
    let cl := s.cluster p.cluster
    let card := (s.job cl.job).card
    let bar := c.bar.toNat
    let idx := if c.cl then 0 else c.block.toNat
    let b := s.blockOf p.cluster idx
    let n := c.count.toNat
    let x := s.barrier b bar
    let info := bar + (if c.cl then 1024 else 0) + idx * 2 ^ 11
    match cl.life with
    | .ended => s.failStream e k [] { code := 0x0208, info0 := c.block.toNat, info1 := bar }
    | .dropped => s.failStream e k [] { code := 0x0208, info0 := c.block.toNat, info1 := bar }
    | _ =>
      if bar ≥ card.bars ∨ idx ≥ card.blocks then
        s.failStream e k [] { code := 0x020A, info0 := info, info1 := n * 2 ^ 32 }
      else if x.arr + n > x.exp then
        s.failStream e k [] { code := 0x020A, info0 := info, info1 := x.arr + x.exp * 2 ^ 16 + n * 2 ^ 32 }
      else
        let s := s.programTells p (s.blockReaches b) [phaseCode b bar x.ph.toNat]
        (s.onBarrier b bar fun x => x.arrive n none).nextCommand e k)

/-- The poison that an engine meets in a queue control block (R445, 0x0209). -/
def State.queueSector (s : State) (e : Engine) (va : Nat) : Option EngineError :=
  match s.openQueue (.virtual e.q) va .write with
  | (.ok (_, pa), s) => firstSome (List.range 64) fun i => (s.poisonAt (pa + i)).map fun k =>
      { code := 0x0209, info0 := (pa + i) / 32 * 32, info1 := k }
  | _ => none

/-- An SSIG at a queue (R268, 0x020B): retried while the queue is full. -/
def execSsigEnq (c : CmdSigWord) (s : State) : Out :=
  .next (s.onSignal fun s e k p =>
    let a := (relAddr c.rel c.addr p).toNat
    match sigAddr a 64 with
    | some x => s.failStream e k [] x
    | none =>
      match s.queueSector (s.streamEngine e p) a with
      | some x => s.failStream e k [] x
      | none =>
        let tail := if p.told.isEmpty then [] else s.queueCodes (.virtual (s.streamEngine e p).q) a 1 true
        match s.enqueue (.virtual (s.streamEngine e p).q) a fun lgsz => if lgsz = 3 then some [c.value.toNat] else none with
      | (.done 0 _, s) => s
      | (.done _ lost, s) => ((s.programTells p deviceReach tail).reportLost (lostOf p.job lost)).nextCommand e k
      | (.poison sector x, s) => s.failStream e k [] { code := 0x0209, info0 := sector, info1 := x }
      | (.park on, s) => s.onProgram e k fun p => { p with misses := on }
      | (.error code x y, s) => s.failStream e k [] { code, info0 := x, info1 := y }
      | (.malformed bits, s) => s.failStream e k [] { code := 0x020B, info0 := a, info1 := bits }
      | (.registers _, s) =>
        let bits := match s.openQueue (.virtual (s.streamEngine e p).q) a .read with
          | (.ok (_, pa), s) => s.homeNat (pa + 8) 8
          | _ => 0
        s.failStream e k [] { code := 0x020B, info0 := a, info1 := bits })

end Sys2Proof.Machine
end

