-- ==== Sys2Proof/Machine/Transact.lean ====
section
/-! DEFINITION. The meanings of TBEGIN, TEND and TABORT (R241 to R244, R136). -/
namespace Sys2Proof.Machine

/-- The transaction words are forbidden in a deterministic job (R393). -/
def txnForbidden (op : Nat) (s : State) (c : Ctx) (act : List Nat) : Option Effect :=
  if c.det then some (.trap s (forbidden op 4 act)) else none

/-- A lane's transaction starts (R242). Its restart point is this word, at which the region starts (R44). -/
def Thread.beginTxn (t : Thread) (target : Word) : Thread :=
  { t with txn := some { target }, tstat := BitVec.ofNat 64 (2 ^ 31 + slice t.tstat.toNat 16 8 * 2 ^ 16) }

/-- TBEGIN: a lane with an open transaction aborts with cause 8. -/
def execTbegin (h : Hdr) (o : OpS) (s : State) : Out :=
  .next (s.issueBoundaryIn h [] []
    (fun s c act =>
      if c.det then (act, s)
      else
        let tx := act.filter fun l => (c.wave.thread l).txn.isSome
        (act.filter fun l => !tx.contains l, s.abortLanes c tx 8 0))
    (txnForbidden 0x19)
    (fun s c act =>
      .done (s.onWave c.w fun w => w.onLanes act fun _ t =>
        t.beginTxn (c.pc + 8 + 8 * o.imm.signExtend 64)) [] []))

/-- The physical lines that a transaction has read, and those that it has written. -/
def Txn.readLines (x : Txn) : List Nat := distinct (x.reads.map fun p => p.1 / 128)
def Txn.writeLines (x : Txn) : List Nat := distinct (x.writes.map fun p => p.1 / 128)

/-- Two transactions conflict: the write set of one meets the other's read or write set (R243, step 2). -/
def Txn.conflicts (x y : Txn) : Bool :=
  (x.writeLines.any fun l => y.writeLines.contains l || y.readLines.contains l) ||
    (y.writeLines.any fun l => x.readLines.contains l)

/-- Every byte that a transaction read holds the value that it read (R136). -/
def State.validates (s : State) (x : Txn) : Bool := !x.torn && x.reads.all fun p => s.home p.1 == p.2

/-- The core's older stores to the lines that a transaction writes reach their homes (R117, R119), and its cached copies of them
go (R94). -/
def State.settleWrites (s : State) (c : Ctx) (x : Txn) : State :=
  x.writeLines.foldl (fun s n => let (lost, s) := (s.dropLine c.core n).drainLine c.core n; s.reportLost lost) s

/-- A transaction's writes reach their homes at one moment (R136), after the core's older stores to their lines, and the committing core's cached copies go (R94); no LKP that reads a cached line of them mixes it (R137). -/
def State.commitTxn (s : State) (c : Ctx) (l : Nat) (x : Txn) : State :=
  let s := s.settleWrites c x
  let (lost, s) := s.writeOut x.writes
  let s := s.reportLost (lostOf c.job lost)
  let s := { s with cores := s.cores.mapVals fun k =>
    { k with whole := distinct (k.whole ++ x.writeLines.filter fun n => (k.lookup.find n).isSome) } }
  s.onWave c.w fun w => w.onLanes [l] fun _ t => { t with txn := none, tstat := 0 }

/-- The core's older stores to the lines that transactions read reach their homes, where the reads are compared
(R136). -/
def State.settleReads (s : State) (c : Ctx) (act : List Nat) : State :=
  let lines := distinct (act.flatMap fun l => match ((s.wave c.w).thread l).txn with
    | some x => x.readLines
    | none => [])
  lines.foldl (fun s n => let (lost, s) := s.drainLine c.core n; s.reportLost lost) s

/-- What TEND decides of its lanes' transactions (R243, steps 2 and 3): those that commit, the lanes that conflict with a
lower lane, the lanes that have read a value which has changed. -/
def State.judge (s : State) (c : Ctx) (act : List Nat) : List (Nat × Txn) × List Nat × List Nat :=
  let opened : List (Nat × Txn) := act.filterMap fun l => ((s.wave c.w).thread l).txn.map fun x => (l, x)
  let beaten (p : Nat × Txn) : Bool := opened.any fun q => decide (q.1 < p.1) && q.2.conflicts p.2
  let rest := opened.filter fun p => !beaten p
  (rest.filter fun p => s.validates p.2, (opened.filter beaten).map Prod.fst,
    (rest.filter fun p => !s.validates p.2).map Prod.fst)

/-- The words that transactions wrote, which a TEND that commits them releases and acquires on (Table 5-2). -/
def txnObjs (l : List (Nat × Txn)) : List Obj := (distinct (l.flatMap fun p => p.2.words)).map wordObj

/-- TEND (R243), after the stores that the committing lanes' release waits for have reached their homes. -/
def State.endTxns (s : State) (c : Ctx) (pd : Nat) (act : List Nat) : Effect :=
  let (good, lost, stale) := s.judge c act
  let s := good.foldl (fun s p => s.commitTxn c p.1 p.2) s
  let words := distinct (good.flatMap fun p => p.2.writes.map fun x => wordCode (x.1 / 8))
  let s := if good.isEmpty then s
    else (((s.noteAcquire c 5 words).noteWrites c true words).noteRelease c 5 words).acquire c 5 (txnObjs good) words
  let s := (s.abortLanes c lost 2 0).abortLanes c stale 1 0
  .done s (act.map fun l => .pred l pd (good.any fun p => p.1 == l)) []

def execTend (h : Hdr) (o : OpS) (s : State) : Out :=
  .next (s.issueBoundaryIn h [] [] (fun s _ act => (act, s)) (txnForbidden 0x1A)
    (fun s c act =>
      let s := s.settleReads c act
      let (good, _, _) := s.judge c act
      if good.isEmpty then s.endTxns c (o.d.toNat % 8) act
      else s.releaseThen c 5 (txnObjs good) fun s => s.endTxns c (o.d.toNat % 8) act)
    [] (fun _ _ _ => true))

def execTabort (h : Hdr) (o : OpS) (s : State) : Out :=
  .next (s.issueBoundaryIn h [] [] (fun s _ act => (act, s)) (txnForbidden 0x1B)
    (fun s c act =>
      let tx := act.filter fun l => ((s.wave c.w).thread l).txn.isSome
      .done (s.abortLanes c tx 6 (o.imm.toNat % 256)) [] []))

end Sys2Proof.Machine
end

