-- ==== Sys2Proof/Machine/Dispatch.lean ====
section
/-! DEFINITION. One arm for each instruction, engine command and event: its meaning, or a refusal by name. -/
namespace Sys2Proof.Machine

def exec (i : Instr) (s : State) : Host.Outcome State Fault Refusal :=
  match i with
  | .iadd h o => Sys2Proof.Machine.execIadd h o s
  | .isub h o => Sys2Proof.Machine.execIsub h o s
  | .imul h o => Sys2Proof.Machine.execImul h o s
  | .imulh h o => Sys2Proof.Machine.execImulh h o s
  | .imad h o => Sys2Proof.Machine.execImad h o s
  | .imin h o => Sys2Proof.Machine.execImin h o s
  | .imax h o => Sys2Proof.Machine.execImax h o s
  | .iabs h o => Sys2Proof.Machine.execIabs h o s
  | .ineg h o => Sys2Proof.Machine.execIneg h o s
  | .idiv h o => Sys2Proof.Machine.execIdiv h o s
  | .irem h o => Sys2Proof.Machine.execIrem h o s
  | .lea h o => Sys2Proof.Machine.execLea h o s
  | .and h o => Sys2Proof.Machine.execAnd h o s
  | .or h o => Sys2Proof.Machine.execOr h o s
  | .xor h o => Sys2Proof.Machine.execXor h o s
  | .andn h o => Sys2Proof.Machine.execAndn h o s
  | .shl h o => Sys2Proof.Machine.execShl h o s
  | .shr h o => Sys2Proof.Machine.execShr h o s
  | .sar h o => Sys2Proof.Machine.execSar h o s
  | .rotl h o => Sys2Proof.Machine.execRotl h o s
  | .funsh h o => Sys2Proof.Machine.execFunsh h o s
  | .bfx h o => Sys2Proof.Machine.execBfx h o s
  | .bfi h o => Sys2Proof.Machine.execBfi h o s
  | .popc h o => Sys2Proof.Machine.execPopc h o s
  | .clz h o => Sys2Proof.Machine.execClz h o s
  | .ctz h o => Sys2Proof.Machine.execCtz h o s
  | .brev h o => Sys2Proof.Machine.execBrev h o s
  | .prmt h o => Sys2Proof.Machine.execPrmt h o s
  | .isetp h o => Sys2Proof.Machine.execIsetp h o s
  | .isel h o => Sys2Proof.Machine.execIsel h o s
  | .mov h o => Sys2Proof.Machine.execMov h o s
  | .fadd h o => Sys2Proof.Machine.execFadd h o s
  | .fsub h o => Sys2Proof.Machine.execFsub h o s
  | .fmul h o => Sys2Proof.Machine.execFmul h o s
  | .ffma h o => Sys2Proof.Machine.execFfma h o s
  | .fmin h o => Sys2Proof.Machine.execFmin h o s
  | .fmax h o => Sys2Proof.Machine.execFmax h o s
  | .fsetp h o => Sys2Proof.Machine.execFsetp h o s
  | .frcp h o => Sys2Proof.Machine.execFrcp h o s
  | .frsq h o => Sys2Proof.Machine.execFrsq h o s
  | .fsqrt h o => Sys2Proof.Machine.execFsqrt h o s
  | .fdiv h o => Sys2Proof.Machine.execFdiv h o s
  | .fex2 h o => Sys2Proof.Machine.execFex2 h o s
  | .flg2 h o => Sys2Proof.Machine.execFlg2 h o s
  | .fsin h o => Sys2Proof.Machine.execFsin h o s
  | .fcos h o => Sys2Proof.Machine.execFcos h o s
  | .ftanh h o => Sys2Proof.Machine.execFtanh h o s
  | .frnd h o => Sys2Proof.Machine.execFrnd h o s
  | .fcls h o => Sys2Proof.Machine.execFcls h o s
  | .fscl h o => Sys2Proof.Machine.execFscl h o s
  | .fcvt h o => Sys2Proof.Machine.execFcvt h o s
  | .icvt h o => Sys2Proof.Machine.execIcvt h o s
  | .npack h o => Sys2Proof.Machine.execNpack h o s
  | .nunpk h o => Sys2Proof.Machine.execNunpk h o s
  | .bxhdr h o => Sys2Proof.Machine.execBxhdr h o s
  | .dot4 h o => Sys2Proof.Machine.execDot4 h o s
  | .shfl h o => Sys2Proof.Machine.execShfl h o s
  | .vote h o => Sys2Proof.Machine.execVote h o s
  | .matchLanes h o => Sys2Proof.Machine.execMatchLanes h o s
  | .wred h o => Sys2Proof.Machine.execWred h o s
  | .wscan h o => Sys2Proof.Machine.execWscan h o s
  | .plop h o => Sys2Proof.Machine.execPlop h o s
  | .pget h o => Sys2Proof.Machine.execPget h o s
  | .pset h o => Sys2Proof.Machine.execPset h o s
  | .movi h o => Sys2Proof.Machine.execMovi h o s
  | .movhi h o => Sys2Proof.Machine.execMovhi h o s
  | .iaddi h o => Sys2Proof.Machine.execIaddi h o s
  | .imuli h o => Sys2Proof.Machine.execImuli h o s
  | .andi h o => Sys2Proof.Machine.execAndi h o s
  | .ori h o => Sys2Proof.Machine.execOri h o s
  | .xori h o => Sys2Proof.Machine.execXori h o s
  | .isetpi h o => Sys2Proof.Machine.execIsetpi h o s
  | .faddi h o => Sys2Proof.Machine.execFaddi h o s
  | .fmuli h o => Sys2Proof.Machine.execFmuli h o s
  | .fsetpi h o => Sys2Proof.Machine.execFsetpi h o s
  | .pairedWord settle h1 h2 => Sys2Proof.Machine.execPairedWord settle h1 h2 s
  | .illegalEncoding w => Sys2Proof.Machine.execIllegalEncoding w s
  | .bra h o => Sys2Proof.Machine.execBra h o s
  | .brx h o => Sys2Proof.Machine.execBrx h o s
  | .call h o => Sys2Proof.Machine.execCall h o s
  | .ret h o => Sys2Proof.Machine.execRet h o s
  | .meet h o => Sys2Proof.Machine.execMeet h o s
  | .meetClear h o => Sys2Proof.Machine.execMeetClear h o s
  | .exit h o => Sys2Proof.Machine.execExit h o s
  | .nop h o => Sys2Proof.Machine.execNop h o s
  | .trap h o => Sys2Proof.Machine.execTrap h o s
  | .sleep h o => Sys2Proof.Machine.execSleep h o s
  | .sleepEnd wave => Sys2Proof.Machine.execSleepEnd wave s
  | .sift h o => Sys2Proof.Machine.execSift h o s
  | .sifth h o => Sys2Proof.Machine.execSifth h o s
  | .siftComplete cluster => Sys2Proof.Machine.execSiftComplete cluster s
  | .rseed h o => Sys2Proof.Machine.execRseed h o s
  | .rand h o => Sys2Proof.Machine.execRand h o s
  | .prune h o => Sys2Proof.Machine.execPrune h o s
  | .spcmp h o => Sys2Proof.Machine.execSpcmp h o s
  | .spexp h o => Sys2Proof.Machine.execSpexp h o s
  | .tslag h o => Sys2Proof.Machine.execTslag h o s
  | .ldg h o => Sys2Proof.Machine.execLdg h o s
  | .stg h o => Sys2Proof.Machine.execStg h o s
  | .ldgs h o => Sys2Proof.Machine.execLdgs h o s
  | .stgs h o => Sys2Proof.Machine.execStgs h o s
  | .lds h o => Sys2Proof.Machine.execLds h o s
  | .sts h o => Sys2Proof.Machine.execSts h o s
  | .ldc h o => Sys2Proof.Machine.execLdc h o s
  | .stc h o => Sys2Proof.Machine.execStc h o s
  | .ldl h o => Sys2Proof.Machine.execLdl h o s
  | .stl h o => Sys2Proof.Machine.execStl h o s
  | .ld h o => Sys2Proof.Machine.execLd h o s
  | .st h o => Sys2Proof.Machine.execSt h o s
  | .lkp h o => Sys2Proof.Machine.execLkp h o s
  | .pref h o => Sys2Proof.Machine.execPref h o s
  | .atom h o => Sys2Proof.Machine.execAtom h o s
  | .red h o => Sys2Proof.Machine.execRed h o s
  | .enq h o => Sys2Proof.Machine.execEnq h o s
  | .deq h o => Sys2Proof.Machine.execDeq h o s
  | .qwait h o => Sys2Proof.Machine.execQwait h o s
  | .asthr h o => Sys2Proof.Machine.execAsthr h o s
  | .ring h o => Sys2Proof.Machine.execRing h o s
  | .awf h o => Sys2Proof.Machine.execAwf h o s
  | .rls h o => Sys2Proof.Machine.execRls h o s
  | .strm h o => Sys2Proof.Machine.execStrm h o s
  | .strq h o => Sys2Proof.Machine.execStrq h o s
  | .gang h o => Sys2Proof.Machine.execGang h o s
  | .mld h o => Sys2Proof.Machine.execMld h o s
  | .mswp h o => Sys2Proof.Machine.execMswp h o s
  | .mma h o => Sys2Proof.Machine.execMma h o s
  | .mas h o => Sys2Proof.Machine.execMas h o s
  | .mconv h o => Sys2Proof.Machine.execMconv h o s
  | .mpsh h o => Sys2Proof.Machine.execMpsh h o s
  | .mpop h o => Sys2Proof.Machine.execMpop h o s
  | .mzero h o => Sys2Proof.Machine.execMzero h o s
  | .msta h o => Sys2Proof.Machine.execMsta h o s
  | .matrixOpComplete block => Sys2Proof.Machine.execMatrixOpComplete block s
  | .binit h o => Sys2Proof.Machine.execBinit h o s
  | .barv h o => Sys2Proof.Machine.execBarv h o s
  | .bwait h o => Sys2Proof.Machine.execBwait h o s
  | .bsync h o => Sys2Proof.Machine.execBsync h o s
  | .cwait h o => Sys2Proof.Machine.execCwait h o s
  | .fence h o => Sys2Proof.Machine.execFence h o s
  | .fencelk h o => Sys2Proof.Machine.execFencelk h o s
  | .bind h o => Sys2Proof.Machine.execBind h o s
  | .unbind h o => Sys2Proof.Machine.execUnbind h o s
  | .tbegin h o => Sys2Proof.Machine.execTbegin h o s
  | .tend h o => Sys2Proof.Machine.execTend h o s
  | .tabort h o => Sys2Proof.Machine.execTabort h o s
  | .region h o => Sys2Proof.Machine.execRegion h o s
  | .grow h o => Sys2Proof.Machine.execGrow h o s
  | .shrink h o => Sys2Proof.Machine.execShrink h o s
  | .job h o => Sys2Proof.Machine.execJob h o s
  | .rsp h o => Sys2Proof.Machine.execRsp h o s
  | .wsp h o => Sys2Proof.Machine.execWsp h o s
  | .emuret h o => Sys2Proof.Machine.execEmuret h o s
  | .halt h o => Sys2Proof.Machine.execHalt h o s
  | .tlbinv h o => Sys2Proof.Machine.execTlbinv h o s
  | .resultReturn wave k => Sys2Proof.Machine.execResultReturn wave k s
  | .waveSwap core quadrant => Sys2Proof.Machine.execWaveSwap core quadrant s
  | .releaseDrainComplete core n => Sys2Proof.Machine.execReleaseDrainComplete core n s
  | .pageWalk core asid va acc => Sys2Proof.Machine.execPageWalk core asid va acc s
  | .copyTake block => Sys2Proof.Machine.execCopyTake block s
  | .ccopy c => Sys2Proof.Machine.execCcopy c s
  | .ctile c => Sys2Proof.Machine.execCtile c s
  | .cgath c => Sys2Proof.Machine.execCgath c s
  | .cscat c => Sys2Proof.Machine.execCscat c s
  | .cfill c => Sys2Proof.Machine.execCfill c s
  | .deliveryLand block k => Sys2Proof.Machine.execDeliveryLand block k s
  | .copyComplete block k => Sys2Proof.Machine.execCopyComplete block k s
  | .swalk c => Sys2Proof.Machine.execSwalk c s
  | .spush c => Sys2Proof.Machine.execSpush c s
  | .sloop c => Sys2Proof.Machine.execSloop c s
  | .sendl => Sys2Proof.Machine.execSendl s
  | .ssigRed c => Sys2Proof.Machine.execSsigRed c s
  | .ssigBarrier c => Sys2Proof.Machine.execSsigBarrier c s
  | .ssigEnq c => Sys2Proof.Machine.execSsigEnq c s
  | .smark c => Sys2Proof.Machine.execSmark c s
  | .shalt c => Sys2Proof.Machine.execShalt c s
  | .jobAccept entry => Sys2Proof.Machine.execJobAccept entry s
  | .deal => Sys2Proof.Machine.execDeal s
  | .clusterDispatch core => Sys2Proof.Machine.execClusterDispatch core s
  | .growStallPreempt core => Sys2Proof.Machine.execGrowStallPreempt core s
  | .clusterResume cluster => Sys2Proof.Machine.execClusterResume cluster s
  | .jobLate job => Sys2Proof.Machine.execJobLate job s
  | .recordRetry k => Sys2Proof.Machine.execRecordRetry k s
  | .stageDispatch core job => Sys2Proof.Machine.execStageDispatch core job s
  | .stealRequest thief => Sys2Proof.Machine.execStealRequest thief s
  | .stealLend k => Sys2Proof.Machine.execStealLend k s
  | .stealAccept k => Sys2Proof.Machine.execStealAccept k s
  | .stealAck k => Sys2Proof.Machine.execStealAck k s
  | .stealWatchdog k => Sys2Proof.Machine.execStealWatchdog k s
  | .replicaCommit wave twin => Sys2Proof.Machine.execReplicaCommit wave twin s
  | .enqueueGo slot => Sys2Proof.Machine.execEnqueueGo slot s
  | .invalidate => Sys2Proof.Machine.execInvalidate s
  | .resume => Sys2Proof.Machine.execResume s
  | .cancel => Sys2Proof.Machine.execCancel s
  | .replayAll => Sys2Proof.Machine.execReplayAll s
  | .replicaGroup => Sys2Proof.Machine.execReplicaGroup s
  | .setTime => Sys2Proof.Machine.execSetTime s
  | .hostCommandInvalid op => Sys2Proof.Machine.execHostCommandInvalid op s
  | .mailboxRequest len => Sys2Proof.Machine.execMailboxRequest len s
  | .mbrxRead => Sys2Proof.Machine.execMbrxRead s
  | .fbgetWrite die v => Sys2Proof.Machine.execFbgetWrite die v s
  | .faultBufferConfigWrite die base v => Sys2Proof.Machine.execFaultBufferConfigWrite die base v s
  | .droppedClear die v => Sys2Proof.Machine.execDroppedClear die v s
  | .ingsetWrite die v => Sys2Proof.Machine.execIngsetWrite die v s
  | .poolWrite core cap v => Sys2Proof.Machine.execPoolWrite core cap v s
  | .sconfClear core v => Sys2Proof.Machine.execSconfClear core v s
  | .igdropClear die v => Sys2Proof.Machine.execIgdropClear die v s
  | .pstateWrite v => Sys2Proof.Machine.execPstateWrite v s
  | .pmodeWrite port v => Sys2Proof.Machine.execPmodeWrite port v s
  | .registerWrite off wide v => Sys2Proof.Machine.execRegisterWrite off wide v s
  | .ptpMessage m => Sys2Proof.Machine.execPtpMessage m s
  | .ptpDelayRequest port => Sys2Proof.Machine.execPtpDelayRequest port s
  | .ingestPacket die port p => Sys2Proof.Machine.execIngestPacket die port p s
  | .frameDeadline die desc => Sys2Proof.Machine.execFrameDeadline die desc s
  | .peerAccess peer a => Sys2Proof.Machine.execPeerAccess peer a s
  | .replicaDigest asid step digest => Sys2Proof.Machine.execReplicaDigest asid step digest s
  | .replicaDigestTimeout asid => Sys2Proof.Machine.execReplicaDigestTimeout asid s
  | .flitCrcError link flit => Sys2Proof.Machine.execFlitCrcError link flit s
  | .retrainDone link ok => Sys2Proof.Machine.execRetrainDone link ok s
  | .thermalFloorRise die temp => Sys2Proof.Machine.execThermalFloorRise die temp s
  | .thermalFloorFall die => Sys2Proof.Machine.execThermalFloorFall die s
  | .machineError cls die => Sys2Proof.Machine.execMachineError cls die s
  | .counterFlush => Sys2Proof.Machine.execCounterFlush s
  | .reset b => Sys2Proof.Machine.execReset b s
  | .voltageDroop die severity => Sys2Proof.Machine.execVoltageDroop die severity s
  | .softError place correctable => Sys2Proof.Machine.execSoftError place correctable s
  | .ptpLockLoss => Sys2Proof.Machine.execPtpLockLoss s
  | .powerLoss => Sys2Proof.Machine.execPowerLoss s
  | .orderlyShutdown => Sys2Proof.Machine.execOrderlyShutdown s
  | .portLinkUp port => Sys2Proof.Machine.execPortLinkUp port s
  | .corePowerGating core gate => Sys2Proof.Machine.execCorePowerGating core gate s

end Sys2Proof.Machine
end

