-- ==== Sys2Proof/Machine/Run.lean ====
section
/-! DEFINITION. How the machine runs: the issue of a wave (R329), the
commands of copy queues and stream programs, which agents may act in a state, and the passing of time (R22, R342). -/
namespace Sys2Proof.Machine

/-! ### Issue -/

/-- An instruction to perform, or nothing more. -/
def perform (r : State × Option Instr) : Out :=
  match r.2 with
  | some i => exec i r.1
  | none => .next r.1

/-- A quadrant issues the wave that R329 picks. -/
def State.issue (s : State) (core q : Nat) : Out :=
  match s.issuePick core q with
  | some w => perform (s.openIssue w).fetchCur
  | none => .next s

/-! ### Engines -/

/-- The next command of a block's copy queue entry (R254). -/
def State.copyStep (s : State) (b n : Nat) : Out :=
  match s.copyEntry b n with
  | none => .next s
  | some y =>
    let s := { s with command := some (.copy b n) }
    match copyCommand y.command with
    | .ok i => exec i s
    | .error x => .next (s.failCopy b n x)

/-- The next command of a stream program (R265, R268, R430): fetched, decoded, performed; or passed over after a SLOOP of
COUNT 0. -/
def State.streamStep (s : State) (e k : Nat) : Out :=
  let p := s.program e k
  if !p.busy || p.misses.any s.missHeld then .next s
  else
    let s := { s with command := some (.stream e k) }
    match s.engineRead (s.streamEngine e p) [(p.here.toNat, 32)] with
    | (.miss on, s) => .next (s.onProgram e k fun p => { p with misses := on })
    | (.absent, s) => .next s
    | (.fail x, s) => .next (s.failStream e k [] x)
    | (.ok bytes, s) =>
      let w := BitVec.ofNat 256 (natOfBytes bytes)
      let cmd := w.toNat % 256
      if p.skip.isSome then .next (s.skipCommand e k cmd)
      else
        let rings := if cmd = 0x11 then s.rawTargets p (slice w.toNat 16 8) (slice w.toNat 32 32) else []
        let bad (n : Nat) : Out := .next (s.failStream e k rings { code := 0x0201, info0 := w.toNat % 2 ^ 64, info1 := n })
        if 1 ≤ cmd ∧ cmd ≤ 5 then bad 1
        else match decodeCommand w with
          | .ok i => exec i s
          | .error x => bad (problemCode x)

/-! ### What may act -/

/-- A rebuilt or waiting word would park again as it did (R31): the condition that it waits for does not hold. -/
def State.stillWaits (s : State) (k : Nat) : Bool :=
  let w := s.wave k
  match perform ({ s with waves := s.waves.modify k fun w => { w with park := none } }.openIssue k).fetchCur with
  | .next s' => (s'.wave k).park == w.park && w.park.isSome
  | _ => false

/-- Events that a stopped device (R446) still performs: the host's and the world's, and no core, engine or scheduler. -/
def hostEvent : Instr → Bool
  | .enqueueGo _ | .invalidate | .resume | .cancel | .replayAll | .replicaGroup | .setTime | .hostCommandInvalid _ => true
  | .mailboxRequest _ | .mbrxRead | .fbgetWrite .. | .faultBufferConfigWrite .. | .droppedClear .. | .ingsetWrite .. => true
  | .poolWrite .. | .sconfClear .. | .igdropClear .. | .pstateWrite _ | .pmodeWrite .. | .registerWrite .. => true
  | .ptpMessage _ | .ptpLockLoss | .thermalFloorRise .. | .thermalFloorFall _ | .counterFlush | .reset _ => true
  | .voltageDroop .. | .powerLoss | .orderlyShutdown => true
  | _ => false

/-- An access of the host to BAR0, which is open from boot step 2 on (Table 14-1). -/
def barEvent : Instr → Bool
  | .enqueueGo _ | .mailboxRequest _ | .mbrxRead | .fbgetWrite .. | .faultBufferConfigWrite .. | .droppedClear .. => true
  | .ingsetWrite .. | .poolWrite .. | .sconfClear .. | .igdropClear .. | .pstateWrite _ | .pmodeWrite .. => true
  | .registerWrite .. => true
  | _ => false

/-- Whether an event may be picked: without power only a power-on (R350), without BAR0 no access of the host. -/
def State.mayHappen (s : State) (i : Instr) : Bool :=
  if !s.power then (match i with | .reset b => b.power | _ => false)
  else (s.stopped.isNone || hostEvent i) && (s.bar0 || !barEvent i)

/-- An instruction word or an engine command, which no event is. -/
def isEvent (i : Instr) : Bool := (encodeWord i).isNone && (commandBits i).isNone

/-- Before a pick, the atomics' late writes land that its agent must find (R134): those within whose scope it is; all, but for
picks that only write from another core, a peer or the outside, or return a result; and all by a choice of the device. -/
def State.landFor (s : State) (p : Pick) : State :=
  if s.lateWrites.isEmpty then s
  else if s.choose 0 10 then s.landAll
  else match p with
    | .issue c _ => s.landOn c
    | .copy b _ => s.landOn (s.block b).core
    | .outside .. | .event (.peerAccess ..) | .event (.releaseDrainComplete ..) | .event (.resultReturn ..) => s
    | _ => s.landAll

/-- One pick is performed. -/
def State.pick (s : State) (p : Pick) : Out :=
  let s := s.landFor p
  match p with
  | .event i =>
    if !isEvent i then .fault .agendaHoldsWord
    else if s.mayHappen i then exec i s else .next s
  | .issue c q => if s.power && s.stopped.isNone then s.issue c q else .next s
  | .copy b n => if s.power && s.stopped.isNone then s.copyStep b n else .next s
  | .stream e k => if s.power && s.stopped.isNone then s.streamStep e k else .next s
  | .evict c line => .next (s.evict c line)
  | .refill c line => .next (s.refill c line)
  | .reveal pa => .next { s with unseen := s.unseen.remove pa }
  | .operand b n line => .next (s.senseOperand b n line)
  | .outside pa b => .next (s.outsideWrite pa b)

/-! ### Time -/

/-- Time passes (R22, R342, R357): both clocks, the time counter with its slew, the seconds of the histogram, and the flush of
the counts that is due. -/
def State.advance (s : State) (p : Pace) : State :=
  let slew := s.slewRest + 200 * p.ns
  let step := min s.offset.natAbs (slew / 1000000)
  let s := s.countSeconds ((s.poweredOn + p.ns) / 1000000000 - s.poweredOn / 1000000000)
  let s := if s.flushed + 60000000000 ≤ s.poweredOn + p.ns then { s.flushCounts with flushed := s.poweredOn + p.ns } else s
  { s with
    clk := s.clk + p.arith, fabric := s.fabric + p.fabric, poweredOn := s.poweredOn + p.ns
    time := laterTime s.time (if s.offset < 0 then p.ns - step else p.ns + step)
    offset := if s.offset < 0 then s.offset + step else s.offset - step
    slewRest := slew % 1000000 }

/-- What `t` tenths of a nanosecond are, with what is left over of a clock or a nanosecond: arithmetic clocks at the rate of the
effective power state (R354, Table 14-3), fabric clocks at 2.0 GHz (R22). -/
def State.paceOf (s : State) (t : Nat) : Pace × State :=
  let a := s.clkRest + t * clockRate s.effective
  let f := s.fabRest + t * 20
  let n := s.nsRest + t
  ({ arith := a / 100, fabric := f / 100, ns := n / 10 }, { s with clkRest := a % 100, fabRest := f % 100, nsRest := n % 10 })

/-- The time that this step takes: what `pace` says, else 1 ns (log entry 2). -/
def State.tick (s : State) : State :=
  let (p, s') := s.paceOf (s.pace.headD 10)
  { s' with pace := s.pace.tail }.advance p

end Sys2Proof.Machine
end

