-- ==== Sys2Proof/Machine/House.lean ====
section
/-! DEFINITION. What follows at the end of a step without an event of its own: waits that are over (R31, R38), waves,
blocks and clusters that end (R49 to R51), the matrix engine's hand-over (R271), jobs that go on (R312, R313, R326, R349,
R111), records for the host (R335); and the round of picks that fills an empty agenda (log entry 1). -/
namespace Sys2Proof.Machine

/-! ### Waits -/

/-- The context of a parked wave. -/
def State.parkedCtx (s : State) (k : Nat) : Ctx := s.ctxFor { wave := k, lanes := (s.wave k).lanes, pc := 0, word := 0 }

/-- A parked wave goes on where its condition holds (R31). -/
def State.wakeWave (s : State) (k : Nat) : State :=
  let w := s.wave k
  let c := s.parkedCtx k
  let go (s : State) : State := s.onWave k fun w => { w with park := none }
  if !(s.cluster w.cluster).life.resident then s
  else match w.park with
    | none => s
    | some (.barrier ..) => s.wakeBarrier c
    | some (.arriver ..) => s.wakeBarrier c
    | some (.counter ..) => s.wakeCounter c
    | some (.ring ..) => s.wakeRing c
    | some (.latch ..) => s.wakeLatch c
    | some (.grow _) => s
    | some (.exit on lanes) =>
      if on.any s.opHeld then s else s.onWave k fun w => { (w.exitLanes lanes) with park := none }
    | some (.inval on stores) =>
      let (on, stores) := s.pursue on stores
      if on.isEmpty && stores.isEmpty then go s else s.onWave k fun w => { w with park := some (.inval on stores) }
    | some (.drain on) => if (s.core c.core).commit.any fun e => on.contains e.number then s else go s
    | some (.miss on) => if on.all s.missHeld then s else go s
    | some .absent => if s.stillWaits k then s else go s
    | some .retry => if s.stillWaits k then s else go s
    | some .matrix => if s.stillWaits k then s else go s
    | some (.twin _) => if s.stillWaits k then s else go s

/-- Every parked wave is looked at, then the grants of GROW (R46). -/
def State.wakeAll (s : State) : State :=
  let parked := (s.waves.filter fun p => p.2.park.isSome).map Prod.fst
  let s := s.each parked State.wakeWave
  let growing := (s.waves.filter fun p => match p.2.park with | some (.grow _) => true | _ => false).map fun p => s.coreOf p.2
  s.each (distinct growing) State.grant

/-! ### Waves and blocks that end -/

/-- A wave with no live thread has ended (R49); one whose threads wait in a sift leaves its slot (R293). -/
def State.endWave (s : State) (k : Nat) : State :=
  let w := s.wave k
  if w.ended || w.deferred || w.park.isSome || w.threads.any fun t => t.live then s
  else if ((s.cluster w.cluster).sift.map fun f => (f.unis.find w.runKey).isSome).getD false then
    { s with waves := s.waves.remove k }
  else s.onWave k fun w => { w with ended := true, results := [], settle := false }

/-- A copy command of block `y` has a footprint in the scratchpad of block `b` (R50, R258). -/
def State.copyMeets (s : State) (y : Nat) (e : CopyEntry) (b : Nat) : Bool :=
  match copyCommand e.command with
  | .ok i => ((ringOf i).isSome && y == b) || match s.copyPrints y e i with
    | .ok p => (p.reads ++ p.writes).any fun x => x.space == 1 + b
    | .error _ => false
  | .error _ => false

/-- An engine operation whose footprint lies in a block's registers or scratchpad has not completed (R50). -/
def State.engineMeets (s : State) (b : Nat) : Bool :=
  let x := s.block b
  x.deliveries.any (fun d => !d.landed) || !x.matrix.ops.isEmpty ||
    (s.cluster x.cluster).blocks.any fun y => (s.block y).copies.any fun e => s.copyMeets y e b

/-- A block gives back its core's resources (R50). -/
def State.returnBlock (s : State) (b : Nat) : State :=
  let x := s.block b
  let c := s.cluster x.cluster
  let hosted := s.waves.any fun p => p.2.cluster == x.cluster && p.2.host == x.index && !p.2.ended
  let mine (t : Thread) : Bool := t.live && t.bid == x.index
  let refill := (s.waves.any fun p => p.2.cluster == x.cluster && p.2.threads.any mine) ||
    ((c.sift.map fun f => f.arrived.any fun t => t.bid == x.index).getD false)
  if !x.held || !c.life.resident || hosted || s.engineMeets b || refill then s
  else
    let s := s.onBlock b fun x => { x with held := false }
    s.onCore x.core fun k =>
      { k with owner := k.owner.filter (· != b), claims := k.claims.filter (· != b) }

/-- The owner of a matrix engine for which another block waits is pre-empted when its waves all wait in CWAIT or have
ended (R271). -/
def State.handOver (s : State) (core : Nat) : State :=
  let here (b : Nat) : Bool := (s.cluster (s.block b).cluster).life.resident
  let s := s.onCore core fun k => { k with owner := k.owner.filter here, claims := k.claims.filter here }
  let k := s.core core
  match k.owner with
  | none => s
  | some b =>
    let x := s.block b
    let idle := (s.waves.filter fun p => p.2.cluster == x.cluster && p.2.host == x.index).all fun p =>
      p.2.ended || match p.2.park with | some (.counter ..) => true | _ => false
    if k.claims.isEmpty || !idle || !(s.cluster x.cluster).life.resident then s else s.preempt x.cluster

/-- A stage whose marker has been taken ends with its last task, and tells the next stage (R326). -/
def State.endStages (s : State) (j : Nat) : State :=
  let x := s.job j
  let past (k : Nat) (g : Stage) : Bool :=
    g.marked && !g.ended && !(s.clusters.any fun p => p.2.job == j && p.2.stage == some k && p.2.life != .ended)
  let ending := (List.range x.stages.length).filter fun k => ((x.stages[k]?).map (past k)).getD false
  let s := s.onJob j fun x => { x with stages := x.stages.mapIdx fun k g => if past k g then { g with ended := true } else g }
  s.each ending fun s k => match x.stages[k + 1]? with
    | some g => s.postRecord x.asid g.iq 3 0
    | none => s

/-- A stream program of a cluster waits on a miss, and holds the cluster alive (R410). -/
def State.programWaits (s : State) (cl : Nat) : Bool :=
  s.engines.any fun e => e.2.any fun p => p.2.busy && p.2.cluster == cl && !p.2.misses.isEmpty

/-- The programs that wait on a full window of a cluster that has ended fail at that moment (R430). -/
def State.failWindows (s : State) : State :=
  s.engines.foldl (fun s e => e.2.foldl (fun s p =>
    match p.2.window with
    | some (m, off) =>
      if p.2.busy && [Life.ended, Life.dropped].contains (s.cluster p.2.cluster).life then
        s.failStream e.1 p.1 [] { code := 0x0208, info0 := m, info1 := off }
      else s
    | none => s) s) s

/-- A cluster ends (R51): its task is complete. -/
def State.endCluster (s : State) (cl : Nat) : State :=
  let c := s.cluster cl
  let done := !(s.waves.any fun p => p.2.cluster == cl && !p.2.ended) && c.sift.isNone &&
    (c.blocks.all fun b => (s.engineOps b).isEmpty) && !s.programWaits cl
  if c.life != .running || !done then s
  else
    let s := (s.onCluster cl fun c => { c with life := .ended, trays := false })
    let s := { s with waves := s.waves.dropIf fun _ w => w.cluster == cl }
    let s := s.each c.blocks fun s b =>
      let core := (s.block b).core
      (s.onBlock b fun x => { x with held := false }).onCore core fun k =>
        { k with owner := k.owner.filter (· != b), claims := k.claims.filter (· != b) }
    let s := if ((c.run.map fun r => r.role == 0).getD true) then s.onJob c.job fun j => { j with tasks := j.tasks + 1 } else s
    -- a task boundary of the core of block 0 (R325)
    (s.endStages c.job).governAt (s.block (c.blocks.headD 0)).core

/-- Deferred waves take free slots (R296); a domain's trays empty when its waves have issued (R291). -/
def State.placeWaiting (s : State) : State :=
  let blocks := distinct ((s.waves.filter fun p => p.2.deferred && (s.cluster p.2.cluster).life.resident).map fun p =>
    s.blockOf p.2.cluster p.2.host)
  let s := s.each blocks fun s b => s.placeDeferred b 64
  { s with clusters := s.clusters.map fun p =>
      if p.2.trays && !(s.waves.any fun x => x.2.cluster == p.1 && !x.2.started && !x.2.ended) then
        (p.1, { p.2 with trays := false })
      else p }

/-- Records of clusters that are done and that nothing names any more leave the state. -/
def State.prune (s : State) : State :=
  let named (cl : Nat) : Bool :=
    (s.engines.any fun e => e.2.any fun p => p.2.busy && p.2.cluster == cl) ||
    s.clusters.any fun p => p.2.life != .ended && p.2.life != .dropped && match p.2.run with
      | some r => r.twin == some cl || r.third == some cl
      | none => false
  let gone := (s.clusters.filter fun p => (p.2.life == .ended || p.2.life == .dropped) && !p.2.prologue && !named p.1 &&
    p.2.blocks.all fun b => (s.engineOps b).isEmpty).map Prod.fst
  if gone.isEmpty then s
  else { s with clusters := s.clusters.dropIf (fun k _ => gone.contains k)
                blocks := s.blocks.dropIf fun _ b => gone.contains b.cluster }

/-! ### Jobs -/

/-- A regeneration job that completes makes its page present and releases its miss (R111, step 6). -/
def State.finishRegen (s : State) (die serial : Nat) : State :=
  match (s.die die).misses.find? fun p => p.2.serial == serial with
  | none => s
  | some (_, m) =>
    let e := s.tableNat m.pte 8
    let e := (e % 2 ^ 56 ||| 0x11) - (if e.testBit 7 then 0x80 else 0)
    (s.writeTable m.pte 8 e).releaseMisses die fun x => x.serial == serial

/-- Every part of a job is done (Table 12-6): its clusters have ended, its stores are at their homes, its prologues have
ended. -/
def State.jobDone (s : State) (j : Nat) : Bool :=
  !(s.clusters.any fun p => p.2.job == j && ((p.2.life != .ended && p.2.life != .dropped) || p.2.prologue)) &&
    !(s.cores.any fun k => k.2.commit.any fun e => e.job == j) &&
    !(s.engines.any fun e => e.2.any fun p => p.2.busy && p.2.prologue && p.2.job == j)

/-- A job reaches its completion point (R312, R317, R349), a late one after its late record (R315). -/
def State.completeJob (s : State) (j : Nat) : State :=
  let s := s.noteLate j
  let x := s.job j
  let s := match x.regen with
    | some (die, serial) => s.finishRegen die serial
    | none => s
  match if x.step = 0 then none else s.groups.find x.asid.toNat with
  | some g => s.holdStep x.asid.toNat j g
  | none => (s.onJob j fun x => { x with phase := .completed }).completionRecord j 1 x.tasksDone

/-- A job goes on through the states of Table 12-6; the miss of a regeneration job that has failed is released (R418). -/
def State.moveJob (s : State) (j : Nat) : State :=
  let s := if (s.job j).phase.active && !(s.job j).stages.isEmpty && !s.recordsStall then s.endStages j else s
  let x := s.job j
  match x.phase with
  | .ready => if s.allDispatched j then s.onJob j fun x => { x with phase := .running } else s
  | .running => if s.jobDone j && !s.recordsStall then s.completeJob j else s
  | .failed | .cancelled => match x.regen with
    | some (die, serial) => (s.onJob j fun x => { x with regen := none }).failRegen x.card.addr die serial
    | none => s
  | _ => s

/-! ### The end of a step -/

/-- The clock at which a pending wave was last not runnable (R329). -/
def State.noteWaits (s : State) : State :=
  { s with waves := s.waves.map fun p => if p.2.active || s.runnable p.2 then p else (p.1, { p.2 with runFrom := s.clk }) }

/-- Everything that follows from the state by itself, once. -/
def State.house (s : State) : State :=
  let s := s.wakeAll
  let s := s.each s.waves.keys State.endWave
  let s := s.each s.blocks.keys State.returnBlock
  let s := s.each s.cores.keys State.handOver
  let s := (s.each s.clusters.keys State.endCluster).failWindows
  let s := s.placeWaiting
  let s := s.each s.clusters.keys State.claimTray
  let s := s.each s.clusters.keys State.startPrologue
  let s := s.each s.jobs.keys State.moveJob
  let s := s.startJobs.retrySlots
  let s := s.prune
  s.boundL2.noteWaits.poolRecords

/-- An active job's deadline passed more than 1,000 ns ago (R315). -/
def State.overdue (s : State) (j : Job) : Bool :=
  j.phase.active && !j.late && match j.card.deadline with
    | some d => passed s.time d && decide (1000 < (s.time.setWidth 48 - d).toNat)
    | none => false

/-- What no later moment may put off: the late records of R315, a steal's watchdog (R321), the digest that did not come
(R437), the close of a frame within 10 µs of its deadline (R441). -/
def State.due (s : State) : State :=
  let s := if s.recordsStall then s
    else s.each (s.jobs.filter fun p => s.overdue p.2) fun s p => s.noteLate p.1
  let s := s.each s.steals.keys fun s k => s.reclaim k 4097
  let s := s.each s.groups.keys fun s a => s.expireStep a 100000001
  s.each s.dies fun s d => s.each d.2.ingest.keys fun s k => s.passDeadline d.1 k 10000

/-- A wave's cluster, and the job of that, stand in their tables. -/
def State.anchored (s : State) (w : Wave) : Bool :=
  (s.clusters.find w.cluster).isSome && (s.jobs.find (s.cluster w.cluster).job).isSome

/-- A wave is resident only as a part of a cluster of a job (R24, R25): one whose cluster or job has left the state has left
with it. -/
def State.dropStrays (s : State) : State := { s with waves := s.waves.filter fun p => s.anchored p.2 }

/-- The end of a step: nothing is open, a running device sees to what follows, time passes with what it makes due, records
go to the host. -/
def State.close (s : State) : State :=
  let s := { s with cur := none, command := none }
  State.dropStrays (if !s.power then { s with freeCtr := s.freeCtr + 1 }
  else
    let s := if s.stopped.isNone then s.house else s
    let s := { s with freeCtr := s.freeCtr + 1 }.tick
    (if s.stopped.isNone then s.due else s).deliverHosts)

/-- The outcome of a pick as the outcome of the step. -/
def closeStep (o : Out) : Out :=
  match o with
  | .next s => .next s.close
  | .fault f => .fault f
  | .refused r => .refused r

/-! ### The default schedule (log entry 1) -/

/-- Picks that concern waves and their quadrants. -/
def State.wavePicks (s : State) : List Pick :=
  let spots := distinct ((s.waves.filter fun p => !p.2.ended && !p.2.deferred).map fun p => (s.coreOf p.2, p.2.slot % 4))
  (spots.map fun p => Pick.issue p.1 p.2) ++ (spots.map fun p => Pick.event (.waveSwap p.1 p.2)) ++
  (s.waves.flatMap fun p => p.2.results.map fun r => Pick.event (.resultReturn p.1 r.1)) ++
  (s.waves.filterMap fun p => if p.2.wake = 0 then none else some (Pick.event (.sleepEnd p.1))) ++
  (s.waves.filterMap fun p => match p.2.twinHash, (s.cluster p.2.cluster).run with
    | some _, some r => if r.role = 0 then
        (r.twin.bind fun t => s.twinWave p.2 t).map fun x => Pick.event (.replicaCommit p.1 x.1)
      else none
    | _, _ => none)

/-- Picks that concern blocks, clusters and engines. -/
def State.enginePicks (s : State) : List Pick :=
  (s.blocks.flatMap fun p =>
    (if (s.blockCard p.1).cqe = 0 then [] else [Pick.event (.copyTake p.1)]) ++
    (p.2.copies.flatMap fun e => [Pick.copy p.1 e.entry, Pick.event (.copyComplete p.1 e.entry)]) ++
    ((List.range p.2.deliveries.length).map fun k => Pick.event (.deliveryLand p.1 k)) ++
    (if p.2.matrix.ops.isEmpty then [] else [Pick.event (.matrixOpComplete p.1)])) ++
  (s.clusters.flatMap fun p =>
    (if p.2.sift.isSome then [Pick.event (.siftComplete p.1)] else []) ++
    (match p.2.life with | .preempted _ => [Pick.event (.clusterResume p.1)] | _ => [])) ++
  (s.engines.flatMap fun e => (e.2.filter fun p => p.2.busy).map fun p => Pick.stream e.1 p.1) ++
  (s.cores.flatMap fun k => k.2.commit.map fun e => Pick.event (.releaseDrainComplete k.1 e.number))

/-- Picks of the scheduler. -/
def State.schedulerPicks (s : State) : List Pick :=
  let ready := s.readyJobs
  let cores := if ready.isEmpty then [] else s.awake
  ((List.range s.queueCount).map fun q => Pick.event (.jobAccept q)) ++
  (if ready.isEmpty then [] else [Pick.event .deal]) ++
  ((cores.filter fun c => !(s.offers c).isEmpty).map fun c => Pick.event (.clusterDispatch c)) ++
  (ready.flatMap fun p => if p.2.stages.isEmpty then [] else cores.map fun c => Pick.event (.stageDispatch c p.1)) ++
  ((distinct (s.waves.filterMap fun p => match p.2.park with | some (.grow _) => some (s.coreOf p.2) | _ => none)).map fun c =>
    Pick.event (.growStallPreempt c)) ++
  (cores.filterMap fun c =>
    if (s.core c).queue.isEmpty && (lend (s.core ((victimOrder c).headD c)).queue).isSome then some (Pick.event (.stealRequest c)) else none) ++
  (s.steals.flatMap fun p => [Pick.event (.stealLend p.1), Pick.event (.stealAccept p.1), Pick.event (.stealAck p.1),
    Pick.event (.stealWatchdog p.1)]) ++
  (s.jobs.filterMap fun p => if p.2.phase.active && p.2.card.deadline.isSome && !p.2.late then
      some (Pick.event (.jobLate p.1)) else none) ++
  ((List.range s.held.length).map fun k => Pick.event (.recordRetry k))

/-- Picks of the rest of the device. -/
def State.devicePicks (s : State) : List Pick :=
  (s.dies.flatMap fun d =>
    (d.2.ingest.filterMap fun x => if x.2.frame.isSome then some (Pick.event (.frameDeadline d.1 x.1)) else none) ++
    (if d.2.cool.isSome then [Pick.event (.thermalFloorFall d.1)] else [])) ++
  (s.groups.filterMap fun g => if g.2.pending.isSome then
      some (Pick.event (.replicaDigestTimeout (BitVec.ofNat 14 g.1))) else none) ++
  (s.unseen.map fun p => Pick.reveal p.1) ++
  (if s.counts.isEmpty then [] else [Pick.event .counterFlush]) ++
  (if s.busy ∧ s.op = 1 then [Pick.event .invalidate] else []) ++
  (s.links.filterMap fun p => if p.2.training then some (Pick.event (.retrainDone (.port p.1) true)) else none) ++
  (s.edges.filterMap fun p => if p.2.training then some (Pick.event (.retrainDone (.edge p.1) true)) else none)

/-- What an empty agenda is filled with: every candidate once. -/
def State.defaultRound (s : State) : List Pick := s.enginePicks ++ s.wavePicks ++ s.schedulerPicks ++ s.devicePicks

end Sys2Proof.Machine
end

