-- ==== Sys2Proof/Machine/Place.lean ====
section
/-! DEFINITION. A word or command put where the machine executes next, standing for the load of a program from outside
(log entry 17). -/
namespace Sys2Proof.Machine

/-- The job card that a placed word runs under: one wave with every register, scratchpad and barriers, privileged. -/
def placedCard : Card := { entry := 0x1000, rcount := 1, regs := 256, shared := 65536, bars := 1024, priv := true, cqe := 4 }

/-- The page that holds the placed word and its data: 1 GiB at address 0, mapped to physical address 0. -/
def placedLeaf : Leaf := { asid := 0, va := 0, bits := 30, pa := 0, home := 0, w := true, x := true, dt := true, pte := 0 }

/-- A running task of one wave on core 0, whose threads stand at 0x1000. -/
def State.placeTask (s : State) : Nat × Nat × State :=
  let n := s.nextId
  let job : Job := { card := placedCard, order := n, phase := .running, next := 1, limit := 1, tasks := 0, begun := true }
  let cluster : Cluster := { job := n, group := 0, blocks := [n], order := n }
  let wave := { freshWave n 0 0 0 placedCard 0x1000 with deferred := false, since := s.clk }
  let s := { s with
    nextId := n + 1, power := true, stopped := none
    jobs := s.jobs.insert n job, clusters := s.clusters.insert n cluster
    blocks := s.blocks.insert n { cluster := n, index := 0, core := 0 }
    waves := [(n, wave)] }
  let s := s.onCore 0 fun c => { c with tlb := placedLeaf :: c.tlb, gated := false }
  (n, n, s.onDie 0 fun d => { d with l2tlb := placedLeaf :: d.l2tlb })

/-- Bytes put into memory, without poison. -/
def State.placeBytes (s : State) (pa n v : Nat) : State :=
  { s with poison := (List.range (n / 32 + 1)).foldl (fun t i => t.remove (pa / 32 + i)) s.poison }.writeNat pa n v

/-- An instruction word at the wave's PC; an engine command in the copy queue, or in a stream program. -/
def State.placeWord (s : State) (nbits w : Nat) : State :=
  let (b, j, s) := s.placeTask
  if nbits ≤ 64 then { s.placeBytes 0x1000 8 w with agenda := [.issue 0 0] }
  else if 0x10 ≤ w % 256 then
    let s := s.placeBytes 0x2000 32 w
    let p : Program := { busy := true, base := 0x2000, here := 0x2000, cluster := j, job := j, state := 1 }
    { s.setProgram 0 0 p with agenda := [.stream 0 0] }
  else
    let e : CopyEntry := { entry := 0, command := BitVec.ofNat 256 w }
    { s.onBlock b fun x => { x with copies := [e], taken := 1 } with agenda := [.copy b 0] }

end Sys2Proof.Machine
end

