-- ==== Sys2Proof/Machine/Step.lean ====
section
/-! DEFINITION. The step: the next pick of the agenda, or of a round of the default schedule when the agenda is empty, and what
follows at the step's end (log entry 1). -/
namespace Sys2Proof.Machine

/-- One step of the device. -/
def step (s : State) : Host.Outcome State Fault Refusal :=
  match s.agenda with
  | p :: rest => closeStep (State.pick { s with agenda := rest } p)
  | [] =>
    match s.defaultRound with
    | p :: rest => closeStep (State.pick { s with agenda := rest } p)
    | [] => closeStep (.next s)

/-- The state with an instruction word, or an engine command, where the next step executes (log entry 17). -/
def State.withFetchWord (s : State) (nbits w : Nat) : State := s.placeWord nbits w

end Sys2Proof.Machine
end

