-- ==== Sys2Proof/Safety.lean ====
section
/-! DEFINITION. The terms in which claims speak of the machine: a word that is issued and may act, what it leaves when it is
performed, a wave that parks, the machine's own register files read back, and the invariants of a run. -/
namespace Sys2Proof.Machine

/-! ### A word that may act -/

/-- The word being issued has the active lanes `act`; every register that it names (`regs`) lies below the wave's
allocation (Table 18-4), and none that it reads (`reads`) is poisoned in an active lane (R419). -/
structure Issued (s : State) (c : Ctx) (act regs reads : List Nat) : Prop where
  ctx    : s.ctx = some c
  active : act ≠ []
  below  : ∀ r ∈ regs, r < c.wave.alloc
  clean  : ∀ l ∈ act, ∀ r ∈ reads, (l, r) ∉ c.wave.rpoison

/-- A word with one guard (R160) that writes `dst` and reads `src` may act. -/
def Ready (s : State) (c : Ctx) (h : Hdr) (dst src : List Nat) : Prop :=
  Issued s c (s.activeLanes c h.pg h.pn) (dst ++ src) src

/-- A region boundary (R33) that writes `dst` and reads `src` may act: no active lane has an open transaction, its task is
not one that runs twice (R323), and the commit of the wave's buffer succeeds, leaving `s1` (R35). -/
structure Boundary (s : State) (c : Ctx) (h : Hdr) (dst src : List Nat) (s1 : State) : Prop where
  ready   : Ready s c h dst src
  single  : (s.cluster c.cl).run = none
  plain   : ∀ l ∈ s.activeLanes c h.pg h.pn, (c.wave.thread l).txn = none
  commits : s.commit c (s.activeLanes c h.pg h.pn) = .ok s1
  still   : (s1.cluster c.cl).run = none

/-- The state in which a boundary's effect begins: the commit is made, and the region is never restarted (R35, R38). -/
def begun (s1 : State) (c : Ctx) : State := s1.onWave c.w Wave.mark

/-! ### What a performed word leaves -/

/-- The end of a word in its wave: a settle marker is set where results are outstanding (R164); after a region boundary the
next region starts (R38). -/
def closed (settle boundary : Bool) (w : Wave) : Wave :=
  let w := if boundary then w.mark else w
  { w with settle := settle && !w.results.isEmpty, drained := false }

/-- The state after a word that wrote `now` at once and `late` as outstanding results: every issued thread goes to the
next word (R28). -/
def retired (s : State) (c : Ctx) (settle boundary : Bool) (now late : List RegWrite) : State :=
  s.onWave c.w fun w => closed settle boundary (((s.writeNow w now).writeLate c.det late).advance (s.curLanes c))

/-- The state after a word that set its threads' PCs itself. -/
def jumped (s : State) (c : Ctx) (settle boundary : Bool) (now : List RegWrite) : State :=
  s.onWave c.w fun w => closed settle boundary (s.writeNow w now)

/-- The state after a word whose wave parks in a waiting phase at the next word (R38). -/
def waiting (s : State) (c : Ctx) (settle boundary : Bool) (now : List RegWrite) (p : Park) : State :=
  s.onWave c.w fun w =>
    { closed settle boundary ((s.writeNow w now).advance (s.curLanes c)) with
      settle := settle, park := some p, lanes := s.curLanes c }

/-- A wave that settles before its word acts (R167): the word will issue again. -/
def settling (s : State) (c : Ctx) : State := s.onWave c.w fun w => { w with settle := true }

/-- A wave that parks, its word to be issued again. -/
def parked (s : State) (c : Ctx) (p : Park) : State :=
  s.onWave c.w fun w => { w with park := some p, lanes := s.curLanes c }

/-! ### Words of class A and B -/

/-- A class A word of a shape may act. -/
def ReadyA (s : State) (c : Ctx) (h : Hdr) (o : OpA) (sh : ShapeA) : Prop := Ready s c h (shapeDst sh o) (shapeSrc sh o)

/-- The state after a class A word whose result in lane `l` has type `ty` and bits `res l`: a fixed-latency one. -/
def resultA (s : State) (c : Ctx) (h : Hdr) (o : OpA) (sh : ShapeA) (ty : Nat) (res : Nat → Nat) : State :=
  retired s c h.s false (destWrites sh o (s.activeLanes c h.pg h.pn) ty res) []

/-- The same for a variable-latency word (R165). -/
def lateA (s : State) (c : Ctx) (h : Hdr) (o : OpA) (sh : ShapeA) (ty : Nat) (res : Nat → Nat) : State :=
  retired s c h.s false [] (destWrites sh o (s.activeLanes c h.pg h.pn) ty res)

/-- The state after a word whose result is the predicate D[2:0] in each active lane. -/
def resultP (s : State) (c : Ctx) (h : Hdr) (o : OpA) (res : Nat → Bool) : State :=
  retired s c h.s false (predWrites o (s.activeLanes c h.pg h.pn) res) []

/-- A class B word may act. -/
def ReadyB (s : State) (c : Ctx) (h : Hdr) (o : OpB) (readsA : Bool) : Prop := Ready s c h (opBDst o) (opBSrc o readsA)

/-- The state after a class B word (R155, R204): a uniform one writes `uni` to s(D - 192), another `vec l` to v(D) in each
active lane. -/
def resultB (s : State) (c : Ctx) (h : Hdr) (o : OpB) (vec : Nat → Nat) (uni : Word) : State :=
  retired s c h.s false
    (if 192 ≤ o.d.toNat then [.uni (o.d.toNat - 192) uni]
     else (s.activeLanes c h.pg h.pn).map fun l => .vec l o.d.toNat (BitVec.ofNat 32 (vec l))) []

/-- The first sources of a class B word: v(A) in a lane, and s(A). -/
def bVec (s : State) (c : Ctx) (o : OpB) (l : Nat) : Nat := (s.readV c.wave l o.a.toNat).toNat
def bUni (s : State) (c : Ctx) (o : OpB) : Word := s.readU c.wave o.a.toNat

/-- Operands of a type are free of slag in the active lanes, or the word has SP = 1 with a type that carries it (R77). -/
def SlagFree (o : OpA) (act : List Nat) (xs : List (Nat → Nat)) : Prop :=
  (o.sp = true ∧ slagCarries o.ty.toNat = true) ∨ ∀ l ∈ act, ∀ x ∈ xs, slagOf o.ty.toNat (x l) = none

/-- The result of a floating-point word on one, two or three operands: on each element of a packed type (R56), a slag
operand passed on where it is admitted (R77). -/
def fp1 (ty : Nat) (f : Nat → Nat) (a : Nat) : Nat := onElements ty (fun x _ _ => orSlag ty [(ty, x)] (f x)) a 0 0
def fp2 (ty : Nat) (f : Nat → Nat → Nat) (a b : Nat) : Nat :=
  onElements ty (fun x y _ => orSlag ty [(ty, x), (ty, y)] (f x y)) a b 0
def fp3 (ty : Nat) (f : Nat → Nat → Nat → Nat) (a b c : Nat) : Nat :=
  onElements ty (fun x y z => orSlag ty [(ty, x), (ty, y), (ty, z)] (f x y z)) a b c

/-- No operand of type `ty` among `xs` holds slag in an active lane (R75, R385). -/
def NoSlag (act : List Nat) (xs : List (Nat × (Nat → Nat))) : Prop :=
  ∀ l ∈ act, ∀ x ∈ xs, slagOf x.1 (x.2 l) = none

/-- The bits that the operands A, B and C of a floating-point word have in a lane. -/
def fpA (s : State) (c : Ctx) (o : OpA) (l : Nat) : Nat := srcA s c.wave o l (fpBits o.ty.toNat)
def fpB (s : State) (c : Ctx) (o : OpA) (l : Nat) : Nat := srcB s c.wave o l (fpBits o.ty.toNat)
def fpC (s : State) (c : Ctx) (o : OpA) (l : Nat) : Nat := srcC s c.wave o l (fpBits o.ty.toNat)

/-- The integers that the operands A, B and C of an integer word have in a lane. -/
def intA (s : State) (c : Ctx) (o : OpA) (l : Nat) : Int := intOf o.ty.toNat (srcA s c.wave o l (intWidth o.ty.toNat))
def intB (s : State) (c : Ctx) (o : OpA) (l : Nat) : Int := intOf o.ty.toNat (srcB s c.wave o l (intWidth o.ty.toNat))
def intC (s : State) (c : Ctx) (o : OpA) (l : Nat) : Int := intOf o.ty.toNat (srcC s c.wave o l (intWidth o.ty.toNat))

/-! ### Memory words -/

/-- A load of Tables 8-2 and 8-3 with how it addresses memory (R215, R219, R221). -/
def loadForm : Instr → Option (Hdr × OpM × Form)
  | .ldg h o => some (h, o, formGlobal false)
  | .ldgs h o => some (h, o, formGlobal true)
  | .lds h o => some (h, o, formWindow blockBase)
  | .ldc h o => some (h, o, formWindow clusterBase)
  | .ldl h o => some (h, o, formWindow stackBase)
  | .ld h o => some (h, o, formGeneric)
  | _ => none

/-- A store of Tables 8-2 and 8-3 with how it addresses memory. -/
def storeForm : Instr → Option (Hdr × OpM × Form)
  | .stg h o => some (h, o, formGlobal false)
  | .stgs h o => some (h, o, formGlobal true)
  | .sts h o => some (h, o, formWindow blockBase)
  | .stc h o => some (h, o, formWindow clusterBase)
  | .stl h o => some (h, o, formWindow stackBase)
  | .st h o => some (h, o, formGeneric)
  | _ => none

/-- An address is mapped for a wave: no miss of its page is outstanding (R406), its core's TLB holds a leaf that gives the access
its permission (R105, R107), and `pa` is the physical address. -/
def Mapped (s : State) (c : Ctx) (acc : Access) (va pa : Nat) : Prop :=
  (s.die (s.requester c).die).missAt (s.requester c).asid (va / 4096 * 4096) = none ∧
  ∃ l, findLeaf (s.core c.core).tlb (s.requester c).asid (va / 4096 * 4096) = some l ∧ l.permits acc = true ∧
    (acc = .write → l.dt = true) ∧ pa = l.addr (va / 4096 * 4096) + va % 4096

/-- The global lanes of a word lie as its form asks (R215, R226, R400): anywhere, at the required step from the lowest one, or
for an atomic all at one location or at that step. -/
def Placed (cg : Contig) (addrs : List (Nat × Nat)) : Prop :=
  let glob := addrs.filter fun p => windowOf p.2 == 0
  let first := glob.headD (0, 0)
  match cg with
  | .free => True
  | .step k => ∀ p ∈ glob, p.2 = requiredAddr first k p.1
  | .oneOr k => (∀ p ∈ glob, p.2 = first.2) ∨ ∀ p ∈ glob, p.2 = requiredAddr first k p.1

/-- An access of `g` bytes in each lane, at the generic addresses `addrs`, meets no fault of R399 and waits for nothing: its
addresses are in the windows that it can address, aligned and placed as it asks; no lane has an open transaction; the core's TLB
maps each global lane, to memory whose route is up; nothing is poisoned and no scratchpad line is absent. -/
structure Clear (s : State) (c : Ctx) (windows : List Nat) (g : Nat) (cg : Contig) (acc : Access)
    (addrs : List (Nat × Nat)) : Prop where
  inside : ∀ p ∈ addrs, windowOf p.2 ∈ windows ∧ p.2 % g = 0 ∧ (s.place c p.1 p.2 g).isSome = true
  placed : Placed cg addrs
  single : ∀ p ∈ addrs, ((s.wave c.w).thread p.1).txn = none
  mapped : ∀ p ∈ addrs, windowOf p.2 = 0 → ∃ pa, Mapped s c acc p.2 pa ∧ ∀ i, i < g → s.routeDown (pa + i) = false
  sound  : s.poison = []
  whole  : ∀ p ∈ addrs, ∀ b k offs, s.place c p.1 p.2 g = some (.local b k offs) →
    (s.block b).poison = [] ∧ ∀ x ∈ offs, x / 128 ∉ (s.block b).absent

/-! ### Ordered accesses -/

/-- A release of a scope has no store to wait for (R127), or has waited. -/
def Drained (s : State) (c : Ctx) (scope : Nat) (objs : List Obj) : Prop :=
  (s.wave c.w).drained = true ∨ s.releaseWaits c scope objs = []

/-- The state after a release whose stores are at their points (R127), by which the wave's earlier ENQs can be found (R138). -/
def released (s : State) (c : Ctx) (scope : Nat) (objs : List Obj) : State :=
  (s.releaseNow c scope objs).revealBy c objs

/-! ### Words with a guard -/

/-- The header of a single word (Table 6-1); paired words, words that are no instruction, commands and events have none. -/
def hdrOfInstr : Instr → Option Hdr
  | .iadd h _ | .isub h _ | .imul h _ | .imulh h _ | .imad h _ | .imin h _ | .imax h _ | .iabs h _ | .ineg h _ => some h
  | .idiv h _ | .irem h _ | .lea h _ | .and h _ | .or h _ | .xor h _ | .andn h _ | .shl h _ | .shr h _ | .sar h _ => some h
  | .rotl h _ | .funsh h _ | .bfx h _ | .bfi h _ | .popc h _ | .clz h _ | .ctz h _ | .brev h _ | .prmt h _ => some h
  | .isetp h _ | .isel h _ | .mov h _ | .fadd h _ | .fsub h _ | .fmul h _ | .ffma h _ | .fmin h _ | .fmax h _ => some h
  | .fsetp h _ | .frcp h _ | .frsq h _ | .fsqrt h _ | .fdiv h _ | .fex2 h _ | .flg2 h _ | .fsin h _ | .fcos h _ => some h
  | .ftanh h _ | .frnd h _ | .fcls h _ | .fscl h _ | .fcvt h _ | .icvt h _ | .npack h _ | .nunpk h _ | .bxhdr h _ => some h
  | .dot4 h _ | .shfl h _ | .vote h _ | .matchLanes h _ | .wred h _ | .wscan h _ | .plop h _ | .pget h _ | .pset h _ => some h
  | .sift h _ | .sifth h _ | .rseed h _ | .rand h _ | .prune h _ | .spcmp h _ | .spexp h _ | .tslag h _ => some h
  | .movi h _ | .movhi h _ | .iaddi h _ | .imuli h _ | .andi h _ | .ori h _ | .xori h _ | .isetpi h _ => some h
  | .faddi h _ | .fmuli h _ | .fsetpi h _ => some h
  | .ldg h _ | .stg h _ | .ldgs h _ | .stgs h _ | .lds h _ | .sts h _ | .ldc h _ | .stc h _ | .ldl h _ | .stl h _ => some h
  | .ld h _ | .st h _ | .lkp h _ | .pref h _ | .atom h _ | .red h _ | .enq h _ | .deq h _ | .qwait h _ => some h
  | .asthr h _ | .ring h _ | .awf h _ | .rls h _ | .strm h _ | .strq h _ => some h
  | .gang h _ | .mld h _ | .mswp h _ | .mma h _ | .mas h _ | .mconv h _ | .mpsh h _ | .mpop h _ | .mzero h _ => some h
  | .msta h _ | .bra h _ | .brx h _ | .call h _ | .ret h _ => some h
  | .meet h _ | .meetClear h _ | .exit h _ | .nop h _ | .trap h _ | .sleep h _ => some h
  | .binit h _ | .barv h _ | .bwait h _ | .bsync h _ | .cwait h _ | .fence h _ | .fencelk h _ | .bind h _ => some h
  | .unbind h _ | .tbegin h _ | .tend h _ | .tabort h _ | .region h _ | .grow h _ | .shrink h _ | .job h _ => some h
  | .rsp h _ | .wsp h _ | .halt h _ | .tlbinv h _ => some h
  | _ => none

/-- The words that are region boundaries and abort a transaction that is open in an active lane (Tables 2-5 and 8-12): header,
the vector registers that they name, and what they look at once they have parked. -/
def boundaryWord : Instr → Option (Hdr × List Nat × (State → State))
  | .region h _ | .binit h _ | .fence h _ | .fencelk h _ | .shrink h _ | .job h _ | .exit h _ => some (h, [], id)
  | .rls h _ | .strm h _ | .mswp h _ | .mzero h _ => some (h, [], id)
  | .sift h _ | .sifth h _ => some (h, [], id)
  | .barv h _ | .bsync h _ | .bwait h _ => some (h, [], fun s => s.wakeCur State.wakeBarrier)
  | .cwait h _ => some (h, [], fun s => s.wakeCur State.wakeCounter)
  | .grow h _ => some (h, [], fun s => s.wakeCur fun s c => s.grant c.core)
  | .awf h o => some (h, awfRegs o, fun s => s.wakeCur State.wakeRing)
  | .mma h _ | .mas h _ | .mconv h _ => some (h, [], fun s => s.wakeCur State.wakeLatch)
  | .mpsh h o | .mpop h o => some (h, [o.d.toNat], id)
  | .enq h o => some (h, o.d.toNat :: baseRegs o true, id)
  | .deq h o => some (h, o.d.toNat :: baseRegs o true, id)
  | .qwait h o => some (h, baseRegs o true, id)
  | .atom h o => some (h, groupRegs o ++ (atomRegs o ++ baseRegs o true), id)
  | .red h o => if 2 ≤ o.ord.toNat then some (h, atomRegs o ++ baseRegs o true, id) else none
  | i =>
    match loadForm i, storeForm i with
    | some (h, o, f), _ => if o.ord = 0 then none else some (h, groupRegs o ++ baseRegs o f.pair, id)
    | none, some (h, o, f) => if o.ord = 0 then none else some (h, groupRegs o ++ baseRegs o f.pair, id)
    | none, none => none

/-! ### Engine commands -/

/-- A command of a copy queue begins (R143, R330, R410, R428): it waits for no miss, it has read nothing, its claim is made, its
addresses are in their apertures, no earlier command of the queue has a footprint edge to it, and its core's pool has a staging
entry for it, which it takes in `u`. -/
structure CopyBegins (s : State) (i : Instr) (b n : Nat) (y : CopyEntry) (u : State) : Prop where
  command : s.command = some (.copy b n)
  entry   : s.copyEntry b n = some y
  awake   : y.misses.any s.missHeld = false
  fresh   : y.begun = false
  empty   : y.got = []
  staged  : s.stage b y = some u
  claimed : (ringOf i).isSome = true → y.claim.isSome = true
  inside  : ∃ q, s.copyPrints b y i = .ok q
  alone   : ∀ z ∈ (s.block b).copies.takeWhile (fun z => z.entry != n), ∀ j p q, copyCommand z.command = .ok j →
    s.copyPrints b z j = .ok p → s.copyPrints b y i = .ok q → q.edge p = false

/-- In `v` the reads of a copy command's plan come to `bytes` in one go and leave `w` (R150, R257), where the writes `m` that they
give have no error (R428) and the pools admit its deliveries (R330). -/
structure CopyReads (v : State) (b : Nat) (runs : List (Loc × Nat)) (bytes : List Byte) (m : Moved) (w : State) : Prop where
  gathered : v.gather (v.copyEngine b) runs [] = (.ok bytes, w)
  whole    : bytes.length = runsLength runs
  sound    : w.writeError (w.copyEngine b) m.global = none
  room     : ∀ x ∈ m.scratch, w.poolTakes (w.block x.1).core 1 = true

/-- The state after a copy command's reads: its deliveries are accepted, and its global writes made up to a fault. -/
def moved (s : State) (b n : Nat) (claim : Option Claim) (m : Moved) : State :=
  let s := m.scratch.foldl (fun s p => s.accept p.1 { kind := 0, owner := b, number := n, bytes := p.2, claim }) s
  (s.onCopy b n fun z => { z with begun := true, data := m.global, misses := [], got := [] }).writeCopy b n

/-- An engine performs a command of a busy stream program. -/
structure StreamGoes (s : State) (e k : Nat) (p : Program) : Prop where
  command : s.command = some (.stream e k)
  program : s.program e k = p
  busy    : p.busy = true

/-! ### Reading memory and records back -/

/-- Two states have the same bytes at the homes of all addresses. -/
def SameMemory (s t : State) : Prop := ∀ a, t.home a = s.home a

/-- What a list of bytes written in order leaves at a key: its last pair. -/
def lastOf (bytes : List (Nat × Byte)) (k : Nat) : Option Byte := (bytes.reverse.find? fun p => p.1 == k).map Prod.snd

/-- Host records wait only while the host record queue is usable and full (R335): it holds as many entries as it has
places. -/
def State.HostRecordsWait (s : State) : Prop :=
  s.hostHeld ≠ [] → ∃ q, s.hostQueue = some q ∧ 2 ^ q.lgcap ≤ q.count

/-- Every wave is part of a cluster of a job, both of which stand in their tables. -/
def State.Anchored (s : State) : Prop := ∀ p ∈ s.waves, s.anchored p.2 = true

/-- Host records wait for nothing but their queue, in a device that has power. -/
def State.HostInv (s : State) : Prop := s.power = true → s.HostRecordsWait

end Sys2Proof.Machine
end

