-- ==== Sys2Proof/Certificates/Slice0/Obligations.lean ====
section
/-! DEFINITION. The statements about the model, for the provers: what decoding and a step do, what each instruction, command and
event does where it completes, what it leaves unchanged, where it traps or waits, and what every step keeps. -/
open Sys2Proof Sys2Proof.Machine

/-! ### Encoding -/

/-- Decoding the word of a well-formed instruction gives the instruction back, with every field (R151 to R172). -/
def Obligations.DecodeEncodeWord : Prop :=
  ∀ (i : Instr) (w : Word), WellFormed i = true → (∀ x, i ≠ .illegalEncoding x) → encodeWord i = some w →
    decodeWord w = .ok i

/-- A word that decodes is the word of the instruction that it decodes to, which is well formed: no bit is dropped. -/
def Obligations.EncodeDecodeWord : Prop :=
  ∀ (w : Word) (i : Instr), decodeWord w = .ok i → encodeWord i = some w ∧ WellFormed i = true

/-- The 32 bytes of a command decode to it exactly when they are the bytes of that command and its fields are in range
(R255). -/
def Obligations.CommandCodec : Prop :=
  ∀ (b : BitVec 256) (i : Instr), decodeCommand b = .ok i ↔ encodeCommand i = some b ∧ WellFormed i = true

/-- Words of the spec's tables (Table 6-17, R289, R248, R302) decode to the instructions that they stand for. -/
def Obligations.DecodeWords : Prop :=
  decodeWord 0x3867050400001400 = .ok (.tslag { s := false, pg := 7, pn := false }
    { d := 5, a := 4, b := 0, c := 0, ua := false, ub := false, uc := false, ty := 10, rm := 0, ov := false, x3 := 0,
      sp := false, ib := false, x1 := false }) ∧
  decodeWord 0x3A01040200040402 = .ok (.stg { s := false, pg := 7, pn := false }
    { d := 4, a := 2, off := 0x40, w := 2, sc := 0, ord := 0, cq := 0, ua := true, sg := false }) ∧
  decodeWord 0x3902FE3E00000008 = .ok (.iaddi { s := false, pg := 7, pn := false } { d := 254, a := 62, imm := 8 }) ∧
  decodeWord 0x3B23FC0000000080 = .ok (.rsp { s := false, pg := 7, pn := false } { d := 252, a := 0, imm := 0x80 }) ∧
  decodeWord 0x3B25000000000000 = .ok (.emuret { s := false, pg := 7, pn := false } { d := 0, a := 0, imm := 0 })

/-! ### Fetch and step -/

/-- A step that picks a quadrant's issue performs the instruction that the fetched word decodes to, and one that picks a copy
queue or a stream program performs the command that its 32 bytes decode to; what follows is the end of the step alone. An
issue that finds no wave does nothing.
A step that picks an event performs it, in a device that may; a word that does not decode is performed as an encoding that is
not an instruction (R173).
Each constructor of `Instr`, in every state, answers a next state: none stops the machine.
Which pick comes next is the model's agenda (log entries 1, 4). -/
def Obligations.StepRunsDecoded : Prop :=
  ((∀ (s s' : State) (core q k : Nat) (rest : List Pick) (i : Issue) (w : Word) (x : Instr),
     s.agenda = .issue core q :: rest → s.power = true → s.stopped = none →
     State.issuePick { s with agenda := rest } core q = some k →
     (State.openIssue { s with agenda := rest } k).cur = some i →
     (State.openIssue { s with agenda := rest } k).fetch ((State.openIssue { s with agenda := rest } k).ctxFor i) i.pc.toNat =
       (.word w, s') →
     decodeWord w = .ok x →
     step s = closeStep (exec x { s' with cur := some { i with word := w } })) ∧
   (∀ (s : State) (b n : Nat) (rest : List Pick) (y : CopyEntry) (x : Instr),
     s.agenda = .copy b n :: rest → s.power = true → s.stopped = none → s.copyEntry b n = some y →
     copyCommand y.command = .ok x →
     step s = closeStep (exec x { s with agenda := rest, command := some (.copy b n) })) ∧
   (∀ (s u : State) (e k : Nat) (rest : List Pick) (bytes : List Byte) (x : Instr),
     let p := s.program e k
     let v : State := { s with agenda := rest, command := some (.stream e k) }
     let w := BitVec.ofNat 256 (natOfBytes bytes)
     s.agenda = .stream e k :: rest → s.power = true → s.stopped = none → p.busy = true → p.misses.any s.missHeld = false →
     p.skip = none → v.engineRead (v.streamEngine e p) [(p.here.toNat, 32)] = (.ok bytes, u) →
     w.toNat % 256 = 0 ∨ 5 < w.toNat % 256 → decodeCommand w = .ok x → step s = closeStep (exec x u)) ∧
   (∀ (s : State) (core q : Nat) (rest : List Pick), s.agenda = .issue core q :: rest → s.power = true → s.stopped = none →
     State.issuePick { s with agenda := rest } core q = none → step s = closeStep (.next { s with agenda := rest }))) ∧
  ((∀ (s : State) (i : Instr) (rest : List Pick), s.agenda = .event i :: rest → isEvent i = true →
     State.mayHappen { s with agenda := rest } i = true →
     step s = closeStep (exec i { s with agenda := rest })) ∧
   (∀ (w : Word) (p : Problem), decodeWord w = .error p → instrOf w = .illegalEncoding w) ∧
   (∀ (w : Word) (i : Instr), decodeWord w = .ok i → instrOf w = i)) ∧
  (∀ (i : Instr) (s : State), ∃ t, exec i s = .next t)

/-- A fetch reads the 8 bytes at the frame that an executable translation gives, little-endian (R3, R104, R151): where the
core's TLB holds the page and no poison lies there, nothing else changes.
That the fetch reads at the home is the model's (log entry 21). -/
def Obligations.FetchReadsWord : Prop :=
  ∀ (s : State) (c : Ctx) (pc : Nat) (l : Leaf),
    pc + 8 ≤ stackBase → pc % 8 = 0 → findLeaf (s.core c.core).tlb (s.requester c).asid (pc / 4096 * 4096) = some l →
    l.x = true → s.poisonRead (l.addr (pc / 4096 * 4096) + pc % 4096) = none →
    s.fetch c pc =
      (.word (BitVec.ofNat 64 (natOfBytes (s.homeBytes (l.addr (pc / 4096 * 4096) + pc % 4096) 8))), s)

/-- R160: the active lanes of a word are the issued threads whose guard is true, PG = 7 being true in every lane, or false
with PN = 1; a word with no active lane, whatever its bits, changes nothing but what its S bit gives, and every issued thread
goes to the next word. A paired word has an active lane where either half has one. The word's own wave waits for nothing, and
where GROW's grants are made at once, none can be made. -/
def Obligations.GuardedOff : Prop :=
  (∀ (s : State) (c : Ctx) (pg : BitVec 3) (pn : Bool) (l : Nat),
    l ∈ s.activeLanes c pg pn ↔ l ∈ c.lanes ∧ (if pg = 7 then true else s.readP c.wave l pg.toNat) = !pn) ∧
  (∀ (s : State) (c : Ctx) (i : Instr) (h : Hdr), hdrOfInstr i = some h → s.ctx = some c →
    c.wave.park = none → (∀ o, i = .grow h o → s.growers c.core = []) → s.activeLanes c h.pg h.pn = [] →
    exec i s = .next (retired s c h.s false [] [])) ∧
  (∀ (s : State) (c : Ctx) (settle : Bool) (x y : Half), s.ctx = some c → s.activeLanes c x.pg x.pn = [] →
    s.activeLanes c y.pg y.pn = [] → exec (.pairedWord settle x y) s = .next (retired s c settle false [] [])) ∧
  (∀ (s : State) (c : Ctx) (h : Hdr) (o : OpS), s.ctx = some c → c.wave.handlerMode = true →
    s.activeLanes c h.pg h.pn = [] → exec (.emuret h o) s = .next (retired s c h.s false [] [])) ∧
  (∀ (s : State) (c : Ctx) (w : Word), s.ctx = some c → wordLanes w s c = [] →
    exec (.illegalEncoding w) s = .next (retired s c (w.getLsbD 63) false [] []) ∧
    ∀ h o, c.word = w → c.wave.handlerMode = false →
      exec (.emuret h o) s = .next (retired s c (w.getLsbD 63) false [] []))

/-! ### What a performed word leaves unchanged -/

/-- The frame of a performed word that is inside a region, with no result outstanding in its wave: memory, every special register outside the wave, and every other
wave are unchanged; in its wave, a register or predicate that no write names, and every identity, meeting register,
generator and transaction of a thread, is unchanged; issued threads go 8 bytes on, others stay. -/
def Obligations.RetiredFrame : Prop :=
  ∀ (s : State) (c : Ctx) (settle : Bool) (now late : List RegWrite),
    (s.waves.find c.w).isSome = true → (s.wave c.w).results = [] →
    let t := retired s c settle false now late
    let w := s.wave c.w
    let x := t.wave c.w
    t = { s with waves := t.waves } ∧ SameMemory s t ∧ (∀ k, k ≠ c.w → t.wave k = s.wave k) ∧
    (∀ l r, (∀ v, RegWrite.vec l r v ∉ now ++ late) → (x.thread l).v.getD r 0 = (w.thread l).v.getD r 0) ∧
    (∀ r, (∀ v, RegWrite.uni r v ∉ now ++ late) → x.u r = w.u r) ∧
    (∀ l k, (∀ v, RegWrite.pred l k v ∉ now ++ late) → (x.thread l).p.getLsbD k = (w.thread l).p.getLsbD k) ∧
    (∀ l, (x.thread l).pc = if l ∈ s.curLanes c ∧ l < w.threads.length then (w.thread l).pc + 8 else (w.thread l).pc) ∧
    (∀ l, { x.thread l with v := [], p := 0, pc := 0 } = { w.thread l with v := [], p := 0, pc := 0 }) ∧
    x.gang = w.gang ∧ x.alloc = w.alloc ∧ x.emu = w.emu ∧ x.rsb = w.rsb ∧ x.q0 = w.q0 ∧ x.q1 = w.q1 ∧ x.park = w.park

/-- With no result outstanding in its wave, a fixed-latency class A result stands in its destination after the word: in each
active lane's register, or the pair of
a 64-bit type with the low word in the even register, or once in the uniform register, extended as its type says (R56,
R154).
A predicate result stands in p(D[2:0]) of each active lane; written to p7 it is discarded, and p7 reads true (R152,
R187). -/
def Obligations.ResultPlaced : Prop :=
  (∀ (s : State) (c : Ctx) (h : Hdr) (o : OpA) (sh : ShapeA) (ty : Nat) (res : Nat → Nat),
     let act := s.activeLanes c h.pg h.pn
     let d := o.d.toNat
     let t := resultA s c h o sh ty res
     (s.waves.find c.w).isSome = true → (s.wave c.w).results = [] →
     (∀ l ∈ act, l < (s.wave c.w).threads.length) →
     (∀ wide, sh.dst = .vec wide ∨ (sh.dst = .cross wide ∧ o.uc = false) ∨
         (sh.dst = .reg wide ∧ (sh.isUniform o && decide (192 ≤ d)) = false) →
       (∀ l ∈ act, tyWide (BitVec.ofNat 4 ty) = false → t.readV (t.wave c.w) l d = vecBits ty (res l)) ∧
       (∀ l ∈ act, tyWide (BitVec.ofNat 4 ty) = true → t.readPair (t.wave c.w) l d = BitVec.ofNat 64 (res l))) ∧
     (∀ wide, sh.dst = .reg wide → sh.isUniform o = true → 192 ≤ d → ∀ l rest, act = l :: rest →
       t.readU (t.wave c.w) (d - 192) = uniBits ty (res l)) ∧
     (∀ wide, sh.dst = .cross wide → o.uc = true → ∀ l rest, act = l :: rest →
       t.readU (t.wave c.w) d = uniBits ty (res l))) ∧
  (∀ (s : State) (c : Ctx) (h : Hdr) (o : OpA) (res : Nat → Bool),
     let act := s.activeLanes c h.pg h.pn
     let t := resultP s c h o res
     (s.waves.find c.w).isSome = true → (s.wave c.w).results = [] → (∀ l ∈ act, l < (s.wave c.w).threads.length) →
     (∀ l ∈ act, t.readP (t.wave c.w) l (o.d.toNat % 8) = if o.d.toNat % 8 = 7 then true else res l) ∧
     (o.d.toNat % 8 = 7 → ∀ l, ((t.wave c.w).thread l).p = ((s.wave c.w).thread l).p) ∧
     (∀ l, l ∉ act → ((t.wave c.w).thread l).p = ((s.wave c.w).thread l).p))

/-- A word that names a vector register at or above its wave's allocation traps with 0x0004 and the lowest such register
(Table 18-4): a word with one guard that is no region boundary, a paired word, and a region boundary, which then commits nothing.
FADD, FSUB and FMUL with SP = 0 whose operand A holds slag in the lowest active lane take cause 0x02 of that
operand's verdict, for the lanes where A or B holds slag (R76, R385).
Which operand code a slag trap names is read as log entry 55 says. -/
def Obligations.OperandTraps : Prop :=
  (∀ (s : State) (c : Ctx) (h : Hdr) (dst src : List Nat) (eff : State → Ctx → List Nat → Effect) (r : Nat),
    let act := s.activeLanes c h.pg h.pn
    s.ctx = some c → act ≠ [] → r ∈ dst ++ src → c.wave.alloc ≤ r → (∀ x ∈ dst ++ src, c.wave.alloc ≤ x → r ≤ x) →
    s.issueWord h dst src eff = s.programError c 0x0004 r c.wave.alloc act) ∧
  (∀ (s : State) (c : Ctx) (settle : Bool) (x y : Half) (r : Nat),
    let act := c.lanes.filter fun l => (s.activeLanes c x.pg x.pn).contains l || (s.activeLanes c y.pg y.pn).contains l
    let regs := halfReads x ++ halfReads y ++ [x.d.toNat, y.d.toNat]
    s.ctx = some c → act ≠ [] → r ∈ regs → c.wave.alloc ≤ r → (∀ k ∈ regs, c.wave.alloc ≤ k → r ≤ k) →
    exec (.pairedWord settle x y) s = .next (s.programError c 0x0004 r c.wave.alloc act)) ∧
  (∀ (s : State) (c : Ctx) (i : Instr) (h : Hdr) (regs : List Nat) (wake : State → State) (r : Nat),
    let act := s.activeLanes c h.pg h.pn
    boundaryWord i = some (h, regs, wake) → s.ctx = some c → act ≠ [] → r ∈ regs → c.wave.alloc ≤ r →
    (∀ k ∈ regs, c.wave.alloc ≤ k → r ≤ k) →
    exec i s = .next (wake (s.programError c 0x0004 r c.wave.alloc act))) ∧
  (∀ (s : State) (c : Ctx) (h : Hdr) (o : OpA) (l v : Nat) (rest : List Nat),
    s.activeLanes c h.pg h.pn = l :: rest → ReadyA s c h o (shapeF2 o (tyFP o.ty) true) → o.sp = false →
    slagOf o.ty.toNat (fpA s c o l) = some v →
    let on := (l :: rest).filter fun k =>
      (slagOf o.ty.toNat (fpA s c o k)).isSome || (slagOf o.ty.toNat (fpB s c o k)).isSome
    exec (.fadd h o) s = .next (s.takeTrap c (.slag 0x20 0 (slagBits 10 v) 0 on)) ∧
    exec (.fsub h o) s = .next (s.takeTrap c (.slag 0x21 0 (slagBits 10 v) 0 on)) ∧
    exec (.fmul h o) s = .next (s.takeTrap c (.slag 0x22 0 (slagBits 10 v) 0 on)))

/-! ### Integer and logical words -/

/-- IADD, ISUB, IMUL, IMULH, IMAD, IMIN, IMAX, IABS, INEG and LEA complete with the results of Table 7-2 (R183, R184). -/
def Obligations.IntegerResults : Prop :=
  ∀ (s : State) (c : Ctx) (h : Hdr) (o : OpA),
    let ty := o.ty.toNat
    let n := intWidth ty
    (ReadyA s c h o (shapeInt2 o true) →
      exec (.iadd h o) s = .next (resultA s c h o (shapeInt2 o true) ty fun l =>
        reduceInt ty o.ov (intA s c o l + intB s c o l)) ∧
      exec (.isub h o) s = .next (resultA s c h o (shapeInt2 o true) ty fun l =>
        reduceInt ty o.ov (intA s c o l - intB s c o l)) ∧
      exec (.imul h o) s = .next (resultA s c h o (shapeInt2 o true) ty fun l =>
        reduceInt ty o.ov (intA s c o l * intB s c o l))) ∧
    (ReadyA s c h o (shapeInt2 o false) →
      exec (.imulh h o) s = .next (resultA s c h o (shapeInt2 o false) ty fun l =>
        ofSigned n (intA s c o l * intB s c o l / ((2 ^ n : Nat) : Int))) ∧
      exec (.imin h o) s = .next (resultA s c h o (shapeInt2 o false) ty fun l =>
        ofSigned n (min (intA s c o l) (intB s c o l))) ∧
      exec (.imax h o) s = .next (resultA s c h o (shapeInt2 o false) ty fun l =>
        ofSigned n (max (intA s c o l) (intB s c o l)))) ∧
    (ReadyA s c h o (shapeImad o) →
      exec (.imad h o) s = .next (resultA s c h o (shapeImad o) ty fun l =>
        reduceInt ty o.ov (intA s c o l * intB s c o l + intC s c o l))) ∧
    (ReadyA s c h o (shapeInt1 (tySigned o.ty) o true) →
      exec (.iabs h o) s = .next (resultA s c h o (shapeInt1 (tySigned o.ty) o true) ty fun l =>
        reduceInt ty o.ov (intA s c o l).natAbs)) ∧
    (ReadyA s c h o (shapeInt1 (tyInt o.ty) o true) →
      exec (.ineg h o) s = .next (resultA s c h o (shapeInt1 (tyInt o.ty) o true) ty fun l =>
        reduceInt ty o.ov (-(intA s c o l)))) ∧
    (ReadyA s c h o (shapeLea o) →
      exec (.lea h o) s = .next (resultA s c h o (shapeLea o) 7 fun l =>
        ofSigned 64 ((srcA s c.wave o l 64 : Int) +
          intOf ty (srcB s c.wave o l 32) * ((2 ^ o.x3.toNat : Nat) : Int))))

/-- IDIV and IREM complete with the quotient and remainder of R58 and Table 3-1, which never trap: a zero divisor gives the
largest value, or for a negative dividend the smallest, and the dividend; the lowest value divided by -1 is reduced like
any result.
R57: reduction wraps modulo 2^N, or with OV = 1 clamps to the range of the type. -/
def Obligations.DivisionResults : Prop :=
  ((∀ (s : State) (c : Ctx) (h : Hdr) (o : OpA),
     let ty := o.ty.toNat
     let n := intWidth ty
     (ReadyA s c h o (shapeInt2 o true) →
       exec (.idiv h o) s = .next (lateA s c h o (shapeInt2 o true) ty fun l =>
         if intB s c o l = 0 then ofSigned n (if intA s c o l < 0 then intMin ty else intMax ty)
         else reduceInt ty o.ov ((intA s c o l).tdiv (intB s c o l)))) ∧
     (ReadyA s c h o (shapeInt2 o false) →
       exec (.irem h o) s = .next (lateA s c h o (shapeInt2 o false) ty fun l =>
         ofSigned n (if intB s c o l = 0 then intA s c o l else (intA s c o l).tmod (intB s c o l)))))) ∧
  (∀ (ty : Nat) (x : Int), ty < 8 →
     (intOf ty (reduceInt ty false x) - x) % ((2 ^ intWidth ty : Nat) : Int) = 0 ∧
     intMin ty ≤ intOf ty (reduceInt ty false x) ∧ intOf ty (reduceInt ty false x) ≤ intMax ty ∧
     intOf ty (reduceInt ty true x) = max (intMin ty) (min x (intMax ty)))

/-- AND, OR, XOR, ANDN, SHL, SHR, SAR, ROTL, FUNSH, BFX, BFI, POPC, CLZ, CTZ, BREV and PRMT complete with the results of
Table 7-3 (R185, R186).
ISETP, ISEL, MOV, PLOP, PGET and PSET complete with the results of R187 to R189 and R203.
How wide the counts of shifts and of BFX are read, and which lane's predicate decides an ISEL with a uniform result, are the
model's (log entries 12, 61). -/
def Obligations.LogicalResults : Prop :=
  (∀ (s : State) (c : Ctx) (h : Hdr) (o : OpA),
     let ty := o.ty.toNat
     let n := intWidth ty
     let a (l : Nat) : Nat := srcA s c.wave o l n
     let b (l : Nat) : Nat := srcB s c.wave o l n
     let k (l : Nat) : Nat := srcB s c.wave o l 32
     let one : ShapeA := shapeInt1 (tyUnsignedWide o.ty) o false
     (ReadyA s c h o (shapeInt2 o false) →
       exec (.and h o) s = .next (resultA s c h o (shapeInt2 o false) ty fun l => a l &&& b l) ∧
       exec (.or h o) s = .next (resultA s c h o (shapeInt2 o false) ty fun l => a l ||| b l) ∧
       exec (.xor h o) s = .next (resultA s c h o (shapeInt2 o false) ty fun l => a l ^^^ b l) ∧
       exec (.andn h o) s = .next (resultA s c h o (shapeInt2 o false) ty fun l => a l &&& (2 ^ n - 1 - b l))) ∧
     (ReadyA s c h o (shapeShift o) →
       exec (.shl h o) s = .next (resultA s c h o (shapeShift o) ty fun l =>
         if n ≤ k l then 0 else a l * 2 ^ k l % 2 ^ n) ∧
       exec (.shr h o) s = .next (resultA s c h o (shapeShift o) ty fun l =>
         if n ≤ k l then 0 else a l % 2 ^ n / 2 ^ k l) ∧
       exec (.sar h o) s = .next (resultA s c h o (shapeShift o) ty fun l =>
         ofSigned n (toSigned n (a l) / ((2 ^ min (k l) (n - 1) : Nat) : Int))) ∧
       exec (.rotl h o) s = .next (resultA s c h o (shapeShift o) ty fun l =>
         a l * 2 ^ (k l % n) % 2 ^ n ||| a l % 2 ^ n / 2 ^ (n - k l % n))) ∧
     (ReadyA s c h o (shapeFunsh o) →
       exec (.funsh h o) s = .next (resultA s c h o (shapeFunsh o) 6 fun l =>
         let w := srcB s c.wave o l 32 * 2 ^ 32 + srcA s c.wave o l 32
         let j := srcC s c.wave o l 5
         if o.x1 then slice (w * 2 ^ j) 32 32 else slice w j 32)) ∧
     (ReadyA s c h o (shapeBfx o) →
       exec (.bfx h o) s = .next (resultA s c h o (shapeBfx o) ty fun l =>
         fieldExtract ty n (a l) (srcB s c.wave o l 8) (min (srcC s c.wave o l 8) n))) ∧
     (ReadyA s c h o (shapeBfi o) →
       exec (.bfi h o) s = .next (resultA s c h o (shapeBfi o) ty fun l =>
         fieldInsert n (a l) (b l) (srcC s c.wave o l 8) (min (slice (srcC s c.wave o l 16) 8 8) n))) ∧
     (ReadyA s c h o one →
       exec (.popc h o) s = .next (resultA s c h o one ty fun l => popCount n (a l)) ∧
       exec (.clz h o) s = .next (resultA s c h o one ty fun l => leadingZeros n (a l)) ∧
       exec (.ctz h o) s = .next (resultA s c h o one ty fun l => trailingZeros n (a l)) ∧
       exec (.brev h o) s = .next (resultA s c h o one ty fun l => reverseBits n (a l))) ∧
     (ReadyA s c h o (shapePrmt o) →
       exec (.prmt h o) s = .next (resultA s c h o (shapePrmt o) 6 fun l =>
         bytePermute (srcA s c.wave o l 32) (srcB s c.wave o l 32) (srcC s c.wave o l 32)))) ∧
  (∀ (s : State) (c : Ctx) (h : Hdr) (o : OpA),
     let act := s.activeLanes c h.pg h.pn
     let n := if o.ty.toNat = 7 then 64 else 32
     let ty := if o.ty.toNat = 7 then 7 else 6
     let p (f : BitVec 8) (l : Nat) : Bool := s.readP c.wave l (f.toNat % 8)
     (ReadyA s c h o (shapeIsetp o) →
       exec (.isetp h o) s = .next (resultP s c h o fun l =>
         condInt o.x3.toNat (intA s c o l) (intB s c o l) && (!o.x1 || p o.c l))) ∧
     (ReadyA s c h o (shapeIsel o) →
       exec (.isel h o) s = .next (resultA s c h o (shapeIsel o) ty fun l =>
         let k := if (shapeIsel o).isUniform o = true ∧ 192 ≤ o.d.toNat then s.iselLane c (o.c.toNat % 8) else l
         if p o.c k then srcA s c.wave o l n else srcB s c.wave o l n)) ∧
     (ReadyA s c h o (shapeMov o) →
       exec (.mov h o) s = .next (resultA s c h o (shapeMov o) ty fun l =>
         if o.ib then srcB s c.wave o l n else srcA s c.wave o l n)) ∧
     (ReadyA s c h o (shapePlop o) →
       exec (.plop h o) s = .next (resultP s c h o fun l => predOp o.x3.toNat (p o.a l) (p o.b l))) ∧
     (ReadyA s c h o (shapePget o) →
       exec (.pget h o) s = .next (retired s c h.s false (act.map fun l =>
         .vec l o.d.toNat (BitVec.ofNat 32 (maskOf ((List.range 8).filter fun k => s.readP c.wave l k)))) [])) ∧
     (ReadyA s c h o (shapePset o) →
       exec (.pset h o) s = .next (retired s c h.s false (act.flatMap fun l =>
         ((List.range 7).filter fun k => (srcB s c.wave o l 8).testBit k).map fun k =>
           .pred l k ((srcA s c.wave o l 8).testBit k)) [])))

/-! ### Floating-point words -/

/-- FADD, FSUB, FMUL and FFMA complete with the exact sum, difference, product, or product and sum, rounded once by RM and OV;
FMIN and FMAX with minimumNumber and maximumNumber (R66); FRND with the integral value; FSCL with A times 2^B, rounded once;
FCLS with the class bits; FSETP with the comparison (R191 to R193), each element of a packed type apart. FRCP and FDIV
complete with the quotient rounded once, FSQRT, FRSQ, FEX2, FLG2, FSIN, FCOS and FTANH with the operand's function, as
variable-latency results (R78). The statement is for operands free of slag, or, where R77 admits it, of which the
result carries the slag.
The special cases (Table 3-12, R66): a NaN gives the canonical NaN; FRCP and FRSQ of a zero an infinity of its sign; FRCP of an
infinity a zero; FSQRT, FSIN and FTANH of a zero the zero; FSQRT, FRSQ and FLG2 of a negative value NaN; FEX2 of -inf +0 and of
a zero 1; FCOS of a zero 1; FSIN and FCOS of an infinity NaN; FTANH of an infinity 1 of its sign; FLG2 of a zero -inf.
FMIN and FMAX give the other operand for a NaN, and the lesser or the greater one, -0 below +0. -/
def Obligations.FloatResults : Prop :=
  (∀ (s : State) (c : Ctx) (h : Hdr) (o : OpA),
     let act := s.activeLanes c h.pg h.pn
     let ty := o.ty.toNat
     let f := fmtOf ty
     let rm := o.rm.toNat
     let a := fpA s c o
     let b := fpB s c o
     (ReadyA s c h o (shapeF2 o (tyFP o.ty) true) → SlagFree o act [a, b] →
       exec (.fadd h o) s = .next (resultA s c h o (shapeF2 o (tyFP o.ty) true) ty fun l =>
         fp2 ty (fun x y => f.round rm o.ov (Fl.add rm (f.decode x) (f.decode y))) (a l) (b l)) ∧
       exec (.fsub h o) s = .next (resultA s c h o (shapeF2 o (tyFP o.ty) true) ty fun l =>
         fp2 ty (fun x y => f.round rm o.ov (Fl.add rm (f.decode x) (f.decode y).neg)) (a l) (b l)) ∧
       exec (.fmul h o) s = .next (resultA s c h o (shapeF2 o (tyFP o.ty) true) ty fun l =>
         fp2 ty (fun x y => f.round rm o.ov (Fl.mul (f.decode x) (f.decode y))) (a l) (b l))) ∧
     (ReadyA s c h o (shapeF2 o (tyFP o.ty) false) → SlagFree o act [a, b] →
       exec (.fmin h o) s = .next (resultA s c h o (shapeF2 o (tyFP o.ty) false) ty fun l =>
         fp2 ty (f.minMax false) (a l) (b l)) ∧
       exec (.fmax h o) s = .next (resultA s c h o (shapeF2 o (tyFP o.ty) false) ty fun l =>
         fp2 ty (f.minMax true) (a l) (b l))) ∧
     (ReadyA s c h o (shapeFfma o) → SlagFree o act [a, b, fpC s c o] →
       exec (.ffma h o) s = .next (resultA s c h o (shapeFfma o) ty fun l =>
         fp3 ty (fun x y z => f.round rm o.ov (Fl.add rm (Fl.mul (f.decode x) (f.decode y)) (f.decode z)))
           (a l) (b l) (fpC s c o l))) ∧
     (ReadyA s c h o (shapeFrnd o) → SlagFree o act [a] →
       exec (.frnd h o) s = .next (resultA s c h o (shapeFrnd o) ty fun l =>
         fp1 ty (fun x => match f.decode x with
           | .nan => f.nan
           | .inf _ => x
           | .fin neg m e => if m = 0 ∨ 0 ≤ e then x else f.round 0 false (.fin neg (rnd rm neg m (2 ^ (-e).toNat)) 0)) (a l))) ∧
     (ReadyA s c h o (shapeFscl o) → SlagFree o act [a] →
       exec (.fscl h o) s = .next (resultA s c h o (shapeFscl o) ty fun l =>
         orSlag ty [(ty, a l)] (f.round rm o.ov ((f.decode (a l)).scale (toSigned 32 (srcB s c.wave o l 32)))))) ∧
     (ReadyA s c h o (shapeFcls o) →
       exec (.fcls h o) s = .next (resultA s c h o (shapeFcls o) 6 fun l => classMask ty (a l))) ∧
     (ReadyA s c h o (shapeFsetp o) → (o.sp = true ∨ NoSlag act [(ty, a), (ty, b)]) →
       exec (.fsetp h o) s = .next (resultP s c h o fun l =>
         condFloat o.x3.toNat ((f.decode (a l)).compare (f.decode (b l))) &&
           (!o.x1 || s.readP c.wave l (o.c.toNat % 8))))) ∧
  (∀ (s : State) (c : Ctx) (h : Hdr) (o : OpA),
     let act := s.activeLanes c h.pg h.pn
     let ty := o.ty.toNat
     let f := fmtOf ty
     let a := fpA s c o
     let rm := o.rm.toNat
     (ReadyA s c h o (shapeF1 o (tyFT o.ty)) → SlagFree o act [a] →
       exec (.frcp h o) s = .next (lateA s c h o (shapeF1 o (tyFT o.ty)) ty fun l => fp1 ty (f.rcpBits rm o.ov) (a l)) ∧
       exec (.frsq h o) s = .next (lateA s c h o (shapeF1 o (tyFT o.ty)) ty fun l => fp1 ty (f.rsqBits rm o.ov) (a l)) ∧
       exec (.fex2 h o) s = .next (lateA s c h o (shapeF1 o (tyFT o.ty)) ty fun l => fp1 ty (f.ex2Bits rm o.ov) (a l)) ∧
       exec (.flg2 h o) s = .next (lateA s c h o (shapeF1 o (tyFT o.ty)) ty fun l => fp1 ty (f.lg2Bits rm o.ov) (a l)) ∧
       exec (.fsin h o) s = .next (lateA s c h o (shapeF1 o (tyFT o.ty)) ty fun l => fp1 ty (f.sinBits rm o.ov) (a l)) ∧
       exec (.fcos h o) s = .next (lateA s c h o (shapeF1 o (tyFT o.ty)) ty fun l => fp1 ty (f.cosBits rm o.ov) (a l)) ∧
       exec (.ftanh h o) s = .next (lateA s c h o (shapeF1 o (tyFT o.ty)) ty fun l => fp1 ty (f.tanhBits rm o.ov) (a l))) ∧
     (ReadyA s c h o (shapeF1 o (tyF o.ty)) → SlagFree o act [a] →
       exec (.fsqrt h o) s = .next (lateA s c h o (shapeF1 o (tyF o.ty)) ty fun l => fp1 ty (f.sqrtBits rm o.ov) (a l))) ∧
     (ReadyA s c h o (shapeF2 o (tyF o.ty) true) → SlagFree o act [a, fpB s c o] →
       exec (.fdiv h o) s = .next (lateA s c h o (shapeF2 o (tyF o.ty) true) ty fun l =>
         fp2 ty (f.divBits rm o.ov) (a l) (fpB s c o l)))) ∧
  (∀ (f : Fmt) (rm : Nat) (ov : Bool) (x : Nat),
     let one (neg : Bool) : Nat := f.round 0 false (.fin neg 1 0)
     (f.decode x = .nan → f.rcpBits rm ov x = f.nan ∧ f.rsqBits rm ov x = f.nan ∧ f.sqrtBits rm ov x = f.nan ∧
       f.ex2Bits rm ov x = f.nan ∧ f.lg2Bits rm ov x = f.nan ∧ f.sinBits rm ov x = f.nan ∧ f.cosBits rm ov x = f.nan ∧
       f.tanhBits rm ov x = f.nan) ∧
     (∀ neg, f.decode x = .inf neg → f.rcpBits rm ov x = f.signed neg 0 ∧ f.sinBits rm ov x = f.nan ∧
       f.cosBits rm ov x = f.nan ∧ f.tanhBits rm ov x = one neg ∧ f.rsqBits rm ov x = (if neg then f.nan else f.signed false 0) ∧
       f.sqrtBits rm ov x = (if neg then f.nan else f.infinity false) ∧
       f.lg2Bits rm ov x = (if neg then f.nan else f.infinity false) ∧
       f.ex2Bits rm ov x = (if neg then f.signed false 0 else f.infinity false)) ∧
     (∀ neg e, f.decode x = .fin neg 0 e → f.rcpBits rm ov x = f.infinity neg ∧ f.rsqBits rm ov x = f.infinity neg ∧
       f.sqrtBits rm ov x = x ∧ f.sinBits rm ov x = x ∧ f.tanhBits rm ov x = x ∧ f.lg2Bits rm ov x = f.infinity true ∧
       f.ex2Bits rm ov x = one false ∧ f.cosBits rm ov x = one false) ∧
     (∀ m e, m ≠ 0 → f.decode x = .fin true m e →
       f.sqrtBits rm ov x = f.nan ∧ f.rsqBits rm ov x = f.nan ∧ f.lg2Bits rm ov x = f.nan) ∧
     (∀ neg m e, m ≠ 0 → f.decode x = .fin neg m e →
       f.rcpBits rm ov x = f.roundRat rm ov neg (ratOf m e).2 (ratOf m e).1)) ∧
  (∀ (f : Fmt) (rm : Nat) (ov : Bool) (x y : Nat) (a b : Bool) (m n : Nat) (e g : Int), m ≠ 0 → n ≠ 0 →
     f.decode x = .fin a m e → f.decode y = .fin b n g →
     f.divBits rm ov x y = f.roundRat rm ov (a != b) (ratOf m (e - g)).1 ((ratOf m (e - g)).2 * n)) ∧
  (∀ (f : Fmt) (x y : Nat),
     let p := f.decode x
     let q := f.decode y
     (p = .nan → q = .nan → ∀ b, f.minMax b x y = f.nan) ∧
     (p = .nan → q ≠ .nan → ∀ b, f.minMax b x y = y) ∧ (p ≠ .nan → q = .nan → ∀ b, f.minMax b x y = x) ∧
     (p.lt q = true → f.minMax false x y = x ∧ f.minMax true x y = y) ∧
     (q.lt p = true → f.minMax false x y = y ∧ f.minMax true x y = x) ∧
     (p.isZero = true → q.isZero = true → p.isNeg = true → q.isNeg = false →
       f.minMax false x y = x ∧ f.minMax true x y = y ∧ f.minMax false y x = x ∧ f.minMax true y x = y))

/-- FCVT, ICVT, NPACK, NUNPK, BXHDR, DOT4 and TSLAG complete: FCVT with the value itself for the same type, the canonical NaN
for a NaN, else converted and rounded once (R195, R64); ICVT with the integer reduced, or converted (R65); NPACK with both
converted operands packed (R196), NUNPK with one element widened, BXHDR with the block's header and elements (R197), DOT4 with
the four products and the accumulator rounded once (R198), TSLAG with the verdict code (R289). Operands of FCVT, ICVT, NPACK,
NUNPK, BXHDR and DOT4 are free of slag, or SP admits it (R77). -/
def Obligations.ConversionResults : Prop :=
  ∀ (s : State) (c : Ctx) (h : Hdr) (o : OpA),
    let act := s.activeLanes c h.pg h.pn
    let st := (srcTy o).toNat
    let dt := o.ty.toNat
    let x (l : Nat) : Nat := srcA s c.wave o l (tyBits st)
    let a (l : Nat) : Nat := srcA s c.wave o l 32
    let b (l : Nat) : Nat := srcB s c.wave o l 32
    let k := o.x3.toNat
    (ReadyA s c h o (shapeFcvt o) → (o.sp = true ∧ slagCarries dt = true) ∨ NoSlag act [(st, x)] →
      exec (.fcvt h o) s = .next (resultA s c h o (shapeFcvt o) dt fun l =>
        orSlag dt [(st, x l)] (if st = dt then (if ((fmtOf st).decode (x l)).isNan then (fmtOf st).nan else x l)
          else convertFloat (fmtOf st) (fmtOf dt) o.rm.toNat o.ov (x l)))) ∧
    (ReadyA s c h o (shapeIcvt o) → st ≤ 7 ∨ NoSlag act [(st, x)] →
      exec (.icvt h o) s = .next (resultA s c h o (shapeIcvt o) dt fun l =>
        if st ≤ 7 then
          if dt ≤ 7 then reduceInt dt o.ov (intOf st (x l)) else intToFloat (fmtOf dt) o.rm.toNat o.ov (intOf st (x l))
        else floatToInt (fmtOf st) o.rm.toNat (x l) dt)) ∧
    (ReadyA s c h o (shapeNpack o) → (o.sp = true ∧ slagCarries dt = true) ∨ NoSlag act [(10, a), (10, b)] →
      exec (.npack h o) s = .next (resultA s c h o (shapeNpack o) 6 fun l =>
        let u := packElement o (a l)
        let v := packElement o (b l)
        let w := srcC s c.wave o l 32
        if dt = 8 ∨ dt = 9 then v * 2 ^ 16 + u
        else if o.x1 then (v * 2 ^ 8 + u) * 2 ^ 16 + w % 2 ^ 16 else w / 2 ^ 16 * 2 ^ 16 + v * 2 ^ 8 + u)) ∧
    (let e (l : Nat) : Nat := slice (a l) (fpBits dt * k) (fpBits dt)
     ReadyA s c h o (shapeNunpk o) → o.sp = true ∨ NoSlag act [(dt, e)] →
      exec (.nunpk h o) s = .next (resultA s c h o (shapeNunpk o) 10 fun l =>
        orSlag 10 [(dt, e l)] (convertFloat (fmtOf dt) f32 0 false (e l)))) ∧
    (ReadyA s c h o (shapeBxhdr o) → (c.card.slot k).fmt = 5 ∨ (c.card.slot k).fmt = 6 → NoSlag act [(10, a)] →
      exec (.bxhdr h o) s = .next (
        let r := packBx (c.card.slot k).fmt (c.card.slot k).off (c.card.slot k).scl o.ov ((List.range 32).map fun i =>
          if o.ua || act.contains i then f32.decode (a i) else .fin false 0 0)
        resultA s c h o (shapeBxhdr o) 6 fun l => r.2.getD l 0 * 2 ^ 16 + r.1)) ∧
    (ReadyA s c h o (shapeDot4 o) → (c.card.slot k).fmt = 3 ∨ (c.card.slot k).fmt = 4 ∨ (c.card.slot k).fmt = 7 →
      o.sp = true ∨ NoSlag act [(10, fun l => srcC s c.wave o l 32)] →
      exec (.dot4 h o) s = .next (resultA s c h o (shapeDot4 o) 10 fun l =>
        orSlag 10 [(10, srcC s c.wave o l 32)]
          (dot4 (c.card.slot k) o.rm.toNat o.ov (a l) (b l) (srcC s c.wave o l 32)))) ∧
    (ReadyA s c h o (shapeTslag o) →
      exec (.tslag h o) s = .next (resultA s c h o (shapeTslag o) 6 fun l => (slagCode dt (fpA s c o l)).getD 0))

/-! ### Cross-lane words -/

/-- SHFL, MATCH, WRED and WSCAN complete with variable-latency results (R199, R200, R202): SHFL the source of the lane that
R199 names, where that lane is active, else its own; MATCH the mask of the active lanes with an equal value; WRED the
reduction of the active lanes' values over aligned blocks of lanes (R79), WSCAN that of the lanes up to its own, from
the last one whose predicate C is true with X1 = 1. For WRED and WSCAN a floating-point operand is free of slag, or SP admits
it and the result is the slag of the lowest lane that holds any (R202, log entry 64). -/
def Obligations.CrossLaneResults : Prop :=
  ∀ (s : State) (c : Ctx) (h : Hdr) (o : OpA),
    let act := s.activeLanes c h.pg h.pn
    let n := if o.ty.toNat = 7 then 64 else 32
    let a (l : Nat) : Nat := srcA s c.wave o l n
    let clean : Prop := o.ty.toNat ≤ 7 ∨ SlagFree o act [fpA s c o]
    (ReadyA s c h o (shapeShfl o) →
      exec (.shfl h o) s = .next (lateA s c h o (shapeShfl o) (if o.ty.toNat = 7 then 7 else 6) fun l =>
        match shuffleLane o.x3.toNat l (srcB s c.wave o l 32) with
        | some j => if j ∈ act then a j else a l
        | none => a l)) ∧
    (ReadyA s c h o (shapeMatch o) →
      exec (.matchLanes h o) s = .next (lateA s c h o (shapeMatch o) 6 fun l => maskOf (act.filter fun j => a j == a l))) ∧
    (ReadyA s c h o (shapeWred o) → clean →
      exec (.wred h o) s = .next (lateA s c h o (shapeWred o) o.ty.toNat fun _ =>
        let vals := laneValues s c.wave o act
        lowestSlag o vals ((blockReduce o 5 vals).getD 0))) ∧
    (ReadyA s c h o (shapeWscan o) → clean →
      exec (.wscan h o) s = .next (lateA s c h o (shapeWscan o) o.ty.toNat fun l =>
        let vals := laneValues s c.wave o act
        let first := ((act.filter fun j => decide (j ≤ l) && s.readP c.wave j (o.c.toNat % 8)).getLast?).getD 0
        let from_ := if o.x1 then first else 0
        lowestSlag o ((vals.take (l + 1)).drop from_) ((prefixReduce o vals l 32 from_ none).getD 0)))

/-- R201: VOTE computes all, any, uniform and ballot of q, which is p(A[2:0]) of each active lane, negated when X1 = 1, and
writes the result in every active lane. -/
def Obligations.VoteResults : Prop :=
  ∀ (s : State) (c : Ctx) (h : Hdr) (o : OpA),
    let act := s.activeLanes c h.pg h.pn
    let q (l : Nat) : Bool := s.readP c.wave l (o.a.toNat % 8) != o.x1
    ReadyA s c h o (shapeVote o) →
    (o.x3 = 0 → exec (.vote h o) s = .next (retired s c h.s false [] (act.map fun l =>
      .pred l (o.d.toNat % 8) (decide (∀ j ∈ act, q j = true))))) ∧
    (o.x3 = 1 → exec (.vote h o) s = .next (retired s c h.s false [] (act.map fun l =>
      .pred l (o.d.toNat % 8) (decide (∃ j ∈ act, q j = true))))) ∧
    (o.x3 = 2 → exec (.vote h o) s = .next (retired s c h.s false [] (act.map fun l =>
      .pred l (o.d.toNat % 8) (decide (∀ j ∈ act, ∀ k ∈ act, q j = q k))))) ∧
    (3 ≤ o.x3.toNat → exec (.vote h o) s = .next (lateA s c h o (shapeVote o) 6 fun _ => maskOf (act.filter q)))

/-! ### Immediates and paired words -/

/-- MOVI, MOVHI, IADDI, IMULI, ANDI, ORI and XORI complete: on 32 bits in each active lane, or on 64 bits in a uniform
register (R204).
FADDI, FMULI, ISETPI and FSETPI complete (R204, R205), the floating-point forms where neither operand is slag. -/
def Obligations.ImmediateResults : Prop :=
  (∀ (s : State) (c : Ctx) (h : Hdr) (o : OpB),
     let i := o.imm.toNat
     let x : Word := o.imm.signExtend 64
     (ReadyB s c h o false →
       exec (.movi h o) s = .next (resultB s c h o (fun _ => i) x) ∧
       exec (.movhi h o) s = .next (resultB s c h o (fun _ => i)
         (o.imm ++ (s.readU c.wave (o.d.toNat - 192)).setWidth 32))) ∧
     (ReadyB s c h o true →
       exec (.iaddi h o) s = .next (resultB s c h o (fun l => (bVec s c o l + i) % 2 ^ 32) (bUni s c o + x)) ∧
       exec (.imuli h o) s = .next (resultB s c h o (fun l => bVec s c o l * i % 2 ^ 32) (bUni s c o * x)) ∧
       exec (.andi h o) s = .next (resultB s c h o (fun l => bVec s c o l &&& i) (bUni s c o &&& x)) ∧
       exec (.ori h o) s = .next (resultB s c h o (fun l => bVec s c o l ||| i) (bUni s c o ||| x)) ∧
       exec (.xori h o) s = .next (resultB s c h o (fun l => bVec s c o l ^^^ i) (bUni s c o ^^^ x)))) ∧
  (∀ (s : State) (c : Ctx) (h : Hdr) (o : OpB),
     let act := s.activeLanes c h.pg h.pn
     let i := o.imm.toNat
     let u := decide (192 ≤ o.d.toNat)
     let a (l : Nat) : Nat := if u then (bUni s c o).toNat % 2 ^ 32 else bVec s c o l
     let cc := slice o.d.toNat 3 3
     let write (f : Nat → Nat → Nat) : State := resultB s c h o (fun l => f (a l) i) (BitVec.ofNat 64 (f (a 0) i))
     (ReadyB s c h o true → NoSlag act [(10, a), (10, fun _ => i)] →
       exec (.faddi h o) s = .next (write (f32.addBits 0 false)) ∧
       exec (.fmuli h o) s = .next (write (f32.mulBits 0 false))) ∧
     (Ready s c h [] (if u then [] else [o.a.toNat]) →
       exec (.isetpi h o) s = .next (retired s c h.s false (act.map fun l => .pred l (o.d.toNat % 8)
         (if u then condImm cc 64 (bUni s c o).toNat (o.imm.signExtend 64 : Word).toNat else condImm cc 32 (bVec s c o l) i)) []) ∧
       (NoSlag act [(10, a), (10, fun _ => i)] →
         exec (.fsetpi h o) s = .next (retired s c h.s false (act.map fun l => .pred l (o.d.toNat % 8)
           (condFloat cc ((f32.decode (a l)).compare (f32.decode i)))) []))))

/-- A paired word computes D := D op SO in each half under its own guard, and reads every source of both halves before
either writes (R161, R162); where no operand is slag that a half rejects. -/
def Obligations.PairedResults : Prop :=
  ∀ (s : State) (c : Ctx) (settle : Bool) (x y : Half),
    let ax := s.activeLanes c x.pg x.pn
    let ay := s.activeLanes c y.pg y.pn
    let act := c.lanes.filter fun l => ax.contains l || ay.contains l
    let value (k : Half) (l : Nat) : Nat := halfResult k (s.readV c.wave l k.d.toNat).toNat (halfSo s c.wave k l)
    Issued s c act (halfReads x ++ halfReads y ++ [x.d.toNat, y.d.toNat]) (halfReads x ++ halfReads y) →
    halfSlag s c.wave x ax = none → halfSlag s c.wave y ay = none →
    exec (.pairedWord settle x y) s = .next (retired s c settle false
      ((ax.map fun l => .vec l x.d.toNat (BitVec.ofNat 32 (value x l))) ++
       (ay.map fun l => .vec l y.d.toNat (BitVec.ofNat 32 (value y l)))) [])

/-! ### Traps and the emulation handler -/

/-- Taking a trap (R376, R377, R380, R383): outside the handler, with an EMU, the issued threads go to EMU in handler mode
with their meeting points kept, sr.emu0 to sr.emu7 hold the cause's values and the PC, and no result is outstanding; with
EMU = 0 it is the program error of Table 18-2; inside the handler it is program error 0x0015 with the cause and EMU; a
program error settles the wave and fails the job with the word's record. -/
def Obligations.TakingTraps : Prop :=
  (∀ (s : State) (c : Ctx) (i : Issue) (t : Trap),
    s.cur = some i → (s.waves.find c.w).isSome = true → t.cause ≠ 0 → c.wave.handlerMode = false → c.card.emu ≠ 0 →
    (t.emu c.word).length = 7 →
    let x := (s.takeTrap c t).wave c.w
    (∀ k, k < 7 → x.emu.getD k 0 = BitVec.ofNat 64 ((t.emu c.word).getD k 0)) ∧ x.emu.getD 7 0 = c.pc ∧ x.results = [] ∧
    (∀ l ∈ i.lanes, l < (s.wave c.w).threads.length →
      (x.thread l).pc = c.card.emu ∧ (x.thread l).handler = true ∧ (x.thread l).mt = ((s.wave c.w).thread l).mt) ∧
    (∀ l, l ∉ i.lanes → (x.thread l).pc = ((s.wave c.w).thread l).pc ∧
      (x.thread l).handler = ((s.wave c.w).thread l).handler) ∧
    SameMemory s (s.takeTrap c t)) ∧
  (∀ (s : State) (c : Ctx) (t : Trap), t.cause ≠ 0 → c.wave.handlerMode = false → c.card.emu = 0 →
    s.takeTrap c t = s.programError c (t.code c.word).1 (t.code c.word).2.1 (t.code c.word).2.2 t.lanes) ∧
  (∀ (s : State) (c : Ctx) (t : Trap), t.cause ≠ 0 → c.wave.handlerMode = true →
    s.takeTrap c t = s.programError c 0x0015 t.cause c.card.emu.toNat t.lanes) ∧
  (∀ (s : State) (c : Ctx) (code a b : Nat) (lanes : List Nat),
    s.takeTrap c (.error code a b lanes) = s.programError c code a b lanes ∧
    s.programError c code a b lanes = (s.onWave c.w s.settleAll).failJob c.job (c.record code a b lanes))

/-- TRAP takes cause 0x10 with its code (R208); a word that is no instruction takes cause 0x01 in the lanes `wordLanes` that
its guard bits leave active, and only advances where they leave none (R173, R384).
EMURET in the handler, once no result is outstanding, sends its active threads to sr.emu7 and out of the handler after
the commit of a region boundary (R250, R382); outside the handler it is no instruction. -/
def Obligations.TrapsAndReturn : Prop :=
  ((∀ (s : State) (c : Ctx) (h : Hdr) (o : OpS), Ready s c h [] [] →
     exec (.trap h o) s = .next (s.takeTrap c (.call o.imm.toNat (s.activeLanes c h.pg h.pn)))) ∧
   (∀ (s : State) (c : Ctx) (w : Word), Issued s c (wordLanes w s c) [] [] →
     exec (.illegalEncoding w) s = .next (s.takeTrap c (.illegal (illegalEmu w) (wordLanes w s c)))) ∧
   (∀ (s : State) (c : Ctx) (w : Word), s.ctx = some c → wordLanes w s c = [] →
     exec (.illegalEncoding w) s = .next (retired s c (w.getLsbD 63) false [] []))) ∧
  ((∀ (s s1 : State) (c : Ctx) (h : Hdr) (o : OpS), Boundary s c h [] [] s1 → c.wave.handlerMode = true →
     (s.wave c.w).results = [] →
     exec (.emuret h o) s = .next (jumped ((begun s1 c).onWave c.w fun w =>
       (w.advance ((begun s1 c).curLanes c)).leaveHandler (s.activeLanes c h.pg h.pn)) c h.s true [])) ∧
   (∀ (w : Wave) (lanes : List Nat), ∀ l ∈ lanes, l < w.threads.length →
     ((w.leaveHandler lanes).thread l).pc = w.emu.getD 7 0 ∧ ((w.leaveHandler lanes).thread l).handler = false) ∧
   (∀ (s : State) (c : Ctx) (h : Hdr) (o : OpS), s.ctx = some c → c.wave.handlerMode = false →
     exec (.emuret h o) s = .next (s.issueIllegal c.word)))

/-! ### Control flow -/

/-- BRA, BRX, CALL and RET send their active threads to their targets, and CALL writes the return address; a BRX or RET
with a target that is not a multiple of 8 traps with 0x0005 and moves no thread (R206, R157, Table 18-4).
The frame of a branch: each active thread stands at its target, each other issued thread at the next word, any other
where it was; every register but the return address, every predicate, meeting point and special register of the wave, all
else of the state and all memory are unchanged (R28, R206). -/
def Obligations.BranchResults : Prop :=
  (∀ (s : State) (c : Ctx) (h : Hdr) (o : OpJ),
     let act := s.activeLanes c h.pg h.pn
     let r := o.modc.toNat
     let u := o.tgt.getLsbD 0
     let direct : Word := c.pc + 8 + 8 * o.tgt.signExtend 64
     let target (l : Nat) : Word := if u then s.readU c.wave r else s.readPair c.wave l r
     let go (f : Nat → Word) (now : List RegWrite) : State := jumped (s.branch c act f) c h.s false now
     (Ready s c h [] [] → exec (.bra h o) s = .next (go (fun _ => direct) [])) ∧
     (Ready s c h [r, r + 1] [] → exec (.call h o) s = .next (go (fun _ => direct) (act.flatMap fun l =>
       [.vec l r ((c.pc + 8).setWidth 32), .vec l (r + 1) ((c.pc + 8).extractLsb' 32 32)]))) ∧
     (Ready s c h [] (if u then [] else [r, r + 1]) →
       ((∀ l ∈ act, (target l).toNat % 8 = 0) →
         exec (.brx h o) s = .next (go target []) ∧ exec (.ret h o) s = .next (go target [])) ∧
       (∀ l rest, (act.filter fun l => (target l).toNat % 8 != 0) = l :: rest →
         exec (.brx h o) s = .next (s.programError c 0x0005 (target l).toNat 0 (l :: rest)) ∧
         exec (.ret h o) s = .next (s.programError c 0x0005 (target l).toNat 0 (l :: rest))))) ∧
  (∀ (s : State) (c : Ctx) (act : List Nat) (f : Nat → Word) (settle : Bool) (now : List RegWrite),
     (s.waves.find c.w).isSome = true → (s.wave c.w).results = [] →
     (∀ x ∈ now, ∃ l r v, x = RegWrite.vec l r v) →
     let t := jumped (s.branch c act f) c settle false now
     let w := s.wave c.w
     let x := t.wave c.w
     t = { s with waves := t.waves } ∧ SameMemory s t ∧ (∀ k, k ≠ c.w → t.wave k = s.wave k) ∧
     (∀ l, l < w.threads.length →
       (x.thread l).pc = if l ∈ act then f l else if l ∈ c.lanes then (w.thread l).pc + 8 else (w.thread l).pc) ∧
     (∀ l r, (∀ v, RegWrite.vec l r v ∉ now) → (x.thread l).v.getD r 0 = (w.thread l).v.getD r 0) ∧
     (∀ l, { x.thread l with v := [], pc := 0 } = { w.thread l with v := [], pc := 0 }) ∧
     x.uni = w.uni ∧ x.emu = w.emu ∧ x.alloc = w.alloc ∧ x.rsb = w.rsb)

/-- MEET sets the meeting point of its active threads, MEET with no target clears it (R27); NOP does nothing; SLEEP sets
its wave's wake time n + 1 clocks on, or with 0 none (R209), which SLEEP's end clears once it is reached and not before.
EXIT, once no result is outstanding, ends its active threads after the commit of its boundary: at once where no engine
operation of their home blocks is outstanding, else its wave waits for those operations (R49). -/
def Obligations.ControlWords : Prop :=
  ((∀ (s : State) (c : Ctx) (h : Hdr) (o : OpS), Ready s c h [] [] →
     let act := s.activeLanes c h.pg h.pn
     let meet (m : Word) : State := s.onWave c.w fun w => w.onLanes act fun _ t => { t with mt := m }
     exec (.meet h o) s = .next (retired (meet (c.pc + 8 + 8 * o.imm.signExtend 64)) c h.s false [] []) ∧
     exec (.meetClear h o) s = .next (retired (meet 0) c h.s false [] []) ∧
     exec (.nop h o) s = .next (retired s c h.s false [] []) ∧
     (o.imm ≠ 0 → exec (.sleep h o) s = .next (retired (s.onWave c.w fun w => { w with wake := s.clk + o.imm.toNat + 1 })
       c h.s false [] [])) ∧
     (o.imm = 0 → exec (.sleep h o) s = .next (retired s c h.s false [] []))) ∧
   (∀ (s : State) (k : Nat), (s.wave k).wake ≤ s.clk →
     exec (.sleepEnd k) s = .next (s.onWave k fun w => { w with wake := 0 })) ∧
   (∀ (s : State) (k : Nat), s.clk < (s.wave k).wake → exec (.sleepEnd k) s = .next s)) ∧
  (∀ (s s1 : State) (c : Ctx) (h : Hdr) (o : OpS),
     let act := s.activeLanes c h.pg h.pn
     let t := begun s1 c
     let ops := (distinct (c.lanes.map fun l => t.homeBlock c l)).flatMap t.engineOps
     Boundary s c h [] [] s1 →
     ((s.wave c.w).results ≠ [] → exec (.exit h o) s = .next (settling s c)) ∧
     ((s.wave c.w).results = [] → ops = [] →
       exec (.exit h o) s = .next (retired (t.onWave c.w fun w => w.exitLanes act) c h.s true [] [])) ∧
     ((s.wave c.w).results = [] → ops ≠ [] → exec (.exit h o) s = .next (waiting t c h.s true [] (.exit ops act))) ∧
     (∀ (w : Wave), (∀ l ∈ act, l < w.threads.length → ((w.exitLanes act).thread l).live = false) ∧
       (∀ l, l ∉ act → (w.exitLanes act).thread l = w.thread l) ∧ (w.exitLanes act).q0 = []))

/-! ### Regions and registers -/

/-- REGION commits and starts the next region (R245). GROW, once no result is outstanding, waits for registers beyond its
wave's allocation, after which its core makes the grants that it can (R246, R46); a request above 256 registers a thread,
or above its core's registers for its cluster, traps with 0x0009 before anything is committed (R390). SHRINK gives
registers back, down to 8 (R47). Outside a deterministic job a commit is never refused, and an empty buffer commits nothing.
The grants of GROW (R46): the oldest request of a core is granted exactly when the core's registers hold it, and its
wave goes on with the larger allocation; registers at or above a smaller allocation are lost and read 0 (R47). -/
def Obligations.RegionAndRegisters : Prop :=
  (∀ (s s1 : State) (c : Ctx) (h : Hdr) (o : OpS),
     let act := s.activeLanes c h.pg h.pn
     let n := o.imm.toNat % 32
     let t := begun s1 c
     let granted (u : State) : State := u.wakeCur fun u c => u.grant c.core
     let new := c.wave.alloc + 8 * n
     let held := s.clusterRegs c.cl c.core + 256 * n
     (Boundary s c h [] [] s1 →
       exec (.region h o) s = .next (retired t c h.s true [] []) ∧
       ((s.wave c.w).results = [] → n = 0 → exec (.grow h o) s = .next (granted (retired t c h.s true [] []))) ∧
       ((s.wave c.w).results = [] → n ≠ 0 → new ≤ 256 → held ≤ 65536 →
         exec (.grow h o) s = .next (granted (waiting t c h.s true [] (.grow new)))) ∧
       ((s.wave c.w).results = [] → exec (.shrink h o) s = .next (retired (t.onWave c.w fun w =>
         w.shrinkTo (max (min 8 w.alloc) (w.alloc - 8 * n))) c h.s true [] []))) ∧
     (Ready s c h [] [] → (∀ l ∈ act, (c.wave.thread l).txn = none) → (s.wave c.w).results = [] → n ≠ 0 →
       256 < new ∨ 65536 < held → exec (.grow h o) s = .next (granted (s.programError c 0x0009 new held act)))) ∧
  ((∀ (s : State) (c : Ctx) (act : List Nat), (c.det = false → ∃ s1, s.commit c act = .ok s1) ∧
     ((s.wave c.w).rsb = [] → s.commit c act = .ok s)) ∧
   (∀ (s : State) (core k a : Nat) (w : Wave) (rest : List (Nat × Wave)),
     s.growers core = (k, w) :: rest → w.park = some (.grow a) →
     s.grantOne core = if s.coreRegs core + 32 * (a - w.alloc) ≤ 65536 then
       some (s.onWave k fun w => { w with alloc := a, park := none }) else none) ∧
   (∀ (s : State) (core : Nat), s.growers core = [] → s.grant core = s) ∧
   (∀ (w : Wave) (a l r : Nat), l < w.threads.length →
     ((w.shrinkTo a).thread l).v.getD r 0 = if a ≤ r then 0 else (w.thread l).v.getD r 0))

/-! ### Special registers -/

/-- RSP gives each active lane special register IMM32[9:0], its low half unless X64 = 1, or the lowest active lane's value
to a uniform register; sr.clk and sr.time come as variable-latency results (R247, R248). WSP writes sr.seed of its active
threads, sr.abn0 to sr.abn15 of the block and, in the handler, sr.emu7, and any other register not at all (R249).
What the special registers of Table 8-14 read as (R248): identities of thread, wave, block and task, the core's place,
the clocks, the generator and transaction registers, the card's sizes and deadline, or 2^48 - 1 without one, the block's and
the handler's registers; every other number reads 0.
That a counter reads as the latest WSP has left it, one still waiting included, is the model's (log entry 66). -/
def Obligations.SpecialRegisters : Prop :=
  (∀ (s : State) (c : Ctx) (h : Hdr) (o : OpS),
     let act := s.activeLanes c h.pg h.pn
     let i := o.imm.toNat % 1024
     let d := o.d.toNat
     let a := o.a.toNat
     let b := s.block (s.blockOf c.cl c.wave.host)
     let writes : List RegWrite :=
       if 192 ≤ d then (act.head?.toList).map fun l => .uni (d - 192) (s.special c i l)
       else act.flatMap fun l =>
         if spWide o then [.vec l d ((s.special c i l).setWidth 32), .vec l (d + 1) ((s.special c i l >>> 32).setWidth 32)]
         else [.vec l d ((s.special c i l).setWidth 32)]
     let x (l : Nat) : Word := if 192 ≤ a then s.readU c.wave (a - 192) else if spWide o then s.readPair c.wave l a
       else (s.readV c.wave l a).setWidth 64
     (Ready s c h (spRegs o o.d) [] → i = 0x10 ∨ i = 0x11 →
       exec (.rsp h o) s = .next (retired s c h.s false [] writes)) ∧
     (Ready s c h (spRegs o o.d) [] → i ≠ 0x10 → i ≠ 0x11 →
       exec (.rsp h o) s = .next (retired s c h.s false writes [])) ∧
     (Ready s c h [] (spRegs o o.a) →
       (i = 0x018 → exec (.wsp h o) s = .next (retired (s.onWave c.w fun w => w.onLanes act fun l t =>
         { t with seed := x l }) c h.s false [] [])) ∧
       (0x040 ≤ i → i ≤ 0x04F →
         (b.matrix.ops = [] → exec (.wsp h o) s = .next (retired (s.onBlock (s.blockOf c.cl c.wave.host) fun b =>
           { b with abn := b.abn.put (i - 0x040) (x (act.headD 0)) 0 }) c h.s false [] [])) ∧
         (b.matrix.ops ≠ [] → exec (.wsp h o) s = .next (retired (s.onBlock (s.blockOf c.cl c.wave.host) fun b =>
           { b with matrix := { b.matrix with
             ops := b.matrix.ops ++ [
               { word := c.word, pc := c.pc, lanes := act, number := b.matrix.count, members := []
                 a0 := x (act.headD 0), a1 := BitVec.ofNat 64 (i - 0x040) }]
             count := b.matrix.count + 1 } }) c h.s false [] []))) ∧
       (i = 0x087 → c.wave.handlerMode = true → exec (.wsp h o) s = .next (retired (s.onWave c.w fun w =>
         { w with emu := w.emu.put 7 (x (act.headD 0)) 0 }) c h.s false [] [])) ∧
       (i ≠ 0x018 → ¬ (0x040 ≤ i ∧ i ≤ 0x04F) → ¬ (i = 0x087 ∧ c.wave.handlerMode = true) →
         exec (.wsp h o) s = .next (retired s c h.s false [] [])))) ∧
  (∀ (s : State) (c : Ctx) (l : Nat),
     let t := c.wave.thread l
     let n (x : Nat) : Word := BitVec.ofNat 64 x
     s.special c 0x000 l = n t.tid ∧ s.special c 0x001 l = n l ∧ s.special c 0x002 l = n c.wave.wid ∧
     s.special c 0x003 l = n t.bid ∧ s.special c 0x004 l = n c.wave.host ∧ s.special c 0x005 l = n c.task ∧
     s.special c 0x006 l = (s.cluster c.cl).recordAt ∧ s.special c 0x007 l = t.key ∧
     s.special c 0x008 l = n c.core ∧ s.special c 0x009 l = n (groupOfCore c.core) ∧ s.special c 0x00A l = n (dieOfCore c.core) ∧
     s.special c 0x010 l = s.time ∧ s.special c 0x011 l = n s.clk ∧
     s.special c 0x018 l = t.seed ∧ s.special c 0x019 l = t.tstat ∧ s.special c 0x020 l = n c.wave.alloc ∧
     s.special c 0x021 l = n c.card.waves ∧ s.special c 0x022 l = n c.card.blocks ∧ s.special c 0x023 l = n c.card.rcount ∧
     s.special c 0x024 l = n c.card.rsize ∧ s.special c 0x025 l = n c.card.shared ∧ s.special c 0x026 l = n c.card.stack ∧
     (∀ d, c.card.deadline = some d → s.special c 0x027 l = d.setWidth 64) ∧
     s.special c 0x028 l = (s.job c.job).asid.setWidth 64 ∧
     (let b := s.block (s.blockOf c.cl c.wave.host)
      ∀ k, k < 16 →
        (c.det = false → s.special c (0x040 + k) l = (firstSome b.matrix.ops.reverse fun m =>
          if isCounterWrite m ∧ m.a1.toNat = k then some m.a0 else none).getD (b.abn.getD k 0)) ∧
        (c.det = true → s.special c (0x040 + k) l =
          (s.countersBehind (s.blockOf c.cl c.wave.host) c.card).getD k 0)) ∧
     (∀ k, k < 8 → s.special c (0x080 + k) l = c.wave.emu.getD k 0) ∧
     (c.card.deadline = none → s.special c 0x027 l = n (2 ^ 48 - 1)) ∧
     (∀ i, (0x00B ≤ i ∧ i ≤ 0x00F) ∨ (0x012 ≤ i ∧ i ≤ 0x017) ∨ (0x01A ≤ i ∧ i ≤ 0x01F) ∨ (0x029 ≤ i ∧ i ≤ 0x03F) ∨
       (0x050 ≤ i ∧ i ≤ 0x07F) ∨ 0x088 ≤ i → s.special c i l = 0))

/-- HALT and TLBINV are for privileged jobs: in another they trap with 0x0006 and their operation code (R251, Table 18-4).
HALT, once no result is outstanding, commits and stops its cluster under a new handle, with a record for the host, where its
task does not run twice; TLBINV removes at once from every TLB the translations of an address, of an ASID, or all, and waits for
the stores through them that are buffered or on their way (R251, R408).
How TLBINV's wait ends is log entry 28's, and whether a handle counts its own HALT log entry 84's. -/
def Obligations.PrivilegedWords : Prop :=
  (∀ (s : State) (c : Ctx) (code : Nat), (s.clusters.find c.cl).isSome = true →
    let handle := (s.block (s.blockOf c.cl 0)).core + (s.halts + 1).toNat * 2 ^ 8
    let t := s.haltCluster c code
    t.halts = s.halts + 1 ∧ (t.cluster c.cl).life = .halted handle ∧ SameMemory s t ∧
    t.hostHeld = s.hostHeld ++ [BitVec.ofNat 256 (1 + code * 2 ^ 8 + handle * 2 ^ 32 + c.pc.toNat * 2 ^ 64 +
      s.time.toNat * 2 ^ 128 + (s.job c.job).asid.toNat * 2 ^ 192)]) ∧
  (∀ (s : State) (asid : BitVec 14) (va mode k : Nat),
    let left (l : List Leaf) : List Leaf := if mode = 0 then dropLeaf l asid va
      else if mode = 1 then l.filter fun x => x.asid != asid else []
    let t := s.invalidateTlbs asid va mode
    (t.core k).tlb = left (s.core k).tlb ∧ (t.die k).l2tlb = left (s.die k).l2tlb ∧ SameMemory s t) ∧
  ∀ (s s1 : State) (c : Ctx) (h : Hdr) (o : OpS),
    let act := s.activeLanes c h.pg h.pn
    let asid := (s.readU c.wave (o.d.toNat % 64)).setWidth 14
    let va := (s.readU c.wave (o.a.toNat % 64)).toNat
    let on := s.storing (s.invalRange asid va (o.imm.toNat % 4))
    let stores := s.sending (s.invalRange asid va (o.imm.toNat % 4))
    let t := s.invalidateTlbs asid va (o.imm.toNat % 4)
    Ready s c h [] [] →
    (c.card.priv = false → exec (.halt h o) s = .next (s.programError c 0x0006 0x30 0 act) ∧
      exec (.tlbinv h o) s = .next (s.programError c 0x0006 0x31 0 act)) ∧
    (c.card.priv = true →
      ((s.wave c.w).results = [] → (s.cluster c.cl).run = none → s.commit c act = .ok s1 → (s1.cluster c.cl).run = none →
        exec (.halt h o) s = .next (retired ((begun s1 c).haltCluster c (o.imm.toNat % 256)) c h.s true [] [])) ∧
      (on = [] ∧ stores = [] → exec (.tlbinv h o) s = .next (retired t c h.s false [] [])) ∧
      (on ≠ [] ∨ stores ≠ [] → exec (.tlbinv h o) s = .next (waiting t c h.s false [] (.inval on stores))))

/-! ### Memory -/

/-- Bytes of home memory (R98, R102, R119): a byte that is written at its home reads back, every other address reads as
before, a number reads back little-endian (R3), and writing CXL lines back changes no byte;
where memory is in canonical form, it stays so. -/
def Obligations.MemoryReadWrite : Prop :=
  ∀ (s : State),
    (∀ pa b a, (s.writeHome pa b).home a = if s.served a = s.served pa then b else s.home a) ∧
    (∀ pa n v, (∀ i, i < n → s.served (pa + i) = s.served pa + i) →
      (s.writeNat pa n v).homeNat pa n = v % 2 ^ (8 * n) ∧
      (∀ a, (∀ i, i < n → s.served a ≠ s.served pa + i) → (s.writeNat pa n v).home a = s.home a)) ∧
    (∀ p a, (s.writeBack p).home a = s.home a) ∧
    (Memory.wf s.mem = true → (∀ pa b, Memory.wf (s.writeHome pa b).mem = true) ∧
      (∀ pa n v, Memory.wf (s.writeNat pa n v).mem = true) ∧ ∀ p, Memory.wf (s.writeBack p).mem = true)

/-- Where the addresses of a word's lanes lie in the windows that it can address, are multiples of its width and placed as its
form asks, and no lane has an open transaction, every page is mapped in the core's TLB to memory whose route is up,
every scratchpad line is present and nothing is poisoned, a load, a store and an atomic pass every check of R399 and change
nothing by being checked; an atomic's value is no slag that it rejects, and its operation is allowed in its job.
The order of R399, step 3: an address outside its windows traps with 0x0103 whatever the alignment, else an address
that is no multiple of the width with 0x0102, else one that is not where the step asks with 0x0101 (R400), each for the lanes
that break it and with the lowest one's address. -/
def Obligations.AccessChecks : Prop :=
  (∀ (s : State) (c : Ctx) (f : Form) (o : OpM) (act : List Nat),
     let g := widthOf o
     let addrs := f.addrs s c o act
     let atoms := genericAddrs s c o 16 act
     let passes (acc : Access) (l : List (Nat × Nat)) (spots : List (Nat × Place)) (pages : Tab Nat) : Prop :=
       spots.map Prod.fst = l.map Prod.fst ∧ spots.map (fun p => some p.2) = l.map (fun p => s.place c p.1 p.2 g) ∧
       ∀ p ∈ l, windowOf p.2 = 0 → ∀ pa, Mapped s c acc p.2 pa → pageAddr pages p.2 = pa
     (Clear s c f.windows g (f.contig s c o) .read addrs →
       ∃ spots pages, s.prepareLoad c f o act = (.ok (spots, pages), s) ∧ passes .read addrs spots pages) ∧
     (Clear s c f.windows g (f.contig s c o) .write addrs →
       ∃ spots pages, s.prepareStore c f o act = (.ok (spots, pages), s) ∧ passes .write addrs spots pages) ∧
     (∀ op returns, Clear s c [0, 1, 2, 3] g (.oneOr g) .write atoms → atomSlag s c.wave o op act = none →
       (c.det = true → returns = false ∧ (opnOf o < 8 ∨ 12 < opnOf o)) →
       ∃ spots pages, s.prepareAtomic c o op returns act = (.ok (spots, pages), s) ∧ passes .write atoms spots pages)) ∧
  (∀ (s : State) (c : Ctx) (windows : List Nat) (g : Nat) (cg : Contig) (addrs : List (Nat × Nat)),
     let outside (p : Nat × Nat) : Bool := !(windows.contains (windowOf p.2) && (s.place c p.1 p.2 g).isSome)
     let uneven (p : Nat × Nat) : Bool := p.2 % g != 0
     (∀ p rest, addrs.filter outside = p :: rest →
       s.placeAll c windows g cg addrs = .error (.error 0x0103 p.2 (windowOf p.2) ((p :: rest).map Prod.fst))) ∧
     (∀ p rest, addrs.filter outside = [] → addrs.filter uneven = p :: rest →
       s.placeAll c windows g cg addrs = .error (.error 0x0102 p.2 g ((p :: rest).map Prod.fst))) ∧
     (∀ k first others p rest, addrs.filter outside = [] → addrs.filter uneven = [] → cg = .step k →
       (addrs.filter fun p => windowOf p.2 == 0) = first :: others →
       ((first :: others).filter fun p => p.2 != requiredAddr first k p.1) = p :: rest →
       s.placeAll c windows g cg addrs =
         .error (.error 0x0101 p.2 (requiredAddr first k p.1) ((p :: rest).map Prod.fst))))

/-- LDG, LDGS, LDS, LDC, LDL and LD complete, a relaxed one outside a deterministic job wherever its lanes are clear of every
check of R399: the bytes of each active lane's address go to its data
group as a variable-latency result (R212, R217, R220). An ordered load is a region boundary, releases first with ORD 10 and
11 (R127) and acquires after its last lane with 01 and 11 (R213); while the stores that it releases are not at their points
its wave waits.
The byte that a global load returns (R92): the newest one of the wave's region store buffer; else of its core's commit
buffer; else, past the caches or where none holds the line, the home's; else the cached byte.
What an acquire at system scope does with CXL lines is log entry 14's. -/
def Obligations.LoadResults : Prop :=
  (∀ (i : Instr) (h : Hdr) (o : OpM) (f : Form) (s s0 s1 s2 : State) (c : Ctx) (spots : List (Nat × Place)) (pages : Tab Nat),
     loadForm i = some (h, o, f) →
     let act := s.activeLanes c h.pg h.pn
     let g := widthOf o
     let ord := o.ord.toNat
     let writes (t : State) : List RegWrite := spots.flatMap fun q =>
       groupWrites o q.1 (t.laneBytes c (loadPath c o) (t.wave c.w).rsb g pages q.1 q.2)
     let sc := s1.scopeFor c o.sc.toNat spots
     let objs := s1.wordObjs c g spots
     let words := syncWords g pages spots
     let t := if 2 ≤ ord then (released s1 c sc objs).noteRelease c sc [] else s1
     let v := if ord % 2 = 1 then t.noteAcquire c sc words else t
     let u := s2.countConflicts g spots
     (ord = 0 → Ready s c h (groupRegs o) (baseRegs o f.pair) → s.prepareLoad c f o act = (.ok (spots, pages), s1) →
       s1.noteLoad c (loadPath c o) g pages spots = .ok s2 →
       exec i s = .next (retired u c h.s false [] (writes s1))) ∧
     (ord = 0 → c.det = false → Ready s c h (groupRegs o) (baseRegs o f.pair) →
       Clear s c f.windows g (f.contig s c o) .read (f.addrs s c o act) →
       ∃ (p : List (Nat × Place)) (m : Tab Nat) (t : State), s.prepareLoad c f o act = (.ok (p, m), s) ∧ SameMemory s t ∧
         exec i s = .next (retired (t.countConflicts g p) c h.s false [] (p.flatMap fun q =>
           groupWrites o q.1 (s.laneBytes c (loadPath c o) (s.wave c.w).rsb g m q.1 q.2)))) ∧
     (ord ≠ 0 → Boundary s c h (groupRegs o) (baseRegs o f.pair) s0 →
       (∃ x y, s.prepareLoad c f o act = (.ok x, y) ∧ y.loadConflict c o act x.1 x.2 = none) →
       (begun s0 c).prepareLoad c f o act = (.ok (spots, pages), s1) →
       ((2 ≤ ord → Drained s1 c sc objs) → v.noteLoad c (loadPath c o) g pages spots = .ok s2 →
         exec i s = .next (retired (if ord % 2 = 1 then u.acquire c sc objs words else u) c h.s true [] (writes v))) ∧
       (2 ≤ ord → ¬ Drained s1 c sc objs →
         exec i s = .next (parked (s1.onWave c.w fun w => { w with drained := true }) c
           (.drain (s1.releaseWaits c sc objs)))))) ∧
  (∀ (s : State) (p : LoadPath) (rsb : List Buffered) (pa : Nat),
     let k := s.core p.core
     let cached := (cachedByte k.l1 pa).or (cachedByte (s.die (dieOfCore p.core)).rdc pa)
     let x := s.loadByte p rsb pa
     (∀ b, bufferedByte rsb pa = some b → x = b) ∧
     (∀ b, bufferedByte rsb pa = none → committedByte k pa = some b → x = b) ∧
     (bufferedByte rsb pa = none → committedByte k pa = none → p.skip = true ∨ cached = none → x = s.home pa) ∧
     (∀ b, bufferedByte rsb pa = none → committedByte k pa = none → p.skip = false → cached = some b → x = b))

/-- STG, STGS, STS, STC, STL and ST complete, a relaxed one wherever its lanes are clear of every check of R399 and the region
store buffer has an entry for each of them: a relaxed one performs its lanes' stores (R216, R220); an ordered one is a region
boundary, is performed with its own commit (R124), and releases first with ORD 10 and 11 (R127). -/
def Obligations.StoresComplete : Prop :=
  ∀ (i : Instr) (h : Hdr) (o : OpM) (f : Form) (s s0 s1 s2 s3 : State) (c : Ctx) (spots : List (Nat × Place))
    (pages : Tab Nat), storeForm i = some (h, o, f) →
    let act := s.activeLanes c h.pg h.pn
    let src := groupRegs o ++ baseRegs o f.pair
    let ord := o.ord.toNat
    let sc := s1.scopeFor c o.sc.toNat spots
    let objs := s1.wordObjs c (widthOf o) spots
    let t := if 2 ≤ ord then released s1 c sc objs else s1
    (ord = 0 → Ready s c h [] src → s.prepareStore c f o act = (.ok (spots, pages), s1) →
      s1.performStore c o spots pages sc = .ok s2 → exec i s = .next (retired s2 c h.s false [] [])) ∧
    (ord = 0 → Ready s c h [] src → Clear s c f.windows (widthOf o) (f.contig s c o) .write (f.addrs s c o act) →
      (s.wave c.w).rsb.length + act.length ≤ 64 →
      ∃ (p : List (Nat × Place)) (m : Tab Nat) (t : State), s.prepareStore c f o act = (.ok (p, m), s) ∧
        s.performStore c o p m (s.scopeFor c o.sc.toNat p) = .ok t ∧ exec i s = .next (retired t c h.s false [] [])) ∧
    (ord ≠ 0 → Boundary s c h [] src s0 →
      (∃ x y, s.prepareStore c f o act = (.ok x, y) ∧ y.storeConflict c o x.1 x.2 = none) →
      (begun s0 c).prepareStore c f o act = (.ok (spots, pages), s1) →
      ((2 ≤ ord → Drained s1 c sc objs) → t.performStore c o spots pages sc = .ok s2 → s2.commit c act (decide (2 ≤ ord)) = .ok s3 →
        exec i s = .next (retired (if 2 ≤ ord then s3.noteRelease c sc (syncWords (widthOf o) pages spots) else s3)
          c h.s true [] [])) ∧
      (2 ≤ ord → ¬ Drained s1 c sc objs →
        exec i s = .next (parked (s1.onWave c.w fun w => { w with drained := true }) c
          (.drain (s1.releaseWaits c sc objs)))))

/-- The region store buffer (R34, R216): after a store each byte that it writes reads as the value of the highest lane that
writes it, and every other byte as before; a store that needs more than 64 entries is refused and traps with 0x0008, the
buffer unchanged, and so is a relaxed RED, whose lines take an entry each (R389). -/
def Obligations.BufferedStores : Prop :=
  (∀ (rsb rsb' : List Buffered) (scope : Nat) (bytes : List (Nat × Nat × Byte)) (pa : Nat),
    bufferStore rsb scope bytes = .ok rsb' →
    bufferedByte rsb' pa = match bytes.reverse.find? fun b => b.1 == pa with
      | some b => some b.2.2
      | none => bufferedByte rsb pa) ∧
  (∀ (rsb : List Buffered) (scope : Nat) (bytes : List (Nat × Nat × Byte)), rsb.length ≤ 64 →
    ((∃ rsb', bufferStore rsb scope bytes = .ok rsb' ∧ rsb'.length ≤ 64) ↔
      rsb.length + ((distinct (bytes.map fun b => b.1 / 128)).filter fun n =>
        !(rsb.any fun e => match e with | .store l .. => l == n | .red .. => false)).length ≤ 64)) ∧
  (∀ (i : Instr) (h : Hdr) (o : OpM) (f : Form) (s s1 : State) (c : Ctx) (spots : List (Nat × Place)) (pages : Tab Nat)
    (t : Trap), storeForm i = some (h, o, f) → o.ord = 0 → Ready s c h [] (groupRegs o ++ baseRegs o f.pair) →
    s.prepareStore c f o (s.activeLanes c h.pg h.pn) = (.ok (spots, pages), s1) →
    s1.performStore c o spots pages (s1.scopeFor c o.sc.toNat spots) = .error t →
    (∃ va, t = .error 0x0008 va 0 (spots.map Prod.fst)) ∧ exec i s = .next (s1.takeTrap c t)) ∧
  (∀ (rsb : List Buffered) (scope : Nat) (ops : List (Nat × RedOp)),
    (∃ rsb', bufferRed rsb scope ops = .ok rsb') ↔ rsb.length + (distinct (ops.map fun p => p.2.pa / 128)).length ≤ 64) ∧
  (∀ (h : Hdr) (o : OpM) (s s1 : State) (c : Ctx) (spots : List (Nat × Place)) (pages : Tab Nat) (va : Nat), o.ord = 0 →
    Ready s c h [] (atomRegs o ++ baseRegs o true) →
    s.prepareAtomic c o 0x11 false (s.activeLanes c h.pg h.pn) = (.ok (spots, pages), s1) →
    bufferRed (s1.wave c.w).rsb (s1.atomScope c o spots) (globalOps s1 c o spots pages) = .error va →
    exec (.red h o) s = .next (s1.programError c 0x0008 va 0 (spots.map Prod.fst)))

/-- The frame of a relaxed store: it changes no byte at any home, no byte of a scratchpad outside the places of its lanes,
no register, predicate or PC, and no other wave; without a global lane it leaves the region store buffer alone. -/
def Obligations.StoreFrame : Prop :=
  ∀ (s t : State) (c : Ctx) (o : OpM) (spots : List (Nat × Place)) (pages : Tab Nat) (scope : Nat),
    (∀ p ∈ spots, ((s.wave c.w).thread p.1).txn = none ∧ (c.wave.thread p.1).txn = none) →
    s.performStore c o spots pages scope = .ok t →
    SameMemory s t ∧ (∀ k, k ≠ c.w → t.wave k = s.wave k) ∧
    (∀ l, (t.wave c.w).thread l = (s.wave c.w).thread l) ∧ (t.wave c.w).uni = (s.wave c.w).uni ∧
    (∀ b n, (∀ l k offs, (l, Place.local b k offs) ∈ spots → n ∉ offs) →
      (t.block b).scratch.getD n 0 = (s.block b).scratch.getD n 0) ∧
    ((∀ p ∈ spots, ∀ va, p.2 ≠ .global va) → (t.wave c.w).rsb = (s.wave c.w).rsb)

/-- The commit of one buffered store (R35, R94, R122, R124): of wave or block scope it changes no home and is the newest
byte of the core's commit buffer; of a wider scope its bytes are at their homes. The core's cached copy of the line goes.
A store that a core's commit buffer holds reaches its home, after the older ones of its line (RELEASE_DRAIN_COMPLETE,
R119, R121) and the late writes of atomics within whose scope the core is (R134): the last of them decides each byte, no other address changes, and they leave the buffer. -/
def Obligations.CommittedStores : Prop :=
  (∀ (s : State) (core job wave line va scope : Nat) (bytes : Tab Byte),
     (∀ p ∈ bytes, p.1 < 128) →
     let t := (s.commitEntry { core, job, wave } (.store line va scope bytes)).2
     ((t.core core).l1.find line = none) ∧
     (scope < 3 → SameMemory s t ∧ ∀ k, k < 128 → ∀ b, bytes.find k = some b →
       committedByte (t.core core) (line * 128 + k) = some b) ∧
     (3 ≤ scope → (∀ k, k < 128 → s.served (line * 128 + k) = s.served (line * 128) + k ∧
         s.routeDown (line * 128 + k) = false) →
       (∀ e ∈ (s.core core).commit, e.line ≠ line) →
       ∀ k, k < 128 → t.home (line * 128 + k) = (lastOf bytes k).getD (s.home (line * 128 + k)))) ∧
  (∀ (s : State) (core n : Nat) (e : Committed),
     (s.core core).commit.find? (fun x => x.number == n) = some e →
     let out := (s.core core).commit.filter fun x => x.line == e.line && decide (x.number ≤ n)
     let v := s.landOn core
     (∀ k, k < 128 → v.served (e.line * 128 + k) = v.served (e.line * 128) + k ∧ v.routeDown (e.line * 128 + k) = false) →
     (∀ x ∈ out, ∀ p ∈ x.bytes, p.1 < 128) →
     ∃ t, exec (.releaseDrainComplete core n) s = .next t ∧
       (t.core core).commit = (s.core core).commit.filter (fun x => !(x.line == e.line && decide (x.number ≤ n))) ∧
       (∀ k, k < 128 → t.home (e.line * 128 + k) =
         ((firstSome out.reverse fun x => lastOf x.bytes k).getD (v.home (e.line * 128 + k)))) ∧
       (∀ a, (∀ k, k < 128 → v.served a ≠ v.served (e.line * 128) + k) → t.home a = v.home a))

/-- ATOM completes, with ORD 00 and 01, nothing buffered, wherever its lanes are clear of every check of R399: it is a region
boundary, performs its lanes (`performAtomic`), and each old value goes to its lane as a variable-latency result (R225, R227).
RED with ORD 10 and 11 is a boundary and a release on its words, with 01 it is performed at once, and relaxed its global lanes
are buffered and the others performed (R228); with 00, where the buffer has an entry for each lane, and 01 it completes wherever
its lanes are clear.
One lane's read-modify-write at the home (R227, Table 8-6): it answers the old value, writes the new one and changes no
other byte; a slag old value of a floating-point operation on f32, and a compare that fails, write nothing. At cluster, group
and device scope it does the same once its write has landed, and the write of an agent outside the scope that comes to those bytes
before is replaced (R134).
When such a write is late is log entry 72's. That RED with ORD 01 commits nothing is log entry 20's. -/
def Obligations.AtomicResults : Prop :=
  (∀ (h : Hdr) (o : OpM) (s s0 s1 : State) (c : Ctx) (spots : List (Nat × Place)) (pages : Tab Nat),
     let act := s.activeLanes c h.pg h.pn
     let g := widthOf o
     let ord := o.ord.toNat
     let src := atomRegs o ++ baseRegs o true
     let sc := s1.atomScope c o spots
     let objs := s1.wordObjs c g spots
     let t := if 2 ≤ ord then released s1 c sc objs else s1
     let words := syncWords g pages spots
     let noted (t : State) : State :=
       let t := (if ord % 2 = 1 then t.noteAcquire c sc words else t).noteWrites c (decide (2 ≤ ord)) words
       if 2 ≤ ord then t.noteRelease c sc words else t
     let done (t : State) : State := (t.performAtomic c o sc pages spots).2.countConflicts g spots
     (Boundary s c h (groupRegs o) src s0 → (∃ x y, s.prepareAtomic c o 0x10 true act = (.ok x, y)) →
       (begun s0 c).prepareAtomic c o 0x10 true act = (.ok (spots, pages), s1) → (2 ≤ ord → Drained s1 c sc objs) →
       exec (.atom h o) s = .next (retired (if ord % 2 = 1 then (done (noted t)).acquire c sc objs [] else done (noted t)) c h.s true []
         (((noted t).performAtomic c o sc pages spots).1.flatMap fun p =>
           vecWrites (if o.w.toNat = 3 then 7 else 6) p.1 o.d.toNat p.2))) ∧
     (2 ≤ ord → Boundary s c h [] src s0 → (∃ x y, s.prepareAtomic c o 0x11 false act = (.ok x, y)) →
       (begun s0 c).prepareAtomic c o 0x11 false act = (.ok (spots, pages), s1) → Drained s1 c sc objs →
       exec (.red h o) s = .next (retired (done ((t.noteWrites c true words).noteRelease c sc words)) c h.s true [] [])) ∧
     (Ready s c h [] src → s.prepareAtomic c o 0x11 false act = (.ok (spots, pages), s1) →
       (ord = 1 → exec (.red h o) s = .next (retired (done (s1.noteWrites c true words)) c h.s false [] [])) ∧
       (ord = 0 →
         (∀ rsb, bufferRed (s1.wave c.w).rsb sc (globalOps s1 c o spots pages) = .ok rsb →
           exec (.red h o) s = .next (retired ((((s1.onWave c.w fun w => { w with rsb }).noteWrites c true
             (syncWords g pages (nearLanes spots))).performAtomic c o sc pages (nearLanes spots)).2
             |>.countConflicts g spots) c h.s false [] [])) ∧
         (∀ va, bufferRed (s1.wave c.w).rsb sc (globalOps s1 c o spots pages) = .error va →
           exec (.red h o) s = .next (s1.programError c 0x0008 va 0 (spots.map Prod.fst))))) ∧
     (Clear s c [0, 1, 2, 3] g (.oneOr g) .write (genericAddrs s c o 16 act) →
       (Ready s c h (groupRegs o) src → c.det = false → (s.cluster c.cl).run = none → (s.wave c.w).rsb = [] →
         (∀ l ∈ act, (c.wave.thread l).txn = none) → atomSlag s c.wave o 0x10 act = none → ord < 2 →
         ∃ (t : State) (now : List (Nat × Nat)), exec (.atom h o) s = .next (retired t c h.s true [] (now.flatMap fun p =>
           vecWrites (if o.w.toNat = 3 then 7 else 6) p.1 o.d.toNat p.2))) ∧
       (Ready s c h [] src → c.det = false ∨ opnOf o < 8 ∨ 12 < opnOf o → atomSlag s c.wave o 0x11 act = none →
         ord = 1 ∨ (ord = 0 ∧ (s.wave c.w).rsb.length + act.length ≤ 64) →
         ∃ t : State, exec (.red h o) s = .next (retired t c h.s false [] [])))) ∧
  ((∀ (s : State) (o : RedOp),
     (∀ i, i < o.ty → s.served (o.pa + i) = s.served o.pa + i) →
     let old := s.homeNat o.pa o.ty
     let r := s.atomicHome o
     r.1 = old ∧
     (∀ new, atomicNew o.opn o.ty old o.v.toNat o.c.toNat = some new → r.2.homeNat o.pa o.ty = new % 2 ^ (8 * o.ty)) ∧
     (atomicNew o.opn o.ty old o.v.toNat o.c.toNat = none → r.2 = s) ∧
     (∀ a, (∀ i, i < o.ty → s.served a ≠ s.served o.pa + i) → r.2.home a = s.home a)) ∧
   (∀ (s : State) (cl core scope : Nat) (o : RedOp), s.lateWrites = [] →
     (∀ i, i < o.ty → s.served (o.pa + i) = s.served o.pa + i) →
     let r := s.atomicWide cl core scope o
     r.1 = s.homeNat o.pa o.ty ∧ (r.2.lateWrites = [] → r.2 = (s.atomicHome o).2) ∧
     (r.2.lateWrites ≠ [] → scope ≤ 5 ∧ SameMemory s r.2 ∧ ∀ (bytes : List (Nat × Byte)) (i : Nat), i < o.ty →
       ((r.2.writeHomes bytes).landAll).home (o.pa + i) = (s.atomicHome o).2.home (o.pa + i))) ∧
   (∀ (n old v c : Nat), n = 4 ∨ n = 8 → old < 2 ^ (8 * n) → v < 2 ^ (8 * n) →
     let f := if n = 4 then f32 else f64
     let slag := n = 4 ∧ 0xFF805A01 ≤ old ∧ old ≤ 0xFF805A03
     let signed (x : Nat) : Int := toSigned (8 * n) x
     atomicNew 0 n old v c = some ((old + v) % 2 ^ (8 * n)) ∧
     atomicNew 1 n old v c = some (if signed v < signed old then v else old) ∧
     atomicNew 2 n old v c = some (if signed old < signed v then v else old) ∧
     atomicNew 3 n old v c = some (min old v) ∧ atomicNew 4 n old v c = some (max old v) ∧
     atomicNew 5 n old v c = some (old &&& v) ∧ atomicNew 6 n old v c = some (old ||| v) ∧
     atomicNew 7 n old v c = some (old ^^^ v) ∧ atomicNew 8 n old v c = some v ∧
     atomicNew 9 n old v c = (if old = c then some v else none) ∧
     atomicNew 10 n old v c = (if slag then none else some (f.addBits 0 false old v)) ∧
     atomicNew 11 n old v c = (if slag then none else some (f.minMax false old v)) ∧
     atomicNew 12 n old v c = (if slag then none else some (f.minMax true old v)) ∧
     atomicNew 13 n old v c = some ((old + (2 ^ (8 * n) - v)) % 2 ^ (8 * n)) ∧
     atomicNew 14 n old v c = some (if v ≤ old then 0 else old + 1) ∧
     atomicNew 15 n old v c = some (if old = 0 ∨ v < old then v else old - 1)))

/-- LKP completes, wherever its elements are clear of every check of R399: in each active lane the element of the table through the lookup cache, extended, or with LIN = 1 the
rounded exact sum of the weighted elements, or the canonical NaN for a coordinate that is not finite (R222, R223), as a
variable-latency result; the lines read are in the lookup cache (R96). An empty table traps with 0x010A.
The element that LKP reads in nearest mode, and those that it weighs in linear mode (R222, R223): indices wrap or clamp
into the table, row after row, and a coordinate that is not finite weighs none.
PREF completes and changes no register and no byte at a home; with CQ other than 00 it does nothing (R224). A prefetch of an
address with a valid translation fills the L1 line of its core.
That a prefetch walks without being held up is log entry 23's. -/
def Obligations.LookupAndPrefetch : Prop :=
  (∀ (s s1 : State) (c : Ctx) (h : Hdr) (o : OpM) (spots : List (Nat × Place)) (pages : Tab Nat),
     let act := s.activeLanes c h.pg h.pn
     let two := o.off.getLsbD 0
     let lin := o.off.getLsbD 1
     let d := o.d.toNat
     let g := widthOf o
     let lo := s.readU c.wave o.a.toNat
     let hi := s.readU c.wave (o.a.toNat + 1)
     let t : Table := { base := lo.toNat, wd := hi.toNat % 2 ^ 32, ht := hi.toNat / 2 ^ 32, g, wrap := o.off.getLsbD 2 }
     let x (l : Nat) : Nat := (s.readV c.wave l d).toNat
     let y (l : Nat) : Nat := if two then (s.readV c.wave l (d + 1)).toNat else 0
     let parts (l : Nat) : Option (List (Nat × Fl)) := if lin then t.linear two (f32.decode (x l)) (f32.decode (y l))
       else some [(t.nearest two (x l) (y l), .fin false 1 0)]
     let vas (l : Nat) : List Nat := ((parts l).getD []).map Prod.fst
     let pa (a : Nat) : Nat := pageAddr pages a
     let elem (l a : Nat) : Nat := natOfBytes ((List.range g).map fun i => s1.lookupByte c.core c.det g l (pa a + i))
     let sum (l : Nat) (ps : List (Nat × Fl)) : Nat := match ps.map fun p => Fl.mul p.2 (f32.decode (elem l p.1)) with
       | [] => 0
       | z :: zs => f32.round 0 false (zs.foldl (Fl.add 0) z)
     let near (l : Nat) : Nat := if o.sg then ofSigned 32 (toSigned (8 * g) (elem l ((vas l).headD 0)))
       else elem l ((vas l).headD 0)
     let filled := (distinct ((act.flatMap vas).map fun a => pa a / 128)).foldl (fun u n => u.fillLookup c.core n) s1
     Ready s c h [d] (if two then [d, d + 1] else [d]) →
     (t.wd ≠ 0 → (two = true → t.ht ≠ 0) → lo.toNat % g = 0 → (lin = true → coordSlag s c.wave two d act = none) →
       s.placeAll c [0] g .free (act.flatMap fun l => (vas l).map fun a => (l, a)) = .ok spots →
       s.wordPages c g .read spots = (.ok pages, s1) →
       s1.poisonTrap g pages (s1.lookupHome c.core c.det g) spots = none →
       (lin = false → exec (.lkp h o) s = .next (retired filled c h.s false [] (act.map fun l =>
         .vec l d (BitVec.ofNat 32 (near l))))) ∧
       (lin = true → (∀ l ∈ act, ∀ a ∈ vas l, slagCode 10 (elem l a) = none) →
         exec (.lkp h o) s = .next (retired filled c h.s false [] (act.map fun l =>
           .vec l d (BitVec.ofNat 32 (match parts l with | none => f32.nan | some ps => sum l ps)))))) ∧
     (∀ pa : Nat → Nat, t.wd ≠ 0 → (two = true → t.ht ≠ 0) → lo.toNat % g = 0 →
       Clear s c [0] g .free .read (act.flatMap fun l => (vas l).map fun a => (l, a)) →
       (∀ l ∈ act, ∀ a ∈ vas l, Mapped s c .read a (pa a)) →
       (lin = true → coordSlag s c.wave two d act = none ∧ ∀ l ∈ act, ∀ a ∈ vas l,
         slagCode 10 (natOfBytes ((List.range g).map fun i => s.lookupByte c.core c.det g l (pa a + i))) = none) →
       ∃ (v : State) (val : Nat → Nat), exec (.lkp h o) s = .next (retired v c h.s false [] (act.map fun l =>
           .vec l d (BitVec.ofNat 32 (val l)))) ∧ SameMemory s v ∧
         (lin = false → ∀ l, val l = (let e := natOfBytes ((List.range g).map fun i =>
           s.lookupByte c.core c.det g l (pa ((vas l).headD 0) + i)); if o.sg then ofSigned 32 (toSigned (8 * g) e) else e))) ∧
     (t.wd = 0 ∨ (two = true ∧ t.ht = 0) → lo.toNat < stackBase → lo.toNat % g = 0 →
       exec (.lkp h o) s = .next (s.programError c 0x010A lo.toNat hi.toNat act))) ∧
  ((∀ (i : Int) (n : Nat), 0 < n → tableIndex true i n < n ∧ ((tableIndex true i n : Int) - i) % n = 0 ∧
     tableIndex false i n < n ∧ (0 ≤ i → i < n → tableIndex false i n = i) ∧ (i < 0 → tableIndex false i n = 0) ∧
     ((n : Int) ≤ i → tableIndex false i n = n - 1)) ∧
   (∀ (t : Table) (ix iy : Int), t.elem ix iy true =
     (t.base + (tableIndex t.wrap iy t.ht * t.wd + tableIndex t.wrap ix t.wd) * t.g) % 2 ^ 64 ∧
     t.elem ix iy false = (t.base + tableIndex t.wrap ix t.wd * t.g) % 2 ^ 64) ∧
   (∀ (t : Table) (two : Bool) (x y : Fl), x.isFinite = false ∨ (two = true ∧ y.isFinite = false) → t.linear two x y = none)) ∧
  ((∀ (s : State) (c : Ctx) (h : Hdr) (o : OpM), Ready s c h [] (baseRegs o true) →
     (o.cq ≠ 0 → exec (.pref h o) s = .next (retired s c h.s false [] [])) ∧
     (o.cq = 0 → ∃ t, exec (.pref h o) s = .next (retired t c h.s false [] []) ∧ SameMemory s t ∧ t.waves = s.waves)) ∧
   (∀ (s : State) (c : Ctx) (va : Nat) (l : Leaf) (lv : Nat),
     s.walk (s.requester c).asid (s.requester c).root va = .leaf l lv →
     s.prefetch c va = s.fillLine c.core (l.addr va / 128)) ∧
   (∀ (s : State) (core line : Nat), (s.core core).l1.find line = none →
     ((s.fillLine core line).core core).l1.find line =
       some (((s.die (dieOfCore core)).rdc.find line).getD (s.homeBytes (line * 128) 128))))

/-! ### Queues -/

/-- ENQ and DEQ at the home slice (R229, R231, R232): as many entries as fit, or as are found there, at the entries' addresses
in order, and TAIL or HEAD advances by that number; a block that is no well-formed queue is not touched, and over a link that
is down a block or an entry reads as poison and entries written are lost (R438). A control block
whose page the core's TLB maps is opened at its physical address, once the late writes of atomics have landed (R134). What an agent finds is at most what the queue holds, and all
of it where no ENQ hides entries. -/
def Obligations.QueueOperations : Prop :=
  (∀ (s s1 s2 : State) (sp : Space) (va pa : Nat) (q : Qcb) (f : Nat → Option (List Nat)) (es : List Nat) (pages : Tab Nat),
    s.openQueue sp va .write = (.ok (q, pa), s1) → f q.lgsz = some es →
    let k := min es.length (2 ^ q.lgcap - q.count)
    let at_ (i : Nat) : Nat := (q.base + (q.tail + i) % 2 ^ q.lgcap * 2 ^ q.lgsz) % 2 ^ 64
    s1.reach sp ((List.range k).map at_) .write = (.ok pages, s2) →
    let w := s2.writeOut ((((List.range k).map at_).zip es).flatMap fun p =>
      (bytesOfNat (2 ^ q.lgsz) p.2).mapIdx fun i b => (pageAddr pages p.1 + i, b))
    let t := (((List.range k).map at_).zip es).foldl (fun t p => t.writeNat (pageAddr pages p.1) (2 ^ q.lgsz) p.2) s2
    s.enqueue sp va f = (.done k w.1, if k = 0 then w.2
      else ({ w.2 with unseen := w.2.unseen.remove (w.2.served pa) } : State).writeNat (pa + 24) 8 ((q.tail + k) % 2 ^ 64)) ∧
    ((∀ i, i < k → ∀ j, j < 2 ^ q.lgsz → s2.routeDown (pageAddr pages (at_ i) + j) = false) → w = ([], t))) ∧
  (∀ (s s1 s2 : State) (sp : Space) (va pa n : Nat) (q : Qcb) (f : Nat → Bool) (pages : Tab Nat) (viewer : Option Nat),
    s.openQueue sp va .write = (.ok (q, pa), s1) → f q.lgsz = true →
    let k := min n (s1.found pa q viewer)
    let at_ (i : Nat) : Nat := (q.base + (q.head + i) % 2 ^ q.lgcap * 2 ^ q.lgsz) % 2 ^ 64
    s1.reach sp ((List.range k).map at_) .read = (.ok pages, s2) →
    ((∀ i, i < k → s2.routeDown (pageAddr pages (at_ i)) = false) →
      s.dequeue sp va n f viewer = (.done k ((List.range k).map fun i => s2.homeNat (pageAddr pages (at_ i)) (2 ^ q.lgsz)),
        if k = 0 then s2 else s2.writeNat (pa + 16) 8 ((q.head + k) % 2 ^ 64))) ∧
    (∀ i, i < k → (∀ j, j < i → s2.routeDown (pageAddr pages (at_ j)) = false) → s2.routeDown (pageAddr pages (at_ i)) = true →
      s.dequeue sp va n f viewer = (.poison (pageAddr pages (at_ i) / 32 * 32) 6, s2))) ∧
  (∀ (s : State) (pa : Nat) (q : Qcb) (viewer : Option Nat),
    s.found pa q viewer ≤ q.count ∧ (s.unseen.find (s.served pa) = none → s.found pa q viewer = q.count)) ∧
  (∀ (s : State) (c : Ctx) (va pa : Nat) (q : Qcb), Mapped s c .write va pa → va % 64 = 0 →
    let v := s.landAll
    v.routeDown pa = false → parseQcb (v.homeNat pa 64) = some q →
    s.openQueue (.virtual (s.requester c)) va .write = (.ok (q, pa), v)) ∧
  (∀ (s s1 : State) (sp : Space) (va n : Nat) (pages : Tab Nat) (f : Nat → Option (List Nat)) (g : Nat → Bool)
    (viewer : Option Nat),
    va % 64 = 0 → s.reach sp [va] .write = (.ok pages, s1) →
    let pa := pageAddr pages va
    let v := s1.landAll
    let bits := v.homeNat (pa + 8) 8
    (v.routeDown pa = true → s.enqueue sp va f = (.poison (pa / 32 * 32) 6, v) ∧
      s.dequeue sp va n g viewer = (.poison (pa / 32 * 32) 6, v)) ∧
    (v.routeDown pa = false → parseQcb (v.homeNat pa 64) = none →
      s.enqueue sp va f = (.malformed bits, v) ∧ s.dequeue sp va n g viewer = (.malformed bits, v))) ∧
  (∀ (n : Nat) (q : Qcb), parseQcb n = some q →
    q.lgsz ≤ 8 ∧ 3 ≤ q.lgsz ∧ q.lgcap ≤ 24 ∧ q.base % 2 ^ q.lgsz = 0 ∧ q.count ≤ 2 ^ q.lgcap)

/-- ENQ, DEQ, QWAIT and JOB complete at well-formed queues that hold no poison: region boundaries whose entries and status
predicates are those of the operation at the home slice, which the core's older stores to the control block reach first (R230
to R233, R246); ENQ and JOB release first, a DEQ that returns an entry acquires, and QWAIT waits while it finds no entry. A
malformed queue traps with 0x0107 after the commit.
When other waves find an ENQ's entries, and the entry size that JOB takes, are the model's (log entries 3, 18). -/
def Obligations.QueuesComplete : Prop :=
  ∀ (s s1 u : State) (c : Ctx) (h : Hdr) (o : OpM) (k : Nat) (es : List Nat),
    let act := s.activeLanes c h.pg h.pn
    let t := begun s1 c
    let src := o.d.toNat :: baseRegs o true
    let addr := queueAddr t c o act
    let obj := [queueObj addr]
    let sc := t.queueScope c o act
    let r := (t.releaseNow c sc obj).queueHome c addr
    let d := t.queueHome c addr
    let status := statusWrites o act k
    let jobQueue (v : State) (p : OpS) : Nat := (v.readU c.wave (uniField p.d)).toNat
    (Boundary s c h [] src s1 → s.queuePlace c 0x12 (queueAddr s c o act) act = none →
      (Drained t c sc obj →
        (r.enqueueLanes c o act = (.done k es, u) → r.queuePoison c addr (fun _ => []) act = none →
          r.entryPoison c o addr act = none →
          exec (.enq h o) s = .next (retired ((((u.noteRelease c (r.queueScope c o act) (r.queueCodes (.virtual (r.requester c)) addr k true)
            ).hideEntries c addr k r.unseen)).reportLost (lostOf c.job es)) c h.s true [] status)) ∧
        (∀ bits, r.enqueueLanes c o act = (.malformed bits, u) →
          exec (.enq h o) s = .next (u.takeTrap c (.error 0x0107 addr bits act)))) ∧
      (¬ Drained t c sc obj → exec (.enq h o) s = .next (parked
        (t.onWave c.w fun w => { w with drained := true }) c (.drain (t.releaseWaits c sc obj))))) ∧
    (Boundary s c h [o.d.toNat] (baseRegs o true) s1 → s.queuePlace c 0x13 (queueAddr s c o act) act = none →
      d.dequeueLanes c o act = (.done k es, u) →
      d.queuePoison c addr (fun q => (List.range k).map fun i => q.entry (q.head + i)) act = none →
      exec (.deq h o) s = .next (retired (if k = 0 then u else u.acquire c (d.queueScope c o act) obj
          (d.queueCodes (.virtual (d.requester c)) addr k false)) c h.s true []
        (((act.zip es).flatMap fun p => entryWrites p.1 o.d.toNat (d.queueSize c addr) p.2) ++ status))) ∧
    (∀ bits, Boundary s c h [o.d.toNat] (baseRegs o true) s1 → s.queuePlace c 0x13 (queueAddr s c o act) act = none →
      d.dequeueLanes c o act = (.malformed bits, u) →
      exec (.deq h o) s = .next (u.takeTrap c (.error 0x0107 addr bits act))) ∧
    (Boundary s c h [] (baseRegs o true) s1 → s.queuePlace c 0x14 (queueAddr s c o act) act = none →
      t.readQueue c addr act = (.ok k, u) →
      exec (.qwait h o) s = .next (if k = 0 then parked u c .retry else retired u c h.s true [] [])) ∧
    (∀ pages, Boundary s c h [] (baseRegs o true) s1 → s.queuePlace c 0x14 (queueAddr s c o act) act = none →
      t.translateAll (t.requester c) [addr] .read = (.ok pages, u) →
      let block := natOfBytes ((List.range 64).map fun i =>
        u.loadByte { core := c.core, skip := true, fill := false } [] (pageAddr pages addr + i))
      parseQcb block = none →
      exec (.qwait h o) s = .next (u.takeTrap c (.error 0x0107 addr (slice block 64 64) act))) ∧
    (∀ (p : OpS), Boundary s c h [] [] s1 → jobAddrs s c p act = none → Drained t c 5 [noObj] →
      let r := (released t c 5 [noObj]).queueHome c (jobQueue (released t c 5 [noObj]) p)
      (r.enqueueJob c p = (.done k es, u) → r.queuePoison c (jobQueue r p) (fun _ => []) act = none →
        exec (.job h p) s = .next (retired ((u.noteRelease c 5 []).reportLost (lostOf c.job es)) c h.s true
          (act.map fun l => .pred l (p.imm.toNat % 8) (k != 0)) [])) ∧
      (∀ bits, r.enqueueJob c p = (.malformed bits, u) →
        exec (.job h p) s = .next (u.takeTrap c (.error 0x0107 (jobQueue r p) bits act))))

/-- In a deterministic job ATOM, RED with OPN 8 to 12, ENQ, DEQ, QWAIT, TBEGIN, TEND and TABORT trap with 0x0013 when they have
an active lane, and have no other effect; their registers within the allocation (R399) and, but for the transaction words,
no transaction open; a JOB is permitted (R393). -/
def Obligations.DeterministicTraps : Prop :=
  ∀ (s s1 u : State) (c : Ctx) (h : Hdr) (o : OpM) (p : OpS) (k : Nat) (es : List Nat),
    let act := s.activeLanes c h.pg h.pn
    let trap (op cls : Nat) : Out := .next (s.programError c 0x0013 (op + cls * 256) 0 act)
    c.det = true →
    ((∀ l ∈ act, (c.wave.thread l).txn = none) →
      (Ready s c h (groupRegs o) (atomRegs o ++ baseRegs o true) → exec (.atom h o) s = trap 0x10 2) ∧
      (Ready s c h [] (atomRegs o ++ baseRegs o true) → 8 ≤ opnOf o → opnOf o ≤ 12 → exec (.red h o) s = trap 0x11 2) ∧
      (Ready s c h [] (o.d.toNat :: baseRegs o true) → exec (.enq h o) s = trap 0x12 2) ∧
      (Ready s c h [o.d.toNat] (baseRegs o true) → exec (.deq h o) s = trap 0x13 2) ∧
      (Ready s c h [] (baseRegs o true) → exec (.qwait h o) s = trap 0x14 2)) ∧
    (Ready s c h [] [] → exec (.tbegin h p) s = trap 0x19 4 ∧ exec (.tend h p) s = trap 0x1A 4 ∧
      exec (.tabort h p) s = trap 0x1B 4) ∧
    (Boundary s c h [] [] s1 → jobAddrs s c p act = none →
      let t := begun s1 c
      let queue (v : State) : Nat := (v.readU c.wave (uniField p.d)).toNat
      let r := (released t c 5 [noObj]).queueHome c (queue (released t c 5 [noObj]))
      Drained t c 5 [noObj] → r.enqueueJob c p = (.done k es, u) → r.queuePoison c (queue r) (fun _ => []) act = none →
      exec (.job h p) s = .next (retired ((u.noteRelease c 5 []).reportLost (lostOf c.job es)) c h.s true
        (act.map fun l => .pred l (p.imm.toNat % 8) (k != 0)) []))

/-! ### Barriers, waits and fences -/

/-- A barrier (R236, R237): arrivals add up, and the one that makes ARR equal to EXP completes the phase, counts it, and
lets a pending BINIT take effect; BINIT with arrivals outstanding is pending.
BINIT, BARV, BSYNC and BWAIT complete (R236 to R238): BINIT writes every barrier that its lanes name, BARV and BSYNC
arrive there after a release and write the flag, in a deterministic job once the phase has completed (R54), and BSYNC and
BWAIT wait for the phase. An arrival beyond EXP takes the trap of `overrun` (R392), a BWAIT at a barrier beyond the card's 0x010C.
The home of a phase's last arriver is log entry 26's. -/
def Obligations.Barriers : Prop :=
  ((∀ (x : Barrier) (n : Nat) (who : Option (Nat × Nat × Nat)),
     (n ≠ 0 → x.arr + n = x.exp →
       (x.arrive n who).arr = 0 ∧ (x.arrive n who).ph = x.ph + 1 ∧ (x.arrive n who).pending = none ∧
       (x.arrive n who).exp = (match x.pending with | some p => p.1 | none => x.exp)) ∧
     (n = 0 ∨ x.arr + n ≠ x.exp →
       (x.arrive n who).arr = x.arr + n ∧ (x.arrive n who).ph = x.ph ∧ (x.arrive n who).exp = x.exp ∧
       (x.arrive n who).pending = x.pending)) ∧
   (∀ (x : Barrier) (n : Nat) (cl : Bool),
     (x.arr = 0 → (x.init n cl).exp = n ∧ (x.init n cl).cl = cl ∧ (x.init n cl).pending = none) ∧
     (x.arr ≠ 0 → (x.init n cl).exp = x.exp ∧ (x.init n cl).cl = x.cl ∧ (x.init n cl).pending = some (n, cl)) ∧
     (x.init n cl).arr = x.arr ∧ (x.init n cl).ph = x.ph) ∧
   (∀ (x : Barrier), x.done x.ph.toNat = false ∧ ({ x with ph := x.ph + 1 } : Barrier).done x.ph.toNat = true)) ∧
  (∀ (s s1 : State) (c : Ctx) (h : Hdr) (o : OpS),
     let act := s.activeLanes c h.pg h.pn
     let t := begun s1 c
     let k := barOf o
     let cl := barCl o
     let bs := t.barBlocks c cl act
     let sc := t.barScope c bs k act
     let objs := bs.map fun b => t.barObj c b k
     let r := released t c sc objs
     let on := bs.map fun b => (b, k, (r.barrier b k).ph.toNat)
     let who : Option (Nat × Nat × Nat) :=
       if c.det then some (c.wave.host, c.wave.wid, c.w) else none
     let rn := r.noteRelease c sc (on.map fun x => phaseCode x.1 x.2.1 x.2.2)
     let u := bs.foldl (fun v b => v.onBarrier b k fun x => x.arrive (v.barLanes c cl act b).length who) rn
     let flags := act.map fun l => RegWrite.pred l (o.d.toNat % 8)
       ((u.barrier (rn.barBlock c cl l) k).ph != (rn.barrier (rn.barBlock c cl l) k).ph)
     let phase : List RegWrite := if o.a.getLsbD 7 then
       [.uni (uniField o.a) ((r.barrier (r.barBlock c cl (act.headD 0)) k).ph.setWidth 64)] else []
     let woken (v : State) : State := v.wakeCur State.wakeBarrier
     Boundary s c h [] [] s1 →
     (let n (v : State) : Nat := if o.d.getLsbD 0 then (v.readU c.wave (uniField o.a)).toNat % 2 ^ 15
        else slice o.imm.toNat 16 15
      barRange c o (n s) act = none → exec (.binit h o) s = .next (retired (bs.foldl (fun v b =>
        v.onBarrier b k fun x => x.init (n v) cl) t) c h.s true [] [])) ∧
     (barRange c o 0 act = none → s.overrun c o act = none → r.overrun c o act = none → Drained t c sc objs →
       (c.det = false → exec (.barv h o) s = .next (woken (retired u c h.s true (phase ++ flags) [])) ∧
         exec (.bsync h o) s = .next (woken (waiting u c h.s true flags (.barrier on)))) ∧
       (c.det = true → exec (.barv h o) s = .next (woken (waiting u c h.s true phase
           (.arriver on (o.d.toNat % 8) act cl false))) ∧
         exec (.bsync h o) s = .next (woken (waiting u c h.s true [] (.arriver on (o.d.toNat % 8) act cl true))))) ∧
     (barRange c o 0 act = none → exec (.bwait h o) s = .next (woken (waiting t c h.s true []
       (.barrier (bs.map fun b => (b, k, (t.readU c.wave (uniField o.a)).toNat % 2 ^ 32)))))) ∧
     (∀ tr, barRange c o 0 act = none → s.overrun c o act = some tr →
       exec (.barv h o) s = .next ((s.takeTrap c tr).wakeCur State.wakeBarrier) ∧
       exec (.bsync h o) s = .next ((s.takeTrap c tr).wakeCur State.wakeBarrier)) ∧
     (c.card.bars ≤ k → exec (.bwait h o) s = .next (woken
       (s.programError c 0x010C (k + if cl then 1024 else 0) c.card.bars act))))

/-- CWAIT waits on its counter word (R239), FENCE releases and acquires at its scope (R133), FENCELK releases at device scope
and empties the core's lookup cache (R97); a wave that waits on a counter goes on, with an acquire, exactly once a fresh read
meets its target (R140).
BIND adds the binding that it names to its job's table, once, up to 256, and UNBIND removes it; a region of no bytes binds
nothing; a full table traps with 0x010B (R240, R403). That the job of a wave stands in the table of jobs is
the invariant `State.Anchored`, which `HostInvariant` states.
How a binding comes to be in force for other waves, and how CWAIT reads again, is the model's (log entries 24, 25). -/
def Obligations.WaitsFencesBindings : Prop :=
  ((∀ (s s1 u : State) (c : Ctx) (h : Hdr) (o : OpS) (p : Place) (pages : Tab Nat),
     let act := s.activeLanes c h.pg h.pn
     let t := begun s1 c
     let sc := t.widen c (scopeField o.imm.toNat) act
     let r := released t c sc [noObj]
     let f := if c.det then r.onJob c.job fun j =>
       { j with det := j.det.fence c.task (scopeKeys sc (groupOfCore c.core)) } else r
     let g := f.onOrder c sc fun d a keys => d.fence a keys
     Boundary s c h [] [] s1 →
     ((∃ x y, s.waveWord c (s.readU c.wave (uniField o.a)).toNat act = (.ok x, y)) →
       t.waveWord c (t.readU c.wave (uniField o.a)).toNat act = (.ok (p, pages), u) →
       exec (.cwait h o) s = .next ((waiting u c h.s true [] (.counter (counterSpot p).1 (counterSpot p).2
         (u.readU c.wave (uniField o.d)) (u.scopeFor c (scopeField o.imm.toNat) [(act.headD 0, p)]) c.pc [])).wakeCur
           State.wakeCounter)) ∧
     (Drained t c sc [noObj] → exec (.fence h o) s = .next (retired
       (g.acquireAt c.core sc (g.views c) [noObj] (g.reachOf c)) c h.s true [] [])) ∧
     (¬ Drained t c sc [noObj] → exec (.fence h o) s = .next (parked (t.onWave c.w fun w => { w with drained := true }) c
       (.drain (t.releaseWaits c sc [noObj])))) ∧
     (Drained t c 5 [noObj] → exec (.fencelk h o) s = .next (retired ((released t c 5 [noObj]).onCore c.core fun k =>
       { k with lookup := [] }) c h.s true [] []))) ∧
   (∀ (s u : State) (c : Ctx) (block : Option Nat) (a sc x : Nat) (v pc : Word) (on : List (Nat × Nat)) (obj : Obj)
     (words : List Nat),
     c.wave.park = some (.counter block a v sc pc on) → (s.cluster c.cl).run = none →
     on = [] ∨ (∃ m ∈ on, s.missHeld m = false) → (s.landOn c.core).readCounter c block a = (.value x obj words, u) →
     (v.toNat ≤ x → s.wakeCounter c = (u.acquire c sc [obj] words).onWave c.w fun w => { w with park := none }) ∧
     (x < v.toNat → s.wakeCounter c = u))) ∧
  (∀ (s : State) (c : Ctx) (h : Hdr) (o : OpS) (b : Binding),
     let act := s.activeLanes c h.pg h.pn
     let x := s.readU c.wave (uniField o.d)
     let a := s.readU c.wave (uniField o.a)
     let j := s.job c.job
     let table := j.table c.cl
     let bounded : Prop := o.imm.toNat / 2 ^ 30 ≠ 3 ∨ x.toNat % 1024 < c.card.bars
     Ready s c h [] [] →
     (o.imm.toNat % 2 ^ 30 = 0 → exec (.bind h o) s = .next (retired s c h.s false [] [])) ∧
     (o.imm.toNat % 2 ^ 30 ≠ 0 → s.bindingOf c o act = .ok b → bounded →
       (b ∈ table → exec (.bind h o) s = .next (retired (s.learnChange c act (j.lastChange b)) c h.s false [] [])) ∧
       (b ∉ table → j.bindings.length < 256 → exec (.bind h o) s = .next (retired (s.rebind c act true b) c h.s false [] [])) ∧
       (b ∉ table → 256 ≤ j.bindings.length →
         exec (.bind h o) s = .next (s.programError c 0x010B x.toNat a.toNat act))) ∧
     (s.bindingOf c o act = .ok b →
       (b ∈ table → exec (.unbind h o) s = .next (retired (s.rebind c act false b) c h.s false [] [])) ∧
       (b ∉ table → exec (.unbind h o) s = .next (retired (s.learnChange c act (j.lastChange b)) c h.s false [] []))) ∧
     (∀ t, s.bindingOf c o act = .error t → exec (.unbind h o) s = .next (retired s c h.s false [] [])) ∧
     (∀ add, (s.jobs.find c.job).isSome = true → let t := s.rebind c act add b
       (t.job c.job).bindings = (if add then j.bindings ++ [b] else j.bindings.filter fun y => y != b) ∧
       SameMemory s t))

/-! ### Transactions -/

/-- TBEGIN opens a transaction in each active lane, in one that has one open it aborts it with cause 8; TEND decides its
lanes (R243); TABORT aborts those open with cause 6 and its code and does nothing in the others (R241 to R244); outside
deterministic jobs. Any other region boundary in a lane with an open transaction aborts it with cause 9 and is not performed
there, but in the other active lanes (Table 8-12; EMURET, which is one in the handler alone, is not among the words named).
The outcome of a transaction (R136, R242, R243): one that was torn, or a byte of which has changed since it was read, does
not validate; an abort drops the writes, counts, names its cause, and sends the thread to the abort target; a commit writes
every byte of its write set at its home, once the core's older stores to those lines are there (R117), and clears sr.tstat.
Where an aborted transaction goes on, and which of a TEND's lanes lose, is the model's (log entries 15, 27). -/
def Obligations.Transactions : Prop :=
  (∀ (s s1 : State) (c : Ctx) (h : Hdr) (o : OpS),
     let act := s.activeLanes c h.pg h.pn
     let t := begun s1 c
     c.det = false → Ready s c h [] [] → (s.cluster c.cl).run = none → (s1.cluster c.cl).run = none →
     ((∀ l ∈ act, (c.wave.thread l).txn = none) → s.commit c act = .ok s1 →
       exec (.tbegin h o) s = .next (retired (t.onWave c.w fun w => w.onLanes act fun _ x =>
         x.beginTxn (c.pc + 8 + 8 * o.imm.signExtend 64)) c h.s true [] [])) ∧
     ((∀ l ∈ act, (c.wave.thread l).txn ≠ none) →
       exec (.tbegin h o) s = .next (retired (s.abortLanes c act 8 0) c h.s false [] [])) ∧
     (s.commit c act = .ok s1 →
       exec (.tabort h o) s = .next (retired (t.abortLanes c (act.filter fun l => ((t.wave c.w).thread l).txn.isSome) 6
         (o.imm.toNat % 256)) c h.s true [] []) ∧
       ((∀ l ∈ act, ((t.wave c.w).thread l).txn = none) →
         exec (.tend h o) s = .next (retired t c h.s true (act.map fun l => .pred l (o.d.toNat % 8) false) [])) ∧
       (let v := t.settleReads c act
        let good := (v.judge c act).1
        let r := if good = [] then v else released v c 5 (txnObjs good)
        (good = [] ∨ Drained v c 5 (txnObjs good) →
          ∃ u now, exec (.tend h o) s = .next (retired u c h.s true now []) ∧
            r.endTxns c (o.d.toNat % 8) act = .done u now []) ∧
        (good ≠ [] → ¬ Drained v c 5 (txnObjs good) → exec (.tend h o) s = .next (parked
          (v.onWave c.w fun w => { w with drained := true }) c (.drain (v.releaseWaits c 5 (txnObjs good)))))))) ∧
  ((∀ (i : Instr) (h : Hdr) (regs : List Nat) (wake : State → State) (s : State) (c : Ctx),
     boundaryWord i = some (h, regs, wake) →
     let act := s.activeLanes c h.pg h.pn
     s.ctx = some c → act ≠ [] → (∀ r ∈ regs, r < c.wave.alloc) → (∀ l ∈ act, (c.wave.thread l).txn ≠ none) →
     exec i s = .next (wake (retired (s.abortLanes c act 9 0) c h.s false [] []))) ∧
   (∀ (s s2 : State) (c : Ctx) (h : Hdr) (dst src : List Nat) (check : State → Ctx → List Nat → Option Effect)
     (eff : State → Ctx → List Nat → Effect) (uni : List Nat) (out : Reach),
     let act := s.activeLanes c h.pg h.pn
     let rest := act.filter fun l => (c.wave.thread l).txn.isNone
     let t := s.abortLanes c (act.filter fun l => (c.wave.thread l).txn.isSome) 9 0
     s.ctx = some c → rest ≠ [] → (∀ r ∈ dst ++ src, r < c.wave.alloc) → check t c rest = none →
     (∀ l ∈ rest, ∀ r ∈ src, (l, r) ∉ c.wave.rpoison) → (t.cluster c.cl).run = none → t.commit c rest = .ok s2 →
     (s2.cluster c.cl).run = none →
     s.issueBoundary h dst src check eff uni out = State.finish c h.s true (eff (begun s2 c) c rest))) ∧
  ((∀ (s : State) (x : Txn), s.validates x = true ↔ x.torn = false ∧ ∀ p ∈ x.reads, s.home p.1 = p.2) ∧
   (∀ (t : Thread) (x : Txn) (cause code : Nat), t.txn = some x → cause < 256 → code < 256 →
     let y := t.abort cause code
     y.txn = none ∧ y.pc = x.target ∧ y.v = t.v ∧ y.p = t.p ∧ y.mt = t.mt ∧
     slice y.tstat.toNat 0 8 = cause ∧ slice y.tstat.toNat 8 8 = code ∧
     slice y.tstat.toNat 16 8 = min 255 (slice t.tstat.toNat 16 8 + 1) ∧ y.tstat.getLsbD 31 = false) ∧
   (∀ (t : Thread) (target : Word),
     let y := t.beginTxn target
     y.txn = some { target } ∧ y.tstat.getLsbD 31 = true ∧ slice y.tstat.toNat 0 16 = 0 ∧
     slice y.tstat.toNat 16 8 = slice t.tstat.toNat 16 8) ∧
   (∀ (s : State) (c : Ctx) (l : Nat) (x : Txn),
     let v := s.settleWrites c x
     (∀ p ∈ x.writes, v.routeDown p.1 = false) → (∀ p ∈ x.writes, v.served p.1 = p.1) →
     (v.waves.find c.w).isSome = true → l < (v.wave c.w).threads.length →
     let t := s.commitTxn c l x
     (∀ a, t.home a = (lastOf x.writes (v.served a)).getD (v.home a)) ∧ ((t.wave c.w).thread l).txn = none ∧
     ((t.wave c.w).thread l).tstat = 0 ∧ (∀ k, k ≠ l → (t.wave c.w).thread k = (v.wave c.w).thread k)))

/-! ### Arrival rings, cells and streams -/

/-- RING writes its object and starts a new initialisation of it (R264, R431); AWF waits until its slot is filled, and RLS
frees slots up to its own; a word on an object of no slots traps with 0x0109, an AWF on a poisoned one with 0x0108. STRM starts
a stream program in a free slot, or waits for one, and STRQ reads a program's progress (R266).
A ring (R262, R264): claims number the slots in order while the window is open, and a slot counts as filled exactly for
the 2^31 values of WP after its own; a wave that waits on one goes on with an acquire once its slot is filled, and not
before.
What STRQ reads of a program that its name has outlived is log entry 29's. -/
def Obligations.RingsAndStreams : Prop :=
  (∀ (s s1 : State) (c : Ctx) (h : Hdr) (o : OpM) (b off : Nat),
     let act := s.activeLanes c h.pg h.pn
     let t := begun s1 c
     let sb := (s.readU c.wave (uniField o.d)).toNat
     let win := offFrom o 0 % 2 ^ 11
     let ring := t.ring b off
     let n := ringSeq t c o
     (Ready s c h [] [] → s.ringPlace c o act = .ok (b, off) →
       (ringFits c (sb % 2 ^ 32) (sb / 2 ^ 32) win = true → exec (.ring h o) s = .next (retired
         ((s.putScratch b off 32 (sb + win * 2 ^ 64)).onBlock b fun x =>
           { x with inits := x.inits.put off (x.inits.getD off 0 + 1) 0 }) c h.s false [] [])) ∧
       (ringFits c (sb % 2 ^ 32) (sb / 2 ^ 32) win = false →
         exec (.ring h o) s = .next (s.programError c 0x0109 off (s.scratchNat b (off + 8) 8) act))) ∧
     (Boundary s c h (awfRegs o) [] s1 → s.ringPlace c o act = .ok (b, off) → t.ringPlace c o act = .ok (b, off) →
       ((s.ring b off).win ≠ 0 → (s.ring b off).poison = false → s.ringPoison b off act = none → exec (.awf h o) s = .next ((waiting t c h.s true []
         (.ring b off n o.d.toNat c.pc act)).wakeCur State.wakeRing)) ∧
       ((s.ring b off).win = 0 → exec (.awf h o) s = .next ((s.programError c 0x0109 off
         (s.scratchNat b (off + 8) 8) act).wakeCur State.wakeRing)) ∧
       ((s.ring b off).win ≠ 0 → (s.ring b off).poison = true → exec (.awf h o) s = .next ((s.programError c 0x0108 off
         (ringSeq s c o) act).wakeCur State.wakeRing))) ∧
     (Boundary s c h [] [] s1 → s.ringPlace c o act = .ok (b, off) → (s.ring b off).win = 0 →
       exec (.rls h o) s = .next (s.programError c 0x0109 off (s.scratchNat b (off + 8) 8) act)) ∧
     (Boundary s c h [] [] s1 → s.ringPlace c o act = .ok (b, off) → t.ringPlace c o act = .ok (b, off) →
       (s.ring b off).win ≠ 0 → s.ringPoison b off act = none →
       let sc := t.widen c 2 act
       let frees := (BitVec.ofNat 32 n - ring.rp).toNat < (ring.wp - ring.rp).toNat
       let obj := [t.ringObj c b off]
       (frees → Drained t c sc obj → exec (.rls h o) s = .next (retired
         (((released t c sc obj).noteRelease c 2 [freeCode b off (n % ring.win)]).putScratch b (off + 24) 4 (BitVec.ofNat 32 n + 1).toNat)
         c h.s true [] [])) ∧
       (¬ frees → exec (.rls h o) s = .next (retired t c h.s true [] []))) ∧
     (∀ (p : Place) (e k : Nat), Boundary s c h [] [] s1 →
       s.waveAddr c [0] 32 (s.readU c.wave (uniField o.a)).toNat act = .ok p →
       offFrom o 0 % 64 < 32 ∨ offFrom o 0 % 64 = 63 → Drained t c 5 [noObj] →
       let r := released t c 5 [noObj]
       (r.findSlot (offFrom o 0 % 64) (dieOfCore c.core) = some (e, k) →
         let x := r.startProgram e k (r.readU c.wave (uniField o.a)) (r.readU c.wave (uniField o.a + 1)) c.cl c.job
         let v := x.2.noteRelease c 5 []
         let w := v.tellProgram c e k
         exec (.strm h o) s = .next (retired (if c.det then w.onProgram e k fun p =>
           { p with known := (v.job c.job).det.knows c.task } else w) c h.s true [.uni (uniField o.d) x.1] [])) ∧
       (r.findSlot (offFrom o 0 % 64) (dieOfCore c.core) = none → exec (.strm h o) s = .next (parked r c .retry))) ∧
     (Ready s c h [] [] → exec (.strq h o) s = .next (retired s c h.s false
       [.uni (uniField o.d) (s.snapshot (s.readU c.wave (uniField o.a)))] []))) ∧
  ((∀ (r : RingObj) (n : Nat), r.filled n = true ↔ (r.wp - BitVec.ofNat 32 n - 1).toNat < 2 ^ 31) ∧
   (∀ (r : RingObj), r.open = true ↔ (r.clm - r.rp).toNat < r.win) ∧
   (∀ (s : State) (b off : Nat), (s.blocks.find b).isSome = true →
     (s.claimSlot b off).1.k = (s.ring b off).clm.toNat ∧
     (s.claimSlot b off).2.ring b off = { s.ring b off with clm := (s.ring b off).clm + 1 }) ∧
   (∀ (s : State) (c : Ctx) (b off n d : Nat) (pc : Word) (lanes : List Nat),
     c.wave.park = some (.ring b off n d pc lanes) →
     let absent := s.someAbsent [(0, .local b false ((List.range 32).map fun i => off + i))]
     (absent = true → s.wakeRing c = s) ∧
     ((s.ring b off).poison = false → s.ringPoison b off lanes = none → (s.ring b off).filled n = false → s.wakeRing c = s) ∧
     (absent = false → (s.ring b off).poison = false → s.ringPoison b off lanes = none → (s.ring b off).filled n = true → ∃ t : State, s.wakeRing c = t.onWave c.w fun w =>
       let x := (s.ring b off).base + n % (s.ring b off).win * (s.ring b off).ssize
       let out : List RegWrite := if 192 ≤ d then [.uni (d - 192) (BitVec.ofNat 64 x)]
         else lanes.map fun l => .vec l d (BitVec.ofNat 32 x)
       { (t.overtake w out).writeLate c.det out with park := none })))

/-- ASTHR completes, wherever its cells are clear of every check of R399: each active lane's cell of the scratchpad takes the maximumNumber of itself and the lane's value, in
ascending order, a NaN leaving it (R287); a slag value traps. TSLAG writes the verdict code of the slag that its operand
holds, or 0 (R289). -/
def Obligations.CellsAndVerdicts : Prop :=
  ∀ (s : State) (c : Ctx) (h : Hdr),
    let act := s.activeLanes c h.pg h.pn
    (∀ (o : OpM), Ready s c h [] (o.d.toNat :: baseRegs o false) →
      Clear s c [3] 4 .free .read (windowAddrs s c o blockBase act) →
      (∀ l ∈ act, slagCode 10 (s.readV c.wave l o.d.toNat).toNat = none) →
      ∃ t : State, exec (.asthr h o) s = .next (retired t c h.s false [] []) ∧ SameMemory s t) ∧
    (∀ (o : OpM) (spots : List (Nat × Place)),
      let v (l : Nat) : Nat := (s.readV c.wave l o.d.toNat).toNat
      Ready s c h [] (o.d.toNat :: baseRegs o false) →
      s.placeAll c [3] 4 .free (windowAddrs s c o blockBase act) = .ok spots →
      ((∀ l ∈ act, slagCode 10 (v l) = none) → s.someAbsent spots = false →
        s.poisonTrap 4 [] (fun _ _ => false) spots = none →
        exec (.asthr h o) s = .next (retired ((spots.foldl (fun t p => match p.2 with
          | .local b _ offs =>
            let old := natOfBytes ((t.block b).bytesAt offs)
            t.onBlock b fun y => y.softStore (offs.zip (bytesOfNat 4
              (if (f32.decode (v p.1)).isNan then old else f32.minMax true old (v p.1))))
          | .global _ => t) s).countConflicts 4 spots) c h.s false [] [])) ∧
      (∀ l rest, (act.filter fun l => (slagCode 10 (v l)).isSome) = l :: rest → ∃ x,
        exec (.asthr h o) s = .next (s.takeTrap c (.slag 0x15 2 x 3 (l :: rest))))) ∧
    (∀ (o : OpA), ReadyA s c h o (shapeTslag o) →
      exec (.tslag h o) s = .next (resultA s c h o (shapeTslag o) 6 fun l =>
        let x := fpA s c o l
        if o.ty.toNat = 10 then (if 0xFF805A01 ≤ x % 2 ^ 32 ∧ x % 2 ^ 32 ≤ 0xFF805A03 then x % 2 ^ 32 - 0xFF805A00 else 0)
        else if o.ty.toNat = 9 ∨ o.ty.toNat = 13 then
          (if 0xFFA5 ≤ x % 2 ^ 16 ∧ x % 2 ^ 16 ≤ 0xFFA7 then x % 2 ^ 16 - 0xFFA4 else 0)
        else 0))

/-! ### The matrix engine -/

/-- GANG sets its wave's mask, 0 or one of 2 to 6 waves of the block with its own among them, or traps with 0x000A (R275). Once
their block owns the engine and their conditions hold, MLD, MSWP, MZERO and MSTA are accepted behind the operations before
them (R272, R278, R283), MPSH pushes a word (R280) and MPOP takes a column as a variable-latency result (R281); MMA, MAS and
MCONV are accepted at once with SOLO, and otherwise wait in the gang latch, or trap with 0x000A without a gang (R276). The
owner of an engine keeps it by each word.
The host block's part and the room of q1 are the model's (log entries 33, 34). -/
def Obligations.MatrixWords : Prop :=
  ∀ (s s1 u v : State) (c : Ctx) (h : Hdr) (o : OpM),
    let act := s.activeLanes c h.pg h.pn
    let t := begun s1 c
    let mask := s.readU c.wave (o.a.toNat % 64)
    let n := popCount 64 mask.toNat
    let good := mask = 0 ∨ (2 ≤ n ∧ n ≤ 6 ∧ mask.toNat / 2 ^ c.card.waves = 0 ∧ mask.getLsbD c.wave.wid = true)
    let b := s.hostBlock c
    let vb := v.hostBlock c
    let a0 := v.readU c.wave (o.a.toNat % 64)
    let off := a0.toNat % 2 ^ 32
    let fmt := (c.card.slot (o.d.toNat % 8)).fmt
    (∀ (z : State) (k : Nat), (z.core (z.block k).core).owner = some k → z.claimMatrix k = (true, z)) ∧
    (Ready s c h [] [] →
      (good → exec (.gang h o) s = .next (retired (s.onWave c.w fun w => { w with gang := mask }) c h.s false [] [])) ∧
      (¬ good → exec (.gang h o) s = .next (s.programError c 0x000A mask.toNat c.card.waves act)) ∧
      (s.claimMatrix b = (false, v) → exec (.mld h o) s = .next (parked v c .retry) ∧
        exec (.msta h o) s = .next (parked v c .retry)) ∧
      (s.claimMatrix b = (true, v) → fmt ≠ 0 → off % 128 = 0 → off + operandBytes fmt 64 ≤ c.card.shared →
        v.operandAbsent vb c.card (soloOp c a0 act) = false →
        exec (.mld h o) s = .next (retired (v.acceptOp vb c.card (soloOp c a0 act)) c h.s false [] [])) ∧
      (let e := (c.card.slot (mSlot c.word)).fmt
       let size := 32 * mRows c.word * 64 * (if e = 0 then 4 else 2)
       s.claimMatrix b = (true, v) → e ≤ 2 → mRowg c.word + mRows c.word ≤ 6 → off % 128 = 0 →
       off + size ≤ c.card.shared → (e = 1 → (v.block vb).matrix.ops = [] ∧
         ∀ k ∈ storeKeys c.word, slagCode 10 ((v.block vb).matrix.elem (mTile c.word) k).toNat = none) →
       ((v.block vb).matrix.ops = [] → (v.block vb).matrix.poisoned c.word = none) → v.poolTakes c.core 1 = true →
       exec (.msta h o) s = .next (retired ((v.onBlock vb fun x => { x with
           deliveries := x.deliveries ++ [{ kind := 2, owner := vb, number := (v.block vb).matrix.count, accepted := false }]
           absent := x.absent ++ rangeLines [(off, size)] }).acceptOp vb c.card (soloOp c a0 act)) c h.s false [] []))) ∧
    (Boundary s c h [] [] s1 → s.claimMatrix b = (true, u) → t.claimMatrix (t.hostBlock c) = (true, v) →
      exec (.mswp h o) s = .next (retired (v.acceptOp vb c.card (soloOp c 0 act)) c h.s true [] []) ∧
      exec (.mzero h o) s = .next (retired (v.acceptOp vb c.card (soloOp c 0 act)) c h.s true [] [])) ∧
    (Boundary s c h [] [o.d.toNat] s1 → s.claimMatrix b = (true, u) → t.claimMatrix (t.hostBlock c) = (true, v) →
      (c.wave.q1.length < v.q1Room c → v.poolTakes c.core 1 = true →
        exec (.mpsh h o) s = .next (retired (v.onWave c.w fun w => { w with q1 := w.q1 ++ [(List.range 32).map fun l =>
          if act.contains l then v.readV c.wave l o.d.toNat else 0] }) c h.s true [] [])) ∧
      (v.q1Room c ≤ c.wave.q1.length ∨ v.poolTakes c.core 1 = false → exec (.mpsh h o) s = .next (parked v c .retry))) ∧
    (Boundary s c h [o.d.toNat] [] s1 → s.claimMatrix b = (true, u) → t.claimMatrix (t.hostBlock c) = (true, v) →
      (∀ x ∈ c.wave.q0.head?, ∀ l ∈ act, l ∉ x.poison) →
      (∀ col rest, (v.wave c.w).q0 = col :: rest → (∀ l ∈ act, l ∉ col.poison) →
        exec (.mpop h o) s = .next (retired (v.onWave c.w fun w => { w with q0 := rest }) c h.s true []
          (act.map fun l => .vec l o.d.toNat (col.vals.getD l 0)))) ∧
      ((v.wave c.w).q0 = [] → exec (.mpop h o) s = .next (parked v c .retry))) ∧
    (∀ (i : Instr) (x y : State), i = .mma h o ∨ i = .mas h o ∨ i = .mconv h o → Boundary s c h [] [] s1 →
      s.claimMatrix b = (true, u) → t.claimMatrix (t.hostBlock c) = (true, v) →
      let op (z : State) : Matched :=
        { c, a0 := z.readU c.wave (o.a.toNat % 64), a1 := z.readU c.wave (o.a.toNat % 64 + 1), act }
      (mSolo c.word = true → u.examine (u.hostBlock c) [op u] = .accepted x → v.examine vb [op v] = .accepted y →
        exec i s = .next ((retired y c h.s true [] []).wakeCur State.wakeLatch)) ∧
      (mSolo c.word = false → c.wave.gang ≠ 0 → u.gangGone (u.hostBlock c) c.wave.gang = none →
        exec i s = .next ((waiting v c h.s true [] (.latch c.word c.pc (op v).a0 (op v).a1 act)).wakeCur
          State.wakeLatch)) ∧
      (mSolo c.word = false → c.wave.gang = 0 →
        exec i s = .next ((u.programError c 0x000A 0 c.card.waves act).wakeCur State.wakeLatch)))

/-- The completion of a block's first matrix operation (MATRIX_OP_COMPLETE; R272, R278, R279, R284): MLD fills the shadow
plane, MSWP exchanges the planes, MZERO clears its tile; MMA, MAS and MCONV without OUT give each
element of their rows its new value and leave every other element of the tile, and every other tile, alone. An operation
without OUT leaves the list, and all but MSTA leave the homes of memory alone.
When an operation reads its operand bytes is the model's (log entry 35). -/
def Obligations.MatrixPerforms : Prop :=
  ∀ (s : State) (b : Nat) (m : MatrixOp) (rest : List MatrixOp),
    let x := (s.block b).matrix
    let card := (s.job (s.cluster (s.block b).cluster).job).card
    (s.blocks.find b).isSome = true → x.ops = m :: rest → m.out = none →
    (mOp m.word = 0x39 → x.poisoned m.word = none) →
    ∃ t, exec (.matrixOpComplete b) s = .next t ∧ (mOut m.word = false → (t.block b).matrix.ops = rest) ∧
      (mOp m.word ≠ 0x39 → SameMemory s t) ∧
      (mOp m.word = 0x31 → (t.block b).matrix.shadow.loaded = true ∧
        (t.block b).matrix.shadow.slot = card.formats.getD (mSlot m.word) 0 ∧ (t.block b).matrix.active = x.active ∧
        ∀ k, k < operandBytes (card.slot (mSlot m.word)).fmt 64 →
          (t.block b).matrix.shadow.bytes.getD k 0 = s.opByte b card.det m (m.a0.toNat % 2 ^ 32 + k)) ∧
      (mOp m.word = 0x32 → (t.block b).matrix.active = x.shadow ∧ (t.block b).matrix.shadow = x.active ∧
        (t.block b).matrix.tiles = x.tiles) ∧
      (mOp m.word = 0x38 → (∀ k, (t.block b).matrix.elem (mTile m.word) k = 0) ∧
        ∀ j k, j ≠ mTile m.word → (t.block b).matrix.elem j k = x.elem j k) ∧
      (mOp m.word = 0x33 ∨ mOp m.word = 0x34 ∨ mOp m.word = 0x35 → mOut m.word = false →
        let lo := 32 * mRowg m.word * 64
        let g := m.members.length
        (∀ r n, r < 32 * g → n < 64 → (t.block b).matrix.elem (mTile m.word) (lo + 64 * r + n) =
          BitVec.ofNat 32 (s.opElement b card m (slotOf x.active.slot) r n (x.elem (mTile m.word) (lo + 64 * r + n))
            (x.poison.contains (mTile m.word, lo + 64 * r + n)) (s.opRow b card m (r / 32) (r % 32))
            (x.active.columns.getD n (tileLine (slotOf x.active.slot) 64 (fun _ => 0) 0))).1) ∧
        (∀ k, k < lo ∨ lo + 32 * g * 64 ≤ k → (t.block b).matrix.elem (mTile m.word) k = x.elem (mTile m.word) k) ∧
        (∀ j k, j ≠ mTile m.word → (t.block b).matrix.elem j k = x.elem j k))

/-! ### Sifts, generators, compaction -/

/-- SIFT and SIFTH, once no result and no column is outstanding, commit, release at cluster scope, and their threads arrive:
they are not issued any more (R291 to R294); SIFT waits while stores that it releases are not at their points. While a sift's
threads have not all arrived, its completion has no effect, and once they have and no place is missing the sift is over.
The waves that a SIFT builds (R295): every arrived thread is in exactly one of them, a wave holds at most 32 threads, all
of one key, in lanes from 0 on, and its host is a block of the domain; the waves that a SIFTH builds put each thread back into
its dispatch-time lane and block (R298).
What a sift keeps of its threads beside keys and payload is the model's (log entry 37). -/
def Obligations.SiftResults : Prop :=
  ((∀ (s s1 : State) (c : Ctx) (h : Hdr) (o : OpA),
     let act := s.activeLanes c h.pg h.pn
     let t := begun s1 c
     let went (sift : Bool) : State := jumped (((released t c 3 [noObj]).noteRelease c 3 [siftCode c.cl]).arrive c o sift act) c h.s true []
     Boundary s c h [] [] s1 → (s.wave c.w).results = [] → t.pushesTo c = false →
     (siftTrap s c o true act = none → Drained t c 3 [noObj] → exec (.sift h o) s = .next (went true)) ∧
     (siftTrap s c o false act = none → Drained t c 3 [noObj] → exec (.sifth h o) s = .next (went false)) ∧
     (siftTrap s c o true act = none → ¬ Drained t c 3 [noObj] → exec (.sift h o) s = .next (parked
       (t.onWave c.w fun w => { w with drained := true }) c (.drain (t.releaseWaits c 3 [noObj]))))) ∧
   (∀ (s : State) (c : Ctx) (o : OpA) (sift : Bool) (act : List Nat), (s.waves.find c.w).isSome = true →
     (∀ l ∈ act, l < (s.wave c.w).threads.length) →
     let t := s.arrive c o sift act
     (∀ l ∈ act, ((t.wave c.w).thread l).live = false) ∧ (∀ l, l ∉ act → (t.wave c.w).thread l = (s.wave c.w).thread l) ∧
     SameMemory s t) ∧
   (∀ (s : State) (cl : Nat), (∀ f, (s.cluster cl).sift = some f → s.siftReady cl f = false) →
     exec (.siftComplete cl) s = .next s) ∧
   (∀ (s : State) (cl : Nat) (f : Sift), (s.cluster cl).sift = some f → s.siftReady cl f = true →
     (s.cluster cl).life.resident = true → f.place = true → f.poison = false → (s.clusters.find cl).isSome = true →
     ∃ t, exec (.siftComplete cl) s = .next t ∧ (t.cluster cl).sift = none ∧ SameMemory s t)) ∧
  ((∀ (arrived : List Thread),
     ((siftWaves arrived).flatMap fun r => r.threads.map Prod.snd).Perm arrived ∧
     ∀ r ∈ siftWaves arrived, r.threads.length ≤ 32 ∧ r.threads ≠ [] ∧
       r.threads.map Prod.fst = List.range r.threads.length ∧
       (∀ p ∈ r.threads, ∀ q ∈ r.threads, p.2.key = q.2.key) ∧ (∃ t ∈ arrived, t.bid = r.host)) ∧
   (∀ (card : Card) (arrived : List Thread), (∀ t ∈ arrived, dispatchWid card t < 64) →
     ((sifthWaves card arrived).flatMap fun r => r.threads.map Prod.snd).Perm arrived ∧
     ∀ r ∈ sifthWaves card arrived, ∀ p ∈ r.threads,
       p.1 = p.2.tid % 32 ∧ r.host = p.2.bid ∧ r.wid = dispatchWid card p.2))

/-- RSEED, RAND and PRUNE complete in their active lanes alone, with the generator's step and the results of R300 and R302; a
slag x or T of PRUNE with SP = 0 traps and steps nothing (R76, R77).
What PRUNE gives for the step's u, x and T (R302): a NaN the canonical one, a zero itself, an infinite x or a T that is NaN
or at most 0 keeps x, T = +inf drops; else x is kept exactly where u * T < |x| * 2^24, and without X1 unchanged. -/
def Obligations.GeneratorResults : Prop :=
  (∀ (s : State) (c : Ctx) (h : Hdr) (o : OpA),
     let act := s.activeLanes c h.pg h.pn
     let ty := o.ty.toNat
     let d := o.d.toNat
     let seeds (f : Nat → Thread → Word) : State := s.onWave c.w fun w => w.onLanes act fun l t => { t with seed := f l t }
     let sum (w : Word) : Word := w + 0x9E3779B97F4A7C15
     let mix1 (w : Word) : Word := (w ^^^ (w >>> 30)) * 0xBF58476D1CE4E5B9
     let mix2 (w : Word) : Word := (w ^^^ (w >>> 27)) * 0x94D049BB133111EB
     let z (l : Nat) : Nat := let m := mix2 (mix1 (sum (c.wave.thread l).seed)); (m ^^^ (m >>> 31)).toNat
     let x (l : Nat) : Nat := srcA s c.wave o l 32
     let tv := (s.readU c.wave (o.b.toNat % 64)).toNat % 2 ^ 32
     (Ready s c h [] (seedRegs o true) → exec (.rseed h o) s = .next (retired (seeds fun l t =>
       BitVec.ofNat 64 (srcA s c.wave o l 64) ^^^ (BitVec.ofNat 64 t.tid * 0xD6E8FEB86659FD93)) c h.s false [] [])) ∧
     (Ready s c h (if ty = 7 then [d, d + 1] else [d]) [] → exec (.rand h o) s = .next (retired (seeds fun _ t => sum t.seed)
       c h.s false (act.flatMap fun l => if ty = 7 then vecWrites 7 l d (z l)
         else if ty = 6 then vecWrites 6 l d (z l / 2 ^ 32)
         else vecWrites 10 l d (f32.round 0 false (.fin false (z l / 2 ^ 40) (-24)))) [])) ∧
     (Ready s c h [d] (seedRegs o false) →
       (o.sp = true ∨ ((∀ l ∈ act, slagCode 10 (x l) = none) ∧ slagCode 10 tv = none)) →
       exec (.prune h o) s = .next (retired (seeds fun _ t => sum t.seed) c h.s false (act.flatMap fun l =>
         vecWrites 10 l d (orSlag 10 [(10, x l), (10, tv)] (pruneBits o.x1 (z l / 2 ^ 40) (x l) tv))) [])) ∧
     (Ready s c h [d] (seedRegs o false) → o.sp = false → ∀ l rest,
       (act.filter fun l => (slagCode 10 (x l)).isSome || (slagCode 10 tv).isSome) = l :: rest →
       ∃ e k, (k = if (slagCode 10 (x l)).isSome then 0 else 1) ∧
         exec (.prune h o) s = .next (s.takeTrap c (.slag 0x64 0 e k (l :: rest))))) ∧
  (∀ (unb : Bool) (u x t : Nat), x < 2 ^ 32 → t < 2 ^ 32 →
     let xv := f32.decode x
     let tv := f32.decode t
     let kept := (Fl.mul (.fin false u 0) tv).lt ((f32.decode (x % 2 ^ 31)).scale 24)
     (xv.isNan = true → pruneBits unb u x t = 0x7FC00000) ∧
     (x = 0 ∨ x = 2 ^ 31 → pruneBits unb u x t = x) ∧
     (xv.isNan = false → xv.isZero = false → xv.isFinite = false ∨ tv.isNan = true ∨ tv.isZero = true ∨ tv.isNeg = true →
       pruneBits unb u x t = x) ∧
     (xv.isFinite = true → xv.isZero = false → t = 0x7F800000 → pruneBits unb u x t = 0) ∧
     (xv.isFinite = true → xv.isZero = false → tv.isFinite = true → tv.isZero = false → tv.isNeg = false →
       (kept = false → pruneBits unb u x t = 0) ∧ (kept = true → unb = false → pruneBits unb u x t = x) ∧
       (kept = true → unb = true → pruneBits unb u x t % 2 ^ 31 = max (x % 2 ^ 31) (t % 2 ^ 31) ∧
         pruneBits unb u x t / 2 ^ 31 = x / 2 ^ 31)))

/-- SPCMP and SPEXP complete: SPCMP writes each lane's compact form, with offsets that count the nonzero elements of the lower
lanes and the status that some lane overflows, which none does where no active lane holds a nonzero element (R307), SPEXP each
lane's row and whether its header is bad (R303, R305, R306).
SPEXP gives back the row that SPCMP compacted: for every row of up to 16 raw elements, every base of columns and every
offset, where nothing overflows (R303, R305, R306); of an overflowed form it gives a zero row and a bad status.
That nothing overflows at OBASE 4,095 either where no active lane holds a nonzero element is log entry 62's. -/
def Obligations.SparseResults : Prop :=
  (∀ (s : State) (c : Ctx) (h : Hdr) (o : OpA),
     let act := s.activeLanes c h.pg h.pn
     let k := o.c.toNat
     let d := o.d.toNat
     let base := (s.readU c.wave (o.b.toNat % 64)).toNat
     let cbase := slice base 16 8
     let row (l : Nat) : List Nat := (List.range k).map fun i => (s.readV c.wave l (o.a.toNat + i)).toNat
     let cols (l : Nat) : List Nat := (List.range k).filter fun i =>
       decide ((if o.ty.toNat = 10 then (row l).getD i 0 % 2 ^ 31 else (row l).getD i 0) ≠ 0)
     let off (l : Nat) : Nat := base % 2 ^ 12 + sumOf (act.filter fun j => decide (j < l)) fun j => (cols j).length
     let bad (l : Nat) : Prop := 15 ≤ (cols l).length ∨ 4095 ≤ off l ∨ ∃ x ∈ cols l, 255 ≤ cbase + x
     let reg (l i : Nat) : Nat := (s.readV c.wave l (o.a.toNat + i)).toNat
     (∀ ovf : Bool, (ovf = true ↔ (∃ l ∈ act, bad l) ∧ ∃ l ∈ act, cols l ≠ []) →
       Ready s c h (regRange d (compactRegs k)) (regRange o.a.toNat k) →
       exec (.spcmp h o) s = .next (retired s c h.s false (act.flatMap fun l =>
         ((compactLane k cbase (off l) ovf (row l) (cols l)).mapIdx fun i x => .vec l (d + i) (BitVec.ofNat 32 x)) ++
           [.pred l o.x3.toNat ovf]) [])) ∧
     (Ready s c h (regRange d k) (regRange o.a.toNat (compactRegs k)) →
       exec (.spexp h o) s = .next (retired s c h.s false (act.flatMap fun l =>
         ((expandLane k cbase (reg l)).mapIdx fun i x => .vec l (d + i) (BitVec.ofNat 32 x)) ++
           [.pred l o.x3.toNat (badHeader k (reg l (k + (k + 3) / 4) % 2 ^ 16))]) []))) ∧
  (∀ (k cbase off : Nat) (row : List Nat), 1 ≤ k → k ≤ 16 → row.length = k → (∀ x ∈ row, x < 2 ^ 32) →
     let cols := (List.range k).filter fun i => decide (row.getD i 0 ≠ 0)
     let form (ovf : Bool) (i : Nat) : Nat := (compactLane k cbase off ovf row cols).getD i 0
     (cols.length ≤ 14 → off < 4095 → (∀ x ∈ cols, cbase + x < 255) →
       expandLane k cbase (form false) = row ∧ badHeader k (form false (k + (k + 3) / 4) % 2 ^ 16) = false) ∧
     expandLane k cbase (form true) = List.replicate k 0 ∧ badHeader k (form true (k + (k + 3) / 4) % 2 ^ 16) = true)

/-! ### Events of the pipeline -/

/-- A result that returns is written, and after the last of them its wave's settle is over (RESULT_RETURN, R166). WAVE_SWAP
changes nothing but which waves are active; a settling wave leaves for the oldest pending one that can run, which without one
takes a free place of the 8 (R329). A walk for an access that a wave is about to make fills the TLBs
of the core and its die with the leaf that it finds (PAGE_WALK, R107).
Deliveries and completions: an accepted delivery that lands writes its bytes and brings its lines nearer to presence
(DELIVERY_LAND, R90), after which rings advance (R262); a copy command whose writes are at their points leaves the queue and
counts in DONE (COPY_COMPLETE, R144), or fails with 0x020C where its ring has been initialised again (R431). COPY_TAKE takes the next entry of a queue into the unit
(R254); while the status word is set none is taken (R428).
When a walk may be made, and that a delivery lands whole, is the model's (log entries 86, 32). -/
def Obligations.EngineEvents : Prop :=
  ((∀ (s : State) (w k : Nat) (l : List RegWrite), (s.wave w).results.find k = some l →
     exec (.resultReturn w k) s = .next (s.onWave w fun x =>
       { s.returnResult x k with settle := (s.returnResult x k).settle && !(s.returnResult x k).results.isEmpty }) ∧
     ∃ rest, s.returnResult (s.wave w) k = { (s.wave w).applyAll l with results := rest } ∧
       rest.map Prod.fst = ((s.wave w).results.remove k).map Prod.fst) ∧
   (∀ (s : State) (w k : Nat), (s.wave w).results.find k = none → exec (.resultReturn w k) s = .next s) ∧
   (∀ (s : State) (core q : Nat), ∃ t, exec (.waveSwap core q) s = .next t ∧ t = { s with waves := t.waves } ∧
     (∀ k, { t.wave k with active := false, ready := 0, runFrom := 0 } =
       { s.wave k with active := false, ready := 0, runFrom := 0 })) ∧
   (∀ (s : State) (core q : Nat) (x y : Nat × Wave),
     ((s.quadrant core q).filter fun p => p.2.active).find? (fun p => p.2.settling) = some x →
     minBy ((s.quadrant core q).filter fun p => !p.2.active && s.runnable p.2) (fun p => p.2.age) = some y →
     exec (.waveSwap core q) s = .next (s.exchange x.1 y.1)) ∧
   (∀ (s : State) (core q : Nat) (y : Nat × Wave),
     ((s.quadrant core q).filter fun p => p.2.active).find? (fun p => p.2.settling) = none →
     ((s.quadrant core q).filter fun p => p.2.active).length < 8 →
     minBy ((s.quadrant core q).filter fun p => !p.2.active && s.runnable p.2) (fun p => p.2.age) = some y →
     exec (.waveSwap core q) s = .next (s.onWave y.1 fun w => { w with active := true, ready := s.clk + 2 })) ∧
   (∀ (s : State) (core k : Nat) (w : Wave) (asid : BitVec 14) (va : Word) (acc : Access) (l : Leaf) (lv : Nat),
     (s.waves.find? fun p => s.aboutToAccess p.1 core asid va.toNat acc) = some (k, w) →
     let q := s.requester (s.ctxFor { wave := k, lanes := [], pc := 0, word := 0 })
     findLeaf (s.core core).tlb asid va.toNat = none →
     findLeaf (s.die q.die).l2tlb asid va.toNat = none →
     (s.die q.die).missAt asid va.toNat = none →
     s.walk asid q.root va.toNat = .leaf l lv → l.permits acc = true →
     let m := { l with dt := l.dt || acc == .write }
     ∃ t, exec (.pageWalk core asid va acc) s = .next t ∧ findLeaf (t.core core).tlb asid va.toNat = some m ∧
       findLeaf (t.die q.die).l2tlb asid va.toNat = some m)) ∧
  ((∀ (s : State) (b k : Nat) (d : Delivery), (s.block b).deliveries[k]? = some d → d.landed = false → d.accepted = true →
     d.kind ≠ 1 →
     exec (.deliveryLand b k) s = .next ((s.onBlock b fun x => { x.store d.bytes with
       absent := dropLines x.absent d.lines
       deliveries := if d.claim.isSome then x.deliveries.set k { d with landed := true }
         else x.deliveries.eraseIdx k }).advanceRings b)) ∧
   (∀ (s : State) (b k : Nat), (∀ d, (s.block b).deliveries[k]? = some d → d.landed = true ∨ d.accepted = false) →
     exec (.deliveryLand b k) s = .next s) ∧
   (∀ (x : Block) (bytes : Tab Byte) (n : Nat),
     (x.store bytes).scratch.getD n 0 = (lastOf bytes n).getD (x.scratch.getD n 0)) ∧
   (∀ (s : State) (b n : Nat) (y : CopyEntry), s.copyEntry b n = some y →
     (s.copyDone b y = false → exec (.copyComplete b n) s = .next s) ∧
     (s.copyDone b y = true → (∀ c, y.claim = some c → y.advanced = true ∨ s.claimLives b c = true) →
       (s.blocks.find b).isSome = true →
       ∃ t, exec (.copyComplete b n) s = .next t ∧ (t.block b).done = (s.block b).done + 1 ∧
         (t.block b).copies = (s.block b).copies.filter fun z => z.entry != n) ∧
     (∀ c, s.copyDone b y = true → y.claim = some c → y.advanced = false → s.claimLives b c = false →
       exec (.copyComplete b n) s = .next (s.failCopy b n { code := 0x020C, info0 := c.off, info1 := c.k }))) ∧
   (∀ (s : State) (b : Nat), (s.block b).stat ≠ 0 →
     (∀ e ∈ (s.block b).copies, ∀ i, copyCommand e.command = .ok i → e.claim.isSome = true ∨ ringOf i = none) →
     exec (.copyTake b) s = .next s) ∧
   (∀ (s : State) (b : Nat), (s.cluster (s.block b).cluster).life = .ended → exec (.copyTake b) s = .next s) ∧
   (∀ (s : State) (b : Nat), (s.cluster (s.block b).cluster).life = .dropped →
     let u := s.take b false 512
     ∃ t, exec (.copyTake b) s = .next t ∧ ∀ e ∈ (t.block b).copies, ∀ i off, copyCommand e.command = .ok i →
       ringOf i = some off → e.claim = none → e.misses.any u.missHeld = false → (u.ring b off).open = true) ∧
   (∀ (s : State) (b off : Nat) (y : CopyEntry) (i : Instr) (p : Prints), y.misses.any s.missHeld = false →
     (∀ c, i ≠ .ctile c) → s.copyPrints b y i = .ok p →
     let heard := s.heardAt b [freeCode b off ((s.ring b off).clm.toNat % (s.ring b off).win)]
     ((s.ring b off).open = true → s.claimFor b off y i = some ((s.claimSlot b off).2.onCopy b y.entry fun z =>
       { z with claim := some (s.claimSlot b off).1, told := joinKnown z.told heard })) ∧
     ((s.ring b off).open = false → s.claimFor b off y i = none)) ∧
   (∀ (s : State) (b : Nat) (i : Instr) (p : Prints),
     let x := s.block b
     let n := x.taken.toNat
     let off := s.entryAt b n
     let w := BitVec.ofNat 256 (s.scratchNat b off 32)
     (s.cluster x.cluster).life.resident = true → x.held = true → x.stat = 0 → x.copies = [] → n < s.scratchNat b 0 8 →
     (x.taken - x.done).toNat < (s.blockCard b).cqe → x.absent.contains (off / 128) = false →
     x.absent.contains ((off + 31) / 128) = false → copyCommand w = .ok i →
     let u := s.setTaken b (x.taken + 1)
     let t := u.onBlock b fun y =>
       { y with copies := y.copies ++ [{ entry := n, command := w, told := u.heardAt b [localCode b 0] }] }
     t.copyPrints b { entry := n, command := w } i = .ok p → exec (.copyTake b) s = .next (t.take b true 511)))

/-! ### Copy commands -/

/-- CCOPY, CFILL, CGATH, CSCAT and CTILE complete their reads, where these come in one go, and move their bytes (R257 to
R260): CCOPY its range, CFILL its pattern by address, CGATH and CSCAT rows by index, CTILE one tile of its tensor. A delivery
into a ring's slot must fit it; an address outside its aperture fails the command before anything is written (R256, R428).
That a delivery lands whole, and the codes of TSR errors, are the model's (log entries 32, 36). -/
def Obligations.CopyCommands : Prop :=
  ∀ (s u v w : State) (b n : Nat) (y : CopyEntry) (bytes : List Byte) (m : Moved) (d : Option Loc),
    let lands (i : Instr) : Prop := exec i s = .next (moved w b n y.claim m)
    (∀ c src, CopyBegins s (.ccopy c) b n y u → u.locate b c.src.toNat c.len.toNat true = .ok src →
      u.target b c.rng c.dst.toNat c.len.toNat true y.claim = .ok d → CopyReads u b [(src, c.len.toNat)] bytes m w →
      deliver y.claim d bytes = .ok m → lands (.ccopy c)) ∧
    (∀ c, CopyBegins s (.cfill c) b n y u → u.target b c.rng c.dst.toNat c.len.toNat true y.claim = .ok d →
      CopyReads u b [] [] m w →
      deliver y.claim d ((List.range c.len.toNat).map fun j => BitVec.ofNat 8 (slice c.pat.toNat
        (8 * (((match y.claim with | some k => k.base | none => c.dst.toNat) + j) % 8)) 8)) = .ok m → lands (.cfill c)) ∧
    (∀ c l, CopyBegins s (.cgath c) b n y u →
      u.target b c.rng c.dst.toNat (c.nidx.toNat * c.rowb.toNat) false y.claim = .ok d →
      u.rowsOf b y c.idx.toNat c.nidx.toNat c.trows.toNat = (.ok l, v) →
      CopyReads v b (l.map fun i => (.global ((c.tbase.toNat + i * c.tstr.toNat) % 2 ^ 64), c.rowb.toNat)) bytes m w →
      deliver y.claim d bytes = .ok m → lands (.cgath c)) ∧
    (∀ c l src, CopyBegins s (.cscat c) b n y u →
      u.locate b c.src.toNat (c.nidx.toNat * c.rowb.toNat) false = .ok src →
      u.rowsOf b y c.idx.toNat c.nidx.toNat c.trows.toNat = (.ok l, v) →
      CopyReads v b [(src, c.nidx.toNat * c.rowb.toNat)] bytes m w →
      m = { global := (l.mapIdx fun j i => ((bytes.drop (j * c.rowb.toNat)).take c.rowb.toNat).mapIdx
        fun k x => ((c.tbase.toNat + i * c.tstr.toNat + k) % 2 ^ 64, x)).flatten } → lands (.cscat c)) ∧
    (∀ (c : CmdTile) t fmt,
      let tx := [c.tx0, c.tx1, c.tx2, c.tx3, c.tx4].map BitVec.toNat
      let segs := t.segs fmt tx [0, 1, 2, 3, 4] c.tidx.toNat
      CopyBegins s (.ctile c) b n y u → u.tsrOf b y c.tsr.toNat = (.ok (t, fmt), v) → t.tileOk fmt tx = true →
      (c.dir = false → v.target b c.rng c.spa.toNat (tileSize fmt tx) false y.claim = .ok d →
        CopyReads v b (tileRuns segs) bytes m w → deliver y.claim d (tileBytes segs (tileSize fmt tx) bytes) = .ok m →
        lands (.ctile c)) ∧
      (∀ src, c.dir = true → v.locate b c.spa.toNat (tileSize fmt tx) false = .ok src →
        CopyReads v b [(src, tileSize fmt tx)] bytes m w →
        m = { global := segs.flatMap fun g => match g.va with
          | some a => ((bytes.drop g.off).take g.len).mapIdx fun i x => ((a + i) % 2 ^ 64, x)
          | none => [] } → lands (.ctile c))) ∧
    (∀ (i : Instr) (x : EngineError) (c1 : CmdCopy) (c2 : CmdFill) (c3 : CmdGather) (c4 : CmdScatter) (c5 : CmdTile),
      i = .ccopy c1 ∨ i = .cfill c2 ∨ i = .cgath c3 ∨ i = .cscat c4 ∨ i = .ctile c5 →
      s.command = some (.copy b n) → s.copyEntry b n = some y → y.misses.any s.missHeld = false → y.begun = false →
      ((ringOf i).isSome = true → y.claim.isSome = true) → s.copyPrints b y i = .error x →
      exec i s = .next (s.failCopy b n x)) ∧
    (∀ k l, y.claim = some k → (bytes.length ≤ k.size → deliver y.claim (some l) bytes = .ok (l.put bytes)) ∧
      (k.size < bytes.length → deliver y.claim (some l) bytes =
        .fail { code := 0x0204, info0 := bytes.length, info1 := k.size }))

/-! ### Stream commands -/

/-- SWALK, SLOOP, SENDL, SMARK and SHALT complete (R268): SWALK sets the walk of its tensor's TSR at tile START, SLOOP pushes
its count or, at 0, seeks its SENDL, SENDL loops or leaves the loop, SMARK arms a stamp, and SHALT ends the program once its
pushes have landed. SWALK's address must be a global multiple of 64, and loops nest at most four deep (R429).
SPUSH claims one slot in each target ring and goes on with the read of its tile (`readPush`); it waits while a ring has no
free slot, its cluster is not resident, or a push of its program is in flight to a slot that overlaps (R268, R430, R143). SSIG acts once every earlier command has completed: it adds to
its word at the home, arrives at a barrier, or enqueues an entry and does not go on while the queue is full (R268). An SSIG or
SPUSH at a cluster that has ended fails with 0x0208 (R429).
The codes of TSR errors, and SLOOP with COUNT 0 at full depth, are the model's (log entries 36, 56). -/
def Obligations.StreamCommands : Prop :=
  (∀ (s : State) (e k : Nat) (p : Program), StreamGoes s e k p →
     (∀ (c : CmdWalk) (t : Tsr) (fmt : Nat) (u : State),
       let va := (relAddr c.rel c.tsr p).toNat
       let tx := [c.tx0, c.tx1, c.tx2, c.tx3, c.tx4].map BitVec.toNat
       (windowOf va = 0 → va + 64 ≤ stackBase → va % 64 = 0 →
         s.readTsr (s.streamEngine e p) (s.job p.job).card va = (.ok (t, fmt), u) → t.tileOk fmt tx = true →
         let w : Walk := { tsr := t.bits, tile := tx, order := walkOrder c, t := c.start.toNat % t.tiles tx }
         exec (.swalk c) s = .next ((u.onProgram e k fun p => { p with walk := some w }).nextCommand e k)) ∧
       (windowOf va ≠ 0 ∨ stackBase < va + 64 ∨ va % 64 ≠ 0 →
         exec (.swalk c) s = .next (s.failStream e k [] (addressViolation va 64)))) ∧
     (∀ (c : CmdLoop),
       (4 ≤ p.stack.length → exec (.sloop c) s = .next (s.failStream e k [] { code := 0x0207, info0 := 1, info1 := 0 })) ∧
       (p.stack.length < 4 → c.count = 0 →
         exec (.sloop c) s = .next ((s.onProgram e k fun p => { p with skip := some 0 }).nextCommand e k)) ∧
       (p.stack.length < 4 → c.count ≠ 0 → exec (.sloop c) s = .next ((s.onProgram e k fun p =>
         { p with stack := (c.count.toNat, p.here + 32) :: p.stack }).nextCommand e k))) ∧
     (p.stack = [] → exec .sendl s = .next (s.failStream e k [] { code := 0x0207, info0 := 0, info1 := 0 })) ∧
     (∀ n a rest, p.stack = (n, a) :: rest →
       (1 < n → exec .sendl s = .next (s.onProgram e k fun p => { p with stack := (n - 1, a) :: rest }.goTo a)) ∧
       (n ≤ 1 → exec .sendl s = .next ((s.onProgram e k fun p => { p with stack := rest }).nextCommand e k))) ∧
     (∀ (c : CmdMark), exec (.smark c) s =
       .next ((s.onProgram e k fun p => { p with stamp := some (8 * c.soff.toNat) }).nextCommand e k)) ∧
     (∀ (c : CmdHalt), (p.inflight = [] → exec (.shalt c) s =
         .next (s.onProgram e k fun p => { p with busy := false, state := 3 })) ∧
       (p.inflight ≠ [] → exec (.shalt c) s = .next s)) ∧
     (∀ cmd, p.halting = false → ((s.skipCommand e k cmd).program e k).here = p.here + 32) ∧
     (∀ a, (p.halting = false → (p.goTo a).here = a ∧ (p.goTo a).state = 1 ∧ (p.goTo a).busy = p.busy) ∧
       (p.halting = true → (p.goTo a).busy = false ∧ (p.goTo a).state = 3))) ∧
  (∀ (s : State) (e k : Nat) (p : Program), StreamGoes s e k p →
     let cl := s.cluster p.cluster
     let q := (s.streamEngine e p).q
     (∀ (c : CmdPush), p.push = none → 2 ^ (s.job cl.job).card.blocks ≤ c.bmask.toNat → ∃ bits,
       exec (.spush c) s = .next (s.failStream e k (s.rawTargets p c.bmask.toNat c.ring.toNat)
         { code := 0x0201, info0 := bits, info1 := 3 })) ∧
     (∀ (c : CmdPush) (w : Walk),
       let targets := s.pushTargets c p
       let rings := targets.map fun t => s.ring t.1 t.2
       let t := parseTsr w.tsr
       let size := tileSize (((s.job cl.job).card.slot t.slot).fmt) w.tile
       let least := (minBy (rings.map fun r => r.ssize) id).getD 0
       p.push = none → c.bmask.toNat < 2 ^ (s.job cl.job).card.blocks → c.ring.toNat + 32 ≤ (s.job cl.job).card.shared →
       c.ring.toNat % 32 = 0 →
       (cl.life = .ended ∨ cl.life = .dropped → exec (.spush c) s = .next (s.failStream e k []
         { code := 0x0208, info0 := c.bmask.toNat, info1 := c.ring.toNat })) ∧
       (cl.life ≠ .ended → cl.life ≠ .dropped → p.walk = none →
         exec (.spush c) s = .next (s.failStream e k targets { code := 0x0206, info0 := 0, info1 := 0 })) ∧
       (cl.life ≠ .ended → cl.life ≠ .dropped → p.walk = some w →
         (cl.life.resident = false ∨ (∃ r ∈ rings, r.open = false) →
           exec (.spush c) s = .next (s.onProgram e k fun p =>
             { p with state := 2, window := some (c.bmask.toNat, c.ring.toNat) })) ∧
         (cl.life.resident = true → (∀ r ∈ rings, r.open = true) →
           (least < size → exec (.spush c) s = .next (s.failStream e k targets
             { code := 0x0204, info0 := size, info1 := least })) ∧
           (size ≤ least → p.stamp = none ∨ (∃ o, p.stamp = some o ∧ o + 8 ≤ least) →
             let u := ({ s with nextId := s.nextId + 1 } : State).claimPush e k s.nextId targets
             let v := u.onProgram e k fun p => { p with push := some (s.nextId, u.time), state := 1, window := none }
             ((∀ x ∈ p.inflight, slotsMeet (s.nextSlots targets) x.slots = false) →
               exec (.spush c) s = .next (v.readPush e k targets)) ∧
             ((∃ x ∈ p.inflight, slotsMeet (s.nextSlots targets) x.slots = true) → exec (.spush c) s = .next s))))) ∧
     (∀ (c : CmdSigWord) (pages : Tab Nat) (u : State),
       let a := (relAddr c.rel c.addr p).toNat
       let pa := pageAddr pages a
       (p.inflight ≠ [] → exec (.ssigRed c) s = .next s ∧ exec (.ssigEnq c) s = .next s) ∧
       (p.inflight = [] → sigAddr a 8 = none → s.translateAll q [a] .write = (.ok pages, u) → u.routeDown pa = false →
         u.poisonAt pa = none →
         let v := (u.atomicWide p.cluster (u.block (u.blockOf p.cluster 0)).core 5
           { lane := 0, pa, ty := 8, opn := 0, v := c.value, c := 0 }).2
         exec (.ssigRed c) s = .next (((if (v.job p.job).card.det then
           v.onJob p.job fun j => { j with det := j.det.engineRed p.known (pa / 8) } else v).programTells p deviceReach
             [wordCode (pa / 8)]).nextCommand e k)) ∧
       (p.inflight = [] → sigAddr a 8 = none → s.translateAll q [a] .write = (.ok pages, u) → u.routeDown pa = true →
         exec (.ssigRed c) s = .next ((u.reportLost [{ job := p.job, pa }]).nextCommand e k)) ∧
       (∀ x, p.inflight = [] → sigAddr a 8 = some x → exec (.ssigRed c) s = .next (s.failStream e k [] x)) ∧
       (∀ n es, p.inflight = [] → sigAddr a 64 = none → s.queueSector (s.streamEngine e p) a = none →
         s.enqueue (.virtual q) a (fun lgsz => if lgsz = 3 then some [c.value.toNat] else none) = (.done n es, u) →
         let tail := if p.told.isEmpty then [] else s.queueCodes (.virtual q) a 1 true
         exec (.ssigEnq c) s = .next (if n = 0 then u else
           ((u.programTells p deviceReach tail).reportLost (lostOf p.job es)).nextCommand e k)) ∧
       (∀ x, p.inflight = [] → sigAddr a 64 = none → s.queueSector (s.streamEngine e p) a = some x →
         exec (.ssigEnq c) s = .next (s.failStream e k [] x)) ∧
       (∀ x, p.inflight = [] → sigAddr a 64 = some x → exec (.ssigEnq c) s = .next (s.failStream e k [] x))) ∧
     (∀ (c : CmdSigBar),
       let idx := if c.cl then 0 else c.block.toNat
       let b := s.blockOf p.cluster idx
       let x := s.barrier b c.bar.toNat
       p.inflight = [] →
       (cl.life = .ended ∨ cl.life = .dropped → exec (.ssigBarrier c) s = .next (s.failStream e k []
         { code := 0x0208, info0 := c.block.toNat, info1 := c.bar.toNat })) ∧
       (cl.life ≠ .ended → cl.life ≠ .dropped → c.bar.toNat < (s.job cl.job).card.bars → idx < (s.job cl.job).card.blocks →
         (x.arr + c.count.toNat ≤ x.exp → exec (.ssigBarrier c) s =
           .next (((s.programTells p (s.blockReaches b) [phaseCode b c.bar.toNat x.ph.toNat]).onBarrier b c.bar.toNat
             fun x => x.arrive c.count.toNat none).nextCommand e k)) ∧
         (x.exp < x.arr + c.count.toNat → exec (.ssigBarrier c) s = .next (s.failStream e k []
           { code := 0x020A, info0 := c.bar.toNat + (if c.cl then 1024 else 0) + idx * 2 ^ 11,
             info1 := x.arr + x.exp * 2 ^ 16 + c.count.toNat * 2 ^ 32 })))))

/-! ### The scheduler -/

/-- JOB_ACCEPT takes one entry from the queue whose turn it is, in a ready device that holds fewer than 4,096 jobs (R311), and
the round goes on behind it; a taken card that meets no condition of R309 becomes a job, another is rejected with 0x0210 and
its condition; an address space that is not usable rejects with 0x0211 (R103).
DEAL gives each core that is not gated and has fewer than 4 entries at most one chunk, of records of the first ready job in EDF
order that are not dealt (R318); CLUSTER_DISPATCH dispatches the first offer of its core where that has a seat, no lower core of
the group requests and no record stalls the scheduler (R319, R317), as a cluster of the task alone where it runs once (R322); a
fresh wave's threads have the identities of
Table 2-2, stand at the job's entry point, and its uniform registers are those of the card (R26, R52).
What becomes of a malformed queue, and the seat that is taken, are the model's (log entries 38, 40). -/
def Obligations.JobsAndDispatch : Prop :=
  ((∀ (s : State) (q : Nat), s.bootReady = false ∨ 4096 ≤ s.jobsHeld → s.taken = [] → exec (.jobAccept q) s = .next s) ∧
   (∀ (s u : State) (q : Nat) (rest : List Nat), s.bootReady = true → s.jobsHeld < 4096 → s.roundOrder = q :: rest →
     s.queueWaits q = (true, u) → exec (.jobAccept q) s = .next (u.takeFrom q).examineTaken) ∧
   (∀ (s u : State) (q x n : Nat) (es : List Nat) (r : Requester), s.queueRequester q = some r →
     s.dequeue (.virtual r) (slice (s.queueEntry q) 0 64) 1 (· == 4) = (.done n (x :: es), u) →
     let t := s.takeFrom q
     let asid := BitVec.ofNat 14 (slice x 64 14)
     let e : Taken := { card := BitVec.ofNat 64 (slice x 0 64), order := u.nextId, asid, priv := (s.queueEntry q).testBit 79 }
     t.taken = u.taken ++ [e] ∧
     t.round = (if q + 1 < u.queueCount then q + 1 else 0) ∧ t.nextId = u.nextId + 1) ∧
   (∀ (s u v : State) (t : Taken) (q : Requester) (n : Nat) (i : CardImage), t.phys = false → t.regen = none →
     s.scheduler t.asid = some q → s.schedRead q t.card.toNat 256 = (.ok (some n), u) → u.readParts q n = (.ok i, v) →
     (∀ k, i.failed t.card.toNat t.priv = some k →
       s.examineCard t = (none, v.rejectCard t (some (i.parse t.card)) 0x0210 k 0)) ∧
     (i.failed t.card.toNat t.priv = none → s.examineCard t = (none, v.admitJob t q i) ∧
       let j := (v.admitJob t q i).job v.nextId
       j.card = i.parse t.card ∧ j.asid = t.asid ∧ j.phase = .waiting ∧ j.next = 0 ∧ j.limit = (i.parse t.card).rcount ∧
         j.bindings = i.bindings ∧ j.stages = i.stages)) ∧
   (∀ (s : State) (t : Taken), s.scheduler t.asid = none →
     s.examineCard t = (none, s.rejectCard t none 0x0211 t.asid.toNat (s.descriptorBits t.asid).toNat))) ∧
  ((∀ (s : State), ∃ t, exec .deal s = .next t ∧ SameMemory s t ∧
     ∀ c, ∃ more, (t.core c).queue = (s.core c).queue ++ more ∧ more.length ≤ 1 ∧
       ((s.core c).gated = true ∨ 4 ≤ (s.core c).queue.length → more = []) ∧
       ∀ e ∈ more, 1 ≤ e.count ∧ e.lent = false ∧ (s.job e.job).next ≤ e.first ∧ e.first + e.count ≤ (s.job e.job).limit ∧
         ((s.readyJobs.find? fun p => !p.2.card.det && p.2.stages.isEmpty && decide (0 < p.2.undealt)).map Prod.fst) =
           some e.job) ∧
   (∀ (s : State) (core : Nat), s.offers core = [] ∨ 160 ≤ core → exec (.clusterDispatch core) s = .next s) ∧
   (∀ (s : State) (core : Nat) (o : Offer) (rest : List Offer) (x : Seat), core < 160 → s.recordsStall = false →
     s.lowerRequests core = false → s.freeOffers core = o :: rest → s.seatFor core o = some x →
     exec (.clusterDispatch core) s = .next (s.dispatch core o x)) ∧
   (∀ (s : State) (core : Nat) (o : Offer) (x : Seat), (s.descriptor (s.job o.job).asid).isSome = true → x.twin = none →
     s.dispatch core o x = ((s.takeTask core o).startCluster o.job o.task ((s.job o.job).card.record o.task)
       (s.job o.job).card.entry x.cores none none).2) ∧
   (∀ (cl bid wid task l : Nat) (card : Card) (entry : Word), l < 32 →
     let w := freshWave cl bid wid task card entry
     let t := w.thread l
     t.tid = task * card.threads + (bid * card.waves + wid) * 32 + l ∧ t.bid = bid ∧ t.live = true ∧ t.pc = entry ∧
     t.startPc = entry ∧ t.v = [] ∧ t.p = 0 ∧ t.mt = 0 ∧ t.seed = 0 ∧ t.txn = none ∧ w.alloc = card.regs ∧ w.host = bid ∧
     w.wid = wid ∧ (∀ k, k < card.uimg.length → w.uni.getD k 0 = card.uimg.getD k 0)))

/-- Pre-emption by discard drops every wave of the cluster to its region start and lets it be resumed (R39, R43, R44);
GROW_STALL_PREEMPT does so to the youngest cluster that waits in GROW after 1,024 clocks without an issue (R48), and
CLUSTER_RESUME brings a pre-empted cluster back where it has room.
A job is late once: when the time counter has passed its deadline, one record of KIND 2 goes to its status queue (R315). A
held record goes once the records before it in its queue are gone and the queue has room (R317). At a task boundary a core
gets the governor's role in a staged job that has had its first dispatch (R325); STAGE_DISPATCH takes one input entry of the role
that the core holds, where no lower core of the group requests and no earlier job has a task for it: a task, or the marker that ends the stage's input (R324, R326).
Where a cluster resumes, and when a governor acts, are the model's (log entries 40, 41). -/
def Obligations.PreemptionAndRecords : Prop :=
  ((∀ (s : State) (cl : Nat), (s.clusters.find cl).isSome = true →
     ((s.cluster cl).life = .running → ((s.preempt cl).cluster cl).life = .preempted none) ∧
     (∀ h, (s.cluster cl).life = .halted h → ((s.preempt cl).cluster cl).life = .preempted (some h)) ∧
     (∀ k, (s.preempt cl).wave k = if (s.wave k).cluster = cl ∧ (s.waves.find k).isSome = true then (s.wave k).drop
       else s.wave k) ∧
     SameMemory s (s.preempt cl)) ∧
   (∀ (w : Wave) (l : Nat), w.stays = false → l < w.threads.length → (w.thread l).live = true →
     (w.thread l).txn = none →
     let t := w.thread l
     (w.drop.thread l).pc = t.startPc ∧ (w.drop.thread l).mt = t.startMt ∧ (w.drop.thread l).v = t.v ∧
     (w.drop.thread l).p = t.p ∧ w.drop.rsb = [] ∧ w.drop.results = [] ∧ w.drop.park = none) ∧
   (∀ (s : State) (core : Nat), s.growers core = [] → exec (.growStallPreempt core) s = .next s) ∧
   (∀ (s : State) (core : Nat) (p : Nat × Wave), (s.growers core).getLast? = some p →
     (s.clk < (s.core core).idle + 1024 → exec (.growStallPreempt core) s = .next s) ∧
     ((s.core core).idle + 1024 ≤ s.clk →
       exec (.growStallPreempt core) s = .next ((s.preempt p.2.cluster).grant core))) ∧
   (∀ (s : State) (cl : Nat), (∀ h, (s.cluster cl).life ≠ .preempted h) → exec (.clusterResume cl) s = .next s) ∧
   (∀ (s : State) (cl : Nat) (h : Option Nat), (s.cluster cl).life = .preempted h →
     (s.resumeAt cl = none → exec (.clusterResume cl) s = .next s) ∧
     (∀ cores, s.resumeAt cl = some cores → s.inCwait cl = false → exec (.clusterResume cl) s = .next (s.resumeOn cl cores)))) ∧
  ((∀ (s : State) (j : Nat) (d : BitVec 48), (s.job j).card.deadline = some d → (s.job j).phase.active = true →
     (s.job j).late = false → s.recordsStall = false →
     (passed s.time d = true → exec (.jobLate j) s = .next ((s.onJob j fun x => { x with late := true }).jobRecord
       (s.job j).asid (s.job j).card.addr (s.job j).card.sq 2 d.toNat 0)) ∧
     (passed s.time d = false → exec (.jobLate j) s = .next s)) ∧
   (∀ (s : State) (j : Nat), (s.job j).late = true ∨ (s.job j).card.deadline = none → exec (.jobLate j) s = .next s) ∧
   (∀ (t : Word) (d : BitVec 48), passed t d = true ↔ 1 ≤ (t.setWidth 48 - d : BitVec 48).toInt) ∧
   (∀ (s u : State) (k n : Nat) (h : Held) (q : Requester) (es : List Nat), s.held[k]? = some h →
     s.scheduler h.asid h.die = some q → (∀ x ∈ s.held.take k, x.asid = h.asid → x.queue ≠ h.queue) →
     h.after.any s.storeHeld = false →
     s.enqueue (.virtual q) h.queue.toNat (fun lgsz => if lgsz = h.size then some [h.bits] else none) = (.done n es, u) →
     exec (.recordRetry k) s = .next (if n = 0 then u else { u with held := u.held.take k ++ u.held.drop (k + 1) })) ∧
   (∀ (s : State) (k : Nat), s.held[k]? = none → exec (.recordRetry k) s = .next s) ∧
   (∀ (s : State) (core j : Nat), (s.job j).phase ≠ .ready ∨ (s.job j).stages = [] ∨ (s.core core).gated = true →
     exec (.stageDispatch core j) s = .next s) ∧
   (∀ (s u : State) (core j : Nat) (l : List Nat),
     (s.jobs.filter fun p => p.2.phase == .ready && p.2.begun && !p.2.stages.isEmpty).map Prod.fst = [j] →
     s.depths j = (some l, u) →
     s.governAt core = u.onCore core fun y => { y with roles := y.roles.insert j (u.govern core j l) }) ∧
   (∀ (s v : State) (core j a n : Nat) (es : List Nat) (g : Stage) (seat : Seat) (q : Requester),
     let x := s.job j
     let k := s.role core j
     let t := s.onCore core fun y => { y with roles := y.roles.insert j k }
     core < 160 → x.phase = .ready → (s.core core).gated = false → s.blockedByRecords x = false → s.recordsStall = false →
     s.lowerRequests core = false →
     x.stages[k]? = some g → g.marked = false → (∀ o ∈ s.offers core, s.edfKey x ≤ o.key) →
     s.stagedBefore core (s.edfKey x) false = false → t.seat x.card 0 core = some seat → t.scheduler (t.job j).asid = some q →
     t.dequeue (.virtual q) g.iq.toNat 1 (· == 3) = (.done n (a :: es), v) →
     let onStage (f : Stage → Stage) : State :=
       v.onJob j fun x => { x with stages := x.stages.mapIdx fun i y => if i = k then f y else y }
     (a = 0 → exec (.stageDispatch core j) s = .next (onStage fun y => { y with marked := true })) ∧
     (a ≠ 0 → exec (.stageDispatch core j) s = .next ((onStage fun y => { y with taken := y.taken + 1 }).startCluster j
       (4 * g.taken + k) (BitVec.ofNat 64 a) g.entry seat.cores none (some k)).2)))

/-- The steps of a steal (R320, R321): an idle core asks the first victim of its order; the victim lends its last entry, or the
upper half of its only started one, or refuses and the thief asks the next; the thief keeps the entry locked until its
acknowledgement is accepted, and exactly one of the two queues goes on with it; after 4,096 fabric clocks the victim takes it
back, and the steal of a power-gated thief has ended.
Replicated tasks and devices: twin waves whose hashes agree let the primary perform its boundary, and a divergence starts a
third run (REPLICA_COMMIT, R323, R436); a peer's digest decides the pending step of its group, one for a later step is kept, and
100 ms without one end the pairing with a record of KIND 8 (R349, R437).
The third run, and the steps of a replica group, are read as log entries 43 and 44 say. -/
def Obligations.StealsAndReplicas : Prop :=
  ((∀ (s : State) (thief : Nat),
     (s.idles thief = false → exec (.stealRequest thief) s = .next s) ∧
     (s.idles thief = true → exec (.stealRequest thief) s = .next { s with
       nextId := s.nextId + 1
       steals := s.steals.insert s.nextId { thief, victim := (victimOrder thief).headD 0 } })) ∧
   (∀ (s : State) (k : Nat) (x : Steal), s.steals.find k = some x → x.step = 1 →
     (s.steals.any fun p => decide (p.1 < k) && p.2.victim == x.victim && p.2.step == 1) = false →
     (∀ e queue, lend (s.core x.victim).queue = some (e, queue) →
       exec (.stealLend k) s = .next { (s.onCore x.victim fun c => { c with queue }) with
         steals := s.steals.insert k { x with chunk := some e, step := 3, since := s.fabric } }) ∧
     (∀ v, lend (s.core x.victim).queue = none → (victimOrder x.thief)[x.place + 1]? = some v →
       exec (.stealLend k) s = .next { s with
         nextId := s.nextId + 1
         steals := (s.steals.remove k).insert s.nextId { thief := x.thief, victim := v, place := x.place + 1 } })) ∧
   (∀ (queue rest : List Chunk) (e : Chunk), lend queue = some (e, rest) → (queue.map fun c => (c.job, c.first)).Nodup →
     (queue.map fun c => if c.lent then 0 else c.count).sum =
       (rest.map fun c => if c.lent then 0 else c.count).sum + e.count) ∧
   (∀ (s : State) (k : Nat) (x : Steal) (e : Chunk), s.steals.find k = some x → x.chunk = some e →
     (x.step = 3 → (s.core x.thief).gated = true → exec (.stealAccept k) s = .next s) ∧
     (x.step = 3 → (s.core x.thief).gated = false → (s.job e.job).phase.active = true → exec (.stealAccept k) s = .next
       { (s.onCore x.thief fun c => { c with queue := c.queue ++ [{ e with lent := true }] }) with
         steals := s.steals.insert k { x with step := 4 } }) ∧
     (x.step = 3 → (s.core x.thief).gated = false → (s.job e.job).phase.active = false →
       exec (.stealAccept k) s = .next { s with steals := s.steals.remove k }) ∧
     (x.step = 4 → x.reclaimed = false → exec (.stealAck k) s = .next
       ((({ s with steals := s.steals.remove k } : State).onCore x.victim fun c => { c with queue := dropChunk c.queue e }).onCore
         x.thief fun c => { c with queue := unlend c.queue e })) ∧
     (x.step = 4 → x.reclaimed = true → exec (.stealAck k) s = .next
       (({ s with steals := s.steals.remove k } : State).onCore x.thief fun c => { c with queue := dropChunk c.queue e })) ∧
     (3 ≤ x.step → x.reclaimed = false →
       (x.since + 4096 ≤ s.fabric → exec (.stealWatchdog k) s = .next
         { (s.onCore x.victim fun c => { c with queue := unlend c.queue e }) with
           steals := if (s.core x.thief).gated then s.steals.remove k else s.steals.insert k { x with reclaimed := true } }) ∧
       (s.fabric < x.since + 4096 → exec (.stealWatchdog k) s = .next s)))) ∧
  ((∀ (s : State) (wave twin a b : Nat) (r : Run), (s.wave wave).park = some (.twin a) → (s.wave twin).park = some (.twin b) →
     (s.cluster (s.wave wave).cluster).run = some r → r.role = 0 → r.twin = some (s.wave twin).cluster →
     (s.wave wave).runKey = (s.wave twin).runKey → (s.wave wave).bounds = (s.wave twin).bounds →
     (a = b → exec (.replicaCommit wave twin) s = .next (s.onWave wave fun x => { x with go := true, park := none })) ∧
     (a ≠ b → r.third = none → exec (.replicaCommit wave twin) s =
       .next (s.startThird (s.wave wave).cluster (s.wave twin).cluster))) ∧
   (∀ (s : State) (asid : BitVec 14) (step : Nat) (x : BitVec 384), s.portUp 1 = false →
     exec (.replicaDigest asid step x) s = .next s) ∧
   (∀ (s : State) (asid : BitVec 14) (g : Group) (step n j t : Nat) (x : BitVec 384), s.portUp 1 = true → s.groups.find asid.toNat = some g →
     g.enabled = true → g.pending = some (n, j, t) →
     let h : Group := { g with pending := none, decided := n, arrived := g.arrived.filter fun a => decide (n < a.1) }
     let u := ({ s with groups := s.groups.insert asid.toNat h } : State).onJob j fun x => { x with phase := .completed }
     (n = step → x.toNat = stepDigest (u.job j) →
       exec (.replicaDigest asid step x) s = .next (u.completionRecord j 1 (u.job j).tasksDone)) ∧
     (n = step → x.toNat ≠ stepDigest (u.job j) → ∃ v, exec (.replicaDigest asid step x) s = .next v ∧
       v = { (((u.completionRecord j 7 n).peerRecord g asid.toNat n 5).count 65 1) with groups := v.groups } ∧
       (∀ y, v.groups.find asid.toNat = some y → y.stopped = true)) ∧
     (n < step → exec (.replicaDigest asid step x) s = .next
       { s with groups := s.groups.insert asid.toNat { g with arrived := g.arrived ++ [(step, x.toNat)] } }) ∧
     (step < n → exec (.replicaDigest asid step x) s = .next s) ∧
     (s.time.toNat < t + 100000000 → exec (.replicaDigestTimeout asid) s = .next s) ∧
     (t + 100000000 ≤ s.time.toNat → exec (.replicaDigestTimeout asid) s = .next (
       ((({ s with groups := s.groups.insert asid.toNat { g with pending := none, decided := n, stopped := true } } : State).onJob j
         fun x => { x with phase := .completed }).completionRecord j 8 n).peerRecord g asid.toNat n 6))))

/-! ### The host's port -/

/-- The host commands of Table 13-3 complete with RESULT 0 and vector 0, or with 1 for a field out of range and 2 for an object
that does not exist (R334): INVALIDATE removes translations at once, RESUME lets a halted cluster go on, CANCEL ends a job with
its record of KIND 4 (R336), REPLAY_ALL releases fault misses (R415), REPLICA_GROUP pairs (R349), SET_TIME never sets the time
back (R342); an unknown OP is 1.
ENQUEUE_GO enqueues its slot's entry at the queue that the slot's job-queue entry names, with STATUS 1, 2 where the queue is
full, absent or disabled, and 3 where it cannot be used; one that meets a miss waits for it, and a GO behind it waits with the
entry as it then stands (R333). A write of MBTX that brings a nonce is answered with the
attestation report in the reply window, VALID set and vector 2 (R353); reading MBRX clears VALID (R356).
STATUS 3, REPLICA_GROUP without a group to end, the job that CANCEL takes, and replies other than the report's are the model's
(log entries 38, 81, 82, 42, 50). -/
def Obligations.HostPort : Prop :=
  (∀ (s : State), s.busy = true →
     let done (t : State) (r : Nat) : Out :=
       .next { t with busy := false, result := BitVec.ofNat 64 r, hostWait := none, vectors := t.vectors ++ [0] }
     let a := s.arg0.toNat
     (s.op = 1 → s.hostWait = none → a = a % 2 ^ 14 + slice a 16 2 * 2 ^ 16 →
       let asid := s.arg0.setWidth 14
       let range := s.invalRange asid s.arg1.toNat (slice a 16 2)
       let t := s.invalidateTlbs asid s.arg1.toNat (slice a 16 2)
       let p := t.pursue (s.storing range) (s.sending range)
       (p.1 = [] → p.2 = [] → exec .invalidate s = done t 0) ∧
       (p.1 ≠ [] ∨ p.2 ≠ [] → exec .invalidate s = .next { t with hostWait := some p })) ∧
     (s.op = 1 → a ≠ a % 2 ^ 14 + slice a 16 2 * 2 ^ 16 → exec .invalidate s = done s 1) ∧
     (s.op = 2 → a < 2 ^ 32 → s.arg1 = 0 →
       let named (l : Life) : Bool := match l with
         | .halted h => h == a
         | .preempted (some h) => h == a
         | _ => false
       ((∀ p ∈ s.clusters, named p.2.life = false) → exec .resume s = done s 2) ∧
       (∀ p ∈ s.clusters, named p.2.life = true → ∃ t, exec .resume s = done t 0 ∧ t = { s with clusters := t.clusters } ∧
         ∀ k, (named (s.cluster k).life = false → t.cluster k = s.cluster k) ∧
           (∀ h, (s.cluster k).life = .halted h → h = a → t.cluster k = { s.cluster k with life := .running }) ∧
           (∀ h, (s.cluster k).life = .preempted (some h) → h = a →
             t.cluster k = { s.cluster k with life := .preempted none }))) ∧
     (s.op = 2 → 2 ^ 32 ≤ a ∨ s.arg1 ≠ 0 → exec .resume s = done s 1) ∧
     (s.op = 3 → a % 256 = 0 → s.arg1.toNat < 2 ^ 14 →
       let open' := s.jobs.filter fun p => p.2.card.addr == s.arg0 && p.2.asid == s.arg1.setWidth 14 && p.2.phase.active
       (open' = [] → exec .cancel s = done s 2) ∧
       (∀ j x, minBy open' (fun p => p.2.order) = some (j, x) → exec .cancel s =
         done ((s.endJob j .cancelled 0).jobRecord x.asid x.card.addr x.card.cq 4 x.tasksDone 0 (s.storesOf j)) 0)) ∧
     (s.op = 3 → a % 256 ≠ 0 ∨ 2 ^ 14 ≤ s.arg1.toNat → exec .cancel s = done s 1) ∧
     (s.op = 4 → a = a % 2 ^ 14 + slice a 32 1 * 2 ^ 32 → s.arg1 = 0 → ∃ t, exec .replayAll s = done t 0 ∧
       t = { s with dies := t.dies } ∧ ∀ d, d < 4 → (t.die d).misses = (s.die d).misses.filter fun m =>
         m.2.regen || !(a.testBit 32 || m.2.asid == s.arg0.setWidth 14)) ∧
     (s.op = 5 → a = a % 2 ^ 10 + slice a 16 1 * 2 ^ 16 → s.arg1.toNat < 2 ^ 14 → a % 2 ^ 10 ≠ s.devid.toNat →
       a.testBit 16 = true → s.groups.find s.arg1.toNat = none → exec .replicaGroup s = done
         { s with groups := s.groups.insert s.arg1.toNat { peer := s.arg0.setWidth 10, enabled := true } } 0) ∧
     (∀ g, s.op = 5 → a = a % 2 ^ 10 + slice a 16 1 * 2 ^ 16 → s.arg1.toNat < 2 ^ 14 → a % 2 ^ 10 ≠ s.devid.toNat →
       a.testBit 16 = true → s.groups.find s.arg1.toNat = some g →
       let held := s.heldSteps s.arg1.toNat
       (g.stopped = false → exec .replicaGroup s = done { s with
         groups := s.groups.insert s.arg1.toNat { g with peer := s.arg0.setWidth 10, enabled := true } } 0) ∧
       (g.stopped = true → ∃ t, exec .replicaGroup s = done t 0 ∧ t = { s with groups := t.groups, jobs := t.jobs } ∧
         t.groups = s.groups.insert s.arg1.toNat { g with
           peer := s.arg0.setWidth 10, enabled := true, stopped := false, steps := g.decided + held.length } ∧
         (∀ i, i < held.length → held.Nodup → (t.job (held.getD i 0)).step = g.decided + 1 + i) ∧
         ∀ j, j ∉ held → t.job j = s.job j)) ∧
     (s.op = 5 → a = a % 2 ^ 10 + slice a 16 1 * 2 ^ 16 → s.arg1.toNat < 2 ^ 14 → a % 2 ^ 10 ≠ s.devid.toNat →
       a.testBit 16 = false →
       let u : State := { s with
         groups := s.groups.remove s.arg1.toNat
         jobs := s.jobs.mapVals fun (j : Job) => if j.asid.toNat = s.arg1.toNat then { j with step := 0 } else j }
       (((s.groups.find s.arg1.toNat).bind fun g => g.pending) = none → exec .replicaGroup s = done u 0) ∧
       (∀ n j t, ((s.groups.find s.arg1.toNat).bind fun g => g.pending) = some (n, j, t) → exec .replicaGroup s =
         done ((u.onJob j fun x => { x with phase := .completed }).completionRecord j 1 (u.job j).tasksDone) 0)) ∧
     (s.op = 5 → a ≠ a % 2 ^ 10 + slice a 16 1 * 2 ^ 16 ∨ 2 ^ 14 ≤ s.arg1.toNat ∨ a % 2 ^ 10 = s.devid.toNat →
       exec .replicaGroup s = done s 1) ∧
     (s.op = 6 → (s.arg1 = 0 → s.locked = false → s.time ≤ s.arg0 → exec .setTime s = done { s with
         time := s.arg0, ptp := { s.ptp with sync := none, sent := none } } 0) ∧
       (s.arg1 ≠ 0 ∨ s.locked = true ∨ s.arg0 < s.time → exec .setTime s = done s 1)) ∧
     (s.op.toNat = 0 ∨ 6 < s.op.toNat → exec (.hostCommandInvalid s.op) s = done s 1)) ∧
  ((∀ (s u : State) (k : Nat) (q : Requester), k < 64 →
     let x := s.slots.getD k {}
     let e := s.queueEntry k
     let v : State := { s with slots := s.slots.insert k { x with status := 0, waiting := x.waiting ++ [x.entry] } }
     let status (t : State) (n : Nat) : State :=
       { t with slots := t.slots.insert k { x with status := n, waiting := [], on := [] } }
     (x.waiting ≠ [] → exec (.enqueueGo k) s = .next v) ∧
     (x.waiting = [] → s.queueCount ≤ k ∨ e.testBit 78 = false → exec (.enqueueGo k) s = .next (status v 2)) ∧
     (x.waiting = [] → k < s.queueCount → e.testBit 78 = true →
       (s.scheduler (BitVec.ofNat 14 (slice e 64 14)) = none → exec (.enqueueGo k) s = .next (status v 3)) ∧
       (s.scheduler (BitVec.ofNat 14 (slice e 64 14)) = some q →
         let r := v.enqueue (.virtual q) (slice e 0 64) fun lgsz => if lgsz = 4 then some [x.entry.toNat] else none
         (∀ n es, r = (.done n es, u) → exec (.enqueueGo k) s = .next (status u (if n = 0 then 2 else 1))) ∧
         (∀ bits, r = (.malformed bits, u) → exec (.enqueueGo k) s = .next (status u 3)) ∧
         (∀ on, r = (.park on, u) → exec (.enqueueGo k) s = .next
           { u with slots := u.slots.insert k { x with status := 0, waiting := [x.entry], on } })))) ∧
   (∀ (s : State) (len : BitVec 13), s.firmware = none → exec (.mailboxRequest len) s = .next { s with mbtx := len }) ∧
   (∀ (s : State) (len : BitVec 13) (image : Nat), 48 ≤ len.toNat → s.firmware = some image →
     let nonce := (List.range 48).map fun i => s.mailIn.getD i 0
     let reply := s.report image nonce
     ∃ t, exec (.mailboxRequest len) s = .next t ∧ t.mbtx = len ∧ t.mbrx = BitVec.ofNat 32 (2 ^ 31 + reply.length) ∧
       (∀ i, t.mailOut.getD i 0 = reply.getD i 0) ∧ t.vectors = s.vectors ++ [2] ∧ reply.take 48 = nonce ∧
       (reply.drop 48).take 48 = bigBytes 48 image) ∧
   (∀ (s : State), ∃ t, exec .mbrxRead s = .next t ∧ t = { s with mbrx := t.mbrx } ∧ t.mbrx.getLsbD 31 = false ∧
     ∀ i, i < 31 → t.mbrx.getLsbD i = s.mbrx.getLsbD i))

/-- The management registers (R356, Tables 13-2 and 14-4): what a write of each does and when it is ignored, the fault buffer's
(R412), INGSET (R344), the buffer pool's (R330), the counters that a 1 clears (R89, R439), PSTATE (R354) and PMODE (R337); a
register without behaviour of its own holds the bits written, an unaligned or read-only place ignores the write.
That 4-byte writes merge and unaligned ones are ignored, and what of the pool is held, is the model's (log entries 47, 51). -/
def Obligations.RegisterWrites : Prop :=
  ∀ (s : State) (v : Word),
    (∀ d, d < 4 → let x := s.die d
      (((v.setWidth 32 - x.fbGet).toNat ≤ (x.fbPut - x.fbGet).toNat →
        exec (.fbgetWrite d v) s = .next (s.onDie d fun x => { x with fbGet := v.setWidth 32 })) ∧
       ((x.fbPut - x.fbGet).toNat < (v.setWidth 32 - x.fbGet).toNat → exec (.fbgetWrite d v) s = .next s)) ∧
      (x.fbPut ≠ x.fbGet → ∀ base, exec (.faultBufferConfigWrite d base v) s = .next s) ∧
      (x.fbPut = x.fbGet →
        exec (.faultBufferConfigWrite d true v) s =
          .next (s.onDie d fun x => { x with fbBase := slice v.toNat 12 40 * 4096 }) ∧
        (8 ≤ v.toNat ∧ v.toNat ≤ 4096 → exec (.faultBufferConfigWrite d false v) s =
          .next (s.onDie d fun x => { x with faultDepth := v.toNat })) ∧
        (v.toNat < 8 ∨ 4096 < v.toNat → exec (.faultBufferConfigWrite d false v) s = .next s)) ∧
      exec (.droppedClear d v) s = .next (if v.getLsbD 0 then s.onDie d fun x => { x with dropped := false, dcnt := 0 }
        else s) ∧
      exec (.igdropClear d v) s = .next (if v.getLsbD 0 then s.onDie d fun x => { x with igDrop := 0 } else s)) ∧
    (∀ c, c < 160 → exec (.sconfClear c v) s = .next (if v.getLsbD 0 then s.onCore c fun k => { k with sconf := 0 } else s)) ∧
    (∀ d, 4 ≤ d → ∀ b, exec (.fbgetWrite d v) s = .next s ∧ exec (.faultBufferConfigWrite d b v) s = .next s ∧
      exec (.droppedClear d v) s = .next s ∧ exec (.igdropClear d v) s = .next s ∧ exec (.ingsetWrite d v) s = .next s) ∧
    (∀ d, d < 4 →
      let k := v.toNat % 128
      let a := (s.die d).ingBase.toNat % 2 ^ 52 + 64 * k
      let w : BitVec 512 := BitVec.ofNat 512 (s.homeNat a 64)
      (regionOf a).isSome = true →
      (w.getLsbD 368 = false → exec (.ingsetWrite d v) s = .next (s.onDie d fun x => { x with ingest := x.ingest.remove k })) ∧
      (w.getLsbD 368 = true → (descriptorChecks w).all Prod.snd = true → s.ingestQueueOk d w = true →
        exec (.ingsetWrite d v) s = .next (s.onDie d fun x => { x with ingest := x.ingest.insert k { desc := w } })) ∧
      (∀ c, w.getLsbD 368 = true → (descriptorChecks w ++ [(64, s.ingestQueueOk d w)]).find? (fun (c : Nat × Bool) => !c.2) = some c →
        exec (.ingsetWrite d v) s = .next ((s.onDie d fun x => { x with ingest := x.ingest.remove k }).hostRecord
          (4 + d * 2 ^ 8 + k * 2 ^ 16 + c.1 * 2 ^ 32 + s.time.toNat * 2 ^ 128)))) ∧
    (∀ c cap, c < 160 →
      let new := (List.range 4).map fun i => slice v.toNat (16 * i) 16
      let mins := if cap then (s.core c).poolMin else new
      let caps := if cap then new else (s.core c).poolCap
      ((∀ x ∈ new, x ≤ 4096) → (∀ p ∈ mins.zip caps, p.1 ≤ p.2) → mins.sum ≤ 4096 →
        exec (.poolWrite c cap v) s = .next (s.onCore c fun k => { k with poolMin := mins, poolCap := caps })) ∧
      ((∃ x ∈ new, 4096 < x) ∨ (∃ p ∈ mins.zip caps, p.2 < p.1) ∨ 4096 < mins.sum →
        exec (.poolWrite c cap v) s = .next s)) ∧
    exec (.pstateWrite v) s = .next { s with pstate := v.setWidth 2 } ∧
    (∀ p, p < 8 → (s.links.getD p {}).up = false → v.setWidth 2 ≠ 3#2 → ∃ t, exec (.pmodeWrite p v) s = .next t ∧
      t = { s with pmodes := t.pmodes, links := t.links } ∧ t.pmodes.getD p 0 = v.setWidth 2) ∧
    (∀ p, 8 ≤ p ∨ (s.links.getD p {}).up = true ∨ v.setWidth 2 = 3#2 → exec (.pmodeWrite p v) s = .next s) ∧
    exec (.registerWrite 8 true v) s = .next { s with devid := v.setWidth 10 } ∧
    exec (.registerWrite 0x200 true v) s = .next { s with astbase := v &&& 0x000FFFFFFFFC0000 } ∧
    exec (.registerWrite 0x208 true v) s = .next { s with jqtab := v &&& 0x000FFFFFFFFFFC7F, skipped := [], skipMiss := [] } ∧
    exec (.registerWrite 0x210 true v) s = .next { s with hrq := v } ∧
    (s.busy = false → exec (.registerWrite 0x600000 true v) s = .next { s with op := v.setWidth 8, busy := true, hostWait := none } ∧
      exec (.registerWrite 0x600008 true v) s = .next { s with arg0 := v } ∧
      exec (.registerWrite 0x600010 true v) s = .next { s with arg1 := v }) ∧
    (s.busy = true → exec (.registerWrite 0x600000 true v) s = .next s ∧ exec (.registerWrite 0x600008 true v) s = .next s) ∧
    exec (.registerWrite 0 true v) s = .next s ∧ exec (.registerWrite 0x10 true v) s = .next s ∧
    (∀ off : BitVec 24, off.toNat % 8 ≠ 0 → exec (.registerWrite off true v) s = .next s) ∧
    exec (.registerWrite 0x210 false v) s = .next { s with hrq := (s.hrq &&& 0xFFFFFFFF00000000) ||| (v &&& 0xFFFFFFFF) } ∧
    exec (.registerWrite 0x214 false v) s = .next { s with hrq := (s.hrq &&& 0xFFFFFFFF) ||| (v <<< 32) }

/-! ### Links, time, peers and ingest -/

/-- A link starts a retrain at its 16th CRC error within 1 ms or the fourth of one flit, and the third retrain in a row that
fails takes it down (R438), for a die edge with a machine error (R439, R446); a port's link comes up in an enabled mode (R337).
A PTP message has an effect only on an Ethernet port in operation and in the device's domain (R341): an announcement names the
best master, and the time of that master, with the path delay known, locks the time counter, which steps forward at first lock or
for more than 1 ms and never back, else slews; the passing of time never decreases it (R342); a delay request leaves on such a port.
A peer's load is answered with the bytes at the home, its store writes them, its atomic is one read-modify-write (R338,
R339). A packet on a port that is not an Ethernet port in operation has no effect, a bad one or one that no descriptor admits is
discarded and counted, another goes in turn to every stream that admits it (R340, R345, R439); a frame past its deadline closes with
STATUS 2 and its stream seeks (R441, R442).
The servo, the ingest's open points and the retrain counts are the model's (log entries 9, 45, 46). -/
def Obligations.LinksTimePeers : Prop :=
  ((∀ (s : State) (l : Link) (flit : Nat), ((s.link l).up = false ∨ (s.link l).training = true →
       exec (.flitCrcError l flit) s = .next s) ∧
     ((s.link l).up = true → (s.link l).training = false →
       let errors := ((s.link l).errors.filter fun t => decide (s.poweredOn < t + 1000000)) ++ [s.poweredOn]
       let n := Tab.getD (α := Nat) (s.link l).flits flit 0 + 1
       (16 ≤ errors.length ∨ 4 ≤ n → exec (.flitCrcError l flit) s =
         .next (s.setLink l { s.link l with errors := [], flits := [], training := true })) ∧
       (errors.length < 16 → n < 4 → exec (.flitCrcError l flit) s =
         .next (s.setLink l { s.link l with errors, flits := Tab.insert (α := Nat) (s.link l).flits flit n })))) ∧
   (∀ (s : State) (l : Link), (s.link l).training = true →
     let t := s.count (linkNumber l).2 1
     exec (.retrainDone l true) s = .next ((t.setLink l { s.link l with training := false, failed := 0 }).linkEvent l 0) ∧
     ((s.link l).failed < 2 → exec (.retrainDone l false) s =
       .next (t.setLink l { s.link l with failed := (s.link l).failed + 1 })) ∧
     (2 ≤ (s.link l).failed →
       let d := (t.setLink l { s.link l with training := false, up := false, failed := 3 }).linkEvent l 1
       (∀ p, l = .port p → exec (.retrainDone l false) s = .next d) ∧
       (∀ e, l = .edge e → exec (.retrainDone l false) s = .next (d.machineError 2 ([0, 0, 1, 2].getD e 0))))) ∧
   (∀ (s : State) (p : Nat), p < 8 → (s.links.getD p {}).up = false → s.pmodes.getD p 0 ≠ 0 → (s.links.getD p {}).failed < 3 →
     exec (.portLinkUp p) s = .next { s with links := s.links.put p { up := true } {} }) ∧
   (∀ (s : State) (m : PtpMessage),
     let live := (s.links.getD m.port {}).up = true ∧ s.pmodes.getD m.port 0 = 2 ∧ m.domain = s.domain
     let master := s.ptp.best.map Prod.snd = some m.source
     (¬ live → exec (.ptpMessage m) s = .next s) ∧
     (∀ rank, live → m.body = .announce rank →
       (s.ptp.best = none → exec (.ptpMessage m) s = .next { s with ptp := { best := some (rank, m.source) } }) ∧
       (∀ r n, s.ptp.best = some (r, n) → n ≠ m.source →
         (rank < r → exec (.ptpMessage m) s = .next { s with ptp := { best := some (rank, m.source) } }) ∧
         (r ≤ rank → exec (.ptpMessage m) s = .next s))) ∧
     (∀ seq t1 delay, live → master → m.body = .sync seq (some t1) → s.ptp.delay = some delay →
       let u : State := { s with ptp := { s.ptp with sync := some (seq, some t1, s.time) } }
       let d : Int := t1.toNat + delay - s.time.toNat
       (0 < d → s.lockedOnce = false ∨ 1000000 < d → s.time.toNat + d.toNat < 2 ^ 64 →
         exec (.ptpMessage m) s = .next { u with
           time := s.time + BitVec.ofNat 64 d.toNat, locked := true, lockedOnce := true, offset := 0, slewRest := 0
           ptp := { u.ptp with sync := none, sent := none } }) ∧
       (d ≤ 0 ∨ (s.lockedOnce = true ∧ d ≤ 1000000) → exec (.ptpMessage m) s =
         .next { u with locked := true, lockedOnce := true, offset := d })) ∧
     (∀ seq, live → master → m.body = .sync seq none → exec (.ptpMessage m) s =
       .next { s with ptp := { s.ptp with sync := some (seq, none, s.time) } }) ∧
     (∀ seq t1 t2 n t3 t4, live → master → s.ptp.sync = some (n, some t1, t2) → s.ptp.sent = some (seq, t3) →
       s.locked = true → m.body = .delayResp seq t4 → exec (.ptpMessage m) s = .next { s with ptp := { s.ptp with
         sent := none, delay := some ((((t2.toNat : Int) - t1.toNat) + ((t4.toNat : Int) - t3.toNat)) / 2) } })) ∧
   (∀ (s : State), exec .ptpLockLoss s = .next { s with locked := false, offset := 0, slewRest := 0, ptp := {} }) ∧
   (∀ (s : State) (p : Nat), (s.links.getD p {}).up = true → s.pmodes.getD p 0 = 2 →
     exec (.ptpDelayRequest p) s =
       .next { s with dreqs := s.dreqs + 1, ptp := { s.ptp with sent := some (BitVec.ofNat 16 s.dreqs, s.time) } }) ∧
   (∀ (s : State) (p : Nat), (s.links.getD p {}).up = false ∨ s.pmodes.getD p 0 ≠ 2 →
     exec (.ptpDelayRequest p) s = .next s) ∧
   (∀ (s : State) (p : Pace), s.time ≤ (s.advance p).time ∧ (s.advance p).clk = s.clk + p.arith ∧
     (s.offset = 0 → s.time.toNat + p.ns < 2 ^ 64 → (s.advance p).time = s.time + BitVec.ofNat 64 p.ns))) ∧
  ((∀ (s : State) (peer : BitVec 10) (a : PeerAccess), s.portUp 1 = false → exec (.peerAccess peer a) s = .next s) ∧
   (∀ (s : State) (peer : BitVec 10) (off : BitVec 39) (n : Nat), s.portUp 1 = true →
     exec (.peerAccess peer (.load off n)) s =
       .next { s with outbox := s.outbox ++ [(peer, 0, s.homeNat off.toNat n)] }) ∧
   (∀ (s : State) (peer : BitVec 10) (off : BitVec 39) (data : List Byte), s.portUp 1 = true →
     off.toNat + data.length ≤ 2 ^ 39 →
     (∀ i, i < data.length → s.served (off.toNat + i) = off.toNat + i) →
     ∃ t, exec (.peerAccess peer (.store off data)) s = .next t ∧
       (∀ i, i < data.length → t.home (off.toNat + i) = data.getD i 0) ∧
       (∀ a, (∀ i, i < data.length → s.served a ≠ off.toNat + i) → t.home a = s.home a)) ∧
   (∀ (s : State) (peer : BitVec 10) (off : BitVec 39) (opn : BitVec 4) (wide : Bool) (v c : Word), s.portUp 1 = true →
     let o : RedOp := { lane := 0, pa := off.toNat, ty := if wide then 8 else 4, opn := opn.toNat, v, c }
     exec (.peerAccess peer (.atomic off opn wide v c)) s =
       .next ((s.atomicHome o).2.send peer 0 (s.atomicHome o).1)) ∧
   (∀ (s : State) (die port : Nat) (p : Packet),
     let n := 2 * die + port
     let live := decide (die < 4 ∧ port < 2) && (s.links.getD n {}).up && s.pmodes.getD n 0 == 2
     let ks := ((s.die die).ingest.filter fun x => admits x.2.desc port p).map Prod.fst
     (live = false → exec (.ingestPacket die port p) s = .next s) ∧
     (live = true → p.good = false ∨ ks = [] → exec (.ingestPacket die port p) s =
       .next (s.onDie die fun x => { x with igDrop := min (2 ^ 64 - 1) (x.igDrop + 1) })) ∧
     (live = true → p.good = true → ks ≠ [] →
       exec (.ingestPacket die port p) s = .next (s.each ks fun u k => u.streamPacket die k p)) ∧
     (∀ k x, live = true → p.good = true → ks = [k] → s.stream die k = some x → x.seek = true →
       exec (.ingestPacket die port p) s = .next ((s.dropPacket die).onStreamOf die k fun y => { y with seek := !p.marker, resumed := p.marker })) ∧
     (∀ k x, live = true → p.good = true → ks = [k] → s.stream die k = some x → x.seek = false →
       (dKind x.desc = 0 → p.field = true → exec (.ingestPacket die port p) s = .next (s.dropPacket die)) ∧
       (dKind x.desc = 0 → p.field = false → x.began = true → exec (.ingestPacket die port p) s =
         .next ((s.onStreamOf die k fun y => { y with began := true }).mediaPacket die k x p)) ∧
       (dKind x.desc = 2 → x.began = true → exec (.ingestPacket die port p) s =
         .next ((s.onStreamOf die k fun y => { y with began := true }).mediaPacket die k x p)) ∧
       (dKind x.desc = 1 → exec (.ingestPacket die port p) s =
         .next ((s.onStreamOf die k fun y => { y with began := true }).audioPacket die k x p)))) ∧
   (∀ (s : State) (die k : Nat) (x : Stream) (f : Frame), s.stream die k = some x → x.frame = some f →
     ((s.time.toNat : Int) ≤ f.deadline → exec (.frameDeadline die k) s = .next s) ∧
     (f.deadline < s.time.toNat → exec (.frameDeadline die k) s = .next ((s.closeFrame die k 2).onStreamOf die k fun y =>
       { y with seek := true, base := y.base.map fun b => (b + dHeight y.desc) % 65536 }))) ∧
   (∀ (d : BitVec 512) (ts : BitVec 32) (first : Word),
     let r := rtpRate d
     let top : Int := ((first.toNat * r / 1000000000 : Nat) : Int)
     ∃ n : Int, n % 2 ^ 32 = ts.toNat ∧ n ≤ top ∧ top < n + 2 ^ 32 ∧
       frameDeadline d ts first = n * 1000000000 / r + dfield d 416 32))

/-! ### Power, heat and errors -/

/-- Machine errors, heat and power: a machine error fails each job that has not completed, with its error record of class and die
and its record of KIND 3, then tells the host (its record of kind 3), stops the device, signals vector 3 and flushes the counts
(R446, R357, R426); a die's floor rises at 95 and 105 degrees and falls by one state
after 10 ms below (R355); above 115 degrees is a machine error; loss of power keeps the persistent store alone, an orderly
shutdown flushes first (R357); droops and soft errors count, or leave poison (R445); a core is power-gated when it holds
nothing (R435).
A reset runs the boot steps in order, one log entry each, up to the first that fails; after step 8 the device is ready (R350,
R351, R447). Without power only a power-on acts; a device that a machine error has stopped performs no wave, engine or scheduler
pick (R446).
What outlives a reset, and when a core may be gated, are the model's (log entries 8, 48, 49). -/
def Obligations.PowerAndReset : Prop :=
  ((∀ (s : State) (cls : MachineErrorClass) (die : Nat), die < 4 → s.stopped = none →
     let n := errorClass cls
     let fail (u : State) (j : Nat) : State :=
       let x := u.job j
       let v := u.errorRecord x.asid x.card.addr x.card.eq
         { code := 0x021F, source := 4, core := 0, pc := 0, task := 0, info0 := n, info1 := die }
       (v.endJob j .failed 0x021F).jobRecord x.asid x.card.addr x.card.sq 3 0x021F 0x021F
     let u := ((s.jobs.filter fun p => p.2.phase.unfinished).map Prod.fst).foldl fail s
     ∃ t, exec (.machineError cls die) s = .next t ∧
       (∃ detail < 2 ^ 64, t = ({ u.hostRecord (3 + n * 2 ^ 8 + die * 2 ^ 16 + detail * 2 ^ 64 + u.time.toNat * 2 ^ 128) with
         stopped := some (n, die), bootReady := false }.signal 3).flushCounts) ∧
       t.stopped = some (n, die) ∧ t.bootReady = false ∧ t.counts = [] ∧ t.vectors.getLast? = some 3) ∧
   (∀ (s : State) (j : Nat) (phase : Phase) (code : Nat), (s.jobs.find j).isSome = true →
     ((s.endJob j phase code).job j).phase = phase ∧ ((s.endJob j phase code).job j).code = code) ∧
   (∀ (s : State) (asid : BitVec 14) (card queue : Word) (kind info code : Nat), 3 ≤ kind →
     let bits := card.toNat + kind * 2 ^ 64 + asid.toNat * 2 ^ 72 + s.time.toNat * 2 ^ 128 + info * 2 ^ 192
     let t := s.postRecord asid queue 5 bits
     s.jobRecord asid card queue kind info code = t.hostRecord (2 + kind * 2 ^ 8 + asid.toNat * 2 ^ 16 + code * 2 ^ 32 +
       card.toNat * 2 ^ 64 + t.time.toNat * 2 ^ 128 + info * 2 ^ 192)) ∧
   (∀ (s : State) (cls : MachineErrorClass) (die : Nat) (x : Nat × Nat), s.stopped = some x →
     exec (.machineError cls die) s = .next s) ∧
   (∀ (s : State) (die : Nat) (temp : BitVec 16), die < 4 → temp.toInt ≤ 1840 →
     ∃ t, exec (.thermalFloorRise die temp) s = .next t ∧ t = { s with dies := t.dies } ∧ (t.die die).temp = temp ∧
       (t.die die).floor = max (s.die die).floor (if 1680 ≤ temp.toInt then 2 else if 1520 ≤ temp.toInt then 1 else 0)) ∧
   (∀ (s : State) (die : Nat) (temp : BitVec 16), die < 4 → 1840 < temp.toInt → s.stopped = none →
     ∃ t, exec (.thermalFloorRise die temp) s = .next t ∧ t.stopped = some (1, die)) ∧
   (∀ (s : State) (die t : Nat), (s.die die).cool = some t →
     (s.poweredOn < t + 10000000 → exec (.thermalFloorFall die) s = .next s) ∧
     (t + 10000000 ≤ s.poweredOn → ∃ u, exec (.thermalFloorFall die) s = .next u ∧ u = { s with dies := u.dies } ∧
       (u.die die).floor = (s.die die).floor - 1)) ∧
   (∀ (s : State),
     (s.flushed + 60000000000 ≤ s.poweredOn → exec .counterFlush s = .next s.flushCounts) ∧
     (s.poweredOn < s.flushed + 60000000000 → exec .counterFlush s = .next s) ∧
     (∃ t, exec .powerLoss s = .next t ∧ t.power = false ∧ t.stored = s.stored ∧ t.mem = [] ∧ t.jobs = [] ∧ t.waves = [] ∧
       t.bootLog = s.bootLog ∧ t.bootNo = s.bootNo) ∧
     (∃ t, exec .orderlyShutdown s = .next t ∧ t.power = false ∧ t.stored = s.flushCounts.stored ∧ t.counts = [])) ∧
   (∀ (s : State) (i : Nat),
     s.flushCounts.lifetime i = s.lifetime i ∧ s.lifetime 66 = min (2 ^ 64 - 1) s.bootNo) ∧
   (∀ (s : State) (die sev : Nat), die < 4 → sev < 4 → exec (.voltageDroop die sev) s = .next (s.count (16 + 4 * die + sev) 1)) ∧
   (∀ (s : State) (w l r : Nat),
     exec (.softError (.register w l r) true) s = .next (s.count (32 + dieOfCore (s.coreOf (s.wave w)) % 4) 1) ∧
     ((l, r) ∉ (s.wave w).rpoison → exec (.softError (.register w l r) false) s =
       .next (s.onWave w fun x => if x.rpoison.contains (l, r) then x else { x with rpoison := x.rpoison ++ [(l, r)] }))) ∧
   (∀ (s : State) (b k : Nat), k ∉ (s.block b).poison → (s.blocks.find b).isSome = true →
     ∃ t, exec (.softError (.scratch b k) false) s = .next t ∧ (t.block b).poison = (s.block b).poison ++ [k] ∧
       (t.block b).scratch = (s.block b).scratch) ∧
   (∀ (s : State) (pa : BitVec 52) (d : Nat), regionOf pa.toNat = some .hbm → homeDie pa.toNat = some d →
     exec (.softError (.hbm pa) true) s = .next (s.count (44 + d % 4) 1) ∧
     exec (.softError (.hbm pa) false) s = .next { s with poison := s.poison.insert (pa.toNat / 32) 3 }) ∧
   (∀ (s : State) (d : Nat), d < 4 →
     exec (.softError (.control d) false) s = .next (s.machineError 0 d) ∧
     exec (.softError (.cache d) true) s = .next (s.count (32 + d % 4) 1) ∧
     exec (.softError (.l2Clean d) true) s = .next (s.count (36 + d % 4) 1)) ∧
   (∀ (s : State) (c : Nat), c < 160 →
     exec (.corePowerGating c false) s = .next (s.onCore c fun k => { k with gated := false }) ∧
     (s.coreBusy c = true → exec (.corePowerGating c true) s = .next s) ∧
     (s.coreBusy c = false → ∃ t, exec (.corePowerGating c true) s = .next t ∧ (t.core c).gated = true ∧
       (t.core c).l1 = [] ∧ (t.core c).tlb = [] ∧ SameMemory s t))) ∧
  ((∀ (s : State) (b : BootInputs), b.power = false → s.power = false → exec (.reset b) s = .next s) ∧
   (∀ (s : State) (b : BootInputs), b.power = true ∨ s.power = true → (∀ e ∈ s.bootLog, slice e.2.toNat 16 8 ≠ 1) →
     (∀ k, 1 ≤ k → k ≤ 8 → stepPasses b false k = true) →
     ∃ t, exec (.reset b) s = .next t ∧ t.bootReady = true ∧ t.bootDegr = false ∧ t.bootStep = 8 ∧ t.bootNo = s.bootNo + 1 ∧
       t.logHead = s.logHead + 8 ∧ t.waves = [] ∧ t.jobs = [] ∧ t.devid = b.devid ∧
       t.astbase = b.astbase &&& 0x000FFFFFFFFC0000 ∧ t.hrq = b.hrq ∧ t.bar0 = true ∧
       t.firmware = some (sha384 b.imageA)) ∧
   (∀ (s : State) (b : BootInputs), b.power = true ∨ s.power = true → (∀ e ∈ s.bootLog, slice e.2.toNat 16 8 ≠ 1) →
     stepPasses b false 1 = true → stepPasses b false 2 = true → stepPasses b false 3 = false →
     ∃ t, exec (.reset b) s = .next t ∧ t.bootReady = false ∧ t.bootStep = 3 ∧ t.logHead = s.logHead + 3 ∧ t.vectors = [3]) ∧
   (∀ (s : State) (i : Instr), isEvent i = true → s.power = false → (∀ b, i = .reset b → b.power = false) →
     s.pick (.event i) = .next s) ∧
   (∀ (s : State) (x : Nat × Nat) (a b : Nat), s.stopped = some x →
     s.pick (.issue a b) = .next s ∧ s.pick (.copy a b) = .next s ∧ s.pick (.stream a b) = .next s) ∧
   (∀ (s : State) (x : Nat × Nat) (i : Instr), s.stopped = some x → isEvent i = true → hostEvent i = false →
     s.pick (.event i) = .next s))

/-! ### What every step keeps -/

/-- R335, R24, R25: a step keeps two invariants.
In a device with power, host records wait only while the host record queue is usable and full (`State.HostInv`); and every wave is
part of a cluster of a job, both of which stand in their tables (`State.Anchored`), as the binding words need, which look their
wave's job up. -/
def Obligations.HostInvariant : Prop :=
  ∀ (s s' : State), step s = .next s' → (s.HostInv → s'.HostInv) ∧ (s.Anchored → s'.Anchored)

/-- The machine after reset meets the invariants: no host record waits, memory lists nothing, which is canonical form, and no
wave, job or translation is held.
That state without a stated reset value is empty or 0, and that an unlisted byte reads 0, are the model's choices (log
entries 5, 6). -/
def Obligations.ResetInvariant : Prop :=
  State.reset.HostInv ∧ State.reset.Anchored ∧ State.reset.mem = [] ∧ Memory.wf State.reset.mem = true ∧ State.reset.hostHeld = [] ∧
  State.reset.waves = [] ∧ State.reset.jobs = [] ∧ State.reset.clusters = [] ∧ State.reset.blocks = [] ∧
  (∀ a, State.reset.home a = 0) ∧ (∀ k, (State.reset.core k).tlb = [] ∧ (State.reset.core k).poolMin = [256, 256, 256, 256] ∧
    (State.reset.core k).poolCap = [4096, 4096, 4096, 4096]) ∧
  (∀ d, (State.reset.die d).misses = [] ∧ (State.reset.die d).faultDepth = 8) ∧ State.reset.time = 0 ∧
  State.reset.bootReady = false
end

