-- ==== Sys2Proof/Laws/State.lean ====
section
/-! SUPPORT. What each update of the state does to each field: one lemma per field and update, so that no proof unfolds a
record update. -/
namespace Sys2Proof.Machine

@[simp] theorem State.onWave_agenda (s : State) (w : Nat) (f : Wave → Wave) : (s.onWave w f).agenda = s.agenda := rfl
@[simp] theorem State.onWave_cxlClean (s : State) (w : Nat) (f : Wave → Wave) : (s.onWave w f).cxlClean = s.cxlClean := rfl
@[simp] theorem State.onWave_unseen (s : State) (w : Nat) (f : Wave → Wave) : (s.onWave w f).unseen = s.unseen := rfl
@[simp] theorem State.onWave_paths (s : State) (w : Nat) (f : Wave → Wave) : (s.onWave w f).paths = s.paths := rfl
@[simp] theorem State.onWave_bar0 (s : State) (w : Nat) (f : Wave → Wave) : (s.onWave w f).bar0 = s.bar0 := rfl
@[simp] theorem State.onWave_cxlOff (s : State) (w : Nat) (f : Wave → Wave) : (s.onWave w f).cxlOff = s.cxlOff := rfl
@[simp] theorem State.onWave_lockedOnce (s : State) (w : Nat) (f : Wave → Wave) : (s.onWave w f).lockedOnce = s.lockedOnce := rfl
@[simp] theorem State.onWave_ptp (s : State) (w : Nat) (f : Wave → Wave) : (s.onWave w f).ptp = s.ptp := rfl
@[simp] theorem State.onWave_clkRest (s : State) (w : Nat) (f : Wave → Wave) : (s.onWave w f).clkRest = s.clkRest := rfl
@[simp] theorem State.onWave_fabRest (s : State) (w : Nat) (f : Wave → Wave) : (s.onWave w f).fabRest = s.fabRest := rfl
@[simp] theorem State.onWave_nsRest (s : State) (w : Nat) (f : Wave → Wave) : (s.onWave w f).nsRest = s.nsRest := rfl
@[simp] theorem State.onWave_pace (s : State) (w : Nat) (f : Wave → Wave) : (s.onWave w f).pace = s.pace := rfl
@[simp] theorem State.onWave_freeCtr (s : State) (w : Nat) (f : Wave → Wave) : (s.onWave w f).freeCtr = s.freeCtr := rfl
@[simp] theorem State.onWave_cur (s : State) (w : Nat) (f : Wave → Wave) : (s.onWave w f).cur = s.cur := rfl
@[simp] theorem State.onWave_command (s : State) (w : Nat) (f : Wave → Wave) : (s.onWave w f).command = s.command := rfl
@[simp] theorem State.onWave_nextId (s : State) (w : Nat) (f : Wave → Wave) : (s.onWave w f).nextId = s.nextId := rfl
@[simp] theorem State.onWave_waves (s : State) (w : Nat) (f : Wave → Wave) : (s.onWave w f).waves = s.waves.modify w f := rfl
@[simp] theorem State.onWave_blocks (s : State) (w : Nat) (f : Wave → Wave) : (s.onWave w f).blocks = s.blocks := rfl
@[simp] theorem State.onWave_clusters (s : State) (w : Nat) (f : Wave → Wave) : (s.onWave w f).clusters = s.clusters := rfl
@[simp] theorem State.onWave_jobs (s : State) (w : Nat) (f : Wave → Wave) : (s.onWave w f).jobs = s.jobs := rfl
@[simp] theorem State.onWave_cores (s : State) (w : Nat) (f : Wave → Wave) : (s.onWave w f).cores = s.cores := rfl
@[simp] theorem State.onWave_dies (s : State) (w : Nat) (f : Wave → Wave) : (s.onWave w f).dies = s.dies := rfl
@[simp] theorem State.onWave_engines (s : State) (w : Nat) (f : Wave → Wave) : (s.onWave w f).engines = s.engines := rfl
@[simp] theorem State.onWave_mem (s : State) (w : Nat) (f : Wave → Wave) : (s.onWave w f).mem = s.mem := rfl
@[simp] theorem State.onWave_cxlDirty (s : State) (w : Nat) (f : Wave → Wave) : (s.onWave w f).cxlDirty = s.cxlDirty := rfl
@[simp] theorem State.onWave_poison (s : State) (w : Nat) (f : Wave → Wave) : (s.onWave w f).poison = s.poison := rfl
@[simp] theorem State.onWave_taken (s : State) (w : Nat) (f : Wave → Wave) : (s.onWave w f).taken = s.taken := rfl
@[simp] theorem State.onWave_skipped (s : State) (w : Nat) (f : Wave → Wave) : (s.onWave w f).skipped = s.skipped := rfl
@[simp] theorem State.onWave_skipMiss (s : State) (w : Nat) (f : Wave → Wave) : (s.onWave w f).skipMiss = s.skipMiss := rfl
@[simp] theorem State.onWave_round (s : State) (w : Nat) (f : Wave → Wave) : (s.onWave w f).round = s.round := rfl
@[simp] theorem State.onWave_held (s : State) (w : Nat) (f : Wave → Wave) : (s.onWave w f).held = s.held := rfl
@[simp] theorem State.onWave_steals (s : State) (w : Nat) (f : Wave → Wave) : (s.onWave w f).steals = s.steals := rfl
@[simp] theorem State.onWave_groups (s : State) (w : Nat) (f : Wave → Wave) : (s.onWave w f).groups = s.groups := rfl
@[simp] theorem State.onWave_devid (s : State) (w : Nat) (f : Wave → Wave) : (s.onWave w f).devid = s.devid := rfl
@[simp] theorem State.onWave_bootReady (s : State) (w : Nat) (f : Wave → Wave) : (s.onWave w f).bootReady = s.bootReady := rfl
@[simp] theorem State.onWave_bootDegr (s : State) (w : Nat) (f : Wave → Wave) : (s.onWave w f).bootDegr = s.bootDegr := rfl
@[simp] theorem State.onWave_bootStep (s : State) (w : Nat) (f : Wave → Wave) : (s.onWave w f).bootStep = s.bootStep := rfl
@[simp] theorem State.onWave_logHead (s : State) (w : Nat) (f : Wave → Wave) : (s.onWave w f).logHead = s.logHead := rfl
@[simp] theorem State.onWave_bootLog (s : State) (w : Nat) (f : Wave → Wave) : (s.onWave w f).bootLog = s.bootLog := rfl
@[simp] theorem State.onWave_bootNo (s : State) (w : Nat) (f : Wave → Wave) : (s.onWave w f).bootNo = s.bootNo := rfl
@[simp] theorem State.onWave_lateWrites (s : State) (w : Nat) (f : Wave → Wave) : (s.onWave w f).lateWrites = s.lateWrites := rfl
@[simp] theorem State.onWave_savedCfg (s : State) (w : Nat) (f : Wave → Wave) : (s.onWave w f).savedCfg = s.savedCfg := rfl
@[simp] theorem State.onWave_firmware (s : State) (w : Nat) (f : Wave → Wave) : (s.onWave w f).firmware = s.firmware := rfl
@[simp] theorem State.onWave_pstate (s : State) (w : Nat) (f : Wave → Wave) : (s.onWave w f).pstate = s.pstate := rfl
@[simp] theorem State.onWave_astbase (s : State) (w : Nat) (f : Wave → Wave) : (s.onWave w f).astbase = s.astbase := rfl
@[simp] theorem State.onWave_jqtab (s : State) (w : Nat) (f : Wave → Wave) : (s.onWave w f).jqtab = s.jqtab := rfl
@[simp] theorem State.onWave_hrq (s : State) (w : Nat) (f : Wave → Wave) : (s.onWave w f).hrq = s.hrq := rfl
@[simp] theorem State.onWave_pmodes (s : State) (w : Nat) (f : Wave → Wave) : (s.onWave w f).pmodes = s.pmodes := rfl
@[simp] theorem State.onWave_mbtx (s : State) (w : Nat) (f : Wave → Wave) : (s.onWave w f).mbtx = s.mbtx := rfl
@[simp] theorem State.onWave_mbrx (s : State) (w : Nat) (f : Wave → Wave) : (s.onWave w f).mbrx = s.mbrx := rfl
@[simp] theorem State.onWave_mailIn (s : State) (w : Nat) (f : Wave → Wave) : (s.onWave w f).mailIn = s.mailIn := rfl
@[simp] theorem State.onWave_mailOut (s : State) (w : Nat) (f : Wave → Wave) : (s.onWave w f).mailOut = s.mailOut := rfl
@[simp] theorem State.onWave_stored (s : State) (w : Nat) (f : Wave → Wave) : (s.onWave w f).stored = s.stored := rfl
@[simp] theorem State.onWave_counts (s : State) (w : Nat) (f : Wave → Wave) : (s.onWave w f).counts = s.counts := rfl
@[simp] theorem State.onWave_op (s : State) (w : Nat) (f : Wave → Wave) : (s.onWave w f).op = s.op := rfl
@[simp] theorem State.onWave_busy (s : State) (w : Nat) (f : Wave → Wave) : (s.onWave w f).busy = s.busy := rfl
@[simp] theorem State.onWave_arg0 (s : State) (w : Nat) (f : Wave → Wave) : (s.onWave w f).arg0 = s.arg0 := rfl
@[simp] theorem State.onWave_arg1 (s : State) (w : Nat) (f : Wave → Wave) : (s.onWave w f).arg1 = s.arg1 := rfl
@[simp] theorem State.onWave_result (s : State) (w : Nat) (f : Wave → Wave) : (s.onWave w f).result = s.result := rfl
@[simp] theorem State.onWave_hostWait (s : State) (w : Nat) (f : Wave → Wave) : (s.onWave w f).hostWait = s.hostWait := rfl
@[simp] theorem State.onWave_slots (s : State) (w : Nat) (f : Wave → Wave) : (s.onWave w f).slots = s.slots := rfl
@[simp] theorem State.onWave_vectors (s : State) (w : Nat) (f : Wave → Wave) : (s.onWave w f).vectors = s.vectors := rfl
@[simp] theorem State.onWave_hostHeld (s : State) (w : Nat) (f : Wave → Wave) : (s.onWave w f).hostHeld = s.hostHeld := rfl
@[simp] theorem State.onWave_halts (s : State) (w : Nat) (f : Wave → Wave) : (s.onWave w f).halts = s.halts := rfl
@[simp] theorem State.onWave_links (s : State) (w : Nat) (f : Wave → Wave) : (s.onWave w f).links = s.links := rfl
@[simp] theorem State.onWave_edges (s : State) (w : Nat) (f : Wave → Wave) : (s.onWave w f).edges = s.edges := rfl
@[simp] theorem State.onWave_routes (s : State) (w : Nat) (f : Wave → Wave) : (s.onWave w f).routes = s.routes := rfl
@[simp] theorem State.onWave_outbox (s : State) (w : Nat) (f : Wave → Wave) : (s.onWave w f).outbox = s.outbox := rfl
@[simp] theorem State.onWave_clk (s : State) (w : Nat) (f : Wave → Wave) : (s.onWave w f).clk = s.clk := rfl
@[simp] theorem State.onWave_fabric (s : State) (w : Nat) (f : Wave → Wave) : (s.onWave w f).fabric = s.fabric := rfl
@[simp] theorem State.onWave_time (s : State) (w : Nat) (f : Wave → Wave) : (s.onWave w f).time = s.time := rfl
@[simp] theorem State.onWave_flushed (s : State) (w : Nat) (f : Wave → Wave) : (s.onWave w f).flushed = s.flushed := rfl
@[simp] theorem State.onWave_poweredOn (s : State) (w : Nat) (f : Wave → Wave) : (s.onWave w f).poweredOn = s.poweredOn := rfl
@[simp] theorem State.onWave_locked (s : State) (w : Nat) (f : Wave → Wave) : (s.onWave w f).locked = s.locked := rfl
@[simp] theorem State.onWave_offset (s : State) (w : Nat) (f : Wave → Wave) : (s.onWave w f).offset = s.offset := rfl
@[simp] theorem State.onWave_slewRest (s : State) (w : Nat) (f : Wave → Wave) : (s.onWave w f).slewRest = s.slewRest := rfl
@[simp] theorem State.onWave_domain (s : State) (w : Nat) (f : Wave → Wave) : (s.onWave w f).domain = s.domain := rfl
@[simp] theorem State.onWave_dreqs (s : State) (w : Nat) (f : Wave → Wave) : (s.onWave w f).dreqs = s.dreqs := rfl
@[simp] theorem State.onWave_stopped (s : State) (w : Nat) (f : Wave → Wave) : (s.onWave w f).stopped = s.stopped := rfl
@[simp] theorem State.onWave_power (s : State) (w : Nat) (f : Wave → Wave) : (s.onWave w f).power = s.power := rfl

@[simp] theorem State.setWave_agenda (s : State) (w : Nat) (x : Wave) : (s.setWave w x).agenda = s.agenda := rfl
@[simp] theorem State.setWave_cxlClean (s : State) (w : Nat) (x : Wave) : (s.setWave w x).cxlClean = s.cxlClean := rfl
@[simp] theorem State.setWave_unseen (s : State) (w : Nat) (x : Wave) : (s.setWave w x).unseen = s.unseen := rfl
@[simp] theorem State.setWave_paths (s : State) (w : Nat) (x : Wave) : (s.setWave w x).paths = s.paths := rfl
@[simp] theorem State.setWave_bar0 (s : State) (w : Nat) (x : Wave) : (s.setWave w x).bar0 = s.bar0 := rfl
@[simp] theorem State.setWave_cxlOff (s : State) (w : Nat) (x : Wave) : (s.setWave w x).cxlOff = s.cxlOff := rfl
@[simp] theorem State.setWave_lockedOnce (s : State) (w : Nat) (x : Wave) : (s.setWave w x).lockedOnce = s.lockedOnce := rfl
@[simp] theorem State.setWave_ptp (s : State) (w : Nat) (x : Wave) : (s.setWave w x).ptp = s.ptp := rfl
@[simp] theorem State.setWave_clkRest (s : State) (w : Nat) (x : Wave) : (s.setWave w x).clkRest = s.clkRest := rfl
@[simp] theorem State.setWave_fabRest (s : State) (w : Nat) (x : Wave) : (s.setWave w x).fabRest = s.fabRest := rfl
@[simp] theorem State.setWave_nsRest (s : State) (w : Nat) (x : Wave) : (s.setWave w x).nsRest = s.nsRest := rfl
@[simp] theorem State.setWave_pace (s : State) (w : Nat) (x : Wave) : (s.setWave w x).pace = s.pace := rfl
@[simp] theorem State.setWave_freeCtr (s : State) (w : Nat) (x : Wave) : (s.setWave w x).freeCtr = s.freeCtr := rfl
@[simp] theorem State.setWave_cur (s : State) (w : Nat) (x : Wave) : (s.setWave w x).cur = s.cur := rfl
@[simp] theorem State.setWave_command (s : State) (w : Nat) (x : Wave) : (s.setWave w x).command = s.command := rfl
@[simp] theorem State.setWave_nextId (s : State) (w : Nat) (x : Wave) : (s.setWave w x).nextId = s.nextId := rfl
@[simp] theorem State.setWave_waves (s : State) (w : Nat) (x : Wave) : (s.setWave w x).waves = s.waves.insert w x := rfl
@[simp] theorem State.setWave_blocks (s : State) (w : Nat) (x : Wave) : (s.setWave w x).blocks = s.blocks := rfl
@[simp] theorem State.setWave_clusters (s : State) (w : Nat) (x : Wave) : (s.setWave w x).clusters = s.clusters := rfl
@[simp] theorem State.setWave_jobs (s : State) (w : Nat) (x : Wave) : (s.setWave w x).jobs = s.jobs := rfl
@[simp] theorem State.setWave_cores (s : State) (w : Nat) (x : Wave) : (s.setWave w x).cores = s.cores := rfl
@[simp] theorem State.setWave_dies (s : State) (w : Nat) (x : Wave) : (s.setWave w x).dies = s.dies := rfl
@[simp] theorem State.setWave_engines (s : State) (w : Nat) (x : Wave) : (s.setWave w x).engines = s.engines := rfl
@[simp] theorem State.setWave_mem (s : State) (w : Nat) (x : Wave) : (s.setWave w x).mem = s.mem := rfl
@[simp] theorem State.setWave_cxlDirty (s : State) (w : Nat) (x : Wave) : (s.setWave w x).cxlDirty = s.cxlDirty := rfl
@[simp] theorem State.setWave_poison (s : State) (w : Nat) (x : Wave) : (s.setWave w x).poison = s.poison := rfl
@[simp] theorem State.setWave_taken (s : State) (w : Nat) (x : Wave) : (s.setWave w x).taken = s.taken := rfl
@[simp] theorem State.setWave_skipped (s : State) (w : Nat) (x : Wave) : (s.setWave w x).skipped = s.skipped := rfl
@[simp] theorem State.setWave_skipMiss (s : State) (w : Nat) (x : Wave) : (s.setWave w x).skipMiss = s.skipMiss := rfl
@[simp] theorem State.setWave_round (s : State) (w : Nat) (x : Wave) : (s.setWave w x).round = s.round := rfl
@[simp] theorem State.setWave_held (s : State) (w : Nat) (x : Wave) : (s.setWave w x).held = s.held := rfl
@[simp] theorem State.setWave_steals (s : State) (w : Nat) (x : Wave) : (s.setWave w x).steals = s.steals := rfl
@[simp] theorem State.setWave_groups (s : State) (w : Nat) (x : Wave) : (s.setWave w x).groups = s.groups := rfl
@[simp] theorem State.setWave_devid (s : State) (w : Nat) (x : Wave) : (s.setWave w x).devid = s.devid := rfl
@[simp] theorem State.setWave_bootReady (s : State) (w : Nat) (x : Wave) : (s.setWave w x).bootReady = s.bootReady := rfl
@[simp] theorem State.setWave_bootDegr (s : State) (w : Nat) (x : Wave) : (s.setWave w x).bootDegr = s.bootDegr := rfl
@[simp] theorem State.setWave_bootStep (s : State) (w : Nat) (x : Wave) : (s.setWave w x).bootStep = s.bootStep := rfl
@[simp] theorem State.setWave_logHead (s : State) (w : Nat) (x : Wave) : (s.setWave w x).logHead = s.logHead := rfl
@[simp] theorem State.setWave_bootLog (s : State) (w : Nat) (x : Wave) : (s.setWave w x).bootLog = s.bootLog := rfl
@[simp] theorem State.setWave_bootNo (s : State) (w : Nat) (x : Wave) : (s.setWave w x).bootNo = s.bootNo := rfl
@[simp] theorem State.setWave_lateWrites (s : State) (w : Nat) (x : Wave) : (s.setWave w x).lateWrites = s.lateWrites := rfl
@[simp] theorem State.setWave_savedCfg (s : State) (w : Nat) (x : Wave) : (s.setWave w x).savedCfg = s.savedCfg := rfl
@[simp] theorem State.setWave_firmware (s : State) (w : Nat) (x : Wave) : (s.setWave w x).firmware = s.firmware := rfl
@[simp] theorem State.setWave_pstate (s : State) (w : Nat) (x : Wave) : (s.setWave w x).pstate = s.pstate := rfl
@[simp] theorem State.setWave_astbase (s : State) (w : Nat) (x : Wave) : (s.setWave w x).astbase = s.astbase := rfl
@[simp] theorem State.setWave_jqtab (s : State) (w : Nat) (x : Wave) : (s.setWave w x).jqtab = s.jqtab := rfl
@[simp] theorem State.setWave_hrq (s : State) (w : Nat) (x : Wave) : (s.setWave w x).hrq = s.hrq := rfl
@[simp] theorem State.setWave_pmodes (s : State) (w : Nat) (x : Wave) : (s.setWave w x).pmodes = s.pmodes := rfl
@[simp] theorem State.setWave_mbtx (s : State) (w : Nat) (x : Wave) : (s.setWave w x).mbtx = s.mbtx := rfl
@[simp] theorem State.setWave_mbrx (s : State) (w : Nat) (x : Wave) : (s.setWave w x).mbrx = s.mbrx := rfl
@[simp] theorem State.setWave_mailIn (s : State) (w : Nat) (x : Wave) : (s.setWave w x).mailIn = s.mailIn := rfl
@[simp] theorem State.setWave_mailOut (s : State) (w : Nat) (x : Wave) : (s.setWave w x).mailOut = s.mailOut := rfl
@[simp] theorem State.setWave_stored (s : State) (w : Nat) (x : Wave) : (s.setWave w x).stored = s.stored := rfl
@[simp] theorem State.setWave_counts (s : State) (w : Nat) (x : Wave) : (s.setWave w x).counts = s.counts := rfl
@[simp] theorem State.setWave_op (s : State) (w : Nat) (x : Wave) : (s.setWave w x).op = s.op := rfl
@[simp] theorem State.setWave_busy (s : State) (w : Nat) (x : Wave) : (s.setWave w x).busy = s.busy := rfl
@[simp] theorem State.setWave_arg0 (s : State) (w : Nat) (x : Wave) : (s.setWave w x).arg0 = s.arg0 := rfl
@[simp] theorem State.setWave_arg1 (s : State) (w : Nat) (x : Wave) : (s.setWave w x).arg1 = s.arg1 := rfl
@[simp] theorem State.setWave_result (s : State) (w : Nat) (x : Wave) : (s.setWave w x).result = s.result := rfl
@[simp] theorem State.setWave_hostWait (s : State) (w : Nat) (x : Wave) : (s.setWave w x).hostWait = s.hostWait := rfl
@[simp] theorem State.setWave_slots (s : State) (w : Nat) (x : Wave) : (s.setWave w x).slots = s.slots := rfl
@[simp] theorem State.setWave_vectors (s : State) (w : Nat) (x : Wave) : (s.setWave w x).vectors = s.vectors := rfl
@[simp] theorem State.setWave_hostHeld (s : State) (w : Nat) (x : Wave) : (s.setWave w x).hostHeld = s.hostHeld := rfl
@[simp] theorem State.setWave_halts (s : State) (w : Nat) (x : Wave) : (s.setWave w x).halts = s.halts := rfl
@[simp] theorem State.setWave_links (s : State) (w : Nat) (x : Wave) : (s.setWave w x).links = s.links := rfl
@[simp] theorem State.setWave_edges (s : State) (w : Nat) (x : Wave) : (s.setWave w x).edges = s.edges := rfl
@[simp] theorem State.setWave_routes (s : State) (w : Nat) (x : Wave) : (s.setWave w x).routes = s.routes := rfl
@[simp] theorem State.setWave_outbox (s : State) (w : Nat) (x : Wave) : (s.setWave w x).outbox = s.outbox := rfl
@[simp] theorem State.setWave_clk (s : State) (w : Nat) (x : Wave) : (s.setWave w x).clk = s.clk := rfl
@[simp] theorem State.setWave_fabric (s : State) (w : Nat) (x : Wave) : (s.setWave w x).fabric = s.fabric := rfl
@[simp] theorem State.setWave_time (s : State) (w : Nat) (x : Wave) : (s.setWave w x).time = s.time := rfl
@[simp] theorem State.setWave_flushed (s : State) (w : Nat) (x : Wave) : (s.setWave w x).flushed = s.flushed := rfl
@[simp] theorem State.setWave_poweredOn (s : State) (w : Nat) (x : Wave) : (s.setWave w x).poweredOn = s.poweredOn := rfl
@[simp] theorem State.setWave_locked (s : State) (w : Nat) (x : Wave) : (s.setWave w x).locked = s.locked := rfl
@[simp] theorem State.setWave_offset (s : State) (w : Nat) (x : Wave) : (s.setWave w x).offset = s.offset := rfl
@[simp] theorem State.setWave_slewRest (s : State) (w : Nat) (x : Wave) : (s.setWave w x).slewRest = s.slewRest := rfl
@[simp] theorem State.setWave_domain (s : State) (w : Nat) (x : Wave) : (s.setWave w x).domain = s.domain := rfl
@[simp] theorem State.setWave_dreqs (s : State) (w : Nat) (x : Wave) : (s.setWave w x).dreqs = s.dreqs := rfl
@[simp] theorem State.setWave_stopped (s : State) (w : Nat) (x : Wave) : (s.setWave w x).stopped = s.stopped := rfl
@[simp] theorem State.setWave_power (s : State) (w : Nat) (x : Wave) : (s.setWave w x).power = s.power := rfl

@[simp] theorem State.onBlock_agenda (s : State) (b : Nat) (f : Block → Block) : (s.onBlock b f).agenda = s.agenda := rfl
@[simp] theorem State.onBlock_cxlClean (s : State) (b : Nat) (f : Block → Block) : (s.onBlock b f).cxlClean = s.cxlClean := rfl
@[simp] theorem State.onBlock_unseen (s : State) (b : Nat) (f : Block → Block) : (s.onBlock b f).unseen = s.unseen := rfl
@[simp] theorem State.onBlock_paths (s : State) (b : Nat) (f : Block → Block) : (s.onBlock b f).paths = s.paths := rfl
@[simp] theorem State.onBlock_bar0 (s : State) (b : Nat) (f : Block → Block) : (s.onBlock b f).bar0 = s.bar0 := rfl
@[simp] theorem State.onBlock_cxlOff (s : State) (b : Nat) (f : Block → Block) : (s.onBlock b f).cxlOff = s.cxlOff := rfl
@[simp] theorem State.onBlock_lockedOnce (s : State) (b : Nat) (f : Block → Block) : (s.onBlock b f).lockedOnce = s.lockedOnce := rfl
@[simp] theorem State.onBlock_ptp (s : State) (b : Nat) (f : Block → Block) : (s.onBlock b f).ptp = s.ptp := rfl
@[simp] theorem State.onBlock_clkRest (s : State) (b : Nat) (f : Block → Block) : (s.onBlock b f).clkRest = s.clkRest := rfl
@[simp] theorem State.onBlock_fabRest (s : State) (b : Nat) (f : Block → Block) : (s.onBlock b f).fabRest = s.fabRest := rfl
@[simp] theorem State.onBlock_nsRest (s : State) (b : Nat) (f : Block → Block) : (s.onBlock b f).nsRest = s.nsRest := rfl
@[simp] theorem State.onBlock_pace (s : State) (b : Nat) (f : Block → Block) : (s.onBlock b f).pace = s.pace := rfl
@[simp] theorem State.onBlock_freeCtr (s : State) (b : Nat) (f : Block → Block) : (s.onBlock b f).freeCtr = s.freeCtr := rfl
@[simp] theorem State.onBlock_cur (s : State) (b : Nat) (f : Block → Block) : (s.onBlock b f).cur = s.cur := rfl
@[simp] theorem State.onBlock_command (s : State) (b : Nat) (f : Block → Block) : (s.onBlock b f).command = s.command := rfl
@[simp] theorem State.onBlock_nextId (s : State) (b : Nat) (f : Block → Block) : (s.onBlock b f).nextId = s.nextId := rfl
@[simp] theorem State.onBlock_waves (s : State) (b : Nat) (f : Block → Block) : (s.onBlock b f).waves = s.waves := rfl
@[simp] theorem State.onBlock_blocks (s : State) (b : Nat) (f : Block → Block) : (s.onBlock b f).blocks = s.blocks.modify b f := rfl
@[simp] theorem State.onBlock_clusters (s : State) (b : Nat) (f : Block → Block) : (s.onBlock b f).clusters = s.clusters := rfl
@[simp] theorem State.onBlock_jobs (s : State) (b : Nat) (f : Block → Block) : (s.onBlock b f).jobs = s.jobs := rfl
@[simp] theorem State.onBlock_cores (s : State) (b : Nat) (f : Block → Block) : (s.onBlock b f).cores = s.cores := rfl
@[simp] theorem State.onBlock_dies (s : State) (b : Nat) (f : Block → Block) : (s.onBlock b f).dies = s.dies := rfl
@[simp] theorem State.onBlock_engines (s : State) (b : Nat) (f : Block → Block) : (s.onBlock b f).engines = s.engines := rfl
@[simp] theorem State.onBlock_mem (s : State) (b : Nat) (f : Block → Block) : (s.onBlock b f).mem = s.mem := rfl
@[simp] theorem State.onBlock_cxlDirty (s : State) (b : Nat) (f : Block → Block) : (s.onBlock b f).cxlDirty = s.cxlDirty := rfl
@[simp] theorem State.onBlock_poison (s : State) (b : Nat) (f : Block → Block) : (s.onBlock b f).poison = s.poison := rfl
@[simp] theorem State.onBlock_taken (s : State) (b : Nat) (f : Block → Block) : (s.onBlock b f).taken = s.taken := rfl
@[simp] theorem State.onBlock_skipped (s : State) (b : Nat) (f : Block → Block) : (s.onBlock b f).skipped = s.skipped := rfl
@[simp] theorem State.onBlock_skipMiss (s : State) (b : Nat) (f : Block → Block) : (s.onBlock b f).skipMiss = s.skipMiss := rfl
@[simp] theorem State.onBlock_round (s : State) (b : Nat) (f : Block → Block) : (s.onBlock b f).round = s.round := rfl
@[simp] theorem State.onBlock_held (s : State) (b : Nat) (f : Block → Block) : (s.onBlock b f).held = s.held := rfl
@[simp] theorem State.onBlock_steals (s : State) (b : Nat) (f : Block → Block) : (s.onBlock b f).steals = s.steals := rfl
@[simp] theorem State.onBlock_groups (s : State) (b : Nat) (f : Block → Block) : (s.onBlock b f).groups = s.groups := rfl
@[simp] theorem State.onBlock_devid (s : State) (b : Nat) (f : Block → Block) : (s.onBlock b f).devid = s.devid := rfl
@[simp] theorem State.onBlock_bootReady (s : State) (b : Nat) (f : Block → Block) : (s.onBlock b f).bootReady = s.bootReady := rfl
@[simp] theorem State.onBlock_bootDegr (s : State) (b : Nat) (f : Block → Block) : (s.onBlock b f).bootDegr = s.bootDegr := rfl
@[simp] theorem State.onBlock_bootStep (s : State) (b : Nat) (f : Block → Block) : (s.onBlock b f).bootStep = s.bootStep := rfl
@[simp] theorem State.onBlock_logHead (s : State) (b : Nat) (f : Block → Block) : (s.onBlock b f).logHead = s.logHead := rfl
@[simp] theorem State.onBlock_bootLog (s : State) (b : Nat) (f : Block → Block) : (s.onBlock b f).bootLog = s.bootLog := rfl
@[simp] theorem State.onBlock_bootNo (s : State) (b : Nat) (f : Block → Block) : (s.onBlock b f).bootNo = s.bootNo := rfl
@[simp] theorem State.onBlock_lateWrites (s : State) (b : Nat) (f : Block → Block) : (s.onBlock b f).lateWrites = s.lateWrites := rfl
@[simp] theorem State.onBlock_savedCfg (s : State) (b : Nat) (f : Block → Block) : (s.onBlock b f).savedCfg = s.savedCfg := rfl
@[simp] theorem State.onBlock_firmware (s : State) (b : Nat) (f : Block → Block) : (s.onBlock b f).firmware = s.firmware := rfl
@[simp] theorem State.onBlock_pstate (s : State) (b : Nat) (f : Block → Block) : (s.onBlock b f).pstate = s.pstate := rfl
@[simp] theorem State.onBlock_astbase (s : State) (b : Nat) (f : Block → Block) : (s.onBlock b f).astbase = s.astbase := rfl
@[simp] theorem State.onBlock_jqtab (s : State) (b : Nat) (f : Block → Block) : (s.onBlock b f).jqtab = s.jqtab := rfl
@[simp] theorem State.onBlock_hrq (s : State) (b : Nat) (f : Block → Block) : (s.onBlock b f).hrq = s.hrq := rfl
@[simp] theorem State.onBlock_pmodes (s : State) (b : Nat) (f : Block → Block) : (s.onBlock b f).pmodes = s.pmodes := rfl
@[simp] theorem State.onBlock_mbtx (s : State) (b : Nat) (f : Block → Block) : (s.onBlock b f).mbtx = s.mbtx := rfl
@[simp] theorem State.onBlock_mbrx (s : State) (b : Nat) (f : Block → Block) : (s.onBlock b f).mbrx = s.mbrx := rfl
@[simp] theorem State.onBlock_mailIn (s : State) (b : Nat) (f : Block → Block) : (s.onBlock b f).mailIn = s.mailIn := rfl
@[simp] theorem State.onBlock_mailOut (s : State) (b : Nat) (f : Block → Block) : (s.onBlock b f).mailOut = s.mailOut := rfl
@[simp] theorem State.onBlock_stored (s : State) (b : Nat) (f : Block → Block) : (s.onBlock b f).stored = s.stored := rfl
@[simp] theorem State.onBlock_counts (s : State) (b : Nat) (f : Block → Block) : (s.onBlock b f).counts = s.counts := rfl
@[simp] theorem State.onBlock_op (s : State) (b : Nat) (f : Block → Block) : (s.onBlock b f).op = s.op := rfl
@[simp] theorem State.onBlock_busy (s : State) (b : Nat) (f : Block → Block) : (s.onBlock b f).busy = s.busy := rfl
@[simp] theorem State.onBlock_arg0 (s : State) (b : Nat) (f : Block → Block) : (s.onBlock b f).arg0 = s.arg0 := rfl
@[simp] theorem State.onBlock_arg1 (s : State) (b : Nat) (f : Block → Block) : (s.onBlock b f).arg1 = s.arg1 := rfl
@[simp] theorem State.onBlock_result (s : State) (b : Nat) (f : Block → Block) : (s.onBlock b f).result = s.result := rfl
@[simp] theorem State.onBlock_hostWait (s : State) (b : Nat) (f : Block → Block) : (s.onBlock b f).hostWait = s.hostWait := rfl
@[simp] theorem State.onBlock_slots (s : State) (b : Nat) (f : Block → Block) : (s.onBlock b f).slots = s.slots := rfl
@[simp] theorem State.onBlock_vectors (s : State) (b : Nat) (f : Block → Block) : (s.onBlock b f).vectors = s.vectors := rfl
@[simp] theorem State.onBlock_hostHeld (s : State) (b : Nat) (f : Block → Block) : (s.onBlock b f).hostHeld = s.hostHeld := rfl
@[simp] theorem State.onBlock_halts (s : State) (b : Nat) (f : Block → Block) : (s.onBlock b f).halts = s.halts := rfl
@[simp] theorem State.onBlock_links (s : State) (b : Nat) (f : Block → Block) : (s.onBlock b f).links = s.links := rfl
@[simp] theorem State.onBlock_edges (s : State) (b : Nat) (f : Block → Block) : (s.onBlock b f).edges = s.edges := rfl
@[simp] theorem State.onBlock_routes (s : State) (b : Nat) (f : Block → Block) : (s.onBlock b f).routes = s.routes := rfl
@[simp] theorem State.onBlock_outbox (s : State) (b : Nat) (f : Block → Block) : (s.onBlock b f).outbox = s.outbox := rfl
@[simp] theorem State.onBlock_clk (s : State) (b : Nat) (f : Block → Block) : (s.onBlock b f).clk = s.clk := rfl
@[simp] theorem State.onBlock_fabric (s : State) (b : Nat) (f : Block → Block) : (s.onBlock b f).fabric = s.fabric := rfl
@[simp] theorem State.onBlock_time (s : State) (b : Nat) (f : Block → Block) : (s.onBlock b f).time = s.time := rfl
@[simp] theorem State.onBlock_flushed (s : State) (b : Nat) (f : Block → Block) : (s.onBlock b f).flushed = s.flushed := rfl
@[simp] theorem State.onBlock_poweredOn (s : State) (b : Nat) (f : Block → Block) : (s.onBlock b f).poweredOn = s.poweredOn := rfl
@[simp] theorem State.onBlock_locked (s : State) (b : Nat) (f : Block → Block) : (s.onBlock b f).locked = s.locked := rfl
@[simp] theorem State.onBlock_offset (s : State) (b : Nat) (f : Block → Block) : (s.onBlock b f).offset = s.offset := rfl
@[simp] theorem State.onBlock_slewRest (s : State) (b : Nat) (f : Block → Block) : (s.onBlock b f).slewRest = s.slewRest := rfl
@[simp] theorem State.onBlock_domain (s : State) (b : Nat) (f : Block → Block) : (s.onBlock b f).domain = s.domain := rfl
@[simp] theorem State.onBlock_dreqs (s : State) (b : Nat) (f : Block → Block) : (s.onBlock b f).dreqs = s.dreqs := rfl
@[simp] theorem State.onBlock_stopped (s : State) (b : Nat) (f : Block → Block) : (s.onBlock b f).stopped = s.stopped := rfl
@[simp] theorem State.onBlock_power (s : State) (b : Nat) (f : Block → Block) : (s.onBlock b f).power = s.power := rfl

@[simp] theorem State.onCluster_agenda (s : State) (c : Nat) (f : Cluster → Cluster) : (s.onCluster c f).agenda = s.agenda := rfl
@[simp] theorem State.onCluster_cxlClean (s : State) (c : Nat) (f : Cluster → Cluster) : (s.onCluster c f).cxlClean = s.cxlClean := rfl
@[simp] theorem State.onCluster_unseen (s : State) (c : Nat) (f : Cluster → Cluster) : (s.onCluster c f).unseen = s.unseen := rfl
@[simp] theorem State.onCluster_paths (s : State) (c : Nat) (f : Cluster → Cluster) : (s.onCluster c f).paths = s.paths := rfl
@[simp] theorem State.onCluster_bar0 (s : State) (c : Nat) (f : Cluster → Cluster) : (s.onCluster c f).bar0 = s.bar0 := rfl
@[simp] theorem State.onCluster_cxlOff (s : State) (c : Nat) (f : Cluster → Cluster) : (s.onCluster c f).cxlOff = s.cxlOff := rfl
@[simp] theorem State.onCluster_lockedOnce (s : State) (c : Nat) (f : Cluster → Cluster) : (s.onCluster c f).lockedOnce = s.lockedOnce := rfl
@[simp] theorem State.onCluster_ptp (s : State) (c : Nat) (f : Cluster → Cluster) : (s.onCluster c f).ptp = s.ptp := rfl
@[simp] theorem State.onCluster_clkRest (s : State) (c : Nat) (f : Cluster → Cluster) : (s.onCluster c f).clkRest = s.clkRest := rfl
@[simp] theorem State.onCluster_fabRest (s : State) (c : Nat) (f : Cluster → Cluster) : (s.onCluster c f).fabRest = s.fabRest := rfl
@[simp] theorem State.onCluster_nsRest (s : State) (c : Nat) (f : Cluster → Cluster) : (s.onCluster c f).nsRest = s.nsRest := rfl
@[simp] theorem State.onCluster_pace (s : State) (c : Nat) (f : Cluster → Cluster) : (s.onCluster c f).pace = s.pace := rfl
@[simp] theorem State.onCluster_freeCtr (s : State) (c : Nat) (f : Cluster → Cluster) : (s.onCluster c f).freeCtr = s.freeCtr := rfl
@[simp] theorem State.onCluster_cur (s : State) (c : Nat) (f : Cluster → Cluster) : (s.onCluster c f).cur = s.cur := rfl
@[simp] theorem State.onCluster_command (s : State) (c : Nat) (f : Cluster → Cluster) : (s.onCluster c f).command = s.command := rfl
@[simp] theorem State.onCluster_nextId (s : State) (c : Nat) (f : Cluster → Cluster) : (s.onCluster c f).nextId = s.nextId := rfl
@[simp] theorem State.onCluster_waves (s : State) (c : Nat) (f : Cluster → Cluster) : (s.onCluster c f).waves = s.waves := rfl
@[simp] theorem State.onCluster_blocks (s : State) (c : Nat) (f : Cluster → Cluster) : (s.onCluster c f).blocks = s.blocks := rfl
@[simp] theorem State.onCluster_clusters (s : State) (c : Nat) (f : Cluster → Cluster) : (s.onCluster c f).clusters = s.clusters.modify c f := rfl
@[simp] theorem State.onCluster_jobs (s : State) (c : Nat) (f : Cluster → Cluster) : (s.onCluster c f).jobs = s.jobs := rfl
@[simp] theorem State.onCluster_cores (s : State) (c : Nat) (f : Cluster → Cluster) : (s.onCluster c f).cores = s.cores := rfl
@[simp] theorem State.onCluster_dies (s : State) (c : Nat) (f : Cluster → Cluster) : (s.onCluster c f).dies = s.dies := rfl
@[simp] theorem State.onCluster_engines (s : State) (c : Nat) (f : Cluster → Cluster) : (s.onCluster c f).engines = s.engines := rfl
@[simp] theorem State.onCluster_mem (s : State) (c : Nat) (f : Cluster → Cluster) : (s.onCluster c f).mem = s.mem := rfl
@[simp] theorem State.onCluster_cxlDirty (s : State) (c : Nat) (f : Cluster → Cluster) : (s.onCluster c f).cxlDirty = s.cxlDirty := rfl
@[simp] theorem State.onCluster_poison (s : State) (c : Nat) (f : Cluster → Cluster) : (s.onCluster c f).poison = s.poison := rfl
@[simp] theorem State.onCluster_taken (s : State) (c : Nat) (f : Cluster → Cluster) : (s.onCluster c f).taken = s.taken := rfl
@[simp] theorem State.onCluster_skipped (s : State) (c : Nat) (f : Cluster → Cluster) : (s.onCluster c f).skipped = s.skipped := rfl
@[simp] theorem State.onCluster_skipMiss (s : State) (c : Nat) (f : Cluster → Cluster) : (s.onCluster c f).skipMiss = s.skipMiss := rfl
@[simp] theorem State.onCluster_round (s : State) (c : Nat) (f : Cluster → Cluster) : (s.onCluster c f).round = s.round := rfl
@[simp] theorem State.onCluster_held (s : State) (c : Nat) (f : Cluster → Cluster) : (s.onCluster c f).held = s.held := rfl
@[simp] theorem State.onCluster_steals (s : State) (c : Nat) (f : Cluster → Cluster) : (s.onCluster c f).steals = s.steals := rfl
@[simp] theorem State.onCluster_groups (s : State) (c : Nat) (f : Cluster → Cluster) : (s.onCluster c f).groups = s.groups := rfl
@[simp] theorem State.onCluster_devid (s : State) (c : Nat) (f : Cluster → Cluster) : (s.onCluster c f).devid = s.devid := rfl
@[simp] theorem State.onCluster_bootReady (s : State) (c : Nat) (f : Cluster → Cluster) : (s.onCluster c f).bootReady = s.bootReady := rfl
@[simp] theorem State.onCluster_bootDegr (s : State) (c : Nat) (f : Cluster → Cluster) : (s.onCluster c f).bootDegr = s.bootDegr := rfl
@[simp] theorem State.onCluster_bootStep (s : State) (c : Nat) (f : Cluster → Cluster) : (s.onCluster c f).bootStep = s.bootStep := rfl
@[simp] theorem State.onCluster_logHead (s : State) (c : Nat) (f : Cluster → Cluster) : (s.onCluster c f).logHead = s.logHead := rfl
@[simp] theorem State.onCluster_bootLog (s : State) (c : Nat) (f : Cluster → Cluster) : (s.onCluster c f).bootLog = s.bootLog := rfl
@[simp] theorem State.onCluster_bootNo (s : State) (c : Nat) (f : Cluster → Cluster) : (s.onCluster c f).bootNo = s.bootNo := rfl
@[simp] theorem State.onCluster_lateWrites (s : State) (c : Nat) (f : Cluster → Cluster) : (s.onCluster c f).lateWrites = s.lateWrites := rfl
@[simp] theorem State.onCluster_savedCfg (s : State) (c : Nat) (f : Cluster → Cluster) : (s.onCluster c f).savedCfg = s.savedCfg := rfl
@[simp] theorem State.onCluster_firmware (s : State) (c : Nat) (f : Cluster → Cluster) : (s.onCluster c f).firmware = s.firmware := rfl
@[simp] theorem State.onCluster_pstate (s : State) (c : Nat) (f : Cluster → Cluster) : (s.onCluster c f).pstate = s.pstate := rfl
@[simp] theorem State.onCluster_astbase (s : State) (c : Nat) (f : Cluster → Cluster) : (s.onCluster c f).astbase = s.astbase := rfl
@[simp] theorem State.onCluster_jqtab (s : State) (c : Nat) (f : Cluster → Cluster) : (s.onCluster c f).jqtab = s.jqtab := rfl
@[simp] theorem State.onCluster_hrq (s : State) (c : Nat) (f : Cluster → Cluster) : (s.onCluster c f).hrq = s.hrq := rfl
@[simp] theorem State.onCluster_pmodes (s : State) (c : Nat) (f : Cluster → Cluster) : (s.onCluster c f).pmodes = s.pmodes := rfl
@[simp] theorem State.onCluster_mbtx (s : State) (c : Nat) (f : Cluster → Cluster) : (s.onCluster c f).mbtx = s.mbtx := rfl
@[simp] theorem State.onCluster_mbrx (s : State) (c : Nat) (f : Cluster → Cluster) : (s.onCluster c f).mbrx = s.mbrx := rfl
@[simp] theorem State.onCluster_mailIn (s : State) (c : Nat) (f : Cluster → Cluster) : (s.onCluster c f).mailIn = s.mailIn := rfl
@[simp] theorem State.onCluster_mailOut (s : State) (c : Nat) (f : Cluster → Cluster) : (s.onCluster c f).mailOut = s.mailOut := rfl
@[simp] theorem State.onCluster_stored (s : State) (c : Nat) (f : Cluster → Cluster) : (s.onCluster c f).stored = s.stored := rfl
@[simp] theorem State.onCluster_counts (s : State) (c : Nat) (f : Cluster → Cluster) : (s.onCluster c f).counts = s.counts := rfl
@[simp] theorem State.onCluster_op (s : State) (c : Nat) (f : Cluster → Cluster) : (s.onCluster c f).op = s.op := rfl
@[simp] theorem State.onCluster_busy (s : State) (c : Nat) (f : Cluster → Cluster) : (s.onCluster c f).busy = s.busy := rfl
@[simp] theorem State.onCluster_arg0 (s : State) (c : Nat) (f : Cluster → Cluster) : (s.onCluster c f).arg0 = s.arg0 := rfl
@[simp] theorem State.onCluster_arg1 (s : State) (c : Nat) (f : Cluster → Cluster) : (s.onCluster c f).arg1 = s.arg1 := rfl
@[simp] theorem State.onCluster_result (s : State) (c : Nat) (f : Cluster → Cluster) : (s.onCluster c f).result = s.result := rfl
@[simp] theorem State.onCluster_hostWait (s : State) (c : Nat) (f : Cluster → Cluster) : (s.onCluster c f).hostWait = s.hostWait := rfl
@[simp] theorem State.onCluster_slots (s : State) (c : Nat) (f : Cluster → Cluster) : (s.onCluster c f).slots = s.slots := rfl
@[simp] theorem State.onCluster_vectors (s : State) (c : Nat) (f : Cluster → Cluster) : (s.onCluster c f).vectors = s.vectors := rfl
@[simp] theorem State.onCluster_hostHeld (s : State) (c : Nat) (f : Cluster → Cluster) : (s.onCluster c f).hostHeld = s.hostHeld := rfl
@[simp] theorem State.onCluster_halts (s : State) (c : Nat) (f : Cluster → Cluster) : (s.onCluster c f).halts = s.halts := rfl
@[simp] theorem State.onCluster_links (s : State) (c : Nat) (f : Cluster → Cluster) : (s.onCluster c f).links = s.links := rfl
@[simp] theorem State.onCluster_edges (s : State) (c : Nat) (f : Cluster → Cluster) : (s.onCluster c f).edges = s.edges := rfl
@[simp] theorem State.onCluster_routes (s : State) (c : Nat) (f : Cluster → Cluster) : (s.onCluster c f).routes = s.routes := rfl
@[simp] theorem State.onCluster_outbox (s : State) (c : Nat) (f : Cluster → Cluster) : (s.onCluster c f).outbox = s.outbox := rfl
@[simp] theorem State.onCluster_clk (s : State) (c : Nat) (f : Cluster → Cluster) : (s.onCluster c f).clk = s.clk := rfl
@[simp] theorem State.onCluster_fabric (s : State) (c : Nat) (f : Cluster → Cluster) : (s.onCluster c f).fabric = s.fabric := rfl
@[simp] theorem State.onCluster_time (s : State) (c : Nat) (f : Cluster → Cluster) : (s.onCluster c f).time = s.time := rfl
@[simp] theorem State.onCluster_flushed (s : State) (c : Nat) (f : Cluster → Cluster) : (s.onCluster c f).flushed = s.flushed := rfl
@[simp] theorem State.onCluster_poweredOn (s : State) (c : Nat) (f : Cluster → Cluster) : (s.onCluster c f).poweredOn = s.poweredOn := rfl
@[simp] theorem State.onCluster_locked (s : State) (c : Nat) (f : Cluster → Cluster) : (s.onCluster c f).locked = s.locked := rfl
@[simp] theorem State.onCluster_offset (s : State) (c : Nat) (f : Cluster → Cluster) : (s.onCluster c f).offset = s.offset := rfl
@[simp] theorem State.onCluster_slewRest (s : State) (c : Nat) (f : Cluster → Cluster) : (s.onCluster c f).slewRest = s.slewRest := rfl
@[simp] theorem State.onCluster_domain (s : State) (c : Nat) (f : Cluster → Cluster) : (s.onCluster c f).domain = s.domain := rfl
@[simp] theorem State.onCluster_dreqs (s : State) (c : Nat) (f : Cluster → Cluster) : (s.onCluster c f).dreqs = s.dreqs := rfl
@[simp] theorem State.onCluster_stopped (s : State) (c : Nat) (f : Cluster → Cluster) : (s.onCluster c f).stopped = s.stopped := rfl
@[simp] theorem State.onCluster_power (s : State) (c : Nat) (f : Cluster → Cluster) : (s.onCluster c f).power = s.power := rfl

@[simp] theorem State.onJob_agenda (s : State) (j : Nat) (f : Job → Job) : (s.onJob j f).agenda = s.agenda := rfl
@[simp] theorem State.onJob_cxlClean (s : State) (j : Nat) (f : Job → Job) : (s.onJob j f).cxlClean = s.cxlClean := rfl
@[simp] theorem State.onJob_unseen (s : State) (j : Nat) (f : Job → Job) : (s.onJob j f).unseen = s.unseen := rfl
@[simp] theorem State.onJob_paths (s : State) (j : Nat) (f : Job → Job) : (s.onJob j f).paths = s.paths := rfl
@[simp] theorem State.onJob_bar0 (s : State) (j : Nat) (f : Job → Job) : (s.onJob j f).bar0 = s.bar0 := rfl
@[simp] theorem State.onJob_cxlOff (s : State) (j : Nat) (f : Job → Job) : (s.onJob j f).cxlOff = s.cxlOff := rfl
@[simp] theorem State.onJob_lockedOnce (s : State) (j : Nat) (f : Job → Job) : (s.onJob j f).lockedOnce = s.lockedOnce := rfl
@[simp] theorem State.onJob_ptp (s : State) (j : Nat) (f : Job → Job) : (s.onJob j f).ptp = s.ptp := rfl
@[simp] theorem State.onJob_clkRest (s : State) (j : Nat) (f : Job → Job) : (s.onJob j f).clkRest = s.clkRest := rfl
@[simp] theorem State.onJob_fabRest (s : State) (j : Nat) (f : Job → Job) : (s.onJob j f).fabRest = s.fabRest := rfl
@[simp] theorem State.onJob_nsRest (s : State) (j : Nat) (f : Job → Job) : (s.onJob j f).nsRest = s.nsRest := rfl
@[simp] theorem State.onJob_pace (s : State) (j : Nat) (f : Job → Job) : (s.onJob j f).pace = s.pace := rfl
@[simp] theorem State.onJob_freeCtr (s : State) (j : Nat) (f : Job → Job) : (s.onJob j f).freeCtr = s.freeCtr := rfl
@[simp] theorem State.onJob_cur (s : State) (j : Nat) (f : Job → Job) : (s.onJob j f).cur = s.cur := rfl
@[simp] theorem State.onJob_command (s : State) (j : Nat) (f : Job → Job) : (s.onJob j f).command = s.command := rfl
@[simp] theorem State.onJob_nextId (s : State) (j : Nat) (f : Job → Job) : (s.onJob j f).nextId = s.nextId := rfl
@[simp] theorem State.onJob_waves (s : State) (j : Nat) (f : Job → Job) : (s.onJob j f).waves = s.waves := rfl
@[simp] theorem State.onJob_blocks (s : State) (j : Nat) (f : Job → Job) : (s.onJob j f).blocks = s.blocks := rfl
@[simp] theorem State.onJob_clusters (s : State) (j : Nat) (f : Job → Job) : (s.onJob j f).clusters = s.clusters := rfl
@[simp] theorem State.onJob_jobs (s : State) (j : Nat) (f : Job → Job) : (s.onJob j f).jobs = s.jobs.modify j f := rfl
@[simp] theorem State.onJob_cores (s : State) (j : Nat) (f : Job → Job) : (s.onJob j f).cores = s.cores := rfl
@[simp] theorem State.onJob_dies (s : State) (j : Nat) (f : Job → Job) : (s.onJob j f).dies = s.dies := rfl
@[simp] theorem State.onJob_engines (s : State) (j : Nat) (f : Job → Job) : (s.onJob j f).engines = s.engines := rfl
@[simp] theorem State.onJob_mem (s : State) (j : Nat) (f : Job → Job) : (s.onJob j f).mem = s.mem := rfl
@[simp] theorem State.onJob_cxlDirty (s : State) (j : Nat) (f : Job → Job) : (s.onJob j f).cxlDirty = s.cxlDirty := rfl
@[simp] theorem State.onJob_poison (s : State) (j : Nat) (f : Job → Job) : (s.onJob j f).poison = s.poison := rfl
@[simp] theorem State.onJob_taken (s : State) (j : Nat) (f : Job → Job) : (s.onJob j f).taken = s.taken := rfl
@[simp] theorem State.onJob_skipped (s : State) (j : Nat) (f : Job → Job) : (s.onJob j f).skipped = s.skipped := rfl
@[simp] theorem State.onJob_skipMiss (s : State) (j : Nat) (f : Job → Job) : (s.onJob j f).skipMiss = s.skipMiss := rfl
@[simp] theorem State.onJob_round (s : State) (j : Nat) (f : Job → Job) : (s.onJob j f).round = s.round := rfl
@[simp] theorem State.onJob_held (s : State) (j : Nat) (f : Job → Job) : (s.onJob j f).held = s.held := rfl
@[simp] theorem State.onJob_steals (s : State) (j : Nat) (f : Job → Job) : (s.onJob j f).steals = s.steals := rfl
@[simp] theorem State.onJob_groups (s : State) (j : Nat) (f : Job → Job) : (s.onJob j f).groups = s.groups := rfl
@[simp] theorem State.onJob_devid (s : State) (j : Nat) (f : Job → Job) : (s.onJob j f).devid = s.devid := rfl
@[simp] theorem State.onJob_bootReady (s : State) (j : Nat) (f : Job → Job) : (s.onJob j f).bootReady = s.bootReady := rfl
@[simp] theorem State.onJob_bootDegr (s : State) (j : Nat) (f : Job → Job) : (s.onJob j f).bootDegr = s.bootDegr := rfl
@[simp] theorem State.onJob_bootStep (s : State) (j : Nat) (f : Job → Job) : (s.onJob j f).bootStep = s.bootStep := rfl
@[simp] theorem State.onJob_logHead (s : State) (j : Nat) (f : Job → Job) : (s.onJob j f).logHead = s.logHead := rfl
@[simp] theorem State.onJob_bootLog (s : State) (j : Nat) (f : Job → Job) : (s.onJob j f).bootLog = s.bootLog := rfl
@[simp] theorem State.onJob_bootNo (s : State) (j : Nat) (f : Job → Job) : (s.onJob j f).bootNo = s.bootNo := rfl
@[simp] theorem State.onJob_lateWrites (s : State) (j : Nat) (f : Job → Job) : (s.onJob j f).lateWrites = s.lateWrites := rfl
@[simp] theorem State.onJob_savedCfg (s : State) (j : Nat) (f : Job → Job) : (s.onJob j f).savedCfg = s.savedCfg := rfl
@[simp] theorem State.onJob_firmware (s : State) (j : Nat) (f : Job → Job) : (s.onJob j f).firmware = s.firmware := rfl
@[simp] theorem State.onJob_pstate (s : State) (j : Nat) (f : Job → Job) : (s.onJob j f).pstate = s.pstate := rfl
@[simp] theorem State.onJob_astbase (s : State) (j : Nat) (f : Job → Job) : (s.onJob j f).astbase = s.astbase := rfl
@[simp] theorem State.onJob_jqtab (s : State) (j : Nat) (f : Job → Job) : (s.onJob j f).jqtab = s.jqtab := rfl
@[simp] theorem State.onJob_hrq (s : State) (j : Nat) (f : Job → Job) : (s.onJob j f).hrq = s.hrq := rfl
@[simp] theorem State.onJob_pmodes (s : State) (j : Nat) (f : Job → Job) : (s.onJob j f).pmodes = s.pmodes := rfl
@[simp] theorem State.onJob_mbtx (s : State) (j : Nat) (f : Job → Job) : (s.onJob j f).mbtx = s.mbtx := rfl
@[simp] theorem State.onJob_mbrx (s : State) (j : Nat) (f : Job → Job) : (s.onJob j f).mbrx = s.mbrx := rfl
@[simp] theorem State.onJob_mailIn (s : State) (j : Nat) (f : Job → Job) : (s.onJob j f).mailIn = s.mailIn := rfl
@[simp] theorem State.onJob_mailOut (s : State) (j : Nat) (f : Job → Job) : (s.onJob j f).mailOut = s.mailOut := rfl
@[simp] theorem State.onJob_stored (s : State) (j : Nat) (f : Job → Job) : (s.onJob j f).stored = s.stored := rfl
@[simp] theorem State.onJob_counts (s : State) (j : Nat) (f : Job → Job) : (s.onJob j f).counts = s.counts := rfl
@[simp] theorem State.onJob_op (s : State) (j : Nat) (f : Job → Job) : (s.onJob j f).op = s.op := rfl
@[simp] theorem State.onJob_busy (s : State) (j : Nat) (f : Job → Job) : (s.onJob j f).busy = s.busy := rfl
@[simp] theorem State.onJob_arg0 (s : State) (j : Nat) (f : Job → Job) : (s.onJob j f).arg0 = s.arg0 := rfl
@[simp] theorem State.onJob_arg1 (s : State) (j : Nat) (f : Job → Job) : (s.onJob j f).arg1 = s.arg1 := rfl
@[simp] theorem State.onJob_result (s : State) (j : Nat) (f : Job → Job) : (s.onJob j f).result = s.result := rfl
@[simp] theorem State.onJob_hostWait (s : State) (j : Nat) (f : Job → Job) : (s.onJob j f).hostWait = s.hostWait := rfl
@[simp] theorem State.onJob_slots (s : State) (j : Nat) (f : Job → Job) : (s.onJob j f).slots = s.slots := rfl
@[simp] theorem State.onJob_vectors (s : State) (j : Nat) (f : Job → Job) : (s.onJob j f).vectors = s.vectors := rfl
@[simp] theorem State.onJob_hostHeld (s : State) (j : Nat) (f : Job → Job) : (s.onJob j f).hostHeld = s.hostHeld := rfl
@[simp] theorem State.onJob_halts (s : State) (j : Nat) (f : Job → Job) : (s.onJob j f).halts = s.halts := rfl
@[simp] theorem State.onJob_links (s : State) (j : Nat) (f : Job → Job) : (s.onJob j f).links = s.links := rfl
@[simp] theorem State.onJob_edges (s : State) (j : Nat) (f : Job → Job) : (s.onJob j f).edges = s.edges := rfl
@[simp] theorem State.onJob_routes (s : State) (j : Nat) (f : Job → Job) : (s.onJob j f).routes = s.routes := rfl
@[simp] theorem State.onJob_outbox (s : State) (j : Nat) (f : Job → Job) : (s.onJob j f).outbox = s.outbox := rfl
@[simp] theorem State.onJob_clk (s : State) (j : Nat) (f : Job → Job) : (s.onJob j f).clk = s.clk := rfl
@[simp] theorem State.onJob_fabric (s : State) (j : Nat) (f : Job → Job) : (s.onJob j f).fabric = s.fabric := rfl
@[simp] theorem State.onJob_time (s : State) (j : Nat) (f : Job → Job) : (s.onJob j f).time = s.time := rfl
@[simp] theorem State.onJob_flushed (s : State) (j : Nat) (f : Job → Job) : (s.onJob j f).flushed = s.flushed := rfl
@[simp] theorem State.onJob_poweredOn (s : State) (j : Nat) (f : Job → Job) : (s.onJob j f).poweredOn = s.poweredOn := rfl
@[simp] theorem State.onJob_locked (s : State) (j : Nat) (f : Job → Job) : (s.onJob j f).locked = s.locked := rfl
@[simp] theorem State.onJob_offset (s : State) (j : Nat) (f : Job → Job) : (s.onJob j f).offset = s.offset := rfl
@[simp] theorem State.onJob_slewRest (s : State) (j : Nat) (f : Job → Job) : (s.onJob j f).slewRest = s.slewRest := rfl
@[simp] theorem State.onJob_domain (s : State) (j : Nat) (f : Job → Job) : (s.onJob j f).domain = s.domain := rfl
@[simp] theorem State.onJob_dreqs (s : State) (j : Nat) (f : Job → Job) : (s.onJob j f).dreqs = s.dreqs := rfl
@[simp] theorem State.onJob_stopped (s : State) (j : Nat) (f : Job → Job) : (s.onJob j f).stopped = s.stopped := rfl
@[simp] theorem State.onJob_power (s : State) (j : Nat) (f : Job → Job) : (s.onJob j f).power = s.power := rfl

@[simp] theorem State.setCore_agenda (s : State) (c : Nat) (x : CoreState) : (s.setCore c x).agenda = s.agenda := rfl
@[simp] theorem State.setCore_cxlClean (s : State) (c : Nat) (x : CoreState) : (s.setCore c x).cxlClean = s.cxlClean := rfl
@[simp] theorem State.setCore_unseen (s : State) (c : Nat) (x : CoreState) : (s.setCore c x).unseen = s.unseen := rfl
@[simp] theorem State.setCore_paths (s : State) (c : Nat) (x : CoreState) : (s.setCore c x).paths = s.paths := rfl
@[simp] theorem State.setCore_bar0 (s : State) (c : Nat) (x : CoreState) : (s.setCore c x).bar0 = s.bar0 := rfl
@[simp] theorem State.setCore_cxlOff (s : State) (c : Nat) (x : CoreState) : (s.setCore c x).cxlOff = s.cxlOff := rfl
@[simp] theorem State.setCore_lockedOnce (s : State) (c : Nat) (x : CoreState) : (s.setCore c x).lockedOnce = s.lockedOnce := rfl
@[simp] theorem State.setCore_ptp (s : State) (c : Nat) (x : CoreState) : (s.setCore c x).ptp = s.ptp := rfl
@[simp] theorem State.setCore_clkRest (s : State) (c : Nat) (x : CoreState) : (s.setCore c x).clkRest = s.clkRest := rfl
@[simp] theorem State.setCore_fabRest (s : State) (c : Nat) (x : CoreState) : (s.setCore c x).fabRest = s.fabRest := rfl
@[simp] theorem State.setCore_nsRest (s : State) (c : Nat) (x : CoreState) : (s.setCore c x).nsRest = s.nsRest := rfl
@[simp] theorem State.setCore_pace (s : State) (c : Nat) (x : CoreState) : (s.setCore c x).pace = s.pace := rfl
@[simp] theorem State.setCore_freeCtr (s : State) (c : Nat) (x : CoreState) : (s.setCore c x).freeCtr = s.freeCtr := rfl
@[simp] theorem State.setCore_cur (s : State) (c : Nat) (x : CoreState) : (s.setCore c x).cur = s.cur := rfl
@[simp] theorem State.setCore_command (s : State) (c : Nat) (x : CoreState) : (s.setCore c x).command = s.command := rfl
@[simp] theorem State.setCore_nextId (s : State) (c : Nat) (x : CoreState) : (s.setCore c x).nextId = s.nextId := rfl
@[simp] theorem State.setCore_waves (s : State) (c : Nat) (x : CoreState) : (s.setCore c x).waves = s.waves := rfl
@[simp] theorem State.setCore_blocks (s : State) (c : Nat) (x : CoreState) : (s.setCore c x).blocks = s.blocks := rfl
@[simp] theorem State.setCore_clusters (s : State) (c : Nat) (x : CoreState) : (s.setCore c x).clusters = s.clusters := rfl
@[simp] theorem State.setCore_jobs (s : State) (c : Nat) (x : CoreState) : (s.setCore c x).jobs = s.jobs := rfl
@[simp] theorem State.setCore_cores (s : State) (c : Nat) (x : CoreState) : (s.setCore c x).cores = s.cores.put c x {} := rfl
@[simp] theorem State.setCore_dies (s : State) (c : Nat) (x : CoreState) : (s.setCore c x).dies = s.dies := rfl
@[simp] theorem State.setCore_engines (s : State) (c : Nat) (x : CoreState) : (s.setCore c x).engines = s.engines := rfl
@[simp] theorem State.setCore_mem (s : State) (c : Nat) (x : CoreState) : (s.setCore c x).mem = s.mem := rfl
@[simp] theorem State.setCore_cxlDirty (s : State) (c : Nat) (x : CoreState) : (s.setCore c x).cxlDirty = s.cxlDirty := rfl
@[simp] theorem State.setCore_poison (s : State) (c : Nat) (x : CoreState) : (s.setCore c x).poison = s.poison := rfl
@[simp] theorem State.setCore_taken (s : State) (c : Nat) (x : CoreState) : (s.setCore c x).taken = s.taken := rfl
@[simp] theorem State.setCore_skipped (s : State) (c : Nat) (x : CoreState) : (s.setCore c x).skipped = s.skipped := rfl
@[simp] theorem State.setCore_skipMiss (s : State) (c : Nat) (x : CoreState) : (s.setCore c x).skipMiss = s.skipMiss := rfl
@[simp] theorem State.setCore_round (s : State) (c : Nat) (x : CoreState) : (s.setCore c x).round = s.round := rfl
@[simp] theorem State.setCore_held (s : State) (c : Nat) (x : CoreState) : (s.setCore c x).held = s.held := rfl
@[simp] theorem State.setCore_steals (s : State) (c : Nat) (x : CoreState) : (s.setCore c x).steals = s.steals := rfl
@[simp] theorem State.setCore_groups (s : State) (c : Nat) (x : CoreState) : (s.setCore c x).groups = s.groups := rfl
@[simp] theorem State.setCore_devid (s : State) (c : Nat) (x : CoreState) : (s.setCore c x).devid = s.devid := rfl
@[simp] theorem State.setCore_bootReady (s : State) (c : Nat) (x : CoreState) : (s.setCore c x).bootReady = s.bootReady := rfl
@[simp] theorem State.setCore_bootDegr (s : State) (c : Nat) (x : CoreState) : (s.setCore c x).bootDegr = s.bootDegr := rfl
@[simp] theorem State.setCore_bootStep (s : State) (c : Nat) (x : CoreState) : (s.setCore c x).bootStep = s.bootStep := rfl
@[simp] theorem State.setCore_logHead (s : State) (c : Nat) (x : CoreState) : (s.setCore c x).logHead = s.logHead := rfl
@[simp] theorem State.setCore_bootLog (s : State) (c : Nat) (x : CoreState) : (s.setCore c x).bootLog = s.bootLog := rfl
@[simp] theorem State.setCore_bootNo (s : State) (c : Nat) (x : CoreState) : (s.setCore c x).bootNo = s.bootNo := rfl
@[simp] theorem State.setCore_lateWrites (s : State) (c : Nat) (x : CoreState) : (s.setCore c x).lateWrites = s.lateWrites := rfl
@[simp] theorem State.setCore_savedCfg (s : State) (c : Nat) (x : CoreState) : (s.setCore c x).savedCfg = s.savedCfg := rfl
@[simp] theorem State.setCore_firmware (s : State) (c : Nat) (x : CoreState) : (s.setCore c x).firmware = s.firmware := rfl
@[simp] theorem State.setCore_pstate (s : State) (c : Nat) (x : CoreState) : (s.setCore c x).pstate = s.pstate := rfl
@[simp] theorem State.setCore_astbase (s : State) (c : Nat) (x : CoreState) : (s.setCore c x).astbase = s.astbase := rfl
@[simp] theorem State.setCore_jqtab (s : State) (c : Nat) (x : CoreState) : (s.setCore c x).jqtab = s.jqtab := rfl
@[simp] theorem State.setCore_hrq (s : State) (c : Nat) (x : CoreState) : (s.setCore c x).hrq = s.hrq := rfl
@[simp] theorem State.setCore_pmodes (s : State) (c : Nat) (x : CoreState) : (s.setCore c x).pmodes = s.pmodes := rfl
@[simp] theorem State.setCore_mbtx (s : State) (c : Nat) (x : CoreState) : (s.setCore c x).mbtx = s.mbtx := rfl
@[simp] theorem State.setCore_mbrx (s : State) (c : Nat) (x : CoreState) : (s.setCore c x).mbrx = s.mbrx := rfl
@[simp] theorem State.setCore_mailIn (s : State) (c : Nat) (x : CoreState) : (s.setCore c x).mailIn = s.mailIn := rfl
@[simp] theorem State.setCore_mailOut (s : State) (c : Nat) (x : CoreState) : (s.setCore c x).mailOut = s.mailOut := rfl
@[simp] theorem State.setCore_stored (s : State) (c : Nat) (x : CoreState) : (s.setCore c x).stored = s.stored := rfl
@[simp] theorem State.setCore_counts (s : State) (c : Nat) (x : CoreState) : (s.setCore c x).counts = s.counts := rfl
@[simp] theorem State.setCore_op (s : State) (c : Nat) (x : CoreState) : (s.setCore c x).op = s.op := rfl
@[simp] theorem State.setCore_busy (s : State) (c : Nat) (x : CoreState) : (s.setCore c x).busy = s.busy := rfl
@[simp] theorem State.setCore_arg0 (s : State) (c : Nat) (x : CoreState) : (s.setCore c x).arg0 = s.arg0 := rfl
@[simp] theorem State.setCore_arg1 (s : State) (c : Nat) (x : CoreState) : (s.setCore c x).arg1 = s.arg1 := rfl
@[simp] theorem State.setCore_result (s : State) (c : Nat) (x : CoreState) : (s.setCore c x).result = s.result := rfl
@[simp] theorem State.setCore_hostWait (s : State) (c : Nat) (x : CoreState) : (s.setCore c x).hostWait = s.hostWait := rfl
@[simp] theorem State.setCore_slots (s : State) (c : Nat) (x : CoreState) : (s.setCore c x).slots = s.slots := rfl
@[simp] theorem State.setCore_vectors (s : State) (c : Nat) (x : CoreState) : (s.setCore c x).vectors = s.vectors := rfl
@[simp] theorem State.setCore_hostHeld (s : State) (c : Nat) (x : CoreState) : (s.setCore c x).hostHeld = s.hostHeld := rfl
@[simp] theorem State.setCore_halts (s : State) (c : Nat) (x : CoreState) : (s.setCore c x).halts = s.halts := rfl
@[simp] theorem State.setCore_links (s : State) (c : Nat) (x : CoreState) : (s.setCore c x).links = s.links := rfl
@[simp] theorem State.setCore_edges (s : State) (c : Nat) (x : CoreState) : (s.setCore c x).edges = s.edges := rfl
@[simp] theorem State.setCore_routes (s : State) (c : Nat) (x : CoreState) : (s.setCore c x).routes = s.routes := rfl
@[simp] theorem State.setCore_outbox (s : State) (c : Nat) (x : CoreState) : (s.setCore c x).outbox = s.outbox := rfl
@[simp] theorem State.setCore_clk (s : State) (c : Nat) (x : CoreState) : (s.setCore c x).clk = s.clk := rfl
@[simp] theorem State.setCore_fabric (s : State) (c : Nat) (x : CoreState) : (s.setCore c x).fabric = s.fabric := rfl
@[simp] theorem State.setCore_time (s : State) (c : Nat) (x : CoreState) : (s.setCore c x).time = s.time := rfl
@[simp] theorem State.setCore_flushed (s : State) (c : Nat) (x : CoreState) : (s.setCore c x).flushed = s.flushed := rfl
@[simp] theorem State.setCore_poweredOn (s : State) (c : Nat) (x : CoreState) : (s.setCore c x).poweredOn = s.poweredOn := rfl
@[simp] theorem State.setCore_locked (s : State) (c : Nat) (x : CoreState) : (s.setCore c x).locked = s.locked := rfl
@[simp] theorem State.setCore_offset (s : State) (c : Nat) (x : CoreState) : (s.setCore c x).offset = s.offset := rfl
@[simp] theorem State.setCore_slewRest (s : State) (c : Nat) (x : CoreState) : (s.setCore c x).slewRest = s.slewRest := rfl
@[simp] theorem State.setCore_domain (s : State) (c : Nat) (x : CoreState) : (s.setCore c x).domain = s.domain := rfl
@[simp] theorem State.setCore_dreqs (s : State) (c : Nat) (x : CoreState) : (s.setCore c x).dreqs = s.dreqs := rfl
@[simp] theorem State.setCore_stopped (s : State) (c : Nat) (x : CoreState) : (s.setCore c x).stopped = s.stopped := rfl
@[simp] theorem State.setCore_power (s : State) (c : Nat) (x : CoreState) : (s.setCore c x).power = s.power := rfl

@[simp] theorem State.setDie_agenda (s : State) (d : Nat) (x : DieState) : (s.setDie d x).agenda = s.agenda := rfl
@[simp] theorem State.setDie_cxlClean (s : State) (d : Nat) (x : DieState) : (s.setDie d x).cxlClean = s.cxlClean := rfl
@[simp] theorem State.setDie_unseen (s : State) (d : Nat) (x : DieState) : (s.setDie d x).unseen = s.unseen := rfl
@[simp] theorem State.setDie_paths (s : State) (d : Nat) (x : DieState) : (s.setDie d x).paths = s.paths := rfl
@[simp] theorem State.setDie_bar0 (s : State) (d : Nat) (x : DieState) : (s.setDie d x).bar0 = s.bar0 := rfl
@[simp] theorem State.setDie_cxlOff (s : State) (d : Nat) (x : DieState) : (s.setDie d x).cxlOff = s.cxlOff := rfl
@[simp] theorem State.setDie_lockedOnce (s : State) (d : Nat) (x : DieState) : (s.setDie d x).lockedOnce = s.lockedOnce := rfl
@[simp] theorem State.setDie_ptp (s : State) (d : Nat) (x : DieState) : (s.setDie d x).ptp = s.ptp := rfl
@[simp] theorem State.setDie_clkRest (s : State) (d : Nat) (x : DieState) : (s.setDie d x).clkRest = s.clkRest := rfl
@[simp] theorem State.setDie_fabRest (s : State) (d : Nat) (x : DieState) : (s.setDie d x).fabRest = s.fabRest := rfl
@[simp] theorem State.setDie_nsRest (s : State) (d : Nat) (x : DieState) : (s.setDie d x).nsRest = s.nsRest := rfl
@[simp] theorem State.setDie_pace (s : State) (d : Nat) (x : DieState) : (s.setDie d x).pace = s.pace := rfl
@[simp] theorem State.setDie_freeCtr (s : State) (d : Nat) (x : DieState) : (s.setDie d x).freeCtr = s.freeCtr := rfl
@[simp] theorem State.setDie_cur (s : State) (d : Nat) (x : DieState) : (s.setDie d x).cur = s.cur := rfl
@[simp] theorem State.setDie_command (s : State) (d : Nat) (x : DieState) : (s.setDie d x).command = s.command := rfl
@[simp] theorem State.setDie_nextId (s : State) (d : Nat) (x : DieState) : (s.setDie d x).nextId = s.nextId := rfl
@[simp] theorem State.setDie_waves (s : State) (d : Nat) (x : DieState) : (s.setDie d x).waves = s.waves := rfl
@[simp] theorem State.setDie_blocks (s : State) (d : Nat) (x : DieState) : (s.setDie d x).blocks = s.blocks := rfl
@[simp] theorem State.setDie_clusters (s : State) (d : Nat) (x : DieState) : (s.setDie d x).clusters = s.clusters := rfl
@[simp] theorem State.setDie_jobs (s : State) (d : Nat) (x : DieState) : (s.setDie d x).jobs = s.jobs := rfl
@[simp] theorem State.setDie_cores (s : State) (d : Nat) (x : DieState) : (s.setDie d x).cores = s.cores := rfl
@[simp] theorem State.setDie_dies (s : State) (d : Nat) (x : DieState) : (s.setDie d x).dies = s.dies.put d x {} := rfl
@[simp] theorem State.setDie_engines (s : State) (d : Nat) (x : DieState) : (s.setDie d x).engines = s.engines := rfl
@[simp] theorem State.setDie_mem (s : State) (d : Nat) (x : DieState) : (s.setDie d x).mem = s.mem := rfl
@[simp] theorem State.setDie_cxlDirty (s : State) (d : Nat) (x : DieState) : (s.setDie d x).cxlDirty = s.cxlDirty := rfl
@[simp] theorem State.setDie_poison (s : State) (d : Nat) (x : DieState) : (s.setDie d x).poison = s.poison := rfl
@[simp] theorem State.setDie_taken (s : State) (d : Nat) (x : DieState) : (s.setDie d x).taken = s.taken := rfl
@[simp] theorem State.setDie_skipped (s : State) (d : Nat) (x : DieState) : (s.setDie d x).skipped = s.skipped := rfl
@[simp] theorem State.setDie_skipMiss (s : State) (d : Nat) (x : DieState) : (s.setDie d x).skipMiss = s.skipMiss := rfl
@[simp] theorem State.setDie_round (s : State) (d : Nat) (x : DieState) : (s.setDie d x).round = s.round := rfl
@[simp] theorem State.setDie_held (s : State) (d : Nat) (x : DieState) : (s.setDie d x).held = s.held := rfl
@[simp] theorem State.setDie_steals (s : State) (d : Nat) (x : DieState) : (s.setDie d x).steals = s.steals := rfl
@[simp] theorem State.setDie_groups (s : State) (d : Nat) (x : DieState) : (s.setDie d x).groups = s.groups := rfl
@[simp] theorem State.setDie_devid (s : State) (d : Nat) (x : DieState) : (s.setDie d x).devid = s.devid := rfl
@[simp] theorem State.setDie_bootReady (s : State) (d : Nat) (x : DieState) : (s.setDie d x).bootReady = s.bootReady := rfl
@[simp] theorem State.setDie_bootDegr (s : State) (d : Nat) (x : DieState) : (s.setDie d x).bootDegr = s.bootDegr := rfl
@[simp] theorem State.setDie_bootStep (s : State) (d : Nat) (x : DieState) : (s.setDie d x).bootStep = s.bootStep := rfl
@[simp] theorem State.setDie_logHead (s : State) (d : Nat) (x : DieState) : (s.setDie d x).logHead = s.logHead := rfl
@[simp] theorem State.setDie_bootLog (s : State) (d : Nat) (x : DieState) : (s.setDie d x).bootLog = s.bootLog := rfl
@[simp] theorem State.setDie_bootNo (s : State) (d : Nat) (x : DieState) : (s.setDie d x).bootNo = s.bootNo := rfl
@[simp] theorem State.setDie_lateWrites (s : State) (d : Nat) (x : DieState) : (s.setDie d x).lateWrites = s.lateWrites := rfl
@[simp] theorem State.setDie_savedCfg (s : State) (d : Nat) (x : DieState) : (s.setDie d x).savedCfg = s.savedCfg := rfl
@[simp] theorem State.setDie_firmware (s : State) (d : Nat) (x : DieState) : (s.setDie d x).firmware = s.firmware := rfl
@[simp] theorem State.setDie_pstate (s : State) (d : Nat) (x : DieState) : (s.setDie d x).pstate = s.pstate := rfl
@[simp] theorem State.setDie_astbase (s : State) (d : Nat) (x : DieState) : (s.setDie d x).astbase = s.astbase := rfl
@[simp] theorem State.setDie_jqtab (s : State) (d : Nat) (x : DieState) : (s.setDie d x).jqtab = s.jqtab := rfl
@[simp] theorem State.setDie_hrq (s : State) (d : Nat) (x : DieState) : (s.setDie d x).hrq = s.hrq := rfl
@[simp] theorem State.setDie_pmodes (s : State) (d : Nat) (x : DieState) : (s.setDie d x).pmodes = s.pmodes := rfl
@[simp] theorem State.setDie_mbtx (s : State) (d : Nat) (x : DieState) : (s.setDie d x).mbtx = s.mbtx := rfl
@[simp] theorem State.setDie_mbrx (s : State) (d : Nat) (x : DieState) : (s.setDie d x).mbrx = s.mbrx := rfl
@[simp] theorem State.setDie_mailIn (s : State) (d : Nat) (x : DieState) : (s.setDie d x).mailIn = s.mailIn := rfl
@[simp] theorem State.setDie_mailOut (s : State) (d : Nat) (x : DieState) : (s.setDie d x).mailOut = s.mailOut := rfl
@[simp] theorem State.setDie_stored (s : State) (d : Nat) (x : DieState) : (s.setDie d x).stored = s.stored := rfl
@[simp] theorem State.setDie_counts (s : State) (d : Nat) (x : DieState) : (s.setDie d x).counts = s.counts := rfl
@[simp] theorem State.setDie_op (s : State) (d : Nat) (x : DieState) : (s.setDie d x).op = s.op := rfl
@[simp] theorem State.setDie_busy (s : State) (d : Nat) (x : DieState) : (s.setDie d x).busy = s.busy := rfl
@[simp] theorem State.setDie_arg0 (s : State) (d : Nat) (x : DieState) : (s.setDie d x).arg0 = s.arg0 := rfl
@[simp] theorem State.setDie_arg1 (s : State) (d : Nat) (x : DieState) : (s.setDie d x).arg1 = s.arg1 := rfl
@[simp] theorem State.setDie_result (s : State) (d : Nat) (x : DieState) : (s.setDie d x).result = s.result := rfl
@[simp] theorem State.setDie_hostWait (s : State) (d : Nat) (x : DieState) : (s.setDie d x).hostWait = s.hostWait := rfl
@[simp] theorem State.setDie_slots (s : State) (d : Nat) (x : DieState) : (s.setDie d x).slots = s.slots := rfl
@[simp] theorem State.setDie_vectors (s : State) (d : Nat) (x : DieState) : (s.setDie d x).vectors = s.vectors := rfl
@[simp] theorem State.setDie_hostHeld (s : State) (d : Nat) (x : DieState) : (s.setDie d x).hostHeld = s.hostHeld := rfl
@[simp] theorem State.setDie_halts (s : State) (d : Nat) (x : DieState) : (s.setDie d x).halts = s.halts := rfl
@[simp] theorem State.setDie_links (s : State) (d : Nat) (x : DieState) : (s.setDie d x).links = s.links := rfl
@[simp] theorem State.setDie_edges (s : State) (d : Nat) (x : DieState) : (s.setDie d x).edges = s.edges := rfl
@[simp] theorem State.setDie_routes (s : State) (d : Nat) (x : DieState) : (s.setDie d x).routes = s.routes := rfl
@[simp] theorem State.setDie_outbox (s : State) (d : Nat) (x : DieState) : (s.setDie d x).outbox = s.outbox := rfl
@[simp] theorem State.setDie_clk (s : State) (d : Nat) (x : DieState) : (s.setDie d x).clk = s.clk := rfl
@[simp] theorem State.setDie_fabric (s : State) (d : Nat) (x : DieState) : (s.setDie d x).fabric = s.fabric := rfl
@[simp] theorem State.setDie_time (s : State) (d : Nat) (x : DieState) : (s.setDie d x).time = s.time := rfl
@[simp] theorem State.setDie_flushed (s : State) (d : Nat) (x : DieState) : (s.setDie d x).flushed = s.flushed := rfl
@[simp] theorem State.setDie_poweredOn (s : State) (d : Nat) (x : DieState) : (s.setDie d x).poweredOn = s.poweredOn := rfl
@[simp] theorem State.setDie_locked (s : State) (d : Nat) (x : DieState) : (s.setDie d x).locked = s.locked := rfl
@[simp] theorem State.setDie_offset (s : State) (d : Nat) (x : DieState) : (s.setDie d x).offset = s.offset := rfl
@[simp] theorem State.setDie_slewRest (s : State) (d : Nat) (x : DieState) : (s.setDie d x).slewRest = s.slewRest := rfl
@[simp] theorem State.setDie_domain (s : State) (d : Nat) (x : DieState) : (s.setDie d x).domain = s.domain := rfl
@[simp] theorem State.setDie_dreqs (s : State) (d : Nat) (x : DieState) : (s.setDie d x).dreqs = s.dreqs := rfl
@[simp] theorem State.setDie_stopped (s : State) (d : Nat) (x : DieState) : (s.setDie d x).stopped = s.stopped := rfl
@[simp] theorem State.setDie_power (s : State) (d : Nat) (x : DieState) : (s.setDie d x).power = s.power := rfl

@[simp] theorem State.signal_agenda (s : State) (v : Nat) : (s.signal v).agenda = s.agenda := rfl
@[simp] theorem State.signal_cxlClean (s : State) (v : Nat) : (s.signal v).cxlClean = s.cxlClean := rfl
@[simp] theorem State.signal_unseen (s : State) (v : Nat) : (s.signal v).unseen = s.unseen := rfl
@[simp] theorem State.signal_paths (s : State) (v : Nat) : (s.signal v).paths = s.paths := rfl
@[simp] theorem State.signal_bar0 (s : State) (v : Nat) : (s.signal v).bar0 = s.bar0 := rfl
@[simp] theorem State.signal_cxlOff (s : State) (v : Nat) : (s.signal v).cxlOff = s.cxlOff := rfl
@[simp] theorem State.signal_lockedOnce (s : State) (v : Nat) : (s.signal v).lockedOnce = s.lockedOnce := rfl
@[simp] theorem State.signal_ptp (s : State) (v : Nat) : (s.signal v).ptp = s.ptp := rfl
@[simp] theorem State.signal_clkRest (s : State) (v : Nat) : (s.signal v).clkRest = s.clkRest := rfl
@[simp] theorem State.signal_fabRest (s : State) (v : Nat) : (s.signal v).fabRest = s.fabRest := rfl
@[simp] theorem State.signal_nsRest (s : State) (v : Nat) : (s.signal v).nsRest = s.nsRest := rfl
@[simp] theorem State.signal_pace (s : State) (v : Nat) : (s.signal v).pace = s.pace := rfl
@[simp] theorem State.signal_freeCtr (s : State) (v : Nat) : (s.signal v).freeCtr = s.freeCtr := rfl
@[simp] theorem State.signal_cur (s : State) (v : Nat) : (s.signal v).cur = s.cur := rfl
@[simp] theorem State.signal_command (s : State) (v : Nat) : (s.signal v).command = s.command := rfl
@[simp] theorem State.signal_nextId (s : State) (v : Nat) : (s.signal v).nextId = s.nextId := rfl
@[simp] theorem State.signal_waves (s : State) (v : Nat) : (s.signal v).waves = s.waves := rfl
@[simp] theorem State.signal_blocks (s : State) (v : Nat) : (s.signal v).blocks = s.blocks := rfl
@[simp] theorem State.signal_clusters (s : State) (v : Nat) : (s.signal v).clusters = s.clusters := rfl
@[simp] theorem State.signal_jobs (s : State) (v : Nat) : (s.signal v).jobs = s.jobs := rfl
@[simp] theorem State.signal_cores (s : State) (v : Nat) : (s.signal v).cores = s.cores := rfl
@[simp] theorem State.signal_dies (s : State) (v : Nat) : (s.signal v).dies = s.dies := rfl
@[simp] theorem State.signal_engines (s : State) (v : Nat) : (s.signal v).engines = s.engines := rfl
@[simp] theorem State.signal_mem (s : State) (v : Nat) : (s.signal v).mem = s.mem := rfl
@[simp] theorem State.signal_cxlDirty (s : State) (v : Nat) : (s.signal v).cxlDirty = s.cxlDirty := rfl
@[simp] theorem State.signal_poison (s : State) (v : Nat) : (s.signal v).poison = s.poison := rfl
@[simp] theorem State.signal_taken (s : State) (v : Nat) : (s.signal v).taken = s.taken := rfl
@[simp] theorem State.signal_skipped (s : State) (v : Nat) : (s.signal v).skipped = s.skipped := rfl
@[simp] theorem State.signal_skipMiss (s : State) (v : Nat) : (s.signal v).skipMiss = s.skipMiss := rfl
@[simp] theorem State.signal_round (s : State) (v : Nat) : (s.signal v).round = s.round := rfl
@[simp] theorem State.signal_held (s : State) (v : Nat) : (s.signal v).held = s.held := rfl
@[simp] theorem State.signal_steals (s : State) (v : Nat) : (s.signal v).steals = s.steals := rfl
@[simp] theorem State.signal_groups (s : State) (v : Nat) : (s.signal v).groups = s.groups := rfl
@[simp] theorem State.signal_devid (s : State) (v : Nat) : (s.signal v).devid = s.devid := rfl
@[simp] theorem State.signal_bootReady (s : State) (v : Nat) : (s.signal v).bootReady = s.bootReady := rfl
@[simp] theorem State.signal_bootDegr (s : State) (v : Nat) : (s.signal v).bootDegr = s.bootDegr := rfl
@[simp] theorem State.signal_bootStep (s : State) (v : Nat) : (s.signal v).bootStep = s.bootStep := rfl
@[simp] theorem State.signal_logHead (s : State) (v : Nat) : (s.signal v).logHead = s.logHead := rfl
@[simp] theorem State.signal_bootLog (s : State) (v : Nat) : (s.signal v).bootLog = s.bootLog := rfl
@[simp] theorem State.signal_bootNo (s : State) (v : Nat) : (s.signal v).bootNo = s.bootNo := rfl
@[simp] theorem State.signal_lateWrites (s : State) (v : Nat) : (s.signal v).lateWrites = s.lateWrites := rfl
@[simp] theorem State.signal_savedCfg (s : State) (v : Nat) : (s.signal v).savedCfg = s.savedCfg := rfl
@[simp] theorem State.signal_firmware (s : State) (v : Nat) : (s.signal v).firmware = s.firmware := rfl
@[simp] theorem State.signal_pstate (s : State) (v : Nat) : (s.signal v).pstate = s.pstate := rfl
@[simp] theorem State.signal_astbase (s : State) (v : Nat) : (s.signal v).astbase = s.astbase := rfl
@[simp] theorem State.signal_jqtab (s : State) (v : Nat) : (s.signal v).jqtab = s.jqtab := rfl
@[simp] theorem State.signal_hrq (s : State) (v : Nat) : (s.signal v).hrq = s.hrq := rfl
@[simp] theorem State.signal_pmodes (s : State) (v : Nat) : (s.signal v).pmodes = s.pmodes := rfl
@[simp] theorem State.signal_mbtx (s : State) (v : Nat) : (s.signal v).mbtx = s.mbtx := rfl
@[simp] theorem State.signal_mbrx (s : State) (v : Nat) : (s.signal v).mbrx = s.mbrx := rfl
@[simp] theorem State.signal_mailIn (s : State) (v : Nat) : (s.signal v).mailIn = s.mailIn := rfl
@[simp] theorem State.signal_mailOut (s : State) (v : Nat) : (s.signal v).mailOut = s.mailOut := rfl
@[simp] theorem State.signal_stored (s : State) (v : Nat) : (s.signal v).stored = s.stored := rfl
@[simp] theorem State.signal_counts (s : State) (v : Nat) : (s.signal v).counts = s.counts := rfl
@[simp] theorem State.signal_op (s : State) (v : Nat) : (s.signal v).op = s.op := rfl
@[simp] theorem State.signal_busy (s : State) (v : Nat) : (s.signal v).busy = s.busy := rfl
@[simp] theorem State.signal_arg0 (s : State) (v : Nat) : (s.signal v).arg0 = s.arg0 := rfl
@[simp] theorem State.signal_arg1 (s : State) (v : Nat) : (s.signal v).arg1 = s.arg1 := rfl
@[simp] theorem State.signal_result (s : State) (v : Nat) : (s.signal v).result = s.result := rfl
@[simp] theorem State.signal_hostWait (s : State) (v : Nat) : (s.signal v).hostWait = s.hostWait := rfl
@[simp] theorem State.signal_slots (s : State) (v : Nat) : (s.signal v).slots = s.slots := rfl
@[simp] theorem State.signal_vectors (s : State) (v : Nat) : (s.signal v).vectors = s.vectors ++ [v] := rfl
@[simp] theorem State.signal_hostHeld (s : State) (v : Nat) : (s.signal v).hostHeld = s.hostHeld := rfl
@[simp] theorem State.signal_halts (s : State) (v : Nat) : (s.signal v).halts = s.halts := rfl
@[simp] theorem State.signal_links (s : State) (v : Nat) : (s.signal v).links = s.links := rfl
@[simp] theorem State.signal_edges (s : State) (v : Nat) : (s.signal v).edges = s.edges := rfl
@[simp] theorem State.signal_routes (s : State) (v : Nat) : (s.signal v).routes = s.routes := rfl
@[simp] theorem State.signal_outbox (s : State) (v : Nat) : (s.signal v).outbox = s.outbox := rfl
@[simp] theorem State.signal_clk (s : State) (v : Nat) : (s.signal v).clk = s.clk := rfl
@[simp] theorem State.signal_fabric (s : State) (v : Nat) : (s.signal v).fabric = s.fabric := rfl
@[simp] theorem State.signal_time (s : State) (v : Nat) : (s.signal v).time = s.time := rfl
@[simp] theorem State.signal_flushed (s : State) (v : Nat) : (s.signal v).flushed = s.flushed := rfl
@[simp] theorem State.signal_poweredOn (s : State) (v : Nat) : (s.signal v).poweredOn = s.poweredOn := rfl
@[simp] theorem State.signal_locked (s : State) (v : Nat) : (s.signal v).locked = s.locked := rfl
@[simp] theorem State.signal_offset (s : State) (v : Nat) : (s.signal v).offset = s.offset := rfl
@[simp] theorem State.signal_slewRest (s : State) (v : Nat) : (s.signal v).slewRest = s.slewRest := rfl
@[simp] theorem State.signal_domain (s : State) (v : Nat) : (s.signal v).domain = s.domain := rfl
@[simp] theorem State.signal_dreqs (s : State) (v : Nat) : (s.signal v).dreqs = s.dreqs := rfl
@[simp] theorem State.signal_stopped (s : State) (v : Nat) : (s.signal v).stopped = s.stopped := rfl
@[simp] theorem State.signal_power (s : State) (v : Nat) : (s.signal v).power = s.power := rfl

@[simp] theorem State.count_agenda (s : State) (i n : Nat) : (s.count i n).agenda = s.agenda := rfl
@[simp] theorem State.count_cxlClean (s : State) (i n : Nat) : (s.count i n).cxlClean = s.cxlClean := rfl
@[simp] theorem State.count_unseen (s : State) (i n : Nat) : (s.count i n).unseen = s.unseen := rfl
@[simp] theorem State.count_paths (s : State) (i n : Nat) : (s.count i n).paths = s.paths := rfl
@[simp] theorem State.count_bar0 (s : State) (i n : Nat) : (s.count i n).bar0 = s.bar0 := rfl
@[simp] theorem State.count_cxlOff (s : State) (i n : Nat) : (s.count i n).cxlOff = s.cxlOff := rfl
@[simp] theorem State.count_lockedOnce (s : State) (i n : Nat) : (s.count i n).lockedOnce = s.lockedOnce := rfl
@[simp] theorem State.count_ptp (s : State) (i n : Nat) : (s.count i n).ptp = s.ptp := rfl
@[simp] theorem State.count_clkRest (s : State) (i n : Nat) : (s.count i n).clkRest = s.clkRest := rfl
@[simp] theorem State.count_fabRest (s : State) (i n : Nat) : (s.count i n).fabRest = s.fabRest := rfl
@[simp] theorem State.count_nsRest (s : State) (i n : Nat) : (s.count i n).nsRest = s.nsRest := rfl
@[simp] theorem State.count_pace (s : State) (i n : Nat) : (s.count i n).pace = s.pace := rfl
@[simp] theorem State.count_freeCtr (s : State) (i n : Nat) : (s.count i n).freeCtr = s.freeCtr := rfl
@[simp] theorem State.count_cur (s : State) (i n : Nat) : (s.count i n).cur = s.cur := rfl
@[simp] theorem State.count_command (s : State) (i n : Nat) : (s.count i n).command = s.command := rfl
@[simp] theorem State.count_nextId (s : State) (i n : Nat) : (s.count i n).nextId = s.nextId := rfl
@[simp] theorem State.count_waves (s : State) (i n : Nat) : (s.count i n).waves = s.waves := rfl
@[simp] theorem State.count_blocks (s : State) (i n : Nat) : (s.count i n).blocks = s.blocks := rfl
@[simp] theorem State.count_clusters (s : State) (i n : Nat) : (s.count i n).clusters = s.clusters := rfl
@[simp] theorem State.count_jobs (s : State) (i n : Nat) : (s.count i n).jobs = s.jobs := rfl
@[simp] theorem State.count_cores (s : State) (i n : Nat) : (s.count i n).cores = s.cores := rfl
@[simp] theorem State.count_dies (s : State) (i n : Nat) : (s.count i n).dies = s.dies := rfl
@[simp] theorem State.count_engines (s : State) (i n : Nat) : (s.count i n).engines = s.engines := rfl
@[simp] theorem State.count_mem (s : State) (i n : Nat) : (s.count i n).mem = s.mem := rfl
@[simp] theorem State.count_cxlDirty (s : State) (i n : Nat) : (s.count i n).cxlDirty = s.cxlDirty := rfl
@[simp] theorem State.count_poison (s : State) (i n : Nat) : (s.count i n).poison = s.poison := rfl
@[simp] theorem State.count_taken (s : State) (i n : Nat) : (s.count i n).taken = s.taken := rfl
@[simp] theorem State.count_skipped (s : State) (i n : Nat) : (s.count i n).skipped = s.skipped := rfl
@[simp] theorem State.count_skipMiss (s : State) (i n : Nat) : (s.count i n).skipMiss = s.skipMiss := rfl
@[simp] theorem State.count_round (s : State) (i n : Nat) : (s.count i n).round = s.round := rfl
@[simp] theorem State.count_held (s : State) (i n : Nat) : (s.count i n).held = s.held := rfl
@[simp] theorem State.count_steals (s : State) (i n : Nat) : (s.count i n).steals = s.steals := rfl
@[simp] theorem State.count_groups (s : State) (i n : Nat) : (s.count i n).groups = s.groups := rfl
@[simp] theorem State.count_devid (s : State) (i n : Nat) : (s.count i n).devid = s.devid := rfl
@[simp] theorem State.count_bootReady (s : State) (i n : Nat) : (s.count i n).bootReady = s.bootReady := rfl
@[simp] theorem State.count_bootDegr (s : State) (i n : Nat) : (s.count i n).bootDegr = s.bootDegr := rfl
@[simp] theorem State.count_bootStep (s : State) (i n : Nat) : (s.count i n).bootStep = s.bootStep := rfl
@[simp] theorem State.count_logHead (s : State) (i n : Nat) : (s.count i n).logHead = s.logHead := rfl
@[simp] theorem State.count_bootLog (s : State) (i n : Nat) : (s.count i n).bootLog = s.bootLog := rfl
@[simp] theorem State.count_bootNo (s : State) (i n : Nat) : (s.count i n).bootNo = s.bootNo := rfl
@[simp] theorem State.count_lateWrites (s : State) (i n : Nat) : (s.count i n).lateWrites = s.lateWrites := rfl
@[simp] theorem State.count_savedCfg (s : State) (i n : Nat) : (s.count i n).savedCfg = s.savedCfg := rfl
@[simp] theorem State.count_firmware (s : State) (i n : Nat) : (s.count i n).firmware = s.firmware := rfl
@[simp] theorem State.count_pstate (s : State) (i n : Nat) : (s.count i n).pstate = s.pstate := rfl
@[simp] theorem State.count_astbase (s : State) (i n : Nat) : (s.count i n).astbase = s.astbase := rfl
@[simp] theorem State.count_jqtab (s : State) (i n : Nat) : (s.count i n).jqtab = s.jqtab := rfl
@[simp] theorem State.count_hrq (s : State) (i n : Nat) : (s.count i n).hrq = s.hrq := rfl
@[simp] theorem State.count_pmodes (s : State) (i n : Nat) : (s.count i n).pmodes = s.pmodes := rfl
@[simp] theorem State.count_mbtx (s : State) (i n : Nat) : (s.count i n).mbtx = s.mbtx := rfl
@[simp] theorem State.count_mbrx (s : State) (i n : Nat) : (s.count i n).mbrx = s.mbrx := rfl
@[simp] theorem State.count_mailIn (s : State) (i n : Nat) : (s.count i n).mailIn = s.mailIn := rfl
@[simp] theorem State.count_mailOut (s : State) (i n : Nat) : (s.count i n).mailOut = s.mailOut := rfl
@[simp] theorem State.count_stored (s : State) (i n : Nat) : (s.count i n).stored = s.stored := rfl
@[simp] theorem State.count_counts (s : State) (i n : Nat) : (s.count i n).counts = s.counts.put i (min (2 ^ 64 - 1) (s.counts.getD i 0 + n)) 0 := rfl
@[simp] theorem State.count_op (s : State) (i n : Nat) : (s.count i n).op = s.op := rfl
@[simp] theorem State.count_busy (s : State) (i n : Nat) : (s.count i n).busy = s.busy := rfl
@[simp] theorem State.count_arg0 (s : State) (i n : Nat) : (s.count i n).arg0 = s.arg0 := rfl
@[simp] theorem State.count_arg1 (s : State) (i n : Nat) : (s.count i n).arg1 = s.arg1 := rfl
@[simp] theorem State.count_result (s : State) (i n : Nat) : (s.count i n).result = s.result := rfl
@[simp] theorem State.count_hostWait (s : State) (i n : Nat) : (s.count i n).hostWait = s.hostWait := rfl
@[simp] theorem State.count_slots (s : State) (i n : Nat) : (s.count i n).slots = s.slots := rfl
@[simp] theorem State.count_vectors (s : State) (i n : Nat) : (s.count i n).vectors = s.vectors := rfl
@[simp] theorem State.count_hostHeld (s : State) (i n : Nat) : (s.count i n).hostHeld = s.hostHeld := rfl
@[simp] theorem State.count_halts (s : State) (i n : Nat) : (s.count i n).halts = s.halts := rfl
@[simp] theorem State.count_links (s : State) (i n : Nat) : (s.count i n).links = s.links := rfl
@[simp] theorem State.count_edges (s : State) (i n : Nat) : (s.count i n).edges = s.edges := rfl
@[simp] theorem State.count_routes (s : State) (i n : Nat) : (s.count i n).routes = s.routes := rfl
@[simp] theorem State.count_outbox (s : State) (i n : Nat) : (s.count i n).outbox = s.outbox := rfl
@[simp] theorem State.count_clk (s : State) (i n : Nat) : (s.count i n).clk = s.clk := rfl
@[simp] theorem State.count_fabric (s : State) (i n : Nat) : (s.count i n).fabric = s.fabric := rfl
@[simp] theorem State.count_time (s : State) (i n : Nat) : (s.count i n).time = s.time := rfl
@[simp] theorem State.count_flushed (s : State) (i n : Nat) : (s.count i n).flushed = s.flushed := rfl
@[simp] theorem State.count_poweredOn (s : State) (i n : Nat) : (s.count i n).poweredOn = s.poweredOn := rfl
@[simp] theorem State.count_locked (s : State) (i n : Nat) : (s.count i n).locked = s.locked := rfl
@[simp] theorem State.count_offset (s : State) (i n : Nat) : (s.count i n).offset = s.offset := rfl
@[simp] theorem State.count_slewRest (s : State) (i n : Nat) : (s.count i n).slewRest = s.slewRest := rfl
@[simp] theorem State.count_domain (s : State) (i n : Nat) : (s.count i n).domain = s.domain := rfl
@[simp] theorem State.count_dreqs (s : State) (i n : Nat) : (s.count i n).dreqs = s.dreqs := rfl
@[simp] theorem State.count_stopped (s : State) (i n : Nat) : (s.count i n).stopped = s.stopped := rfl
@[simp] theorem State.count_power (s : State) (i n : Nat) : (s.count i n).power = s.power := rfl

@[simp] theorem State.hostRecord_agenda (s : State) (b : Nat) : (s.hostRecord b).agenda = s.agenda := rfl
@[simp] theorem State.hostRecord_cxlClean (s : State) (b : Nat) : (s.hostRecord b).cxlClean = s.cxlClean := rfl
@[simp] theorem State.hostRecord_unseen (s : State) (b : Nat) : (s.hostRecord b).unseen = s.unseen := rfl
@[simp] theorem State.hostRecord_paths (s : State) (b : Nat) : (s.hostRecord b).paths = s.paths := rfl
@[simp] theorem State.hostRecord_bar0 (s : State) (b : Nat) : (s.hostRecord b).bar0 = s.bar0 := rfl
@[simp] theorem State.hostRecord_cxlOff (s : State) (b : Nat) : (s.hostRecord b).cxlOff = s.cxlOff := rfl
@[simp] theorem State.hostRecord_lockedOnce (s : State) (b : Nat) : (s.hostRecord b).lockedOnce = s.lockedOnce := rfl
@[simp] theorem State.hostRecord_ptp (s : State) (b : Nat) : (s.hostRecord b).ptp = s.ptp := rfl
@[simp] theorem State.hostRecord_clkRest (s : State) (b : Nat) : (s.hostRecord b).clkRest = s.clkRest := rfl
@[simp] theorem State.hostRecord_fabRest (s : State) (b : Nat) : (s.hostRecord b).fabRest = s.fabRest := rfl
@[simp] theorem State.hostRecord_nsRest (s : State) (b : Nat) : (s.hostRecord b).nsRest = s.nsRest := rfl
@[simp] theorem State.hostRecord_pace (s : State) (b : Nat) : (s.hostRecord b).pace = s.pace := rfl
@[simp] theorem State.hostRecord_freeCtr (s : State) (b : Nat) : (s.hostRecord b).freeCtr = s.freeCtr := rfl
@[simp] theorem State.hostRecord_cur (s : State) (b : Nat) : (s.hostRecord b).cur = s.cur := rfl
@[simp] theorem State.hostRecord_command (s : State) (b : Nat) : (s.hostRecord b).command = s.command := rfl
@[simp] theorem State.hostRecord_nextId (s : State) (b : Nat) : (s.hostRecord b).nextId = s.nextId := rfl
@[simp] theorem State.hostRecord_waves (s : State) (b : Nat) : (s.hostRecord b).waves = s.waves := rfl
@[simp] theorem State.hostRecord_blocks (s : State) (b : Nat) : (s.hostRecord b).blocks = s.blocks := rfl
@[simp] theorem State.hostRecord_clusters (s : State) (b : Nat) : (s.hostRecord b).clusters = s.clusters := rfl
@[simp] theorem State.hostRecord_jobs (s : State) (b : Nat) : (s.hostRecord b).jobs = s.jobs := rfl
@[simp] theorem State.hostRecord_cores (s : State) (b : Nat) : (s.hostRecord b).cores = s.cores := rfl
@[simp] theorem State.hostRecord_dies (s : State) (b : Nat) : (s.hostRecord b).dies = s.dies := rfl
@[simp] theorem State.hostRecord_engines (s : State) (b : Nat) : (s.hostRecord b).engines = s.engines := rfl
@[simp] theorem State.hostRecord_mem (s : State) (b : Nat) : (s.hostRecord b).mem = s.mem := rfl
@[simp] theorem State.hostRecord_cxlDirty (s : State) (b : Nat) : (s.hostRecord b).cxlDirty = s.cxlDirty := rfl
@[simp] theorem State.hostRecord_poison (s : State) (b : Nat) : (s.hostRecord b).poison = s.poison := rfl
@[simp] theorem State.hostRecord_taken (s : State) (b : Nat) : (s.hostRecord b).taken = s.taken := rfl
@[simp] theorem State.hostRecord_skipped (s : State) (b : Nat) : (s.hostRecord b).skipped = s.skipped := rfl
@[simp] theorem State.hostRecord_skipMiss (s : State) (b : Nat) : (s.hostRecord b).skipMiss = s.skipMiss := rfl
@[simp] theorem State.hostRecord_round (s : State) (b : Nat) : (s.hostRecord b).round = s.round := rfl
@[simp] theorem State.hostRecord_held (s : State) (b : Nat) : (s.hostRecord b).held = s.held := rfl
@[simp] theorem State.hostRecord_steals (s : State) (b : Nat) : (s.hostRecord b).steals = s.steals := rfl
@[simp] theorem State.hostRecord_groups (s : State) (b : Nat) : (s.hostRecord b).groups = s.groups := rfl
@[simp] theorem State.hostRecord_devid (s : State) (b : Nat) : (s.hostRecord b).devid = s.devid := rfl
@[simp] theorem State.hostRecord_bootReady (s : State) (b : Nat) : (s.hostRecord b).bootReady = s.bootReady := rfl
@[simp] theorem State.hostRecord_bootDegr (s : State) (b : Nat) : (s.hostRecord b).bootDegr = s.bootDegr := rfl
@[simp] theorem State.hostRecord_bootStep (s : State) (b : Nat) : (s.hostRecord b).bootStep = s.bootStep := rfl
@[simp] theorem State.hostRecord_logHead (s : State) (b : Nat) : (s.hostRecord b).logHead = s.logHead := rfl
@[simp] theorem State.hostRecord_bootLog (s : State) (b : Nat) : (s.hostRecord b).bootLog = s.bootLog := rfl
@[simp] theorem State.hostRecord_bootNo (s : State) (b : Nat) : (s.hostRecord b).bootNo = s.bootNo := rfl
@[simp] theorem State.hostRecord_lateWrites (s : State) (b : Nat) : (s.hostRecord b).lateWrites = s.lateWrites := rfl
@[simp] theorem State.hostRecord_savedCfg (s : State) (b : Nat) : (s.hostRecord b).savedCfg = s.savedCfg := rfl
@[simp] theorem State.hostRecord_firmware (s : State) (b : Nat) : (s.hostRecord b).firmware = s.firmware := rfl
@[simp] theorem State.hostRecord_pstate (s : State) (b : Nat) : (s.hostRecord b).pstate = s.pstate := rfl
@[simp] theorem State.hostRecord_astbase (s : State) (b : Nat) : (s.hostRecord b).astbase = s.astbase := rfl
@[simp] theorem State.hostRecord_jqtab (s : State) (b : Nat) : (s.hostRecord b).jqtab = s.jqtab := rfl
@[simp] theorem State.hostRecord_hrq (s : State) (b : Nat) : (s.hostRecord b).hrq = s.hrq := rfl
@[simp] theorem State.hostRecord_pmodes (s : State) (b : Nat) : (s.hostRecord b).pmodes = s.pmodes := rfl
@[simp] theorem State.hostRecord_mbtx (s : State) (b : Nat) : (s.hostRecord b).mbtx = s.mbtx := rfl
@[simp] theorem State.hostRecord_mbrx (s : State) (b : Nat) : (s.hostRecord b).mbrx = s.mbrx := rfl
@[simp] theorem State.hostRecord_mailIn (s : State) (b : Nat) : (s.hostRecord b).mailIn = s.mailIn := rfl
@[simp] theorem State.hostRecord_mailOut (s : State) (b : Nat) : (s.hostRecord b).mailOut = s.mailOut := rfl
@[simp] theorem State.hostRecord_stored (s : State) (b : Nat) : (s.hostRecord b).stored = s.stored := rfl
@[simp] theorem State.hostRecord_counts (s : State) (b : Nat) : (s.hostRecord b).counts = s.counts := rfl
@[simp] theorem State.hostRecord_op (s : State) (b : Nat) : (s.hostRecord b).op = s.op := rfl
@[simp] theorem State.hostRecord_busy (s : State) (b : Nat) : (s.hostRecord b).busy = s.busy := rfl
@[simp] theorem State.hostRecord_arg0 (s : State) (b : Nat) : (s.hostRecord b).arg0 = s.arg0 := rfl
@[simp] theorem State.hostRecord_arg1 (s : State) (b : Nat) : (s.hostRecord b).arg1 = s.arg1 := rfl
@[simp] theorem State.hostRecord_result (s : State) (b : Nat) : (s.hostRecord b).result = s.result := rfl
@[simp] theorem State.hostRecord_hostWait (s : State) (b : Nat) : (s.hostRecord b).hostWait = s.hostWait := rfl
@[simp] theorem State.hostRecord_slots (s : State) (b : Nat) : (s.hostRecord b).slots = s.slots := rfl
@[simp] theorem State.hostRecord_vectors (s : State) (b : Nat) : (s.hostRecord b).vectors = s.vectors := rfl
@[simp] theorem State.hostRecord_hostHeld (s : State) (b : Nat) : (s.hostRecord b).hostHeld = s.hostHeld ++ [BitVec.ofNat 256 b] := rfl
@[simp] theorem State.hostRecord_halts (s : State) (b : Nat) : (s.hostRecord b).halts = s.halts := rfl
@[simp] theorem State.hostRecord_links (s : State) (b : Nat) : (s.hostRecord b).links = s.links := rfl
@[simp] theorem State.hostRecord_edges (s : State) (b : Nat) : (s.hostRecord b).edges = s.edges := rfl
@[simp] theorem State.hostRecord_routes (s : State) (b : Nat) : (s.hostRecord b).routes = s.routes := rfl
@[simp] theorem State.hostRecord_outbox (s : State) (b : Nat) : (s.hostRecord b).outbox = s.outbox := rfl
@[simp] theorem State.hostRecord_clk (s : State) (b : Nat) : (s.hostRecord b).clk = s.clk := rfl
@[simp] theorem State.hostRecord_fabric (s : State) (b : Nat) : (s.hostRecord b).fabric = s.fabric := rfl
@[simp] theorem State.hostRecord_time (s : State) (b : Nat) : (s.hostRecord b).time = s.time := rfl
@[simp] theorem State.hostRecord_flushed (s : State) (b : Nat) : (s.hostRecord b).flushed = s.flushed := rfl
@[simp] theorem State.hostRecord_poweredOn (s : State) (b : Nat) : (s.hostRecord b).poweredOn = s.poweredOn := rfl
@[simp] theorem State.hostRecord_locked (s : State) (b : Nat) : (s.hostRecord b).locked = s.locked := rfl
@[simp] theorem State.hostRecord_offset (s : State) (b : Nat) : (s.hostRecord b).offset = s.offset := rfl
@[simp] theorem State.hostRecord_slewRest (s : State) (b : Nat) : (s.hostRecord b).slewRest = s.slewRest := rfl
@[simp] theorem State.hostRecord_domain (s : State) (b : Nat) : (s.hostRecord b).domain = s.domain := rfl
@[simp] theorem State.hostRecord_dreqs (s : State) (b : Nat) : (s.hostRecord b).dreqs = s.dreqs := rfl
@[simp] theorem State.hostRecord_stopped (s : State) (b : Nat) : (s.hostRecord b).stopped = s.stopped := rfl
@[simp] theorem State.hostRecord_power (s : State) (b : Nat) : (s.hostRecord b).power = s.power := rfl

/-- A table entry changed and read back. -/
theorem State.onCore_eq (s : State) (c : Nat) (f : CoreState → CoreState) : s.onCore c f = s.setCore c (f (s.core c)) := rfl
theorem State.onDie_eq (s : State) (d : Nat) (f : DieState → DieState) : s.onDie d f = s.setDie d (f (s.die d)) := rfl

end Sys2Proof.Machine
end

