-- ==== Sys2Proof/Laws/Tab.lean ====
section
/-! SUPPORT. Tables: what a lookup gives after a change, and that a change keeps the keys rising. -/
namespace Sys2Proof

/-- Every key of a table is above `k`. -/
def Tab.above {α : Type} (k : Nat) (t : Tab α) : Prop := ∀ p ∈ t, k < p.1

theorem Tab.sorted_cons {α : Type} (p : Nat × α) (t : Tab α) :
    Tab.sorted (p :: t) = true ↔ Tab.above p.1 t ∧ Tab.sorted t = true := by
  induction t generalizing p with
  | nil => simp [Tab.sorted, Tab.above]
  | cons q r ih =>
    simp only [Tab.sorted, Bool.and_eq_true, decide_eq_true_eq, Tab.above, List.mem_cons, forall_eq_or_imp]
    constructor
    · rintro ⟨h, hs⟩
      refine ⟨⟨h, fun x hx => ?_⟩, hs⟩
      have := ((ih q).1 hs).1 x hx
      omega
    · rintro ⟨⟨h, _⟩, hs⟩
      exact ⟨h, hs⟩

theorem Tab.above_insert {α : Type} (t : Tab α) (j k : Nat) (v : α) (hj : j < k) (h : Tab.above j t) :
    Tab.above j (Tab.insert t k v) := by
  induction t with
  | nil => intro p hp; simp only [Tab.insert, List.mem_singleton] at hp; subst hp; exact hj
  | cons q r ih =>
    have hq := h q List.mem_cons_self
    have hr : Tab.above j r := fun p hp => h p (List.mem_cons_of_mem _ hp)
    simp only [Tab.insert]
    split
    · exact List.forall_mem_cons.2 ⟨hj, h⟩
    · split
      · exact List.forall_mem_cons.2 ⟨hj, hr⟩
      · exact List.forall_mem_cons.2 ⟨hq, ih hr⟩

theorem Tab.sorted_insert {α : Type} (t : Tab α) (k : Nat) (v : α) (h : Tab.sorted t = true) :
    Tab.sorted (Tab.insert t k v) = true := by
  induction t with
  | nil => rfl
  | cons q r ih =>
    obtain ⟨ha, hs⟩ := (Tab.sorted_cons q r).1 h
    simp only [Tab.insert]
    split
    · rename_i hlt
      refine (Tab.sorted_cons _ _).2 ⟨?_, h⟩
      intro x hx
      rcases List.mem_cons.1 hx with rfl | hx
      · exact hlt
      · exact Nat.lt_trans hlt (ha x hx)
    · split
      · rename_i heq
        subst heq
        exact (Tab.sorted_cons _ _).2 ⟨ha, hs⟩
      · exact (Tab.sorted_cons _ _).2 ⟨Tab.above_insert r q.1 k v (by omega) ha, ih hs⟩

theorem Tab.mem_remove {α : Type} {t : Tab α} {k : Nat} {p : Nat × α} (h : p ∈ Tab.remove t k) : p ∈ t :=
  (List.mem_filter.1 h).1

theorem Tab.sorted_remove {α : Type} (t : Tab α) (k : Nat) (h : Tab.sorted t = true) :
    Tab.sorted (Tab.remove t k) = true := by
  induction t with
  | nil => rfl
  | cons q r ih =>
    obtain ⟨ha, hs⟩ := (Tab.sorted_cons q r).1 h
    unfold Tab.remove at ih ⊢
    rw [List.filter_cons]
    split
    · exact (Tab.sorted_cons _ _).2 ⟨fun x hx => ha x (List.mem_filter.1 hx).1, ih hs⟩
    · exact ih hs

theorem Tab.mem_insert {α : Type} {t : Tab α} {k : Nat} {v : α} {p : Nat × α} (h : p ∈ Tab.insert t k v) :
    p = (k, v) ∨ p ∈ t := by
  induction t with
  | nil => left; simpa [Tab.insert] using h
  | cons q r ih =>
    simp only [Tab.insert] at h
    split at h
    · rcases List.mem_cons.1 h with rfl | h
      · exact .inl rfl
      · exact .inr h
    · split at h
      · rcases List.mem_cons.1 h with rfl | h
        · exact .inl rfl
        · exact .inr (List.mem_cons_of_mem _ h)
      · rcases List.mem_cons.1 h with rfl | h
        · exact .inr List.mem_cons_self
        · rcases ih h with h | h
          · exact .inl h
          · exact .inr (List.mem_cons_of_mem _ h)

/-- A lookup after an insertion. -/
theorem Tab.find_insert {α : Type} (t : Tab α) (k j : Nat) (v : α) :
    (Tab.insert t k v).find j = if j = k then some v else t.find j := by
  induction t with
  | nil => simp only [Tab.insert, Tab.find]; (repeat' split) <;> first | rfl | omega
  | cons q r ih =>
    simp only [Tab.insert]
    split
    · simp only [Tab.find]; (repeat' split) <;> first | rfl | omega
    · split
      · rename_i h; subst h; simp only [Tab.find]; (repeat' split) <;> first | rfl | omega
      · simp only [Tab.find, ih]; (repeat' split) <;> first | rfl | omega

/-- A lookup after pairs are filtered by their keys. -/
theorem Tab.find_filter {α : Type} (t : Tab α) (p : Nat → Bool) (j : Nat) :
    Tab.find (t.filter fun x => p x.1) j = if p j then t.find j else none := by
  induction t with
  | nil => simp [Tab.find]
  | cons q r ih =>
    rw [List.filter_cons]
    by_cases hq : q.1 = j
    · subst hq; cases h : p q.1 <;> simp_all [Tab.find]
    · cases h : p q.1 <;> simp [Tab.find, hq, ih]

/-- A lookup after a removal. -/
theorem Tab.find_remove {α : Type} (t : Tab α) (k j : Nat) :
    (Tab.remove t k).find j = if j = k then none else t.find j := by
  unfold Tab.remove
  rw [Tab.find_filter t fun x => x != k]
  by_cases h : j = k <;> simp [h]

/-- A lookup after `put`, which unlists the default. -/
theorem Tab.getD_put {α : Type} [DecidableEq α] (t : Tab α) (k j : Nat) (v d : α) :
    (t.put k v d).getD j d = if j = k then v else t.getD j d := by
  unfold Tab.put Tab.getD
  split
  · rename_i hv; subst hv; rw [Tab.find_remove t k j]; split <;> rfl
  · rw [Tab.find_insert]; split <;> rfl

/-- A lookup after a change of the value at a key. -/
theorem Tab.find_modify {α : Type} (t : Tab α) (k j : Nat) (f : α → α) :
    (t.modify k f).find j = if j = k then (t.find j).map f else t.find j := by
  induction t with
  | nil => simp [Tab.modify, Tab.find]
  | cons q r ih =>
    simp only [Tab.modify, List.map_cons] at ih ⊢
    by_cases hq : q.1 = k
    · by_cases hj : k = j
      · simp [Tab.find, hq, hj]
      · simpa [Tab.find, hq, hj, Ne.symm hj] using ih
    · by_cases hj : q.1 = j
      · have : ¬ j = k := fun h => hq (hj.trans h)
        simp [Tab.find, hj, this]
      · simpa [Tab.find, hq, hj] using ih

/-- `put` keeps the keys rising and lists no default. -/
theorem Tab.put_canonical {α : Type} [DecidableEq α] (t : Tab α) (k : Nat) (v d : α)
    (h : Tab.sorted t = true ∧ ∀ p ∈ t, p.2 ≠ d) :
    Tab.sorted (t.put k v d) = true ∧ ∀ p ∈ t.put k v d, p.2 ≠ d := by
  unfold Tab.put
  split
  · exact ⟨Tab.sorted_remove t k h.1, fun p hp => h.2 p (Tab.mem_remove hp)⟩
  · rename_i hv
    refine ⟨Tab.sorted_insert t k v h.1, fun p hp => ?_⟩
    rcases Tab.mem_insert hp with rfl | hp
    · exact hv
    · exact h.2 p hp

end Sys2Proof
end

