-- ==== Sys2Proof/Laws/Ops.lean ====
section
/-! SUPPORT. What the shared operations of instruction words come to: the parts of the state read back after an update, the
register rule and register poison, a word that may act, a word with no active lane, the outcomes of an effect. -/
namespace Sys2Proof.Machine

/-! ### Parts read back -/

theorem State.wave_onWave (s : State) (w k : Nat) (f : Wave → Wave) (h : (s.waves.find k).isSome) :
    (s.onWave w f).wave k = if k = w then f (s.wave k) else s.wave k := by
  obtain ⟨x, hx⟩ := Option.isSome_iff_exists.1 h
  simp only [State.wave, State.onWave_waves, Tab.getD, Tab.find_modify, hx]
  split <;> rfl

theorem State.wave_onWave_ne (s : State) (w k : Nat) (f : Wave → Wave) (h : k ≠ w) :
    (s.onWave w f).wave k = s.wave k := by
  simp only [State.wave, State.onWave_waves, Tab.getD, Tab.find_modify, h, if_false]

@[simp] theorem State.block_onWave (s : State) (w b : Nat) (f : Wave → Wave) : (s.onWave w f).block b = s.block b := rfl
@[simp] theorem State.core_onWave (s : State) (w c : Nat) (f : Wave → Wave) : (s.onWave w f).core c = s.core c := rfl
@[simp] theorem State.cluster_onWave (s : State) (w c : Nat) (f : Wave → Wave) :
    (s.onWave w f).cluster c = s.cluster c := rfl
@[simp] theorem State.job_onWave (s : State) (w j : Nat) (f : Wave → Wave) : (s.onWave w f).job j = s.job j := rfl
@[simp] theorem State.home_onWave (s : State) (w a : Nat) (f : Wave → Wave) : (s.onWave w f).home a = s.home a := rfl

/-! ### Conditions that a word meets before it acts -/

theorem minBy_nil {α : Type} (f : α → Nat) : minBy [] f = none := rfl

theorem registerTrap_none (c : Ctx) (regs act : List Nat) (h : ∀ r ∈ regs, r < c.wave.alloc) :
    registerTrap c regs act = none := by
  have : regs.filter (fun r => decide (c.wave.alloc ≤ r)) = [] := by
    rw [List.filter_eq_nil_iff]; intro r hr; have := h r hr; simp only [decide_eq_true_eq]; omega
  rw [registerTrap, this, minBy_nil]

theorem registerPoison_none (w : Wave) (reads act : List Nat) (h : ∀ l ∈ act, ∀ r ∈ reads, (l, r) ∉ w.rpoison) :
    registerPoison w reads act = none := by
  unfold registerPoison
  split
  · rfl
  · dsimp only
    have : act.filter (fun l => !(reads.filter fun r => w.rpoison.contains (l, r)).isEmpty) = [] := by
      rw [List.filter_eq_nil_iff]; intro l hl
      have : reads.filter (fun r => w.rpoison.contains (l, r)) = [] := by
        rw [List.filter_eq_nil_iff]; intro r hr; simpa using h l hl r hr
      simp only [this, List.isEmpty_nil, Bool.not_true, Bool.false_eq_true, not_false_eq_true]
    rw [this]

theorem isEmpty_of_ne {α : Type} {l : List α} (h : l ≠ []) : l.isEmpty = false := by
  cases l with
  | nil => exact absurd rfl h
  | cons => rfl

/-- A word that may act comes to its effect. -/
theorem State.issueOn_issued {s : State} {c : Ctx} {lanes : State → Ctx → List Nat} {regs reads : List Nat}
    (h : Issued s c (lanes s c) regs reads) (settle : Bool) (eff : State → Ctx → List Nat → Effect) :
    s.issueOn settle lanes regs reads eff = State.finish c settle false (eff s c (lanes s c)) := by
  simp only [State.issueOn, h.ctx, isEmpty_of_ne h.active, registerTrap_none c regs _ h.below,
    registerPoison_none c.wave reads _ h.clean, withPoison, Bool.false_eq_true, if_false]

theorem State.issueWord_ready {s : State} {c : Ctx} {h : Hdr} {dst src : List Nat} (r : Ready s c h dst src)
    (eff : State → Ctx → List Nat → Effect) :
    s.issueWord h dst src eff = State.finish c h.s false (eff s c (s.activeLanes c h.pg h.pn)) :=
  State.issueOn_issued (lanes := fun s c => s.activeLanes c h.pg h.pn) r h.s eff

/-- A word with no active lane only advances (R160). -/
theorem State.issueOn_idle {s : State} {c : Ctx} {lanes : State → Ctx → List Nat} (hc : s.ctx = some c)
    (ha : lanes s c = []) (settle : Bool) (regs reads : List Nat) (eff : State → Ctx → List Nat → Effect) :
    s.issueOn settle lanes regs reads eff = State.finish c settle false (.done s [] []) := by
  simp only [State.issueOn, hc, ha, List.isEmpty_nil, if_true]

theorem State.issueWord_idle {s : State} {c : Ctx} {h : Hdr} (hc : s.ctx = some c)
    (ha : s.activeLanes c h.pg h.pn = []) (dst src : List Nat) (eff : State → Ctx → List Nat → Effect) :
    s.issueWord h dst src eff = State.finish c h.s false (.done s [] []) :=
  State.issueOn_idle (lanes := fun s c => s.activeLanes c h.pg h.pn) hc ha h.s (dst ++ src) src eff

theorem State.issueBoundaryIn_idle {s : State} {c : Ctx} {h : Hdr} (hc : s.ctx = some c)
    (ha : s.activeLanes c h.pg h.pn = []) (dst src : List Nat) (txn : State → Ctx → List Nat → List Nat × State)
    (check : State → Ctx → List Nat → Option Effect) (eff : State → Ctx → List Nat → Effect) (uni : List Nat := []) :
    s.issueBoundaryIn h dst src txn check eff uni = State.finish c h.s false (.done s [] []) := by
  simp only [State.issueBoundaryIn, hc, ha, List.isEmpty_nil, if_true]

/-! ### Outcomes of an effect -/

theorem State.finish_done (c : Ctx) (settle boundary : Bool) (s : State) (now late : List RegWrite) :
    State.finish c settle boundary (.done s now late) = retired s c settle boundary now late := rfl

theorem State.finish_moved (c : Ctx) (settle boundary : Bool) (s : State) (now : List RegWrite) :
    State.finish c settle boundary (.moved s now) = jumped s c settle boundary now := rfl

theorem State.finish_again (c : Ctx) (settle boundary : Bool) (s : State) (p : Park) :
    State.finish c settle boundary (.again s p) = parked s c p := rfl

theorem State.finish_trap (c : Ctx) (settle boundary : Bool) (s : State) (t : Trap) :
    State.finish c settle boundary (.trap s t) = s.takeTrap c t := rfl

/-- A boundary that parks in a waiting phase: its boundary is marked (R38). -/
theorem State.finish_wait (c : Ctx) (settle : Bool) (s : State) (now : List RegWrite) (p : Park) :
    State.finish c settle true (.wait s now p) = waiting s c settle true now p := rfl

/-- The lanes of open transactions at a boundary: none. -/
theorem State.boundaryAbort_plain {s : State} {c : Ctx} {act : List Nat} (h : ∀ l ∈ act, (c.wave.thread l).txn = none) :
    s.boundaryAbort c act = (act, s) := by
  have ht : act.filter (fun l => (c.wave.thread l).txn.isSome) = [] := by
    rw [List.filter_eq_nil_iff]; intro l hl; simp [h l hl]
  simp [State.boundaryAbort, ht, State.abortLanes]

theorem State.noteBoundary_single {s : State} {c : Ctx} (h : (s.cluster c.cl).run = none) (e : Effect) (x : Logged)
    (t : State) : s.noteBoundary c e x t = t := by
  simp only [State.noteBoundary, h]

/-- A region boundary that may act comes to its effect, its commit made (R35). -/
theorem State.issueBoundaryIn_ready {s s1 : State} {c : Ctx} {h : Hdr} {dst src : List Nat}
    (r : Ready s c h dst src) (single : (s.cluster c.cl).run = none) (single' : (s1.cluster c.cl).run = none)
    (commits : s.commit c (s.activeLanes c h.pg h.pn) = .ok s1)
    (txn : State → Ctx → List Nat → List Nat × State)
    (plain : txn s c (s.activeLanes c h.pg h.pn) = (s.activeLanes c h.pg h.pn, s))
    (check : State → Ctx → List Nat → Option Effect) (eff : State → Ctx → List Nat → Effect)
    (pass : check s c (s.activeLanes c h.pg h.pn) = none) (uni : List Nat := []) :
    s.issueBoundaryIn h dst src txn check eff uni =
      State.finish c h.s true (eff (begun s1 c) c (s.activeLanes c h.pg h.pn)) := by
  have hg : ∀ n, s.gate c n = .go := fun n => by simp only [State.gate, single]
  simp only [State.issueBoundaryIn, r.ctx, isEmpty_of_ne r.active, registerTrap_none c _ _ r.below, plain, pass,
    registerPoison_none c.wave src _ r.clean, hg, commits, Bool.false_eq_true, if_false,
    State.noteBoundary_single single', begun]

/-- A region boundary of an ordinary instruction that may act comes to its effect. -/
theorem State.issueBoundary_ready {s s1 : State} {c : Ctx} {h : Hdr} {dst src : List Nat} (b : Boundary s c h dst src s1)
    (check : State → Ctx → List Nat → Option Effect) (eff : State → Ctx → List Nat → Effect)
    (pass : check s c (s.activeLanes c h.pg h.pn) = none) (uni : List Nat := []) :
    s.issueBoundary h dst src check eff uni =
      State.finish c h.s true (eff (begun s1 c) c (s.activeLanes c h.pg h.pn)) :=
  State.issueBoundaryIn_ready b.ready b.single b.still b.commits State.boundaryAbort (State.boundaryAbort_plain b.plain)
    check eff pass uni

/-- One whose check stops it has no other effect: nothing is committed (R34). -/
theorem State.issueBoundary_stopped {s : State} {c : Ctx} {h : Hdr} {dst src : List Nat} (r : Ready s c h dst src)
    (plain : ∀ l ∈ s.activeLanes c h.pg h.pn, (c.wave.thread l).txn = none)
    (check : State → Ctx → List Nat → Option Effect) (eff : State → Ctx → List Nat → Effect) (e : Effect)
    (stop : check s c (s.activeLanes c h.pg h.pn) = some e) (uni : List Nat := []) :
    s.issueBoundary h dst src check eff uni = State.finish c h.s false e := by
  simp only [State.issueBoundary, State.issueBoundaryIn, r.ctx, isEmpty_of_ne r.active, registerTrap_none c _ _ r.below,
    State.boundaryAbort_plain plain, stop, Bool.false_eq_true, if_false]

/-! ### Releases -/

/-- A release with nothing left to wait for goes on (R127). -/
theorem State.releaseThen_drained {s : State} {c : Ctx} {scope : Nat} {objs : List Obj} (h : Drained s c scope objs)
    (k : State → Effect) : s.releaseThen c scope objs k = k (released s c scope objs) := by
  unfold State.releaseThen State.releaseOn
  rcases h with h | h <;> simp [h, released]

/-- One that has stores to wait for parks its wave. -/
theorem State.releaseThen_waits {s : State} {c : Ctx} {scope : Nat} {objs : List Obj} (h : ¬ Drained s c scope objs)
    (k : State → Effect) : s.releaseThen c scope objs k =
      .again (s.onWave c.w fun w => { w with drained := true }) (.drain (s.releaseWaits c scope objs)) := by
  simp only [Drained, not_or] at h
  unfold State.releaseThen State.releaseOn
  simp [h.1, isEmpty_of_ne h.2]

/-! ### Commits -/

/-- A commit is refused only in a deterministic job (R394). -/
theorem State.commit_free (s : State) (c : Ctx) (act : List Nat) (h : c.det = false) : ∃ s1, s.commit c act = .ok s1 := by
  unfold State.commit
  simp only [h, Bool.false_eq_true, if_false]
  split <;> exact ⟨_, rfl⟩

/-- A wave whose buffer is empty has nothing to commit. -/
theorem State.commit_empty (s : State) (c : Ctx) (act : List Nat) (h : (s.wave c.w).rsb = []) : s.commit c act = .ok s := by
  simp [State.commit, h]

end Sys2Proof.Machine
end

