-- ==== Sys2Proof/Laws/Access.lean ====
section
/-! SUPPORT. What an access of a word that waits for nothing comes to: mapped addresses translate without a change of the
state, and an access that is clear passes every test of R399. -/
namespace Sys2Proof.Machine

/-- A mapped address translates to its physical address, and nothing changes (R105, R107). -/
theorem translate_mapped {s : State} {c : Ctx} {acc : Access} {va pa : Nat} (h : Mapped s c acc va pa) :
    ∃ l, s.translateIn (s.requester c) (va / 4096 * 4096) acc = (.ok (pa - va % 4096) l, s) ∧ va % 4096 ≤ pa := by
  obtain ⟨h0, l, h1, h2, h3, rfl⟩ := h
  refine ⟨l, ?_, by omega⟩
  have ht : s.translate (s.requester c) (va / 4096 * 4096) acc = (.ok (l.addr (va / 4096 * 4096)) l, s) := by
    simp only [State.translate, State.requester, Option.bind_some] at h0 h1 ⊢
    rw [h0]; dsimp only; rw [h1]; dsimp only; rw [if_pos]
    cases acc <;> simp_all
  unfold State.translateIn
  rw [ht]; simp

/-- A list without repeats has the same members. -/
theorem distinct_mem {α : Type} [DecidableEq α] (l : List α) (a : α) : a ∈ distinct l ↔ a ∈ l := by
  have key : ∀ (l r : List α), a ∈ l.foldl (fun r a => if a ∈ r then r else r ++ [a]) r ↔ a ∈ r ∨ a ∈ l := by
    intro l
    induction l with
    | nil => simp
    | cons x l ih =>
      intro r
      simp only [List.foldl_cons]
      rw [ih]
      split
      · rename_i h
        simp only [List.mem_cons]
        constructor
        · rintro (h1 | h1)
          · exact .inl h1
          · exact .inr (.inr h1)
        · rintro (h1 | h1 | h1)
          · exact .inl h1
          · exact .inl (h1 ▸ h)
          · exact .inr h1
      · simp [or_assoc]
  simp [distinct, key]

/-- Mapped addresses translate together, and nothing changes. -/
theorem translateAll_mapped {s : State} {c : Ctx} {acc : Access} (vas : List Nat) (pa : Nat → Nat)
    (h : ∀ va ∈ vas, Mapped s c acc va (pa (va / 4096) + va % 4096)) :
    ∃ pages, s.translateAll (s.requester c) vas acc = (.ok pages, s) ∧ ∀ va ∈ vas, pageAddr pages va = pa (va / 4096) + va % 4096 := by
  unfold State.translateAll
  have key : ∀ (gs : List Nat) (pages : Tab Nat) , (∀ g ∈ gs, ∃ l, s.translateIn (s.requester c) (g * 4096) acc = (.ok (pa g) l, s)) →
    ∃ p2, gs.foldl (fun (r : Pages × State) (g : Nat) => match r.1 with
    | .error .. => r
    | _ =>
      let (t, s) := r.2.translateIn (s.requester c) (g * 4096) acc
      match t, r.1 with
      | .ok pa _, .ok l => (.ok (l.insert g pa), s)
      | .ok _ _, p => (p, s)
      | .miss d m, .park on => (.park (if on.contains (d, m) then on else on ++ [(d, m)]), s)
      | .miss d m, _ => (.park [(d, m)], s)
      | .full d, .park on => (.park (on ++ [(d, 0)]), s)
      | .full d, _ => (.park [(d, 0)], s)
      | .error c a b, _ => (.error c a b (g * 4096), s)) (.ok pages, s) = (.ok p2, s) ∧ ∀ g, p2.find g = if g ∈ gs then some (pa g) else pages.find g := by
    intro gs; induction gs with
    | nil => intro pages _; exact ⟨pages, rfl, by simp⟩
    | cons g gs ih =>
      intro pages h
      obtain ⟨l, hl⟩ := h g (by simp)
      simp only [List.foldl_cons, hl]
      obtain ⟨p2, h1, h2⟩ := ih (pages.insert g (pa g)) (fun x hx => h x (by simp [hx]))
      refine ⟨p2, h1, ?_⟩
      intro x; rw [h2 x, Tab.find_insert]; by_cases hx : x ∈ gs <;> simp [hx]; by_cases hg : x = g <;> simp [hg]
  obtain ⟨p2, h1, h2⟩ := key (distinct (vas.map (· / 4096))) [] (by
    intro g hg; rw [distinct_mem] at hg; obtain ⟨va, hv, rfl⟩ := List.mem_map.1 hg
    obtain ⟨l, hl, _⟩ := translate_mapped (h va hv); refine ⟨l, ?_⟩; rw [hl]; congr 2; omega)
  refine ⟨p2, h1, ?_⟩
  intro va hv
  simp only [pageAddr, Tab.getD, h2 (va/4096)]; rw [if_pos]; rfl
  rw [distinct_mem]; exact List.mem_map.2 ⟨va, hv, rfl⟩

/-- A mapped address has one physical address. -/
theorem mapped_fun {s : State} {c : Ctx} {acc : Access} {va pa pb : Nat} (h : Mapped s c acc va pa) (k : Mapped s c acc va pb) : pa = pb := by
  obtain ⟨_, l, h1, h2, h3, rfl⟩ := h; obtain ⟨_, m, k1, k2, k3, rfl⟩ := k
  rw [h1] at k1; cases k1; rfl

/-- A clear access is placed, translated, found sound and present, and fits any transaction; nothing changes (R399). -/
theorem clear_ok (s : State) (c : Ctx) (windows : List Nat) (g : Nat) (cg : Contig) (acc : Access) (addrs : List (Nat × Nat))
   (hg : ∃ w ≤ 7, g = 2 ^ w) (h : Clear s c windows g cg acc addrs) : ∃ spots pages, s.placeAll c windows g cg addrs = .ok spots ∧
     s.wordPages c g acc spots = (.ok pages, s) ∧ spots.map Prod.fst = addrs.map Prod.fst ∧ spots.map (fun p => some p.2) = addrs.map (fun p => s.place c p.1 p.2 g) ∧
     (∀ p ∈ addrs, windowOf p.2 = 0 → ∀ pa, Mapped s c acc p.2 pa → pageAddr pages p.2 = pa ∧ pageAddr pages (p.2 + g - 1) = pa + g - 1) ∧
     s.someAbsent spots = false ∧ (∀ fresh, s.poisonTrap g pages fresh spots = none) ∧ s.txnCapacity c true g spots = (spots, s) ∧ s.txnCapacity c false g spots = (spots, s) := by
  obtain ⟨w, hw, rfl⟩ := hg
  have hpl : s.placeAll c windows (2^w) cg addrs = .ok ((addrs.map fun p => (p, s.place c p.1 p.2 (2^w))).filterMap fun p => p.2.map fun q => (p.1.1, q)) := by
    have hmap : (addrs.map fun p => (p, if windows.contains (windowOf p.2) then s.place c p.1 p.2 (2^w) else none)) = addrs.map fun p => (p, s.place c p.1 p.2 (2^w)) := by
      apply List.map_congr_left; intro p hp; have := (h.inside p hp).1; simp [this]
    unfold State.placeAll
    simp only [hmap]
    have h1 : (addrs.map fun p => (p, s.place c p.1 p.2 (2^w))).filter (fun p => p.2.isNone) = [] := by
      rw [List.filter_eq_nil_iff]; intro q hq; obtain ⟨p, hp, rfl⟩ := List.mem_map.1 hq
      have := (h.inside p hp).2.2; simp [Option.isSome_iff_ne_none] at *; exact this
    have h2 : addrs.filter (fun p => p.2 % 2^w != 0) = [] := by
      rw [List.filter_eq_nil_iff]; intro p hp; simp [(h.inside p hp).2.1]
    simp only [h1, h2]
    have hp := h.placed
    cases cg with
    | free => rfl
    | step k =>
      simp only [Placed] at hp
      cases hgl : addrs.filter (fun p => windowOf p.2 == 0) with
      | nil => rfl
      | cons f r =>
        dsimp only
        rw [hgl] at hp
        have : (f :: r).filter (fun p => p.2 != requiredAddr f k p.1) = [] := by
          rw [List.filter_eq_nil_iff]; intro p hm; have := hp p hm; simp at this; simp [← this]
        simp only [this]
    | oneOr k =>
      simp only [Placed] at hp
      dsimp only
      rcases hp with hp | hp
      · rw [if_pos]; rw [List.all_eq_true]; intro p hm; simpa using hp p hm
      · split
        · rfl
        · cases hgl : addrs.filter (fun p => windowOf p.2 == 0) with
          | nil => rfl
          | cons f r =>
            dsimp only
            rw [hgl] at hp
            have : (f :: r).filter (fun p => p.2 != requiredAddr f k p.1) = [] := by
              rw [List.filter_eq_nil_iff]; intro p hm; have := hp p hm; simp at this; simp [← this]
            simp only [this]
  refine ⟨(addrs.map fun p => (p, s.place c p.1 p.2 (2^w))).filterMap fun p => p.2.map fun q => (p.1.1, q), ?_⟩
  have hx : ∀ p ∈ (addrs.map fun p => (p, s.place c p.1 p.2 (2^w))).filterMap (fun p => p.2.map fun q => (p.1.1, q)), ∃ q ∈ addrs, p.1 = q.1 ∧ s.place c q.1 q.2 (2^w) = some p.2 := by
    intro p hp
    simp only [List.mem_filterMap, List.mem_map, Option.map_eq_some_iff] at hp
    obtain ⟨_, ⟨q, hq, rfl⟩, y, hy, rfl⟩ := hp
    exact ⟨q, hq, rfl, hy⟩
  have hgw : ∀ q ∈ addrs, windowOf q.2 = 0 → ∀ pl, s.place c q.1 q.2 (2^w) = some pl → pl = .global q.2 ∧ q.2 + 2^w ≤ stackBase := by
    intro q hq hw0 pl hpl; simp only [State.place, hw0] at hpl; split at hpl <;> simp_all
  have hgl : ∀ q ∈ addrs, ∀ va, s.place c q.1 q.2 (2^w) = some (.global va) → windowOf q.2 = 0 ∧ va = q.2 := by
    intro q hq va hva; unfold State.place at hva; dsimp only at hva
    split at hva
    · split at hva <;> simp_all
    all_goals (try split at hva) <;> simp_all
  let pf (n : Nat) : Nat := match findLeaf (s.core c.core).tlb (s.requester c).asid (n * 4096) with | some l => l.addr (n * 4096) | none => 0
  have hpf : ∀ q ∈ addrs, windowOf q.2 = 0 → ∀ pa, Mapped s c acc q.2 pa → pa = pf (q.2/4096) + q.2 % 4096 := by
    intro q hq hw0 pa hm; obtain ⟨_, l, h1, h2, h3, rfl⟩ := hm; simp only [pf, h1]
  have hal : ∀ q ∈ addrs, ∀ i, i < 2^w → (q.2 + i) / 4096 = q.2 / 4096 ∧ (q.2 + i) % 4096 = q.2 % 4096 + i := by
    intro q hq i hi
    have h1 := (h.inside q hq).2.1
    have : w = 0 ∨ w = 1 ∨ w = 2 ∨ w = 3 ∨ w = 4 ∨ w = 5 ∨ w = 6 ∨ w = 7 := by omega
    rcases this with rfl | rfl | rfl | rfl | rfl | rfl | rfl | rfl <;> simp at h1 hi <;> omega
  have hmp : ∀ q ∈ addrs, windowOf q.2 = 0 → ∀ i, i < 2^w → Mapped s c acc (q.2 + i) (pf ((q.2+i)/4096) + (q.2+i) % 4096) := by
    intro q hq hw0 i hi
    obtain ⟨pa, ⟨h0, l, h1, h2, h3, h4⟩, _⟩ := h.mapped q hq hw0
    obtain ⟨e1, e2⟩ := hal q hq i hi
    refine ⟨by rw [e1]; exact h0, l, by rw [e1]; exact h1, h2, h3, ?_⟩
    rw [e1]; simp only [pf, h1]
  have h0 : 0 < 2^w := Nat.two_pow_pos w
  obtain ⟨pages, hp1, hp2⟩ := translateAll_mapped (s := s) (c := c) (acc := acc) (globalVas (2^w) ((addrs.map fun p => (p, s.place c p.1 p.2 (2^w))).filterMap fun p => p.2.map fun q => (p.1.1, q))) pf (by
    intro va hva
    simp only [globalVas, List.mem_flatMap] at hva
    obtain ⟨p, hp, hva⟩ := hva
    obtain ⟨q, hq, e1, e2⟩ := hx p hp
    match hp2 : p.2 with
    | .local b k o => simp [hp2] at hva
    | .global a =>
      simp [hp2] at hva; rw [hp2] at e2; obtain ⟨hw0, rfl⟩ := hgl q hq a e2
      rcases hva with rfl | rfl
      · exact hmp q hq hw0 0 h0
      · have := hmp q hq hw0 (2^w - 1) (by omega); rwa [← Nat.add_sub_assoc h0] at this)
  have hpg : ∀ q ∈ addrs, windowOf q.2 = 0 → ∀ i, i < 2^w → pageAddr pages (q.2 + i) = pf (q.2/4096) + q.2 % 4096 + i := by
    intro q hq hw0 i hi
    obtain ⟨e1, e2⟩ := hal q hq i hi
    have : q.2 ∈ globalVas (2^w) ((addrs.map fun p => (p, s.place c p.1 p.2 (2^w))).filterMap fun p => p.2.map fun q => (p.1.1, q)) := by
      simp only [globalVas, List.mem_flatMap]
      obtain ⟨pl, hpl⟩ := Option.isSome_iff_exists.1 (h.inside q hq).2.2
      obtain ⟨rfl, _⟩ := hgw q hq hw0 pl hpl
      refine ⟨(q.1, .global q.2), ?_, by simp⟩
      simp only [List.mem_filterMap, List.mem_map, Option.map_eq_some_iff]
      exact ⟨_, ⟨q, hq, rfl⟩, _, hpl, rfl⟩
    have hh := hp2 _ this
    simp only [pageAddr] at hh ⊢; rw [e1, e2]; omega
  refine ⟨pages, hpl, ?_, ?_, ?_, ?_, ?_, ?_, ?_, ?_⟩
  · unfold State.wordPages; rw [hp1]
  · rw [List.map_filterMap]
    have : ∀ l : List (Nat × Nat), (∀ p ∈ l, (s.place c p.1 p.2 (2^w)).isSome) → (l.map fun p => (p, s.place c p.1 p.2 (2^w))).filterMap (fun a => Option.map Prod.fst (a.2.map fun q => (a.1.1, q))) = l.map Prod.fst := by
      intro l; induction l with
      | nil => intro _; rfl
      | cons p l ih => intro hl; obtain ⟨x, hx⟩ := Option.isSome_iff_exists.1 (hl p (by simp)); simp only [List.map_cons, List.filterMap_cons, hx, Option.map_some]; rw [ih fun q hq => hl q (by simp [hq])]
    exact this addrs fun p hp => (h.inside p hp).2.2
  · rw [List.map_filterMap]
    have : ∀ l : List (Nat × Nat), (∀ p ∈ l, (s.place c p.1 p.2 (2^w)).isSome) → (l.map fun p => (p, s.place c p.1 p.2 (2^w))).filterMap (fun a => Option.map (fun p : Nat × Place => some p.2) (a.2.map fun q => (a.1.1, q))) = l.map fun p => s.place c p.1 p.2 (2^w) := by
      intro l; induction l with
      | nil => intro _; rfl
      | cons p l ih => intro hl; obtain ⟨x, hx⟩ := Option.isSome_iff_exists.1 (hl p (by simp)); simp only [List.map_cons, List.filterMap_cons, hx, Option.map_some]; rw [ih fun q hq => hl q (by simp [hq])]
    exact this addrs fun p hp => (h.inside p hp).2.2
  · intro p hp hw0 pa hm
    have e := hpf p hp hw0 pa hm
    have a1 := hpg p hp hw0 0 h0
    refine ⟨by rw [e]; exact a1, ?_⟩
    have a3 := hpg p hp hw0 (2^w-1) (by omega)
    have e3 : p.2 + (2^w - 1) = p.2 + 2^w - 1 := by omega
    rw [e3] at a3; rw [a3, e]; omega
  · unfold State.someAbsent
    rw [List.any_eq_false]; intro p hp
    obtain ⟨q, hq, e1, e2⟩ := hx p hp
    match hp2' : p.2 with
    | .global a => simp
    | .local b k o =>
      rw [hp2'] at e2
      simp; intro x hx; exact (h.whole q hq b k o e2).2 x hx
  · intro fresh; unfold State.poisonTrap
    have : ((addrs.map fun p => (p, s.place c p.1 p.2 (2^w))).filterMap fun p => p.2.map fun q => (p.1.1, q)).filterMap (fun p => (s.lanePoison (2^w) pages (fresh p.1) p.2).map fun i => (p.1, i)) = [] := by
      rw [List.filterMap_eq_nil_iff]; intro p hp
      obtain ⟨q, hq, e1, e2⟩ := hx p hp
      simp only [Option.map_eq_none_iff]
      match hp2' : p.2 with
      | .local b k o =>
        rw [hp2'] at e2
        have := (h.whole q hq b k o e2).1
        simp [State.lanePoison, this]
      | .global a =>
        rw [hp2'] at e2; obtain ⟨hw0, rfl⟩ := hgl q hq a e2
        simp only [State.lanePoison]
        obtain ⟨pa, hm, hr⟩ := h.mapped q hq hw0
        have key : ∀ l : List Nat, (∀ i ∈ l, i < 2^w) → firstSome l (fun i => let pa := pageAddr pages (q.2 + i); if fresh p.1 pa then (s.poisonRead pa).map fun k => (pa / 32 * 32, k) else none) = none := by
          intro l; induction l with
          | nil => intro _; rfl
          | cons i l ih =>
            intro hl
            have hi := hl i (by simp)
            have e : pageAddr pages (q.2 + i) = pa + i := by rw [hpg q hq hw0 i hi, ← hpf q hq hw0 pa hm]
            have : s.poisonRead (pa + i) = none := by
              simp only [State.poisonRead, hr i hi, State.poisonAt, h.sound]; cases s.poisonUnit (s.served (pa+i)) <;> simp [Tab.find]
            simp only [firstSome, e, this]; simp; exact ih fun j hj => hl j (by simp [hj])
        exact key _ (by simp)
    rw [this]
  all_goals
    unfold State.txnCapacity; dsimp only; rw [if_pos]
    simp only [Bool.not_eq_true', List.any_eq_false]
    intro p hp; obtain ⟨q, hq, e1, e2⟩ := hx p hp
    simp [Wave.inTxn, e1, h.single q hq]

end Sys2Proof.Machine
end

