-- ==== Sys2Proof/Laws/Engines.lean ====
section
/-! SUPPORT. What the shared operations of engine commands, host commands and the end of a step come to. -/
namespace Sys2Proof.Machine

/-! ### Commands that may act -/

/-- A copy command that begins and whose reads and deliveries succeed moves its bytes (R257, R428). -/
theorem State.runCopy_moves {s u v w : State} {i : Instr} {b n : Nat} {y : CopyEntry} (h : CopyBegins s i b n y u)
    (perf : Perform) (p : Plan) (bytes : List Byte) (m : Moved) (hp : perf u b (s.copyEngine b) y = (.ok p, v))
    (hr : CopyReads v b p.runs bytes m w) (hm : p.put bytes = .ok m) : s.runCopy i perf = moved w b n y.claim m := by
  obtain ⟨q, hq⟩ := h.inside
  have claimed : ((ringOf i).isSome && y.claim.isNone) = false := by
    cases hr : (ringOf i).isSome with
    | false => rfl
    | true => have := h.claimed hr; cases hy : y.claim <;> simp_all
  have alone : ((s.block b).copies.takeWhile fun z => z.entry != n).any (fun z => match copyCommand z.command with
      | .ok j => (match s.copyPrints b z j with | .ok p => q.edge p | .error _ => false)
      | .error _ => false) = false := by
    rw [List.any_eq_false]
    intro z hz
    split
    · rename_i j hj
      split
      · rename_i p hp'; simp [h.alone z hz j p q hj hp' hq]
      · simp
    · simp
  unfold State.runCopy
  rw [h.command]; dsimp only; rw [h.entry]; dsimp only
  rw [if_neg (by simp [h.awake]), if_neg (by simp [h.fresh]), if_neg (by simp [claimed]), hq]
  dsimp only
  have take : ¬ (m.scratch.any fun x => !w.poolTakes (w.block x.1).core 1) = true := by
    simp only [List.any_eq_true, not_exists]; intro x hx; simp [hr.room x hx.1] at hx
  rw [if_neg (fun hh => absurd (hh.symm.trans alone) (by simp)), h.staged]
  dsimp only
  rw [hp]
  dsimp only
  unfold State.readCopy
  rw [h.empty, hr.gathered]
  dsimp only
  rw [if_neg (by rw [hr.whole]; exact Nat.lt_irrefl _), hm]
  unfold State.beginCopy
  dsimp only
  rw [hr.sound]
  dsimp only
  rw [if_neg take]
  rfl

/-- A stream command of a busy program is performed for it. -/
theorem State.onStream_goes {s : State} {e k : Nat} {p : Program} (h : StreamGoes s e k p)
    (f : State → Nat → Nat → Program → State) : s.onStream f = f s e k p := by
  unfold State.onStream
  rw [h.command]; dsimp only; rw [h.program, if_pos h.busy]

/-- A host command whose OP waits is performed (R334). -/
theorem State.onCommand_waits {s : State} {op : Nat} (hb : s.busy = true) (ho : s.op.toNat = op) (f : State → State) :
    s.onCommand op f = f s := by
  unfold State.onCommand; rw [if_pos ⟨hb, ho⟩]

/-! ### The end of a step -/

/-- A delivery to the host either finds its queue full and changes nothing, or takes the first record that waits (R335). -/
theorem State.deliverHost_cases (s : State) :
    (s.deliverHost = s ∧ s.HostRecordsWait) ∨ ∃ r rest, s.hostHeld = r :: rest ∧ s.deliverHost.hostHeld = rest := by
  unfold State.deliverHost
  cases h : s.hostHeld with
  | nil => left; exact ⟨rfl, fun hh => absurd h hh⟩
  | cons r rest =>
    dsimp only
    cases hq : s.hostQueue with
    | none => right; exact ⟨r, rest, rfl, rfl⟩
    | some q =>
      dsimp only
      split
      · left; exact ⟨rfl, fun _ => ⟨q, hq, ‹_›⟩⟩
      · right; refine ⟨r, rest, rfl, ?_⟩; split <;> rfl

end Sys2Proof.Machine
end

