-- ==== Sys2Proof/Laws/Memory.lean ====
section
/-! SUPPORT. Every memory operation keeps memory's canonical form, and the memory of reset has it. -/
namespace Sys2Proof.Machine

theorem Memory.wf_iff (m : List Host.Cell) :
    Memory.wf m = true ↔ Tab.sorted (α := Byte) m = true ∧ ∀ p ∈ m, p.2 ≠ 0 := by
  simp [Memory.wf]

theorem Memory.wf_put (m : List Host.Cell) (a : Nat) (b : Byte) (h : Memory.wf m = true) :
    Memory.wf (Tab.put (α := Byte) m a b 0) = true :=
  (Memory.wf_iff _).2 (Tab.put_canonical (α := Byte) m a b 0 ((Memory.wf_iff m).1 h))

theorem State.reset_wf : Memory.wf State.reset.mem = true := rfl

theorem State.writeHome_wf (s : State) (pa : Nat) (b : Byte) (h : Memory.wf s.mem = true) :
    Memory.wf (s.writeHome pa b).mem = true := by
  unfold State.writeHome
  dsimp only
  split
  · exact h
  · exact Memory.wf_put _ _ _ h

theorem State.writeHome_fold_wf (l : List (Nat × Byte)) (s : State) (h : Memory.wf s.mem = true) :
    Memory.wf (l.foldl (fun s p => s.writeHome p.1 p.2) s).mem = true := by
  induction l generalizing s with
  | nil => exact h
  | cons p r ih => exact ih _ (State.writeHome_wf s p.1 p.2 h)

theorem State.writeHomes_wf (s : State) (l : List (Nat × Byte)) (h : Memory.wf s.mem = true) :
    Memory.wf (s.writeHomes l).mem = true := by
  unfold State.writeHomes
  dsimp only
  split <;> exact State.writeHome_fold_wf l s h

theorem State.writeNat_wf (s : State) (pa n v : Nat) (h : Memory.wf s.mem = true) :
    Memory.wf (s.writeNat pa n v).mem = true := State.writeHomes_wf s _ h

theorem State.put_fold_wf (l : List (Nat × Byte)) (m : List Host.Cell) (h : Memory.wf m = true) :
    Memory.wf (l.foldr (fun x m => Tab.put (α := Byte) m x.1 x.2 0) m) = true := by
  induction l with
  | nil => exact h
  | cons p r ih => exact Memory.wf_put _ p.1 p.2 ih

theorem State.writeBack_wf (s : State) (p : Nat → Bool) (h : Memory.wf s.mem = true) :
    Memory.wf (s.writeBack p).mem = true := State.put_fold_wf _ _ h

/-- Where an access is served does not depend on what memory holds (R338). -/
@[simp] theorem State.served_writeHome (s : State) (pa : Nat) (b : Byte) (a : Nat) :
    (s.writeHome pa b).served a = s.served a := by
  unfold State.writeHome; dsimp only; split <;> rfl

/-- Pairs put into a table in turn, the first of a list last: its first pair of a key decides. -/
theorem Tab.getD_foldr_put (l m : Tab Byte) (a : Nat) :
    Tab.getD (l.foldr (fun x m => Tab.put (α := Byte) m x.1 x.2 0) m) a 0 = (l.find a).getD (m.getD a 0) := by
  induction l with
  | nil => rfl
  | cons q r ih =>
    simp only [List.foldr_cons, Tab.getD_put, ih, Tab.find]
    by_cases h : q.1 = a
    · simp [h]
    · simp [h, Ne.symm h]

end Sys2Proof.Machine
end

