-- ==== Sys2Proof/Laws/Operands.lean ====
section
/-! SUPPORT. What the shared operations of class A words come to: the slag check, and a word whose result is computed in each
active lane. -/
namespace Sys2Proof.Machine

/-- Operands free of slag trap nothing (R76). -/
theorem slagTrap_none (op cls : Nat) (act : List Nat) (ex : List Examined)
    (h : ∀ l ∈ act, ∀ e ∈ ex, slagOf e.ty (e.bits l) = none) : slagTrap op cls act ex = none := by
  unfold slagTrap
  have : act.filter (fun l => ex.any fun e => (slagOf e.ty (e.bits l)).isSome) = [] := by
    rw [List.filter_eq_nil_iff]; intro l hl; simp; intro e he; exact h l hl e he
  simp [this]

/-- Nor do operands of a word that carries slag on (R77). -/
theorem slagCheck_none {o : OpA} {op : Nat} {act : List Nat} {ex : List Examined}
    (h : (o.sp = true ∧ slagCarries o.ty.toNat = true) ∨ ∀ l ∈ act, ∀ e ∈ ex, slagOf e.ty (e.bits l) = none) :
    (if o.sp && slagCarries o.ty.toNat then none else slagTrap op 0 act ex) = none := by
  rcases h with ⟨h1, h2⟩ | h
  · simp [h1, h2]
  · split
    · rfl
    · exact slagTrap_none _ _ _ _ h

/-- A class A word that may act and whose check passes writes what `out` gives, at once or late. -/
theorem State.issueA_ready {s : State} {c : Ctx} {h : Hdr} {o : OpA} {sh : ShapeA} (r : ReadyA s c h o sh) (late : Bool)
    (check : State → Ctx → List Nat → Option Trap) (out : State → Ctx → List Nat → List RegWrite)
    (pass : check s c (s.activeLanes c h.pg h.pn) = none) :
    s.issueA h o sh late check out =
      if late then retired s c h.s false [] (out s c (s.activeLanes c h.pg h.pn))
      else retired s c h.s false (out s c (s.activeLanes c h.pg h.pn)) [] := by
  unfold State.issueA
  rw [State.issueWord_ready r]
  simp only [pass]
  cases late <;> rfl

/-- One without a check places its result in its destination. -/
theorem State.issueValue_ready {s : State} {c : Ctx} {h : Hdr} {o : OpA} {sh : ShapeA} (r : ReadyA s c h o sh) (late : Bool)
    (ty : Nat) (f : State → Ctx → List Nat → Nat → Nat) :
    s.issueValue h o sh late ty f =
      if late then lateA s c h o sh ty (f s c (s.activeLanes c h.pg h.pn))
      else resultA s c h o sh ty (f s c (s.activeLanes c h.pg h.pn)) := by
  unfold State.issueValue
  rw [State.issueA_ready r _ _ _ rfl]
  rfl

end Sys2Proof.Machine
end

