-- ==== Sys2Proof/Tests/Slice0.lean ====
section
/-! SUPPORT. Tests: words written out from the encodings of spec/ decode to their instructions; single steps give the values
that the spec's rules and examples state; and for each statement of the obligations states and operands that meet its
hypotheses. -/
open Sys2Proof Sys2Proof.Machine
set_option maxRecDepth 100000
set_option exponentiation.threshold 3000
namespace Sys2Proof.Tests

/-! ### Decoding -/

/-- The header of an unguarded word without a settle marker, and of one with it. -/
def hdr : Hdr := { s := false, pg := 7, pn := false }
def hdrS : Hdr := { s := true, pg := 7, pn := false }

/-- Operands with every field 0. -/
def opA : OpA := { d := 0, a := 0, b := 0, c := 0, ua := false, ub := false, uc := false, ty := 0, rm := 0, ov := false, x3 := 0,
                   sp := false, ib := false, x1 := false }
def opM : OpM := { d := 0, a := 0, off := 0, w := 0, sc := 0, ord := 0, cq := 0, ua := false, sg := false }
def opS : OpS := { d := 0, a := 0, imm := 0 }

/-- Each word decodes to its instruction, through the host's question too, and is what its instruction encodes to. -/
def allDecode (l : List (Nat × Instr)) : Bool :=
  l.all fun p => decodeTableWord 64 p.1 == some p.2 && encodeWord p.2 == some (BitVec.ofNat 64 p.1)

/-- The words of the integer instructions, written out from Tables 6-2 to 6-16 and the entries: each decodes to the
instruction that it stands for, which encodes to it. -/
theorem test_decode_integer : allDecode [
    (0x3800010203000440, .iadd hdr { opA with d := 1, a := 2, b := 3, ty := 2, ov := true }),
    (0x3801010203000C00, .isub hdr { opA with d := 1, a := 2, b := 3, ty := 6 }),
    (0x3802010203000000, .imul hdr { opA with d := 1, a := 2, b := 3 }),
    (0x3803020406000E00, .imulh hdr { opA with d := 2, a := 4, b := 6, ty := 7 }),
    (0x3804010203040400, .imad hdr { opA with d := 1, a := 2, b := 3, c := 4, ty := 2 }),
    (0x3805010203000200, .imin hdr { opA with d := 1, a := 2, b := 3, ty := 1 }),
    (0x3806010203000A00, .imax hdr { opA with d := 1, a := 2, b := 3, ty := 5 }),
    (0x3807010200000400, .iabs hdr { opA with d := 1, a := 2, ty := 2 }),
    (0x3808010200000800, .ineg hdr { opA with d := 1, a := 2, ty := 4 }),
    (0x38090102C8000402, .idiv hdr { opA with d := 1, a := 2, b := 0xc8, ty := 2, ib := true }),
    (0x380A010203000400, .irem hdr { opA with d := 1, a := 2, b := 3, ty := 2 }),
    (0x380B040607000418, .lea hdr { opA with d := 4, a := 6, b := 7, ty := 2, x3 := 3 })] = true := by decide

/-- The words of the logic instructions, written out from Tables 6-2 to 6-16 and the entries: each decodes to the
instruction that it stands for, which encodes to it. -/
theorem test_decode_logic : allDecode [
    (0x380C010203000C00, .and hdr { opA with d := 1, a := 2, b := 3, ty := 6 }),
    (0x380D010203000C00, .or hdr { opA with d := 1, a := 2, b := 3, ty := 6 }),
    (0x380E010203000C00, .xor hdr { opA with d := 1, a := 2, b := 3, ty := 6 }),
    (0x380F010203000C00, .andn hdr { opA with d := 1, a := 2, b := 3, ty := 6 }),
    (0x3810010203000C00, .shl hdr { opA with d := 1, a := 2, b := 3, ty := 6 }),
    (0x3811010203000C00, .shr hdr { opA with d := 1, a := 2, b := 3, ty := 6 }),
    (0x3812010203000C00, .sar hdr { opA with d := 1, a := 2, b := 3, ty := 6 }),
    (0x3813010203000C00, .rotl hdr { opA with d := 1, a := 2, b := 3, ty := 6 }),
    (0x3814010203040C01, .funsh hdr { opA with d := 1, a := 2, b := 3, c := 4, ty := 6, x1 := true }),
    (0x3815010203040400, .bfx hdr { opA with d := 1, a := 2, b := 3, c := 4, ty := 2 }),
    (0x3816010203040C00, .bfi hdr { opA with d := 1, a := 2, b := 3, c := 4, ty := 6 }),
    (0x3817010200000C00, .popc hdr { opA with d := 1, a := 2, ty := 6 }),
    (0x3818010200000C00, .clz hdr { opA with d := 1, a := 2, ty := 6 }),
    (0x3819010200000C00, .ctz hdr { opA with d := 1, a := 2, ty := 6 }),
    (0x381A010200000C00, .brev hdr { opA with d := 1, a := 2, ty := 6 }),
    (0x381B010203040C00, .prmt hdr { opA with d := 1, a := 2, b := 3, c := 4, ty := 6 }),
    (0x381C010203040429, .isetp hdr { opA with d := 1, a := 2, b := 3, c := 4, ty := 2, x3 := 5, x1 := true }),
    (0x381D010203040000, .isel hdr { opA with d := 1, a := 2, b := 3, c := 4 }),
    (0x381E01004D000002, .mov hdr { opA with d := 1, b := 0x4d, ib := true })] = true := by decide

/-- The words of the float instructions, written out from Tables 6-2 to 6-16 and the entries: each decodes to the
instruction that it stands for, which encodes to it. -/
theorem test_decode_float : allDecode [
    (0x38200102030014C0, .fadd hdr { opA with d := 1, a := 2, b := 3, ty := 0xa, rm := 1, ov := true }),
    (0x38210102030014C0, .fsub hdr { opA with d := 1, a := 2, b := 3, ty := 0xa, rm := 1, ov := true }),
    (0x38220102030014C0, .fmul hdr { opA with d := 1, a := 2, b := 3, ty := 0xa, rm := 1, ov := true }),
    (0x3823010203041504, .ffma hdr { opA with d := 1, a := 2, b := 3, c := 4, ty := 0xa, rm := 2, sp := true }),
    (0x3824010203001400, .fmin hdr { opA with d := 1, a := 2, b := 3, ty := 0xa }),
    (0x3825010203001800, .fmax hdr { opA with d := 1, a := 2, b := 3, ty := 0xc }),
    (0x3826030203041439, .fsetp hdr { opA with d := 3, a := 2, b := 3, c := 4, ty := 0xa, x3 := 7, x1 := true }),
    (0x3827010200001580, .frcp hdr { opA with d := 1, a := 2, ty := 0xa, rm := 3 }),
    (0x3828010200001580, .frsq hdr { opA with d := 1, a := 2, ty := 0xa, rm := 3 }),
    (0x3829010200001580, .fsqrt hdr { opA with d := 1, a := 2, ty := 0xa, rm := 3 }),
    (0x382B010200001580, .fex2 hdr { opA with d := 1, a := 2, ty := 0xa, rm := 3 }),
    (0x382C010200001580, .flg2 hdr { opA with d := 1, a := 2, ty := 0xa, rm := 3 }),
    (0x382D010200001580, .fsin hdr { opA with d := 1, a := 2, ty := 0xa, rm := 3 }),
    (0x382E010200001580, .fcos hdr { opA with d := 1, a := 2, ty := 0xa, rm := 3 }),
    (0x382F010200001580, .ftanh hdr { opA with d := 1, a := 2, ty := 0xa, rm := 3 }),
    (0x382A010203001400, .fdiv hdr { opA with d := 1, a := 2, b := 3, ty := 0xa }),
    (0x3830010200001480, .frnd hdr { opA with d := 1, a := 2, ty := 0xa, rm := 1 }),
    (0x3831010200001400, .fcls hdr { opA with d := 1, a := 2, ty := 0xa }),
    (0x3832010203001400, .fscl hdr { opA with d := 1, a := 2, b := 3, ty := 0xa })] = true := by decide

/-- The words of the convert instructions, written out from Tables 6-2 to 6-16 and the entries: each decodes to the
instruction that it stands for, which encodes to it. -/
theorem test_decode_convert : allDecode [
    (0x38400102000A1000, .fcvt hdr { opA with d := 1, a := 2, c := 0xa, ty := 8 }),
    (0x3841010200021400, .icvt hdr { opA with d := 1, a := 2, c := 2, ty := 0xa }),
    (0x3842010203001200, .npack hdr { opA with d := 1, a := 2, b := 3, ty := 9 }),
    (0x3843010200001C18, .nunpk hdr { opA with d := 1, a := 2, ty := 0xe, x3 := 3 }),
    (0x3844010200001428, .bxhdr hdr { opA with d := 1, a := 2, ty := 0xa, x3 := 5 }),
    (0x3845010203041430, .dot4 hdr { opA with d := 1, a := 2, b := 3, c := 4, ty := 0xa, x3 := 6 }),
    (0x3850010203000018, .shfl hdr { opA with d := 1, a := 2, b := 3, x3 := 3 }),
    (0x3851010200000009, .vote hdr { opA with d := 1, a := 2, x3 := 1, x1 := true }),
    (0x3852010200000000, .matchLanes hdr { opA with d := 1, a := 2 }),
    (0x3853010200000410, .wred hdr { opA with d := 1, a := 2, ty := 2, x3 := 2 }),
    (0x3854010200050401, .wscan hdr { opA with d := 1, a := 2, c := 5, ty := 2, x1 := true }),
    (0x3855010203000020, .plop hdr { opA with d := 1, a := 2, b := 3, x3 := 4 }),
    (0x3856090000000000, .pget hdr { opA with d := 9 }),
    (0x385700027F000002, .pset hdr { opA with a := 2, b := 0x7f, ib := true })] = true := by decide

/-- The words of the immediate instructions, written out from Tables 6-2 to 6-16 and the entries: each decodes to the
instruction that it stands for, which encodes to it. -/
theorem test_decode_immediate : allDecode [
    (0x39000100DEADBEEF, .movi hdr { d := 0x1, a := 0x0, imm := 0xdeadbeef }),
    (0x3901C10012345678, .movhi hdr { d := 0xc1, a := 0x0, imm := 0x12345678 }),
    (0x3902010200000005, .iaddi hdr { d := 0x1, a := 0x2, imm := 0x5 }),
    (0x3903010200000005, .imuli hdr { d := 0x1, a := 0x2, imm := 0x5 }),
    (0x3904010200000005, .andi hdr { d := 0x1, a := 0x2, imm := 0x5 }),
    (0x3905010200000005, .ori hdr { d := 0x1, a := 0x2, imm := 0x5 }),
    (0x3906010200000005, .xori hdr { d := 0x1, a := 0x2, imm := 0x5 }),
    (0x3907110200000005, .isetpi hdr { d := 0x11, a := 0x2, imm := 0x5 }),
    (0x390801023F800000, .faddi hdr { d := 0x1, a := 0x2, imm := 0x3f800000 }),
    (0x3909C30240000000, .fmuli hdr { d := 0xc3, a := 0x2, imm := 0x40000000 }),
    (0x390A3A023F800000, .fsetpi hdr { d := 0x3a, a := 0x2, imm := 0x3f800000 })] = true := by decide

/-- The words of the memory instructions, written out from Tables 6-2 to 6-16 and the entries: each decodes to the
instruction that it stands for, which encodes to it. -/
theorem test_decode_memory : allDecode [
    (0x3A00040600040400, .ldg hdr { opM with d := 4, a := 6, off := 0x40, w := 2 }),
    (0x3A01040600040400, .stg hdr { opM with d := 4, a := 6, off := 0x40, w := 2 }),
    (0x3A04040600040400, .lds hdr { opM with d := 4, a := 6, off := 0x40, w := 2 }),
    (0x3A05040600040400, .sts hdr { opM with d := 4, a := 6, off := 0x40, w := 2 }),
    (0x3A06040600040400, .ldc hdr { opM with d := 4, a := 6, off := 0x40, w := 2 }),
    (0x3A07040600040400, .stc hdr { opM with d := 4, a := 6, off := 0x40, w := 2 }),
    (0x3A08040600040400, .ldl hdr { opM with d := 4, a := 6, off := 0x40, w := 2 }),
    (0x3A09040600040400, .stl hdr { opM with d := 4, a := 6, off := 0x40, w := 2 }),
    (0x3A0A040600040400, .ld hdr { opM with d := 4, a := 6, off := 0x40, w := 2 }),
    (0x3A0B040600040400, .st hdr { opM with d := 4, a := 6, off := 0x40, w := 2 }),
    (0x3A02040624040400, .ldgs hdr { opM with d := 4, a := 6, off := 0x24040, w := 2 }),
    (0x3A03040624040400, .stgs hdr { opM with d := 4, a := 6, off := 0x24040, w := 2 }),
    (0x3A0C040600000402, .lkp hdr { opM with d := 4, a := 6, w := 2, ua := true }),
    (0x3A0D000600040400, .pref hdr { opM with a := 6, off := 0x40, w := 2 }),
    (0x3A10040690008570, .atom hdr { opM with d := 4, a := 6, off := 0x90008, w := 2, sc := 5, ord := 3 }),
    (0x3A11040600008540, .red hdr { opM with d := 4, a := 6, off := 8, w := 2, sc := 5 }),
    (0x3A12040600002142, .enq hdr { opM with d := 4, a := 6, off := 2, sc := 5, ua := true }),
    (0x3A13040600002142, .deq hdr { opM with d := 4, a := 6, off := 2, sc := 5, ua := true }),
    (0x3A14000600000142, .qwait hdr { opM with a := 6, sc := 5, ua := true })] = true := by decide

/-- The words of the engine instructions, written out from Tables 6-2 to 6-16 and the entries: each decodes to the
instruction that it stands for, which encodes to it. -/
theorem test_decode_engine : allDecode [
    (0x3A15040600008400, .asthr hdr { opM with d := 4, a := 6, off := 8, w := 2 }),
    (0x3A20040600008002, .ring hdr { opM with d := 4, a := 6, off := 8, ua := true }),
    (0x3A21C40624000002, .awf hdr { opM with d := 0xc4, a := 6, off := 0x24000, ua := true }),
    (0x3A22000624000002, .rls hdr { opM with a := 6, off := 0x24000, ua := true }),
    (0x3A2304060001F002, .strm hdr { opM with d := 4, a := 6, off := 0x1f, ua := true }),
    (0x3A24040600000002, .strq hdr { opM with d := 4, a := 6, ua := true }),
    (0x3A30000600000002, .gang hdr { opM with a := 6, ua := true }),
    (0x3A31050600000002, .mld hdr { opM with d := 5, a := 6, ua := true }),
    (0x3A32000000000000, .mswp hdr opM),
    (0x3A330206A8000002, .mma hdr { opM with d := 2, a := 6, off := 0xa8000, ua := true }),
    (0x3A348906A0000002, .mas hdr { opM with d := 0x89, a := 6, off := 0xa0000, ua := true }),
    (0x3A35020604000002, .mconv hdr { opM with d := 2, a := 6, off := 0x4000, ua := true }),
    (0x3A36070000000000, .mpsh hdr { opM with d := 7 }),
    (0x3A37070000000000, .mpop hdr { opM with d := 7 }),
    (0x3A38030000000000, .mzero hdr { opM with d := 3 }),
    (0x3A39030629800002, .msta hdr { opM with d := 3, a := 6, off := 0x29800, ua := true })] = true := by decide

/-- The words of the control instructions, written out from Tables 6-2 to 6-16 and the entries: each decodes to the
instruction that it stands for, which encodes to it. -/
theorem test_decode_control : allDecode [
    (0x3B00FFFFFFFFF900, .bra hdr { tgt := 0xfffffffff9, modc := 0x0 }),
    (0x3B0100000000000C, .brx hdr { tgt := 0x0, modc := 0xc }),
    (0x3B02000000001F0A, .call hdr { tgt := 0x1f, modc := 0xa }),
    (0x3B03000000000104, .ret hdr { tgt := 0x1, modc := 0x4 }),
    (0x3B04000000000002, .meet hdr { d := 0x0, a := 0x0, imm := 0x2 }),
    (0x3B04010000000000, .meetClear hdr { d := 0x1, a := 0x0, imm := 0x0 }),
    (0x3B05000000000000, .exit hdr { d := 0x0, a := 0x0, imm := 0x0 }),
    (0x3B06000000000000, .nop hdr { d := 0x0, a := 0x0, imm := 0x0 }),
    (0x3B07000000000003, .trap hdr { d := 0x0, a := 0x0, imm := 0x3 }),
    (0x3B080000000000FF, .sleep hdr { d := 0x0, a := 0x0, imm := 0xff }),
    (0x3B10000001000403, .binit hdr { d := 0x0, a := 0x0, imm := 0x1000403 }),
    (0x3B11028900000003, .barv hdr { d := 0x2, a := 0x89, imm := 0x3 }),
    (0x3B12000600000003, .bwait hdr { d := 0x0, a := 0x6, imm := 0x3 }),
    (0x3B13010000000003, .bsync hdr { d := 0x1, a := 0x0, imm := 0x3 }),
    (0x3B14050600000005, .cwait hdr { d := 0x5, a := 0x6, imm := 0x5 }),
    (0x3B15000000000005, .fence hdr { d := 0x0, a := 0x0, imm := 0x5 }),
    (0x3B16000000000000, .fencelk hdr { d := 0x0, a := 0x0, imm := 0x0 }),
    (0x3B19000000000009, .tbegin hdr { d := 0x0, a := 0x0, imm := 0x9 }),
    (0x3B1A020000000000, .tend hdr { d := 0x2, a := 0x0, imm := 0x0 }),
    (0x3B1B00000000004D, .tabort hdr { d := 0x0, a := 0x0, imm := 0x4d }),
    (0x3B1C000000000000, .region hdr { d := 0x0, a := 0x0, imm := 0x0 }),
    (0x3B2000000000001F, .grow hdr { d := 0x0, a := 0x0, imm := 0x1f }),
    (0x3B21000000000002, .shrink hdr { d := 0x0, a := 0x0, imm := 0x2 }),
    (0x3B22050600000002, .job hdr { d := 0x5, a := 0x6, imm := 0x2 }),
    (0x3B23040000000410, .rsp hdr { d := 0x4, a := 0x0, imm := 0x410 }),
    (0x3B24000400000018, .wsp hdr { d := 0x0, a := 0x4, imm := 0x18 }),
    (0x3B25000000000000, .emuret hdr { d := 0x0, a := 0x0, imm := 0x0 }),
    (0x3B300000000000C8, .halt hdr { d := 0x0, a := 0x0, imm := 0xc8 }),
    (0x3B31050600000002, .tlbinv hdr { d := 0x5, a := 0x6, imm := 0x2 })] = true := by decide

/-- The words of the sift instructions, written out from Tables 6-2 to 6-16 and the entries: each decodes to the
instruction that it stands for, which encodes to it. -/
theorem test_decode_sift : allDecode [
    (0x3860040802030002, .sift hdr { opA with d := 4, a := 8, b := 2, c := 3, ib := true }),
    (0x3861000800030000, .sifth hdr { opA with a := 8, c := 3 }),
    (0x3862000A00008000, .rseed hdr { opA with a := 0xa, ua := true }),
    (0x3863040000000E00, .rand hdr { opA with d := 4, ty := 7 }),
    (0x3864060703005401, .prune hdr { opA with d := 6, a := 7, b := 3, ub := true, ty := 0xa, x1 := true }),
    (0x3865140806044C10, .spcmp hdr { opA with d := 0x14, a := 8, b := 6, c := 4, ub := true, ty := 6, x3 := 2 }),
    (0x38661E1406044C18, .spexp hdr { opA with d := 0x1e, a := 0x14, b := 6, c := 4, ub := true, ty := 6, x3 := 3 }),
    (0x3867050400001400, .tslag hdr { opA with d := 5, a := 4, ty := 0xa })] = true := by decide

/-- The words that the spec writes out beside their assembly (Table 6-17 and the examples of 07 to 11 and 15 to 17). -/
theorem test_decode_examples : allDecode [
    (0xBA00040200040406, .ldg hdrS { opM with d := 4, a := 2, off := 0x40, w := 2, cq := 1, ua := true }),
    (0x0823010203011400, .ffma { hdr with pg := 1 } { opA with d := 1, a := 2, b := 3, c := 1, ty := 10 }),
    (0x3B04000000000002, .meet hdr { opS with imm := 2 }),
    (0x0B00000000000500, .bra { hdr with pg := 1 } { tgt := 5, modc := 0 }),
    (0x3B00FFFFFFFFF900, .bra hdr { tgt := 0xFFFFFFFFF9, modc := 0 }),
    (0x3854090800020401, .wscan hdr { opA with d := 9, a := 8, c := 2, ty := 2, x1 := true }),
    (0x3907110200000005, .isetpi hdr { d := 0x11, a := 2, imm := 5 }),
    (0x3B02000000001F0A, .call hdr { tgt := 31, modc := 10 }),
    (0x3B04010000000000, .meetClear hdr { opS with d := 1 }),
    (0x3A01040200040402, .stg hdr { opM with d := 4, a := 2, off := 0x40, w := 2, ua := true }),
    (0xBA10060400008542, .atom hdrS { opM with d := 6, a := 4, off := 8, w := 2, sc := 5, ua := true }),
    (0x3B10000001000403, .binit hdr { opS with imm := 256 * 2 ^ 16 + 2 ^ 10 + 3 }),
    (0xBA21060824000002, .awf hdrS { opM with d := 6, a := 8, off := 9 * 2 ^ 14, ua := true }),
    (0x3A34890AA0000002, .mas hdr { opM with d := 0x89, a := 10, off := 0xA0000, ua := true }),
    (0x3A15090300000400, .asthr hdr { opM with d := 9, a := 3, w := 2 }),
    (0x3867050400001400, .tslag hdr { opA with d := 5, a := 4, ty := 10 }),
    (0x3860040802030002, .sift hdr { opA with d := 4, a := 8, b := 2, c := 3, ib := true }),
    (0x3861000800030000, .sifth hdr { opA with a := 8, c := 3 }),
    (0x3862000A00008000, .rseed hdr { opA with a := 10, ua := true }),
    (0x3863040000000E00, .rand hdr { opA with d := 4, ty := 7 }),
    (0x3864060703005400, .prune hdr { opA with d := 6, a := 7, b := 3, ub := true, ty := 10 }),
    (0x3865140806044C10, .spcmp hdr { opA with d := 20, a := 8, b := 6, c := 4, ub := true, ty := 6, x3 := 2 }),
    (0x38661E1406044C18, .spexp hdr { opA with d := 30, a := 20, b := 6, c := 4, ub := true, ty := 6, x3 := 3 }),
    (0x1A052A15000006A2, .sts { hdr with pg := 3 } { opM with d := 42, a := 21, w := 3, sc := 2, ord := 2, ua := true }),
    (0x8854313000041401, .wscan { hdrS with pg := 1 } { opA with d := 49, a := 48, c := 4, ty := 10, x1 := true }),
    (0xBA02090D18000402, .ldgs hdrS { opM with d := 9, a := 13, off := 6 * 2 ^ 14, w := 2, ua := true }),
    (0x39060B0A80000000, .xori hdr { d := 11, a := 10, imm := 0x80000000 }),
    (0x381C02080500CE10, .isetp hdr { opA with d := 2, a := 8, b := 5, ua := true, ub := true, ty := 7, x3 := 2 }),
    (0x3B1C000000000000, .region hdr opS),
    (0x3850101E09004018, .shfl hdr { opA with d := 16, a := 30, b := 9, ub := true, x3 := 3 }),
    (0xB853252000001400, .wred hdrS { opA with d := 37, a := 32, ty := 10 }),
    (0x0A01240400000802, .stg { hdr with pg := 1 } { opM with d := 36, a := 4, w := 4, ua := true }),
    (0x3A0C060800000402, .lkp hdr { opM with d := 6, a := 8, w := 2, ua := true }),
    (0x38410A0200061400, .icvt hdr { opA with d := 10, a := 2, c := 6, ty := 10 }),
    (0x39080A0A42C80000, .faddi hdr { d := 10, a := 10, imm := 0x42C80000 }),
    (0x12231E1C0003F002, .strm { hdr with pg := 2 } { opM with d := 30, a := 28, off := 63, ua := true }),
    (0x3A30000C00000002, .gang hdr { opM with a := 12, ua := true }),
    (0x8221CD0950000002, .awf { hdrS with pg := 0 } { opM with d := 0xCD, a := 9, off := 20 * 2 ^ 14, ua := true }),
    (0x3A39000E00800002, .msta hdr { opM with a := 14, off := 2 ^ 11, ua := true }),
    (0x400202F0170903E0, .pairedWord false { rop := 0, u := false, d := 4, so := 5, pg := 7, pn := false, imm := 0 }
      { rop := 0xB, u := true, d := 9, so := 3, pg := 7, pn := false, imm := 0 }),
    (0x470F14700E1F29E0, .pairedWord false { rop := 7, u := false, d := 30, so := 40, pg := 7, pn := false, imm := 0 }
      { rop := 7, u := false, d := 31, so := 41, pg := 7, pn := false, imm := 0 })] = true := by decide

/-- The commands of Tables 9-3 and 9-9, written out from them. -/
theorem test_decode_commands : ([
    (0x000000000000000000000000000000400000123456789ABC0000000010000101,
      .ccopy { rng := true, len := 4096, src := 0x123456789ABC, dst := 0x40 }),
    (0x0004000300020001FFFFFE000000008000000000000010000000000600050202,
      .ctile { rng := false, dir := true, tx0 := 1, tx1 := 2, tx2 := 3, tx3 := 4, tx4 := 5, tidx := 6, tsr := 0x1000, spa := 0xFFFFFE0000000080 }),
    (0x0000000000000080000800400000006400000000000020000000004000030003,
      .cgath { rng := false, nidx := 3, tstr := 64, tbase := 0x2000, trows := 100, rowb := 64, idx := 8, dst := 0x80 }),
    (0x0000000000000080000800400000006400000000000020000000004000030004,
      .cscat { nidx := 3, tstr := 64, tbase := 0x2000, trows := 100, rowb := 64, idx := 8, src := 0x80 }),
    (0x0000000000000000FFFFFE000000010008070605040302010000000000070005,
      .cfill { rng := false, len := 7, pat := 0x0807060504030201, dst := 0xFFFFFE0000000100 }),
    (0x0000000000000005000400030002000100000000000030000000000946810110,
      .swalk { rel := true, o0 := 1, o1 := 0, o2 := 2, o3 := 3, o4 := 4, start := 9, tsr := 0x3000, tx0 := 1, tx1 := 2, tx2 := 3, tx3 := 4, tx4 := 5 }),
    (0x0000000000000000000000000000000000000000000000000000006000030111,
      .spush { mc := true, bmask := 3, ring := 0x60 }),
    (0x0000000000000000000000000000000000000000000000000000000000070012,
      .sloop { count := 7 }),
    (0x0000000000000000000000000000000000000000000000000000000000000013,
      .sendl),
    (0x0000000000000000000000000000000900000000000040000000000000000114,
      .ssigRed { rel := true, addr := 0x4000, value := 9 }),
    (0x0000000000000000000000000000002000000000000014030000000000000214,
      .ssigBarrier { bar := 3, cl := true, block := 2, count := 32 }),
    (0x0000000000000000000000000000000900000000000040000000000000000414,
      .ssigEnq { rel := false, addr := 0x4000, value := 9 }),
    (0x0000000000000000000000000000000000000000000000000000000000050015,
      .smark { soff := 5 }),
    (0x0000000000000000000000000000000000000000000000000000000000000716,
      .shalt { code := 7 })] : List (Nat × Instr)).all (fun p =>
    decodeTableWord 256 p.1 == some p.2 && encodeCommand p.2 == some (BitVec.ofNat 256 p.1)) = true := by decide

/-- Words that are no instruction, one for each check of R172 and R292, with the check that refuses it. -/
theorem test_refused_words : ([
    (0x383F000000000000, Problem.reservedOpcode),
    (0x6000000000000000, Problem.pairing),
    (0x3A00040200000A00, Problem.reservedValue),
    (0x3801050103000E00, Problem.operandRule),
    (0x3A00040200000410, Problem.orderWithoutScope),
    (0x3807010203000400, Problem.unusedField),
    (0x3060040802030002, Problem.siftField)] : List (Nat × Problem)).all (fun p =>
    match decodeWord (BitVec.ofNat 64 p.1) with | .error q => q == p.2 | .ok _ => false) = true := by decide

/-- The same terms are ill-formed for the checks that a decoded word must pass. -/
theorem test_ill_formed :
    (Instr.ldg hdr { opM with d := 4, a := 2, w := 5 }).problem = some .reservedValue ∧
    (Instr.isub hdr { opA with d := 5, a := 1, b := 3, ty := 7 }).problem = some .operandRule ∧
    (Instr.ldg hdr { opM with d := 4, a := 2, w := 2, ord := 1 }).problem = some .orderWithoutScope ∧
    (Instr.iabs hdr { opA with d := 1, a := 2, b := 3, ty := 2 }).problem = some .unusedField ∧
    (Instr.sift { hdr with pg := 6 } { opA with d := 4, a := 8, b := 2, c := 3, ib := true }).problem = some .siftField ∧
    (Instr.pairedWord false { rop := 0, u := false, d := 4, so := 5, pg := 7, pn := false, imm := 0 }
      { rop := 0, u := false, d := 4, so := 5, pg := 7, pn := false, imm := 0 }).problem = some .pairing ∧
    (Instr.ccopy { rng := false, len := 0, src := 0, dst := 0 }).problem = some .commandRange ∧
    WellFormed (.ccopy { rng := false, len := 1, src := 0, dst := 0 }) = true := by decide

/-- R255: a reserved command, and a reserved field of a command that is not 0. -/
theorem test_refused_commands : ([(0x06, Problem.reservedCommand), (0x113, Problem.commandReserved)] : List (Nat × Problem)).all
    (fun p => match decodeCommand (BitVec.ofNat 256 p.1) with | .error q => q == p.2 | .ok _ => false) = true := by decide

/-- A word that is no instruction is the instruction that R173 gives every such word. -/
theorem test_illegal_word : instrOf 0x383F000000000000 = .illegalEncoding 0x383F000000000000 := by decide

/-! ### One word on a small state -/

/-- A live thread at 0x1000 with vector registers and predicates. -/
def thr (tid : Nat) (v : List (Nat × Reg)) (p : BitVec 7) : Thread :=
  { tid, live := true, pc := 0x1000, startPc := 0x1000, v, p }

/-- A device in which wave 0 of a privileged task issues a word at 0x1000 in the given lanes; addresses map to themselves. -/
def small (w : Word) (lanes : List Nat) (x : Wave) : State :=
  { State.reset with
    nextId := 10, cur := some { wave := 0, lanes, pc := 0x1000, word := w }, waves := [(0, { x with alloc := 256 })]
    blocks := [(0, { cluster := 0 })], clusters := [(0, { job := 0, blocks := [0] })]
    jobs := [(0, { card := placedCard, phase := .running, begun := true })], cores := [(0, { tlb := [placedLeaf] })] }

/-- The state after a word; the state before where it does not end in one. -/
def after (o : Out) : State := match o with
  | .next t => t
  | _ => State.reset

/-- Wave 0 after a word, its outstanding results written. -/
def waveAfter (o : Out) : Wave :=
  let w := (after o).wave 0
  w.results.foldl (fun w r => w.applyAll r.2) w

/-- The word performed on a small state: `w` its bits, `x` its wave. -/
def run (w : Word) (lanes : List Nat) (x : Wave) : Wave := waveAfter (exec (instrOf w) (small w lanes x))

/-- A vector register, and a pair, of a lane. -/
def vreg (w : Wave) (l r : Nat) : Nat := ((w.thread l).v.getD r 0).toNat
def vpair (w : Wave) (l r : Nat) : Nat := vreg w l r + vreg w l (r + 1) * 2 ^ 32

/-- One lane with the given registers. -/
def one (v : List (Nat × Reg)) : Wave := { threads := [thr 0 v 0] }

/-- IADD wraps modulo 2^32, with OV = 1 it clamps (R57): 0x7FFFFFFF + 1. -/
theorem test_iadd_wrap : vreg (run 0x3800010203000400 [0] (one [(2, 0x7FFFFFFF), (3, 1)])) 0 1 = 0x80000000 := by decide
theorem test_iadd_saturate : vreg (run 0x3800010203000440 [0] (one [(2, 0x7FFFFFFF), (3, 1)])) 0 1 = 0x7FFFFFFF := by decide

/-- Table 3-1: IDIV by 0 of a negative dividend gives the least value, IREM by 0 the dividend. -/
theorem test_idiv_zero : vreg (run 0x3809010203000400 [0] (one [(2, 0xFFFFFFF9), (3, 0)])) 0 1 = 0x80000000 := by decide
theorem test_irem_zero : vreg (run 0x380A010203000400 [0] (one [(2, 0xFFFFFFF9), (3, 0)])) 0 1 = 0xFFFFFFF9 := by decide

/-- R58: -7 / 2 truncates to -3, and the remainder -1 has the sign of the dividend. -/
theorem test_idiv_truncates : vreg (run 0x3809010203000400 [0] (one [(2, 0xFFFFFFF9), (3, 2)])) 0 1 = 0xFFFFFFFD := by decide
theorem test_irem_sign : vreg (run 0x380A010203000400 [0] (one [(2, 0xFFFFFFF9), (3, 2)])) 0 1 = 0xFFFFFFFF := by decide

/-- IMULH.i32: the high half of the signed product (Table 7-2): -1 × 2 = -2. -/
theorem test_imulh : vreg (run 0x3803010203000400 [0] (one [(2, 0xFFFFFFFF), (3, 2)])) 0 1 = 0xFFFFFFFF := by decide

/-- SHL by 32 gives 0, SAR by 40 the sign (R186). -/
theorem test_shl_width : vreg (run 0x3810010203000C00 [0] (one [(2, 1), (3, 32)])) 0 1 = 0 := by decide
theorem test_sar_width : vreg (run 0x3812010203000400 [0] (one [(2, 0x80000000), (3, 40)])) 0 1 = 0xFFFFFFFF := by decide

/-- SHL.n64 of the emulation handler's example (R383): s62 := 1 shifted by 12 in uniform registers. -/
theorem test_shl_uniform :
    (run 0x3810CE0C10008E02 [0] { (one []) with uni := [(12, 3)] }).u 14 = 3 * 2 ^ 16 := by decide

/-- PRMT, FUNSH and BFX of Table 7-3 on plain values. -/
theorem test_bfx_sign : vreg (run 0x3815010203040400 [0] (one [(2, 0x00000F00), (3, 8), (4, 4)])) 0 1 = 0xFFFFFFFF := by decide
theorem test_brev : vreg (run 0x381A010200000C00 [0] (one [(2, 1)])) 0 1 = 0x80000000 := by decide
theorem test_clz_zero : vreg (run 0x3818010200000C00 [0] (one [(2, 0)])) 0 1 = 32 := by decide

/-- FADD.f32 rounds to nearest even (R62): 2^24 + 1 is 2^24. FRND.rtz of -0.4 is -0 (R191). -/
theorem test_fadd_even : vreg (run 0x3820010203001400 [0] (one [(2, 0x4B800000), (3, 0x3F800000)])) 0 1 = 0x4B800000 := by decide
theorem test_frnd_negative_zero : vreg (run 0x3830010200001480 [0] (one [(2, 0xBECCCCCD)])) 0 1 = 0x80000000 := by decide

/-- FMIN orders -0 below +0, and a NaN loses (R66). -/
theorem test_fmin_zero : vreg (run 0x3824010203001400 [0] (one [(2, 0), (3, 0x80000000)])) 0 1 = 0x80000000 := by decide
theorem test_fmin_nan : vreg (run 0x3824010203001400 [0] (one [(2, 0x7FC00000), (3, 0x3F800000)])) 0 1 = 0x3F800000 := by decide

/-- A slag operand with SP = 1 passes on (R77); without it the word traps and writes nothing (R76). -/
theorem test_slag_passes : vreg (run 0x3820010203001404 [0] (one [(2, 0xFF805A02), (3, 0x3F800000)])) 0 1 = 0xFF805A02 := by decide
theorem test_slag_traps :
    let t := after (exec (instrOf 0x3820010203001400) (small 0x3820010203001400 [0] (one [(2, 0xFF805A02), (3, 0x3F800000)])))
    ((t.job 0).phase, (t.job 0).code, vreg (t.wave 0) 0 1) = (.failed, 0x0003, 0) := by decide

/-- ICVT to f32 is exact where it can be; FCVT to bf16 rounds 1 + 2^-8 to even (R195, R196). -/
theorem test_icvt : vreg (run 0x38410A0200061400 [0] (one [(2, 100)])) 0 10 = 0x42C80000 := by decide
theorem test_fcvt_even : vreg (run 0x38400102000A1200 [0] (one [(2, 0x3F808000)])) 0 1 = 0x3F80 := by decide

/-- SHFL.xor by 1 in two active lanes exchanges them (R200); MATCH finds the equal ones. -/
def two (a b : List (Nat × Reg)) : Wave := { threads := [thr 0 a 0, thr 1 b 0] }
theorem test_shfl_xor :
    let w := run 0x385001020100001A [0, 1] (two [(2, 7)] [(2, 9)])
    (vreg w 0 1, vreg w 1 1) = (9, 7) := by decide
theorem test_vote_ballot : vreg (run 0x3851010200000018 [0, 1] { threads := [thr 0 [] 4, thr 1 [] 0] }) 1 1 = 1 := by decide

/-- Table 7-10: the segmented scan over lanes 0 to 7 with heads in lanes 3 and 6. -/
theorem test_wscan_segments :
    let w := run 0x3854090800020401 (List.range 8)
      { threads := (List.range 8).map (fun l => thr l [(8, BitVec.ofNat 32 (l + 1))] (if l = 3 ∨ l = 6 then 4 else 0)) }
    (List.range 8).map (fun l => vreg w l 9) = [1, 3, 6, 4, 9, 15, 7, 15] := by decide

/-- R79's worked case: 2^24, -2^24 at lane 16 and thirty 1.0 give 30.0. -/
theorem test_wred_order :
    let w := run 0xB853252000001400 (List.range 32) { threads := (List.range 32).map (fun l =>
      thr l [(32, if l = 0 then 0x4B800000 else if l = 16 then 0xCB800000 else 0x3F800000)] 0) }
    vreg w 5 37 = 0x41F00000 := by decide

/-- IADDI in a lane wraps; a uniform one extends its immediate's sign (R204). ISETPI.lt p1 (R205). -/
theorem test_iaddi_uniform :
    (run 0x3902C101FFFFFFFF [0] { (one []) with uni := [(1, 5)] }).u 1 = 4 := by decide
theorem test_isetpi : ((run 0x3907110200000005 [0] (one [(2, 3)])).thread 0).p = 2 := by decide

/-- R161: both halves of a paired word read before either writes: v4 := v4 + v5 beside v9 := v9 × s3. -/
theorem test_paired :
    let w := run 0x400202F0170903E0 [0] { (one [(4, 1), (5, 2), (9, 0x40000000)]) with uni := [(3, 0x40400000)] }
    (vreg w 0 4, vreg w 0 9) = (3, 0x40C00000) := by decide

/-- R206's example: CALL at 0x2000 with func at 0x2100 writes 0x2008 to v10:11. -/
theorem test_call :
    let s := { small 0x3B02000000001F0A [0] (one []) with
      cur := some { wave := 0, lanes := [0], pc := 0x2000, word := 0x3B02000000001F0A } }
    let w := waveAfter (exec (instrOf 0x3B02000000001F0A) s)
    (vpair w 0 10, (w.thread 0).pc) = (0x2008, 0x2100) := by decide

/-- Table 2-3, issue 3: a guarded BRA at 0x1010 sends lanes 0 and 2 to 0x1040, the others to 0x1018. -/
theorem test_branch_guard :
    let s := { small 0x0B00000000000500 [0, 1] { threads := [thr 0 [] 2, thr 1 [] 0] } with
      cur := some { wave := 0, lanes := [0, 1], pc := 0x1010, word := 0x0B00000000000500 } }
    let w := waveAfter (exec (instrOf 0x0B00000000000500) s)
    ((w.thread 0).pc, (w.thread 1).pc) = (0x1040, 0x1008) := by decide

/-- MEET #2 sets the meeting point 8 + 16 bytes on; MEET #0 clears it (Table 7-14). -/
theorem test_meet : ((run 0x3B04000000000002 [0] (one [])).thread 0).mt = 0x1018 := by decide

/-- R383's example: `(p1) TRAP #7` at 0x2040 with p1 true in lanes 0 to 15 of a full wave. -/
theorem test_trap_entry :
    let s := small 0x0B07000000000007 (List.range 32)
      { threads := (List.range 32).map (fun l => thr l [] (if l < 16 then 2 else 0)) }
    let s := { s with cur := some { wave := 0, lanes := List.range 32, pc := 0x2040, word := 0x0B07000000000007 }
                      jobs := [(0, { card := { placedCard with emu := 0x8000 }, phase := .running })] }
    let w := waveAfter (exec (instrOf 0x0B07000000000007) s)
    (w.emu.getD 0 0, w.emu.getD 5 0, w.emu.getD 6 0, w.emu.getD 7 0, (w.thread 31).pc, w.handlerMode) =
      (0x10000004, 7, 0xFFFF, 0x2040, 0x8000, true) := by decide

/-- EMURET in the handler goes to sr.emu7 (R250). -/
theorem test_emuret :
    let w := run 0x3B25000000000000 [0] { (one []) with emu := [(7, 0x2048)], threads := [{ thr 0 [] 0 with handler := true }] }
    ((w.thread 0).pc, (w.thread 0).handler) = (0x2048, false) := by decide

/-- RSP of sr.lane, WSP of sr.seed (Table 8-14, R249). -/
theorem test_rsp_lane : vreg (run 0x3B23040000000001 [0, 1] (two [] [])) 1 4 = 1 := by decide
theorem test_wsp_seed : ((run 0x3B24000400000418 [0] (one [(4, 5), (5, 6)])).thread 0).seed = 0x0000000600000005 := by decide

/-- R302's worked case: the first step from seed 0, as n64 and n32, and the PRUNE that drops 0.5 under T = 1.0. -/
theorem test_rand_n64 : vpair (run 0x3863040000000E00 [0] (one [])) 0 4 = 0xE220A8397B1DCDAF := by decide
theorem test_rand_f32 : vreg (run 0x3863040000001400 [0] (one [])) 0 4 = 0x3F6220A8 := by decide
theorem test_prune_drops :
    vreg (run 0x3864060703005400 [0] { (one [(7, 0x3F000000)]) with uni := [(3, 0x3F800000)] }) 0 6 = 0 := by decide

/-- Table 11-7: SPCMP of the worked tile, lane 2's indices and header. -/
theorem test_spcmp :
    let row (l : Nat) (x : List Reg) : Thread := thr l (x.mapIdx fun i v => (8 + i, v)) 0
    let w := run 0x3865140806044C10 [0, 1, 2, 3]
      { threads := [row 0 [0, 5, 0, 7], row 1 [], row 2 [1, 2, 3, 0], row 3 [0, 0, 0, 9]], uni := [(6, 10)] }
    ((List.range 4).map fun l => (vreg w l 24, vreg w l 25)) =
      [(0x301, 0xA2), (0, 0xC0), (0x20100, 0xC3), (3, 0xF1)] := by decide

/-- R228's example: ATOM.add on lanes 0 to 3 with 1, 2, 3 and 4 at a word that holds 100; at system scope. -/
theorem test_atom :
    let s := (small 0xBA10060400008582 [0, 1, 2, 3]
      { threads := (List.range 4).map (fun l => thr l [(6, BitVec.ofNat 32 (l + 1))] 0), uni := [(4, 0x2000)] }).writeNat 0x2008 4 100
    let t := after (exec (instrOf 0xBA10060400008582) s)
    let w := waveAfter (exec (instrOf 0xBA10060400008582) s)
    ((List.range 4).map (fun l => vreg w l 6), t.homeNat 0x2008 4) = ([100, 101, 103, 106], 110) := by decide

/-- R216: STG keeps its bytes in the region store buffer; the highest lane wins a byte that two write. -/
theorem test_stg_buffers :
    let s := small 0x3A01040200040402 [0, 1] { (two [(4, 0x11)] [(4, 0x22)]) with uni := [(2, 0x2000)] }
    let t := after (exec (instrOf 0x3A01040200040402) s)
    (bufferedByte (t.wave 0).rsb 0x2044, t.home 0x2044) = (some 0x22, 0) := by decide

/-- LDG after a write at the home reads it little-endian (R3); STS and LDS meet in the scratchpad. -/
theorem test_ldg :
    let s := (small 0xBA00040200040406 [0] { (one []) with uni := [(2, 0x2000)] }).writeNat 0x2040 4 0xCAFEBABE
    vreg (waveAfter (exec (instrOf 0xBA00040200040406) s)) 0 4 = 0xCAFEBABE := by decide
theorem test_sts :
    let t := after (exec (instrOf 0x3A05040600010400) (small 0x3A05040600010400 [0] (one [(4, 0x04030201), (6, 0x20)])))
    ((t.block 0).scratch.getD 0x30 0, (t.block 0).scratch.getD 0x33 0) = (1, 4) := by decide

/-- A misaligned access traps with 0x0102, and the job fails (R399). -/
theorem test_misaligned :
    let t := after (exec (instrOf 0x3A00040200041402) (small 0x3A00040200041402 [0] { (one []) with uni := [(2, 0x2000)] }))
    ((t.job 0).phase, (t.job 0).code) = (.failed, 0x0102) := by decide

/-- BINIT.CL b3, #256 (R236), then one BARV arrives. -/
theorem test_binit :
    let t := after (exec (instrOf 0x3B10000001000403) (small 0x3B10000001000403 [0] (one [])))
    ((t.barrier 0 3).exp, (t.barrier 0 3).cl, (t.barrier 0 3).arr) = (256, true, 0) := by decide

/-- TSLAG of the f32 slag of verdict 2 (Table 3-11); ASTHR keeps the greater value. -/
theorem test_tslag : vreg (run 0x3867050400001400 [0] (one [(4, 0xFF805A02)])) 0 5 = 2 := by decide
theorem test_asthr :
    let t := after (exec (instrOf 0x3A15090300000400) (small 0x3A15090300000400 [0, 1]
      (two [(3, 0x40), (9, 0x40400000)] [(3, 0x40), (9, 0x40000000)])))
    natOfBytes ((t.block 0).bytesAt [0x40, 0x41, 0x42, 0x43]) = 0x40400000 := by decide

/-- GROW #1 is granted at once where the core has room; SHRINK #31 leaves 8 registers (R46, R47). -/
theorem test_shrink : (run 0x3B2100000000001F [0] (one [(2, 7)])).alloc = 8 := by decide

/-- TBEGIN opens a transaction; TABORT #77 restores nothing but the PC and the status (R242). -/
theorem test_tabort :
    let w := run 0x3B1B00000000004D [0] { threads := [({ thr 0 [(2, 7)] 0 with txn := some { target := 0x1800 } })] }
    ((w.thread 0).pc, slice (w.thread 0).tstat.toNat 0 16, vreg w 0 2) = (0x1800, 6 + 77 * 256, 7) := by decide

/-- A word with no active lane advances alone (R160): FADD guarded by p1, false. -/
theorem test_guarded_off :
    let w := run 0x0820010203001400 [0] (one [(2, 0xFF805A02)])
    ((w.thread 0).pc, vreg w 0 1) = (0x1008, 0) := by decide

/-! ### Events and commands -/

/-- R348's example: the deadline of the video frame. -/
theorem test_frame_deadline :
    frameDeadline (BitVec.ofNat 96 20000000 ++ (0 : BitVec 416)) (BitVec.ofNat 32 1877453640) (BitVec.ofNat 64 3600000021000000) =
      (3600000029333333 : Int) := by decide

/-- R313's example: 0xFFFF_FFFF_FF00 has passed where the time is 0x1_0000_0000_0100. -/
theorem test_deadline_passed : passed 0x1000000000100 0xFFFFFFFFFF00 = true ∧ passed 0xFFFFFFFFFF00 0x100 = false := by decide

/-- CFILL's pattern is aligned to the address (R257): 7 bytes from offset 2 take bytes 2 to 7 and 0 of PAT. -/
theorem test_cfill :
    let cmd : CmdFill := { rng := false, len := 7, pat := 0x0807060504030201, dst := 0xFFFFFE0000000002 }
    let s := small 0 [] (one [])
    let s := { s.onBlock 0 fun b => { b with taken := 1, copies := [{ entry := 0, command := (encodeCommand (.cfill cmd)).getD 0 }] }
               with command := some (.copy 0 0) }
    let t := after (exec (.cfill cmd) s)
    ((t.block 0).deliveries.map fun d => d.bytes.map Prod.snd) = [[3, 4, 5, 6, 7, 8, 1]] := by decide

/-- SET_TIME never sets the time back (R342): RESULT 1, the time as it was. -/
theorem test_set_time_back :
    let s := { State.reset with time := 100, busy := true, op := 6, arg0 := 99 }
    let t := after (exec .setTime s)
    (t.time, t.result, t.busy) = (100, 1, false) := by decide

/-- A die's thermal floor at 95 °C is 1 (R355). -/
theorem test_thermal_floor : ((after (exec (.thermalFloorRise 0 1520) State.reset)).die 0).floor = 1 := by decide

/-- A step from reset with a word placed performs it: TRAP #7 fails the job, which has no handler (R377). -/
theorem test_step :
    ((after (step (State.reset.withFetchWord 64 0x3B07000000000007))).jobs.map fun p => p.2.phase) = [.failed] := by decide

/-! ### Witnesses: states and operands that meet the hypotheses of the statements -/

/-- The context of a state's issue. -/
def ctxOf (s : State) : Ctx := s.ctxFor (s.cur.getD { wave := 0, lanes := [], pc := 0, word := 0 })

/-- `Ready` and `Boundary` as tests. -/
def readyB (s : State) (h : Hdr) (dst src : List Nat) : Bool :=
  let c := ctxOf s
  let act := s.activeLanes c h.pg h.pn
  s.cur.isSome && !act.isEmpty && (dst ++ src).all (fun r => decide (r < c.wave.alloc)) &&
    act.all fun l => src.all fun r => !c.wave.rpoison.contains (l, r)

theorem ctx_of {s : State} (h : s.cur.isSome = true) : s.ctx = some (ctxOf s) := by
  obtain ⟨i, hi⟩ := Option.isSome_iff_exists.1 h
  simp [State.ctx, ctxOf, hi]

theorem ready_of {s : State} {h : Hdr} {dst src : List Nat} (hb : readyB s h dst src = true) : Ready s (ctxOf s) h dst src := by
  simp only [readyB, Bool.and_eq_true, List.all_eq_true, decide_eq_true_eq, Bool.not_eq_true'] at hb
  obtain ⟨⟨⟨h1, h2⟩, h3⟩, h4⟩ := hb
  exact ⟨ctx_of h1, by simpa using h2, h3, fun l hl r hr => by simpa using h4 l hl r hr⟩

/-- A boundary of a wave that has buffered nothing commits nothing. -/
theorem boundary_of {s : State} {h : Hdr} {dst src : List Nat} (hb : readyB s h dst src = true)
    (hr : ((s.cluster (ctxOf s).cl).run.isNone && (s.wave (ctxOf s).w).rsb.isEmpty &&
      (s.activeLanes (ctxOf s) h.pg h.pn).all fun l => ((ctxOf s).wave.thread l).txn.isNone) = true) :
    Boundary s (ctxOf s) h dst src s := by
  simp only [Bool.and_eq_true, List.all_eq_true, Option.isNone_iff_eq_none] at hr
  exact ⟨ready_of hb, hr.1.1, hr.2, by simp [State.commit, hr.1.2], hr.1.1⟩

/-- What a computation that succeeds answers. -/
def isOk {ε α : Type} : Except ε α → Bool
  | .ok _ => true
  | .error _ => false
def okVal {ε α : Type} (d : α) : Except ε α → α
  | .ok x => x
  | .error _ => d
theorem ok_of {ε α : Type} {r : Except ε α} (d : α) (h : isOk r = true) : r = .ok (okVal d r) := by
  cases r with
  | ok x => rfl
  | error e => cases h
theorem okPair_of {ε α β : Type} {r : Except ε α × β} (d : α) (h : isOk r.1 = true) : r = (.ok (okVal d r.1), r.2) := by
  obtain ⟨x, y⟩ := r
  cases x with
  | ok x => rfl
  | error e => cases h

/-- The witness state: wave 0 issues in lanes 0 and 1. -/
def sm : State := small 0 [0, 1]
  { threads := [thr 0 [(2, 0x2000), (4, 7), (8, 0x2000)] 2, thr 1 [(2, 0x2008), (4, 9), (8, 0x2008)] 2]
    uni := [(2, 0x2000), (4, 0x2000), (6, 5)] }
def cx : Ctx := ctxOf sm

theorem witness_DecodeEncodeWord :
    let i : Instr := .iadd hdr { opA with d := 255, a := 255, b := 255, ty := 6, ov := true }
    WellFormed i = true ∧ (∀ x, i ≠ .illegalEncoding x) ∧ encodeWord i = some 0x3800FFFFFF000C40 :=
  ⟨by decide, nofun, by decide⟩

theorem witness_EncodeDecodeWord : decodeWord 0x3B04000000000002 = .ok (.meet hdr { opS with imm := 2 }) := by rfl

/-- Both sides of the statement hold of a command, at the greatest length. -/
theorem witness_CommandCodec :
    let c : Instr := .cfill { rng := true, len := 0xFFFFFFFF, pat := 9, dst := 8 }
    (∃ b, encodeCommand c = some b) ∧ WellFormed c = true := ⟨⟨_, rfl⟩, by decide⟩

/-- A placed NOP, a placed CFILL and an event. -/
def nopState : State := State.reset.withFetchWord 64 0x3B06000000000000
theorem witness_StepRunsDecoded_word :
    let s := { nopState with agenda := [] }
    nopState.agenda = [.issue 0 0] ∧ nopState.power = true ∧ nopState.stopped = none ∧ s.issuePick 0 0 = some 0 ∧
    (s.openIssue 0).cur.isSome = true ∧
    ((s.openIssue 0).fetch ((s.openIssue 0).ctxFor ((s.openIssue 0).cur.getD ⟨9, [], 0, 0⟩)) 0x1000).1 =
      .word 0x3B06000000000000 ∧ decodeWord 0x3B06000000000000 = .ok (.nop hdr opS) :=
  ⟨by decide, by decide, by decide, by decide, by decide, by rfl, by rfl⟩
/-- A placed SHALT, and a quadrant without a wave. -/
theorem witness_StepRunsDecoded_stream :
    let s := State.reset.withFetchWord 256 (0x16 + 7 * 2 ^ 8)
    let v : State := { s with agenda := [], command := some (.stream 0 0) }
    let p := s.program 0 0
    s.agenda = [.stream 0 0] ∧ s.power = true ∧ s.stopped = none ∧ p.busy = true ∧ p.misses.any s.missHeld = false ∧
    p.skip = none ∧
    (match (v.engineRead (v.streamEngine 0 p) [(p.here.toNat, 32)]).1 with
     | .ok bytes => let w : BitVec 256 := BitVec.ofNat 256 (natOfBytes bytes)
       decide (5 < w.toNat % 256) && isOk (decodeCommand w)
     | _ => false) = true ∧ State.reset.issuePick 0 0 = none := by decide
theorem witness_StepRunsDecoded_command :
    let s := State.reset.withFetchWord 256 (5 + 7 * 2 ^ 16)
    s.agenda = [.copy 0 0] ∧ s.power = true ∧ s.stopped = none ∧ (s.copyEntry 0 0).isSome = true ∧
    ((s.copyEntry 0 0).map fun y => isOk (copyCommand y.command)) = some true := by decide
theorem witness_StepRunsDecoded_event :
    isEvent .deal = true ∧ State.mayHappen { State.reset with agenda := [] } .deal = true ∧
    isOk (decodeWord 0x383F000000000000) = false := by decide

theorem witness_FetchReadsWord :
    0x1000 + 8 ≤ stackBase ∧ 0x1000 % 8 = 0 ∧
    findLeaf (sm.core cx.core).tlb (sm.requester cx).asid (0x1000 / 4096 * 4096) = some placedLeaf ∧ placedLeaf.x = true ∧
    sm.poisonRead (placedLeaf.addr (0x1000 / 4096 * 4096) + 0x1000 % 4096) = none := by decide

/-- A guard that no lane meets: p1, negated. -/
theorem witness_GuardedOff :
    let h : Hdr := { s := true, pg := 1, pn := true }
    hdrOfInstr (.grow h opS) = some h ∧ sm.ctx = some cx ∧ cx.wave.park = none ∧ sm.growers cx.core = [] ∧
    sm.activeLanes cx h.pg h.pn = [] ∧ sm.activeLanes cx 7 true = [] :=
  ⟨rfl, ctx_of (by decide), by decide, by decide, by decide, by decide⟩
theorem witness_GuardedOff_handler :
    let s := small 0x00FF000000000000 [0] { threads := [{ thr 0 [] 0 with handler := true }] }
    s.ctx = some (ctxOf s) ∧ (ctxOf s).wave.handlerMode = true ∧ s.activeLanes (ctxOf s) 0 false = [] ∧
    wordLanes 0x00FF000000000000 s (ctxOf s) = [] :=
  ⟨ctx_of (by decide), by decide, by decide, by decide⟩

theorem witness_RetiredFrame : (sm.waves.find cx.w).isSome = true ∧ (sm.wave cx.w).results = [] := by decide

theorem witness_ResultPlaced :
    (∀ l ∈ sm.activeLanes cx 7 false, l < (sm.wave cx.w).threads.length) ∧
    (shapeInt2 { opA with ty := 2 } true).dst = .reg false ∧ (shapeMov { opA with ty := 2 }).dst = .reg false ∧
    sm.activeLanes cx 7 false = [0, 1] := by decide

theorem witness_OperandTraps :
    let s := { sm with waves := sm.waves.mapVals fun w => { w with alloc := 8 } }
    s.ctx = some (ctxOf s) ∧ s.activeLanes (ctxOf s) 7 false = [0, 1] ∧ (ctxOf s).wave.alloc ≤ 8 ∧
    (∀ x ∈ [8] ++ [255, 2], (ctxOf s).wave.alloc ≤ x → 8 ≤ x) := ⟨ctx_of (by decide), by decide, by decide, by decide⟩
/-- The witness wave with 8 registers: a paired word and a load with an acquire name v9 first beyond them. -/
theorem witness_OperandTraps_words :
    let s : State := { sm with waves := sm.waves.mapVals fun w => { w with alloc := 8 } }
    let c := ctxOf s
    let x : Half := { rop := 0xA, u := false, d := 9, so := 12, pg := 7, pn := false, imm := 0 }
    let y : Half := { rop := 0xB, u := true, d := 4, so := 3, pg := 1, pn := false, imm := 0 }
    let o : OpM := { opM with d := 9, a := 2, w := 3, sc := 5, ord := 3 }
    s.ctx = some c ∧ (c.lanes.filter fun l => (s.activeLanes c 7 false).contains l || (s.activeLanes c 1 false).contains l) = [0, 1] ∧
    (let regs := halfReads x ++ halfReads y ++ [9, 4]
     9 ∈ regs ∧ ∀ k ∈ regs, c.wave.alloc ≤ k → 9 ≤ k) ∧ c.wave.alloc ≤ 9 ∧
    (boundaryWord (.ldg hdr o)).isSome = true ∧ 9 ∈ groupRegs o ++ baseRegs o true ∧
    ∀ k ∈ groupRegs o ++ baseRegs o true, c.wave.alloc ≤ k → 9 ≤ k :=
  ⟨ctx_of (by decide), by decide⟩
theorem witness_OperandTraps_slag :
    let s := small 0 [0] (one [(2, 0xFF805A01)])
    let o : OpA := { opA with d := 1, a := 2, b := 3, ty := 10 }
    ReadyA s (ctxOf s) hdr o (shapeF2 o (tyFP o.ty) true) ∧ o.sp = false ∧ slagOf 10 (fpA s (ctxOf s) o 0) = some 1 :=
  ⟨ready_of (by decide), rfl, by decide⟩

/-! #### Class A and B words -/

/-- Operands: v1 from v2, v3 and v4; of 64 bits; of the top registers. -/
def o3 (ty : BitVec 4) : OpA := { opA with d := 1, a := 2, b := 3, c := 4, ty }
def oTop (ty : BitVec 4) : OpA := { opA with d := 254, a := 254, b := 254, c := 254, ty }

theorem witness_IntegerResults :
    ReadyA sm cx hdr (o3 2) (shapeInt2 (o3 2) true) ∧ ReadyA sm cx hdr (oTop 7) (shapeInt2 (oTop 7) false) ∧
    ReadyA sm cx hdr (o3 0) (shapeImad (o3 0)) ∧ ReadyA sm cx hdr (o3 2) (shapeInt1 true (o3 2) true) ∧
    ReadyA sm cx hdr (oTop 2) (shapeLea (oTop 2)) :=
  ⟨ready_of (by decide), ready_of (by decide), ready_of (by decide), ready_of (by decide), ready_of (by decide)⟩

theorem witness_DivisionResults :
    ReadyA sm cx hdr (o3 6) (shapeInt2 (o3 6) true) ∧ ReadyA sm cx hdr (oTop 3) (shapeInt2 (oTop 3) false) :=
  ⟨ready_of (by decide), ready_of (by decide)⟩

theorem witness_LogicalResults :
    ReadyA sm cx hdr (oTop 7) (shapeInt2 (oTop 7) false) ∧ ReadyA sm cx hdr (o3 0) (shapeShift (o3 0)) ∧
    ReadyA sm cx hdr (o3 6) (shapeFunsh (o3 6)) ∧ ReadyA sm cx hdr (o3 2) (shapeBfx (o3 2)) ∧
    ReadyA sm cx hdr (oTop 7) (shapeBfi (oTop 7)) ∧ ReadyA sm cx hdr (o3 6) (shapeInt1 true (o3 6) false) ∧
    ReadyA sm cx hdr (o3 6) (shapePrmt (o3 6)) ∧ ReadyA sm cx hdr (o3 2) (shapeIsetp (o3 2)) ∧
    ReadyA sm cx hdr (oTop 7) (shapeIsel (oTop 7)) ∧ ReadyA sm cx hdr (o3 0) (shapeMov (o3 0)) ∧
    ReadyA sm cx hdr (o3 0) (shapePlop (o3 0)) ∧ ReadyA sm cx hdr (o3 0) (shapePget (o3 0)) ∧
    ReadyA sm cx hdr (o3 0) (shapePset (o3 0)) := by
  refine ⟨?_, ?_, ?_, ?_, ?_, ?_, ?_, ?_, ?_, ?_, ?_, ?_, ?_⟩ <;> exact ready_of (by decide)

/-- No register of the witness state holds slag. -/
theorem witness_FloatResults :
    let act := sm.activeLanes cx 7 false
    ReadyA sm cx hdr (o3 10) (shapeF2 (o3 10) (tyFP 10) true) ∧ SlagFree (o3 10) act [fpA sm cx (o3 10), fpB sm cx (o3 10)] ∧
    ReadyA sm cx hdr (oTop 11) (shapeF2 (oTop 11) (tyFP 11) false) ∧ ReadyA sm cx hdr (o3 12) (shapeFfma (o3 12)) ∧
    SlagFree (o3 13) act [fpA sm cx (o3 13), fpB sm cx (o3 13), fpC sm cx (o3 13)] ∧ ReadyA sm cx hdr (o3 9) (shapeFrnd (o3 9)) ∧
    ReadyA sm cx hdr (o3 10) (shapeFscl (o3 10)) ∧ ReadyA sm cx hdr (o3 8) (shapeFcls (o3 8)) ∧
    ReadyA sm cx hdr (oTop 11) (shapeFsetp (oTop 11)) ∧ NoSlag act [(10, fpA sm cx (o3 10)), (10, fpB sm cx (o3 10))] ∧
    ReadyA sm cx hdr (o3 9) (shapeF1 (o3 9) (tyFT 9)) ∧ ReadyA sm cx hdr (oTop 11) (shapeF1 (oTop 11) (tyF 11)) ∧
    ReadyA sm cx hdr (oTop 11) (shapeF2 (oTop 11) (tyF 11) true) :=
  ⟨ready_of (by decide), .inr (by decide), ready_of (by decide), ready_of (by decide), .inr (by decide), ready_of (by decide),
   ready_of (by decide), ready_of (by decide), ready_of (by decide), by unfold NoSlag; decide, ready_of (by decide),
   ready_of (by decide), ready_of (by decide)⟩

/-- Format slots 0 to 2 of the witness card: e4m3, bx8 and i8. -/
def smF : State := { sm with jobs := [(0, { card := { placedCard with formats := [3, 5, 7] }, phase := .running }) ] }
theorem witness_ConversionResults :
    let c := ctxOf smF
    let act := smF.activeLanes c 7 false
    ReadyA smF c hdr (o3 10) (shapeFcvt (o3 10)) ∧ NoSlag act [((srcTy (o3 10)).toNat, fun l => srcA smF c.wave (o3 10) l 32)] ∧
    ReadyA smF c hdr (o3 2) (shapeIcvt (o3 2)) ∧ ReadyA smF c hdr (o3 14) (shapeNpack (o3 14)) ∧
    ReadyA smF c hdr (o3 9) (shapeNunpk (o3 9)) ∧ ReadyA smF c hdr (o3 10) (shapeBxhdr (o3 10)) ∧
    ReadyA smF c hdr (o3 10) (shapeDot4 (o3 10)) ∧ (c.card.slot 0).fmt = 3 ∧ (c.card.slot 1).fmt = 5 ∧ (c.card.slot 2).fmt = 7 ∧
    NoSlag act [(10, fun l => srcC smF c.wave (o3 10) l 32)] ∧ ReadyA smF c hdr (o3 10) (shapeTslag (o3 10)) :=
  ⟨ready_of (by decide), by unfold NoSlag; decide, ready_of (by decide), ready_of (by decide), ready_of (by decide),
   ready_of (by decide), ready_of (by decide), by decide, by decide, by decide, by unfold NoSlag; decide, ready_of (by decide)⟩

theorem witness_CrossLaneResults :
    let act := sm.activeLanes cx 7 false
    ReadyA sm cx hdr (o3 0) (shapeShfl (o3 0)) ∧ ReadyA sm cx hdr (o3 0) (shapeMatch (o3 0)) ∧
    ReadyA sm cx hdr (o3 10) (shapeWred (o3 10)) ∧ SlagFree (o3 10) act [fpA sm cx (o3 10)] ∧
    ReadyA sm cx hdr (oTop 7) (shapeWscan (oTop 7)) ∧ (oTop 7).ty.toNat ≤ 7 :=
  ⟨ready_of (by decide), ready_of (by decide), ready_of (by decide), .inr (by decide), ready_of (by decide), by decide⟩

/-- Each mode of VOTE. -/
theorem witness_VoteResults : ∀ x : BitVec 3, x.toNat ≤ 3 →
    ReadyA sm cx hdr { opA with d := 1, a := 1, x3 := x } (shapeVote { opA with d := 1, a := 1, x3 := x }) := by
  intro x _; exact ready_of (by revert x; decide)

theorem witness_ImmediateResults :
    ReadyB sm cx hdr { d := 0xC1, a := 0, imm := 9 } false ∧ ReadyB sm cx hdr { d := 1, a := 2, imm := 9 } true ∧
    NoSlag (sm.activeLanes cx 7 false) [(10, fun l => bVec sm cx { d := 1, a := 2, imm := 0x3F800000 } l), (10, fun _ => 0x3F800000)] ∧
    Ready sm cx hdr [] [2] :=
  ⟨ready_of (by decide), ready_of (by decide), by unfold NoSlag; decide, ready_of (by decide)⟩

theorem witness_PairedResults :
    let x : Half := { rop := 0xA, u := false, d := 4, so := 5, pg := 7, pn := false, imm := 0 }
    let y : Half := { rop := 0xB, u := true, d := 9, so := 3, pg := 1, pn := false, imm := 0 }
    Issued sm cx [0, 1] (halfReads x ++ halfReads y ++ [4, 9]) (halfReads x ++ halfReads y) ∧
    halfSlag sm cx.wave x (sm.activeLanes cx 7 false) = none ∧ halfSlag sm cx.wave y (sm.activeLanes cx 1 false) = none ∧
    (cx.lanes.filter fun l => (sm.activeLanes cx 7 false).contains l || (sm.activeLanes cx 1 false).contains l) = [0, 1] :=
  ⟨⟨ctx_of (by decide), by decide, by decide, by decide⟩, by decide, by decide, by decide⟩

/-! #### Traps, control and special registers -/

/-- The witness wave in handler mode, and with an EMU. -/
def smH : State := small 0 [0, 1] { threads := [{ thr 0 [] 0 with handler := true }, { thr 1 [] 0 with handler := true }] }
def smE : State := { sm with jobs := [(0, { card := { placedCard with emu := 0x8000 }, phase := .running })] }

theorem witness_TakingTraps :
    let t : Trap := .call 7 [0, 1]
    smE.cur.isSome = true ∧ (smE.waves.find (ctxOf smE).w).isSome = true ∧ t.cause ≠ 0 ∧ (ctxOf smE).wave.handlerMode = false ∧
    (ctxOf smE).card.emu ≠ 0 ∧ (t.emu (ctxOf smE).word).length = 7 ∧ cx.card.emu = 0 ∧ cx.wave.handlerMode = false ∧
    (ctxOf smH).wave.handlerMode = true := by decide

theorem witness_TrapsAndReturn :
    Ready sm cx hdr [] [] ∧ Issued sm cx (wordLanes 0x383F000000000000 sm cx) [] [] ∧
    wordLanes 0x0C3F000000000000 sm cx = [] ∧
    Boundary smH (ctxOf smH) hdr [] [] smH ∧ (ctxOf smH).wave.handlerMode = true ∧ (smH.wave (ctxOf smH).w).results = [] ∧
    cx.wave.handlerMode = false :=
  ⟨ready_of (by decide), ⟨ctx_of (by decide), by decide, by decide, by decide⟩, by decide, boundary_of (by decide) (by decide),
   by decide, by decide, by decide⟩

/-- Targets in s2 = 0x2000, a multiple of 8, and in s6 = 5, none. -/
theorem witness_BranchResults :
    Ready sm cx hdr [10, 11] [] ∧ Ready sm cx hdr [] [8, 9] ∧ (sm.readU cx.wave 2).toNat % 8 = 0 ∧
    (sm.activeLanes cx 7 false).filter (fun _ => (sm.readU cx.wave 6).toNat % 8 != 0) = [0, 1] ∧
    (sm.waves.find cx.w).isSome = true ∧ (sm.wave cx.w).results = [] :=
  ⟨ready_of (by decide), ready_of (by decide), by decide, by decide, by decide, by decide⟩

/-- A copy command of the block is outstanding. -/
def smC : State := sm.onBlock 0 fun b => { b with taken := 1, copies := [{ entry := 0, command := 5 + 7 * 2 ^ 16 }] }
theorem witness_ControlWords :
    Ready sm cx hdr [] [] ∧ (sm.wave 0).wake ≤ sm.clk ∧ Boundary sm cx hdr [] [] sm ∧ (sm.wave cx.w).results = [] ∧
    ((distinct (cx.lanes.map fun l => (begun sm cx).homeBlock cx l)).flatMap (begun sm cx).engineOps) = [] ∧
    Boundary smC (ctxOf smC) hdr [] [] smC ∧
    ((distinct ((ctxOf smC).lanes.map fun l => (begun smC (ctxOf smC)).homeBlock (ctxOf smC) l)).flatMap
      (begun smC (ctxOf smC)).engineOps) ≠ [] :=
  ⟨ready_of (by decide), by decide, boundary_of (by decide) (by decide), by decide, by decide,
   boundary_of (by decide) (by decide), by decide⟩
theorem witness_ControlWords_settling :
    let s := { sm with waves := sm.waves.mapVals fun w => { w with results := [(0, [.uni 3 1])] } }
    Boundary s (ctxOf s) hdr [] [] s ∧ (s.wave (ctxOf s).w).results ≠ [] :=
  ⟨boundary_of (by decide) (by decide), by decide⟩
theorem witness_ControlWords_asleep :
    let s := { sm with waves := sm.waves.mapVals fun w => { w with wake := 1 } }
    s.clk < (s.wave 0).wake := by decide

/-- A wave of 248 registers, which GROW #1 takes to 256 and GROW #2 beyond. -/
def smG : State := { sm with waves := sm.waves.mapVals fun w => { w with alloc := 248 } }
theorem witness_RegionAndRegisters :
    Boundary smG (ctxOf smG) hdr [] [] smG ∧ (ctxOf smG).wave.alloc + 8 * 1 ≤ 256 ∧ 256 < (ctxOf smG).wave.alloc + 8 * 2 ∧
    smG.clusterRegs (ctxOf smG).cl (ctxOf smG).core + 256 * 1 ≤ 65536 ∧ Ready smG (ctxOf smG) hdr [] [] ∧
    (∀ l ∈ smG.activeLanes (ctxOf smG) 7 false, ((ctxOf smG).wave.thread l).txn = none) :=
  ⟨boundary_of (by decide) (by decide), by decide, by decide, by decide, ready_of (by decide), by decide⟩
theorem witness_RegionAndRegisters_grants :
    let s := { smG with waves := smG.waves.mapVals fun w => { w with park := some (.grow 256) } }
    (s.growers 0).map (fun p => (p.1, p.2.park)) = [(0, some (.grow 256))] ∧ smG.growers 0 = [] := by decide

theorem witness_SpecialRegisters :
    let o (i : BitVec 32) : OpS := { d := 4, a := 4, imm := i }
    Ready sm cx hdr (spRegs (o 0x410) (o 0x410).d) [] ∧ Ready sm cx hdr [] (spRegs (o 0x18) (o 0x18).a) ∧
    (ctxOf smH).wave.handlerMode = true ∧ Ready smH (ctxOf smH) hdr [] (spRegs (o 0x87) (o 0x87).a) :=
  ⟨ready_of (by decide), ready_of (by decide), by decide, ready_of (by decide)⟩
/-- A WSP of a counter on a block whose engine has no operation waiting, and one. -/
theorem witness_SpecialRegisters_counters :
    let op : MatrixOp := { word := 0x3B24000400000040, pc := 0x1000, lanes := [0], number := 0, members := [], a0 := 7 }
    let s := sm.onBlock 0 fun b => { b with matrix := { b.matrix with ops := [op], count := 1 } }
    (sm.block (sm.blockOf cx.cl cx.wave.host)).matrix.ops = [] ∧ (s.block (s.blockOf cx.cl cx.wave.host)).matrix.ops ≠ [] ∧
    Ready s (ctxOf s) hdr [] (spRegs { opS with a := 4, imm := 0x40 } 4) ∧ isCounterWrite op = true ∧ op.a1.toNat = 0 :=
  ⟨by decide, by decide, ready_of (by decide), by decide, by decide⟩
theorem witness_SpecialRegisters_deadline :
    let s := { sm with jobs := [(0, { card := { placedCard with deadline := some 9 }, phase := .running })] }
    (ctxOf s).card.deadline = some 9 ∧ cx.card.deadline = none ∧ cx.det = false ∧
    (ctxOf { sm with jobs := [(0, { card := { placedCard with det := true }, phase := .running })] }).det = true := by decide

/-- An unprivileged job; another wave that has buffered a store through the page. -/
theorem witness_PrivilegedWords :
    let u := { sm with jobs := [(0, { card := { placedCard with priv := false }, phase := .running })] }
    Ready sm cx hdr [] [] ∧ cx.card.priv = true ∧ sm.commit cx [0, 1] = .ok sm ∧ (sm.wave cx.w).results = [] ∧
    (sm.cluster cx.cl).run = none ∧ (sm.clusters.find cx.cl).isSome = true ∧ sm.sending (sm.invalRange 0 0x2000 0) = [] ∧
    sm.storing (sm.invalRange 0 0x2000 0) = [] ∧ Ready u (ctxOf u) hdr [] [] ∧ (ctxOf u).card.priv = false :=
  ⟨ready_of (by decide), by decide, by rfl, by decide, by decide, by decide, by decide, by decide, ready_of (by decide), by decide⟩
theorem witness_PrivilegedWords_waits :
    let s := { sm with waves := sm.waves.insert 1 { threads := [thr 2 [] 0], rsb := [.store 64 0x2000 0 [(0, 1)]] } }
    Ready s (ctxOf s) hdr [] [] ∧ s.storing (s.invalRange 0 0x2000 0) = [1] ∧
    (let t := sm.onCore 0 fun k => { k with commit := [{ number := 0, line := 64, va := 0x2000, job := 0, bytes := [(0, 1)] }] }
     Ready t (ctxOf t) hdr [] [] ∧ t.sending (t.invalRange 0 0x2000 0) = [(0, 0)]) :=
  ⟨ready_of (by decide), by decide, ready_of (by decide), by decide⟩

/-! #### Memory -/

/-- The last 8 bytes of the HBM. -/
theorem witness_MemoryReadWrite :
    (∀ i, i < 8 → sm.served (0x7FFFFFFFF8 + i) = sm.served 0x7FFFFFFFF8 + i) ∧ Memory.wf sm.mem = true := by decide

theorem route_hbm (s : State) (pa : Nat) (h : pa < 0x8000000000) : s.routeDown pa = false := by
  have hr : regionOf pa = some .hbm := by simp [regionOf, h]
  have hs : s.served pa = pa := by simp [State.served, hr]
  simp [State.routeDown, hs, hr]

/-- `Clear` as a test, in the page that the witness TLB holds. -/
def clearB (s : State) (c : Ctx) (windows : List Nat) (g : Nat) (acc : Access) (addrs : List (Nat × Nat)) : Bool :=
  s.poison.isEmpty && addrs.all fun p =>
    windows.contains (windowOf p.2) && p.2 % g == 0 && ((s.wave c.w).thread p.1).txn.isNone && placedLeaf.permits acc &&
      (windowOf p.2 != 0 || ((s.die (s.requester c).die).missAt (s.requester c).asid (p.2 / 4096 * 4096) == none &&
        findLeaf (s.core c.core).tlb (s.requester c).asid (p.2 / 4096 * 4096) == some placedLeaf &&
        decide (placedLeaf.addr (p.2 / 4096 * 4096) + p.2 % 4096 + g ≤ 0x8000000000))) &&
      match s.place c p.1 p.2 g with
      | none => false
      | some (.local b _ offs) => (s.block b).poison.isEmpty && offs.all fun x => !(s.block b).absent.contains (x / 128)
      | some (.global _) => true

theorem clear_of {s : State} {c : Ctx} {windows : List Nat} {g : Nat} {cg : Contig} {acc : Access} {addrs : List (Nat × Nat)}
    (h : clearB s c windows g acc addrs = true) (hp : Placed cg addrs) : Clear s c windows g cg acc addrs := by
  simp only [clearB, Bool.and_eq_true, List.all_eq_true, List.contains_iff_mem, beq_iff_eq, bne_iff_ne, Bool.or_eq_true,
    decide_eq_true_eq, Option.isNone_iff_eq_none, List.isEmpty_iff] at h
  obtain ⟨h0, h1⟩ := h
  refine ⟨fun p hm => ?_, hp, fun p hm => (h1 p hm).1.1.1.2, fun p hm hw => ?_, h0, fun p hm b k offs he => ?_⟩
  · obtain ⟨⟨⟨⟨⟨a, b⟩, _⟩, _⟩, _⟩, f⟩ := h1 p hm
    refine ⟨a, b, ?_⟩
    cases hs : s.place c p.1 p.2 g with
    | none => simp [hs] at f
    | some x => rfl
  · obtain ⟨⟨⟨_, d⟩, e⟩, _⟩ := h1 p hm
    obtain e | ⟨⟨m, e⟩, f⟩ := e
    · exact absurd hw e
    · exact ⟨_, ⟨m, placedLeaf, e, d, fun _ => rfl, rfl⟩, fun i hi => route_hbm _ _ (by omega)⟩
  · have f := (h1 p hm).2
    rw [he] at f
    simp only [Bool.and_eq_true, List.all_eq_true, List.isEmpty_iff] at f
    exact ⟨f.1, fun x hx => by simpa using f.2 x hx⟩

/-- LDG of two lanes at s2 + 0x40 in a page that the TLB holds, and LDS of two lanes. -/
def oLdg : OpM := { opM with d := 8, a := 2, off := 0x40, w := 2, ua := true }
def oLds : OpM := { opM with d := 8, a := 4, off := 8, w := 0 }
/-- An access of 8 bytes in each of two lanes, which lie 8 bytes apart, as they must. -/
def oPairs : OpM := { opM with d := 8, a := 2, w := 3 }
/-- A RED.add in both lanes at s2 + 8. -/
def oRed : OpM := { opM with d := 6, a := 2, off := 8, w := 2, sc := 5, ua := true }
theorem witness_AccessChecks :
    let f := formGlobal false
    Clear sm cx f.windows 4 (f.contig sm cx oLdg) .read (f.addrs sm cx oLdg [0, 1]) ∧
    Clear sm cx f.windows 4 (f.contig sm cx oLdg) .write (f.addrs sm cx oLdg [0, 1]) ∧
    Clear sm cx [0, 1, 2, 3] 4 (.oneOr 4) .write (genericAddrs sm cx oRed 16 [0, 1]) ∧
    atomSlag sm cx.wave oRed 0x10 [0, 1] = none ∧ atomSlag sm cx.wave oRed 0x11 [0, 1] = none ∧ cx.det = false :=
  ⟨clear_of (by decide) trivial, clear_of (by decide) trivial, clear_of (by decide) (.inl (by decide)), by decide, by decide,
   by decide⟩
theorem witness_AccessChecks_window :
    let f := formWindow blockBase
    let g := formGlobal false
    Clear sm cx f.windows 1 (f.contig sm cx oLds) .read (f.addrs sm cx oLds [0, 1]) ∧
    Clear sm cx g.windows 8 (g.contig sm cx oPairs) .write (g.addrs sm cx oPairs [0, 1]) :=
  ⟨clear_of (by decide) trivial, clear_of (by decide) (by show Placed (.step 8) _; unfold Placed; decide)⟩
/-- An address outside every window, and one that is no multiple of the width. -/
theorem witness_AccessChecks_traps :
    ([(0, 0xFFFFFF0000000000), (1, 0x2001)] : List (Nat × Nat)).filter
      (fun p => !([0].contains (windowOf p.2) && (sm.place cx p.1 p.2 4).isSome)) = [(0, 0xFFFFFF0000000000)] ∧
    ([(1, 0x2001)] : List (Nat × Nat)).filter (fun p => !([0].contains (windowOf p.2) && (sm.place cx p.1 p.2 4).isSome)) = [] ∧
    ([(1, 0x2001)] : List (Nat × Nat)).filter (fun p => p.2 % 4 != 0) = [(1, 0x2001)] := by decide

/-- What the checks of a load answer in the witness state. -/
def ldSpots : List (Nat × Place) := (okVal ([], []) (sm.prepareLoad cx (formGlobal false) oLdg [0, 1]).1).1
def ldPages : Tab Nat := (okVal ([], []) (sm.prepareLoad cx (formGlobal false) oLdg [0, 1]).1).2
def ldState : State := (sm.prepareLoad cx (formGlobal false) oLdg [0, 1]).2
/-- The page is mapped and nothing is poisoned; and a byte that the buffer, the commit buffer, the L1 or none of them holds. -/
theorem witness_LoadResults_clear :
    let k : CoreState := { l1 := [(64, List.replicate 128 7)] }
    cx.det = false ∧ Clear sm cx (formGlobal false).windows 4 .free .read ((formGlobal false).addrs sm cx oLdg [0, 1]) ∧
    bufferedByte [.store 64 0x2000 0 [(0, 1)]] 0x2000 = some 1 ∧ bufferedByte [] 0x2000 = none ∧
    committedByte { k with commit := [{ number := 0, line := 64, va := 0x2000, job := 0, bytes := [(0, 2)] }] } 0x2000 = some 2 ∧
    committedByte k 0x2000 = none ∧ cachedByte k.l1 0x2000 = some 7 ∧ cachedByte k.l1 0x2080 = none :=
  ⟨by decide, clear_of (by decide) trivial, by decide⟩
theorem witness_LoadResults :
    loadForm (.ldg hdr oLdg) = some (hdr, oLdg, formGlobal false) ∧ Ready sm cx hdr (groupRegs oLdg) (baseRegs oLdg true) ∧
    sm.prepareLoad cx (formGlobal false) oLdg [0, 1] = (.ok (ldSpots, ldPages), ldState) ∧
    ∃ s2, ldState.noteLoad cx (loadPath cx oLdg) 4 ldPages ldSpots = .ok s2 :=
  ⟨rfl, ready_of (by decide), okPair_of ([], []) (by decide), _, ok_of State.reset (by decide)⟩

/-- An LDG.DV.AR, whose release has nothing to wait for, or a committed store to wait for. -/
def oLdgO : OpM := { oLdg with sc := 5, ord := 3 }
def smB : State := begun sm cx
def smD : State := sm.onCore 0 fun k => { k with commit := [{ number := 0, line := 64, va := 0x2000, job := 0, bytes := [(0, 1)] }] }
def spotsIn (s : State) : List (Nat × Place) :=
  (okVal ([], []) ((begun s (ctxOf s)).prepareLoad (ctxOf s) (formGlobal false) oLdgO [0, 1]).1).1
theorem witness_LoadResults_ordered :
    let s1 := (smB.prepareLoad cx (formGlobal false) oLdgO [0, 1]).2
    let p := okVal ([], []) (sm.prepareLoad cx (formGlobal false) oLdgO [0, 1]).1
    Boundary sm cx hdr (groupRegs oLdgO) (baseRegs oLdgO true) sm ∧
    isOk (sm.prepareLoad cx (formGlobal false) oLdgO [0, 1]).1 = true ∧
    ((sm.prepareLoad cx (formGlobal false) oLdgO [0, 1]).2.loadConflict cx oLdgO [0, 1] p.1 p.2).isNone = true ∧
    isOk (smB.prepareLoad cx (formGlobal false) oLdgO [0, 1]).1 = true ∧ s1.scopeFor cx 5 (spotsIn sm) = 5 ∧
    Drained s1 cx 5 (s1.wordObjs cx 4 (spotsIn sm)) ∧
    isOk ((((released s1 cx 5 (s1.wordObjs cx 4 (spotsIn sm))).noteRelease cx 5 []).noteAcquire cx 5 (syncWords 4 ldPages (spotsIn sm))).noteLoad
      cx (loadPath cx oLdgO) 4 ldPages (spotsIn sm)) = true ∧
    Boundary smD (ctxOf smD) hdr (groupRegs oLdgO) (baseRegs oLdgO true) smD ∧
    isOk ((begun smD (ctxOf smD)).prepareLoad (ctxOf smD) (formGlobal false) oLdgO [0, 1]).1 = true ∧
    ¬ Drained (begun smD (ctxOf smD)) (ctxOf smD) 5 ((begun smD (ctxOf smD)).wordObjs (ctxOf smD) 4 (spotsIn smD)) :=
  ⟨boundary_of (by decide) (by decide), by decide, by decide, by decide, by decide, .inr (by decide), by decide,
   boundary_of (by decide) (by decide), by decide, by unfold Drained; decide⟩

/-- What the checks of a store answer, and of its parts. -/
def stSpots : List (Nat × Place) := (okVal ([], []) (sm.prepareStore cx (formGlobal false) oLdg [0, 1]).1).1
def stPages : Tab Nat := (okVal ([], []) (sm.prepareStore cx (formGlobal false) oLdg [0, 1]).1).2
theorem witness_StoresComplete :
    storeForm (.stg hdr oLdg) = some (hdr, oLdg, formGlobal false) ∧
    Ready sm cx hdr [] (groupRegs oLdg ++ baseRegs oLdg true) ∧
    (∃ t, sm.prepareStore cx (formGlobal false) oLdg [0, 1] = (.ok (stSpots, stPages), t) ∧
      isOk (t.performStore cx oLdg stSpots stPages (t.scopeFor cx 0 stSpots)) = true) ∧
    Clear sm cx (formGlobal false).windows 4 .free .write ((formGlobal false).addrs sm cx oLdg [0, 1]) ∧
    (sm.wave cx.w).rsb.length + 2 ≤ 64 ∧
    Boundary sm cx hdr [] (groupRegs oLdgO ++ baseRegs oLdgO true) sm ∧
    isOk (sm.prepareStore cx (formGlobal false) oLdgO [0, 1]).1 = true ∧
    (sm.storeConflict cx oLdgO stSpots stPages).isNone = true ∧
    isOk (smB.prepareStore cx (formGlobal false) oLdgO [0, 1]).1 = true :=
  ⟨rfl, ready_of (by decide), ⟨_, okPair_of ([], []) (by decide), by decide⟩, clear_of (by decide) trivial, by decide,
   boundary_of (by decide) (by decide), by decide, by decide, by decide⟩
theorem witness_StoresComplete_commits :
    ∃ s2, (smB.prepareStore cx (formGlobal false) oLdgO [0, 1]).2.performStore cx oLdgO stSpots stPages 5 = .ok s2 ∧
      isOk (s2.commit cx [0, 1] true) = true := ⟨_, ok_of State.reset (by decide), by decide⟩

/-- A buffer of 64 entries refuses a store to another line, and a relaxed RED. -/
def full : List Buffered := (List.range 64).map fun n => .store (1000 + n) 0 0 [(0, 1)]
def smFull : State := { sm with waves := sm.waves.mapVals fun w => { w with rsb := full } }
def errorOf {α : Type} (r : Except Trap α) : Option Trap := match r with
  | .error t => some t
  | .ok _ => none
theorem witness_BufferedStores :
    isOk (bufferStore [] 0 [(0x2000, 0x2000, (1 : Byte))]) = true ∧ full.length ≤ 64 ∧
    Ready smFull (ctxOf smFull) hdr [] (groupRegs oLdg ++ baseRegs oLdg true) ∧
    isOk (smFull.prepareStore (ctxOf smFull) (formGlobal false) oLdg [0, 1]).1 = true ∧
    errorOf ((smFull.prepareStore (ctxOf smFull) (formGlobal false) oLdg [0, 1]).2.performStore (ctxOf smFull) oLdg stSpots stPages
      (smFull.scopeFor (ctxOf smFull) 0 stSpots)) = some (.error 0x0008 0x2000 0 [0, 1]) :=
  ⟨by decide, by decide, ready_of (by decide), by decide, by decide⟩
theorem witness_BufferedStores_red :
    let c := ctxOf smFull
    let r := smFull.prepareAtomic c oRed 0x11 false [0, 1]
    let v := okVal ([], []) r.1
    oRed.ord = 0 ∧ Ready smFull c hdr [] (atomRegs oRed ++ baseRegs oRed true) ∧ isOk r.1 = true ∧
    isOk (bufferRed (r.2.wave c.w).rsb (r.2.atomScope c oRed v.1) (globalOps r.2 c oRed v.1 v.2)) = false :=
  ⟨by decide, ready_of (by decide), by decide, by decide⟩

theorem witness_StoreFrame :
    (∀ p ∈ stSpots, ((sm.wave cx.w).thread p.1).txn = none ∧ (cx.wave.thread p.1).txn = none) ∧
    isOk (sm.performStore cx oLdg stSpots stPages 0) = true := by decide

/-- The last line of the HBM, of which the core holds no older store; and a store that it holds. -/
theorem witness_CommittedStores :
    (∀ p ∈ [((127 : Nat), (1 : Byte))], p.1 < 128) ∧
    (∀ k, k < 128 → sm.served (0xFFFFFFFF * 128 + k) = sm.served (0xFFFFFFFF * 128) + k ∧
      sm.routeDown (0xFFFFFFFF * 128 + k) = false) ∧ (sm.core 0).commit = [] ∧
    ((smD.core 0).commit.find? (fun x => x.number == 0)).map (fun e => e.line) = some 64 ∧
    (∀ k, k < 128 → (smD.landOn 0).served (64 * 128 + k) = (smD.landOn 0).served (64 * 128) + k ∧
      (smD.landOn 0).routeDown (64 * 128 + k) = false) := by decide

theorem witness_AtomicResults :
    let o := { oRed with ord := 3 }
    Boundary sm cx hdr (groupRegs o) (atomRegs o ++ baseRegs o true) sm ∧ isOk (sm.prepareAtomic cx o 0x10 true [0, 1]).1 = true ∧
    isOk (smB.prepareAtomic cx o 0x10 true [0, 1]).1 = true ∧ isOk (smB.prepareAtomic cx o 0x11 false [0, 1]).1 = true ∧
    Drained smB cx 5 [] ∧ Ready sm cx hdr [] (atomRegs oRed ++ baseRegs oRed true) ∧
    isOk (sm.prepareAtomic cx oRed 0x11 false [0, 1]).1 = true ∧
    (let v := okVal ([], []) (sm.prepareAtomic cx oRed 0x11 false [0, 1]).1
     isOk (bufferRed (sm.wave cx.w).rsb (sm.atomScope cx oRed v.1) (globalOps sm cx oRed v.1 v.2))) = true ∧
    Clear sm cx [0, 1, 2, 3] 4 (.oneOr 4) .write (genericAddrs sm cx oRed 16 [0, 1]) ∧
    Ready sm cx hdr (groupRegs oRed) (atomRegs oRed ++ baseRegs oRed true) ∧ (sm.cluster cx.cl).run = none ∧ (sm.wave cx.w).rsb = [] ∧
    atomSlag sm cx.wave oRed 0x11 [0, 1] = none ∧ sm.lateWrites = [] ∧ (∀ i, i < 8 → sm.served (0x2008 + i) = sm.served 0x2008 + i) :=
  ⟨boundary_of (by decide) (by decide), by decide, by decide, by decide, .inr (by decide), ready_of (by decide), by decide,
   by decide, clear_of (by decide) (.inl (by decide)), ready_of (by decide), by decide⟩

/-! #### Lookups, queues and what deterministic jobs refuse -/

/-- A word is the class M word LKP on the table at s2 of s3 columns and rows. -/
def smT : State := { sm with waves := sm.waves.mapVals fun w => { w with uni := [(2, 0x2000), (3, 1 + 2 ^ 32), (4, 0x2000), (5, 0)] } }
def oLkp (off : BitVec 20) (a : BitVec 8) : OpM := { opM with d := 8, a, off, w := 2, ua := true }
/-- A table of one row and one column, in nearest and in linear mode, and an empty one. -/
theorem witness_LookupAndPrefetch :
    let vas : List (Nat × Nat) := [(0, 0x2000), (1, 0x2000)]
    Ready smT (ctxOf smT) hdr [8] [8] ∧ Ready smT (ctxOf smT) hdr [8] [8, 9] ∧
    isOk (smT.placeAll (ctxOf smT) [0] 4 .free vas) = true ∧
    isOk (smT.wordPages (ctxOf smT) 4 .read (okVal [] (smT.placeAll (ctxOf smT) [0] 4 .free vas))).1 = true ∧
    smT.poison = [] ∧ slagCode 10 0 = none ∧ coordSlag smT (ctxOf smT).wave true 8 [0, 1] = none ∧
    Clear smT (ctxOf smT) [0] 4 .free .read vas ∧ Mapped smT (ctxOf smT) .read 0x2000 0x2000 ∧ (smT.readU (ctxOf smT).wave 5).toNat % 2 ^ 32 = 0 ∧
    (smT.readU (ctxOf smT).wave 4).toNat % 4 = 0 :=
  ⟨ready_of (by decide), ready_of (by decide), by decide, by decide, by decide, by decide, by decide,
   clear_of (by decide) trivial, ⟨by decide, placedLeaf, by decide, by decide, by decide, by decide⟩, by decide, by decide⟩
/-- Page tables that map the page at 0x2000. -/
def smP : State :=
  ({ sm with clusters := [(0, { job := 0, blocks := [0], root := 0x100000 })] } : State).writeNat 0x100000 8 0x100001
    |>.writeNat 0x100010 8 0x202D
theorem witness_LookupAndPrefetch_walk :
    (match smP.walk (smP.requester (ctxOf smP)).asid (smP.requester (ctxOf smP)).root 0x2000 with
     | .leaf _ _ => true
     | _ => false) = true := by decide
theorem witness_LookupAndPrefetch_pref :
    Ready sm cx hdr [] (baseRegs (oLkp 0 2) true) ∧ (sm.core 0).l1.find 64 = none ∧ tableIndex true (-1) 3 = 2 ∧
    tableIndex false 3 3 = 2 ∧ Fl.isFinite (f32.decode 0x7F800000) = false := ⟨ready_of (by decide), by decide⟩

def isDone : Queued → Bool
  | .done _ _ => true
  | _ => false
def doneCount : Queued → Nat
  | .done n _ => n
  | _ => 0
def doneList : Queued → List Nat
  | .done _ l => l
  | _ => []
theorem done_of {r : Queued × State} (h : isDone r.1 = true) : r = (.done (doneCount r.1) (doneList r.1), r.2) := by
  obtain ⟨x, y⟩ := r
  cases x <;> first | rfl | cases h
theorem done_ex {r : Queued} (h : isDone r = true) : ∃ x y, r = .done x y := by
  cases r <;> first | exact ⟨_, _, rfl⟩ | cases h

/-- A queue at 0x2000 of two entries of 8 bytes with the given TAIL, and a queue of 16-byte entries at s4. -/
def smQ (tail : Nat) : State :=
  (((sm.writeNat 0x2000 8 0x3000).writeNat 0x2008 2 0x0103).writeNat 0x2018 8 tail)
def oQ : OpM := { opM with d := 4, a := 2, off := 0, w := 0, ua := true }
def pJob : OpS := { opS with d := 2, a := 2 }

def isPages : Pages → Bool
  | .ok _ => true
  | _ => false
/-- The queue is empty or full, and its entries can be reached; 0x2040 holds none. -/
theorem witness_QueueOperations :
    let q (t : Nat) := (smQ t).openQueue (.virtual ((smQ t).requester cx)) 0x2000 .write
    isOk (q 0).1 = true ∧ isOk (q 2).1 = true ∧
    isPages ((q 0).2.reach (.virtual (sm.requester cx)) [0x3000, 0x3008] .write).1 = true ∧
    isPages ((q 2).2.reach (.virtual (sm.requester cx)) [] .write).1 = true ∧
    (smQ 0).unseen.find ((smQ 0).served 0x2000) = none ∧ Mapped (smQ 0) cx .write 0x2000 0x2000 ∧
    0x2040 % 64 = 0 ∧ isPages (sm.reach (.virtual (sm.requester cx)) [0x2040] .write).1 = true ∧
    parseQcb (sm.homeNat 0x2040 64) = none ∧ (parseQcb ((smQ 2).homeNat 0x2000 64)).isSome = true :=
  ⟨by decide, by decide, by decide, by decide, by decide, ⟨by decide, placedLeaf, by decide, by decide, by decide, by decide⟩, by decide⟩
/-- The page at 0x2000 lies in CXL memory whose link is off. -/
def smFar : State :=
  { sm with cxlOff := [0], cores := [(0, { tlb := [{ placedLeaf with pa := 0x100000000000 }] })] }
theorem witness_QueueOperations_far :
    let q := smFar.requester cx
    isPages (smFar.reach (.virtual q) [0x2000] .write).1 = true ∧ smFar.lateWrites = [] ∧ smFar.routeDown 0x100000002000 = true ∧
    (match (smFar.reach (.virtual q) [0x2000] .write).1 with
     | .ok pages => pageAddr pages 0x2000 == 0x100000002000
     | _ => false) = true ∧
    (let s := { smQ 2 with cxlOff := [0], cores := [(0, { tlb := [{ placedLeaf with va := 0x3000, pa := 0x100000003000, bits := 12 }, { placedLeaf with va := 0x2000, pa := 0x2000, bits := 12 }] })] }
     let o := s.openQueue (.virtual (s.requester cx)) 0x2000 .write
     isOk o.1 = true ∧ isPages (o.2.reach (.virtual (s.requester cx)) [0x3000, 0x3008] .read).1 = true ∧ o.2.routeDown 0x100000003000 = true) ∧
    (sm.landAll).routeDown 0x2040 = false ∧ parseQcb ((sm.landAll).homeNat 0x2040 64) = none := by decide

theorem witness_QueuesComplete :
    let s := smQ 0
    let c := ctxOf s
    let t := begun s c
    let addr := queueAddr t c oQ [0, 1]
    let r := (t.releaseNow c (t.queueScope c oQ [0, 1]) [queueObj addr]).queueHome c addr
    Boundary s c hdr [] (4 :: baseRegs oQ true) s ∧ s.queuePlace c 0x12 (queueAddr s c oQ [0, 1]) [0, 1] = none ∧
    Drained t c (t.queueScope c oQ [0, 1]) [queueObj addr] ∧ (∃ k es u, r.enqueueLanes c oQ [0, 1] = (.done k es, u)) ∧
    r.queuePoison c addr (fun _ => []) [0, 1] = none ∧ r.entryPoison c oQ addr [0, 1] = none :=
  ⟨boundary_of (by decide) (by decide), by decide, .inr (by decide), ⟨_, _, _, done_of (by decide)⟩, by decide, by decide⟩
/-- A queue of two entries: DEQ takes both, QWAIT goes on; of an empty one DEQ takes none and QWAIT waits. -/
theorem witness_QueuesComplete_deq :
    let s := smQ 2
    let c := ctxOf s
    let d := (begun s c).queueHome c 0x2000
    queueAddr (begun s c) c oQ [0, 1] = 0x2000 ∧
    Boundary s c hdr [4] (baseRegs oQ true) s ∧ s.queuePlace c 0x13 (queueAddr s c oQ [0, 1]) [0, 1] = none ∧
    (∃ k es u, d.dequeueLanes c oQ [0, 1] = (.done k es, u)) ∧ doneCount (d.dequeueLanes c oQ [0, 1]).1 = 2 ∧
    d.queuePoison c 0x2000 (fun q => (List.range 2).map fun i => q.entry (q.head + i)) [0, 1] = none ∧
    Boundary s c hdr [] (baseRegs oQ true) s ∧ s.queuePlace c 0x14 (queueAddr s c oQ [0, 1]) [0, 1] = none ∧
    [0, 2].all (fun n => match ((begun (smQ n) c).readQueue c 0x2000 [0, 1]).1 with | .ok k => k == n | .error _ => false) = true ∧
    isDone (((begun (smQ 0) c).queueHome c 0x2000).dequeueLanes c oQ [0, 1]).1 = true :=
  ⟨by decide, boundary_of (by decide) (by decide), by decide, ⟨_, _, _, done_of (by decide)⟩, by decide, by decide,
   boundary_of (by decide) (by decide), by decide, by decide, by decide⟩
/-- An ENQ that waits for a store, one at no queue, and a JOB. -/
theorem witness_QueuesComplete_waits :
    let s := { smD with mem := (smQ 0).mem }
    let c := ctxOf s
    Boundary s c hdr [] (4 :: baseRegs oQ true) s ∧ s.queuePlace c 0x12 (queueAddr s c oQ [0, 1]) [0, 1] = none ∧
    ¬ Drained (begun s c) c ((begun s c).queueScope c oQ [0, 1]) [queueObj 0x2000] ∧
    (let r := (smB.releaseNow cx (smB.queueScope cx oQ [0, 1]) [queueObj 0x2000]).queueHome cx 0x2000
     (r.enqueueLanes cx oQ [0, 1]).1 = .malformed 0) ∧ Drained smB cx (smB.queueScope cx oQ [0, 1]) [queueObj 0x2000] :=
  ⟨boundary_of (by decide) (by decide), by decide, by unfold Drained; decide, by decide, .inr (by decide)⟩
/-- The state in which a JOB at the queue at 0x2000 is performed. -/
def jobState (s : State) : State := (released (begun s (ctxOf s)) (ctxOf s) 5 [noObj]).queueHome (ctxOf s) 0x2000
theorem witness_QueuesComplete_job :
    let s := smQ 0
    let c := ctxOf s
    Boundary s c hdr [] [] s ∧ jobAddrs s c pJob [0, 1] = none ∧ Drained (begun s c) c 5 [noObj] ∧
    ((released (begun s c) c 5 [noObj]).readU c.wave (uniField pJob.d)).toNat = 0x2000 ∧
    (∃ k es u, (jobState s).enqueueJob c pJob = (.done k es, u)) ∧ doneCount ((jobState s).enqueueJob c pJob).1 = 1 ∧
    (jobState s).queuePoison c 0x2000 (fun _ => []) [0, 1] = none :=
  ⟨boundary_of (by decide) (by decide), by decide, .inr (by decide), by decide, ⟨_, _, _, done_of (by decide)⟩, by decide, by decide⟩

/-- At 0x2000 there is no queue: DEQ, QWAIT and JOB find the block malformed. -/
theorem witness_QueuesComplete_malformed :
    let r := (released smB cx 5 [noObj]).queueHome cx 0x2000
    let t := (smB.translateAll (smB.requester cx) [0x2000] .read).2
    sm.queuePlace cx 0x13 (queueAddr sm cx oQ [0, 1]) [0, 1] = none ∧ sm.queuePlace cx 0x14 (queueAddr sm cx oQ [0, 1]) [0, 1] = none ∧
    ((smB.queueHome cx 0x2000).dequeueLanes cx oQ [0, 1]).1 = .malformed 0 ∧ Boundary sm cx hdr [4] (baseRegs oQ true) sm ∧
    Boundary sm cx hdr [] (baseRegs oQ true) sm ∧ Boundary sm cx hdr [] [] sm ∧
    queueAddr smB cx oQ [0, 1] = 0x2000 ∧
    isPages (smB.translateAll (smB.requester cx) [0x2000] .read).1 = true ∧
    parseQcb (natOfBytes ((List.range 64).map fun i => t.loadByte { core := cx.core, skip := true, fill := false } [] (0x2000 + i))) = none ∧
    jobAddrs sm cx pJob [0, 1] = none ∧ (r.enqueueJob cx pJob).1 = .malformed 0 :=
  ⟨by decide, by decide, by decide, boundary_of (by decide) (by decide), boundary_of (by decide) (by decide),
   boundary_of (by decide) (by decide), by decide⟩

/-- A deterministic job. -/
def smDet (s : State) : State := { s with jobs := [(0, { card := { placedCard with det := true }, phase := .running })] }
theorem witness_DeterministicTraps :
    let s := smDet (smQ 0)
    let c := ctxOf s
    c.det = true ∧ (∀ l ∈ s.activeLanes c 7 false, (c.wave.thread l).txn = none) ∧
    Ready s c hdr (groupRegs oRed) (atomRegs oRed ++ baseRegs oRed true) ∧ opnOf { oRed with off := 8 * 2 ^ 16 } = 8 ∧
    opnOf { oRed with off := 12 * 2 ^ 16 } = 12 ∧ Ready s c hdr [4] (baseRegs oQ true) ∧ Ready s c hdr [] [] ∧
    Boundary s c hdr [] [] s ∧ jobAddrs s c pJob [0, 1] = none ∧ (∃ k es u, (jobState s).enqueueJob c pJob = (.done k es, u)) ∧
    (jobState s).queuePoison c 0x2000 (fun _ => []) [0, 1] = none ∧ Drained (begun s c) c 5 [noObj] :=
  ⟨by decide, by decide, ready_of (by decide), by decide, by decide, ready_of (by decide), ready_of (by decide),
   boundary_of (by decide) (by decide), by decide, ⟨_, _, _, done_of (by decide)⟩, by decide, .inr (by decide)⟩

/-! #### Barriers, waits, transactions -/

/-- Barrier 3 of block 0 expects two arrivals; BINIT of 2 at barrier 3, and at the last barrier, 1023. -/
def smBar (n : Nat) : State := sm.onBlock 0 fun b => { b with barriers := [(3, { exp := n })] }
def oBar : OpS := { opS with imm := 3 + 2 * 2 ^ 16 }
theorem witness_Barriers :
    let s := smBar 2
    let c := ctxOf s
    let t := begun s c
    let r := released t c 2 [t.barObj c 0 3]
    Boundary s c hdr [] [] s ∧ barRange c oBar 2 [0, 1] = none ∧ barRange c { opS with imm := 1023 } 16384 [0, 1] = none ∧
    s.overrun c oBar [0, 1] = none ∧ r.overrun c oBar [0, 1] = none ∧ t.barBlocks c false [0, 1] = [0] ∧
    t.barScope c [0] 3 [0, 1] = 2 ∧ Drained t c 2 [t.barObj c 0 3] ∧ c.det = false ∧
    (∃ tr, (smBar 1).overrun (ctxOf (smBar 1)) oBar [0, 1] = some tr) ∧ Boundary (smBar 1) (ctxOf (smBar 1)) hdr [] [] (smBar 1) :=
  ⟨boundary_of (by decide) (by decide), by decide, by decide, by decide, by decide, by decide, by decide, .inr (by decide),
   by decide, ⟨_, rfl⟩, boundary_of (by decide) (by decide)⟩
theorem witness_Barriers_det :
    let s := smDet (smBar 2)
    let c := ctxOf s
    Boundary s c hdr [] [] s ∧ s.overrun c oBar [0, 1] = none ∧ c.det = true ∧ Drained (begun s c) c 2 [(begun s c).barObj c 0 3] ∧
    (released (begun s c) c 2 [(begun s c).barObj c 0 3]).overrun c oBar [0, 1] = none :=
  ⟨boundary_of (by decide) (by decide), by decide, by decide, .inr (by decide), by decide⟩
/-- The card has 3 barriers: none is number 3. And the arrival that completes a phase of two. -/
theorem witness_Barriers_range :
    let s := { sm with jobs := [(0, { card := { placedCard with bars := 3 }, phase := .running })] }
    (ctxOf s).card.bars ≤ barOf oBar ∧ Boundary s (ctxOf s) hdr [] [] s ∧
    (let x : Barrier := { exp := 2, arr := 1, pending := some (5, true) }
     x.arr + 1 = x.exp ∧ (x.arrive 1 none).ph = 1 ∧ (x.arrive 1 none).exp = 5 ∧ x.arr + 2 ≠ x.exp) :=
  ⟨by decide, boundary_of (by decide) (by decide), by decide⟩

theorem witness_WaitsFencesBindings :
    let o : OpS := { opS with d := 6, a := 2 }
    Boundary sm cx hdr [] [] sm ∧ isOk (sm.waveWord cx (sm.readU cx.wave 2).toNat [0, 1]).1 = true ∧
    isOk (smB.waveWord cx (smB.readU cx.wave (uniField o.a)).toNat [0, 1]).1 = true ∧ Drained smB cx 5 [noObj] ∧
    smB.widen cx (scopeField o.imm.toNat) [0, 1] ≤ 5 ∧ Boundary smD (ctxOf smD) hdr [] [] smD ∧ ¬ Drained (begun smD (ctxOf smD)) (ctxOf smD) 5 [noObj] :=
  ⟨boundary_of (by decide) (by decide), by decide, by decide, .inr (by decide), by decide, boundary_of (by decide) (by decide),
   by unfold Drained; decide⟩
/-- A wave waits for the word at 0x2000, which is 0: its target 0 is met, its target 1 is not. -/
def waitsFor (v : Word) : State :=
  { smP with waves := sm.waves.mapVals fun w => { w with park := some (.counter none 0x2000 v 5 0x1000 []) } }
theorem witness_WaitsFencesBindings_counter : (sm.jobs.find cx.job).isSome = true ∧ ([0, 1] : List Word).all (fun v =>
    (ctxOf (waitsFor v)).wave.park == some (.counter none 0x2000 v 5 0x1000 []) && ((waitsFor v).cluster 0).run.isNone &&
      match (((waitsFor v).landOn 0).readCounter (ctxOf (waitsFor v)) none 0x2000).1 with
      | .value x _ _ => x == 0
      | _ => false) = true := by decide
/-- BIND of the word at s2 to one line at s4, in a table without it, with it, and with 256 others; and one of a barrier that
the card has. -/
def oBind : OpS := { opS with d := 2, a := 4, imm := 1 }
def bound : Binding := { obj := wordObj 0x2000, base := 0x2000, len := 128 }
theorem witness_WaitsFencesBindings_bind :
    let b := okVal bound (sm.bindingOf cx oBind [0, 1])
    let with_ (l : List Binding) : Job :=
      { sm.job 0 with bindings := l, changes := l.map fun binding => { id := 1, add := true, binding } }
    let others : List Binding := (List.range 256).map fun n => { obj := wordObj (8 * n), base := 0, len := 128 }
    Ready sm cx hdr [] [] ∧ oBind.imm.toNat % 2 ^ 30 ≠ 0 ∧ oBind.imm.toNat / 2 ^ 30 ≠ 3 ∧
    isOk (sm.bindingOf cx oBind [0, 1]) = true ∧ b ∉ (sm.job 0).table 0 ∧ b ∈ (with_ [b]).table 0 ∧ others.length = 256 ∧
    b ∉ (with_ others).table 0 ∧ isOk (sm.bindingOf cx { oBind with d := 6 } [0, 1]) = false ∧
    (sm.readU cx.wave 6).toNat % 1024 < cx.card.bars :=
  ⟨ready_of (by decide), by decide⟩

/-- Lane 0 has a transaction open that wrote the word at 0x2000. -/
def aTxn : Txn := { target := 0x3000, writes := [(0x2000, 1)], words := [0x2000] }
def smX : State := sm.onWave 0 fun w => { w with threads := w.threads.map fun t => { t with txn := some aTxn } }
theorem witness_Transactions :
    cx.det = false ∧ Ready sm cx hdr [] [] ∧ (sm.cluster cx.cl).run = none ∧ sm.commit cx [0, 1] = .ok sm ∧
    (∀ l ∈ sm.activeLanes cx 7 false, (cx.wave.thread l).txn = none) ∧ Ready smX (ctxOf smX) hdr [] [] ∧
    (∀ l ∈ smX.activeLanes (ctxOf smX) 7 false, ((ctxOf smX).wave.thread l).txn ≠ none) ∧
    smX.commit (ctxOf smX) [0, 1] = .ok smX ∧ (smX.cluster 0).run = none :=
  ⟨by decide, ready_of (by decide), by decide, by rfl, by decide, ready_of (by decide), by decide, by rfl, by decide⟩
/-- Lane 0 has a transaction open, lane 1 none. -/
def smMix : State := sm.onWave 0 fun w => { w with threads := w.threads.mapIdx fun i t => if i = 0 then { t with txn := some aTxn } else t }
theorem witness_Transactions_boundaries :
    let c := ctxOf smMix
    let t := smMix.abortLanes c [0] 9 0
    (boundaryWord (.fence hdr opS)).isSome = true ∧ smX.ctx = some (ctxOf smX) ∧
    (∀ l ∈ smX.activeLanes (ctxOf smX) 7 false, ((ctxOf smX).wave.thread l).txn ≠ none) ∧ smMix.ctx = some c ∧
    ((smMix.activeLanes c 7 false).filter fun l => (c.wave.thread l).txn.isNone) = [1] ∧
    ((smMix.activeLanes c 7 false).filter fun l => (c.wave.thread l).txn.isSome) = [0] ∧ (t.cluster c.cl).run = none ∧
    isOk (t.commit c [1]) = true ∧ ((okVal State.reset (t.commit c [1])).cluster c.cl).run = none :=
  ⟨by decide, ctx_of (by decide), by decide, ctx_of (by decide), by decide⟩
/-- A TEND of which a lane is good: with nothing to wait for, and with a store of another object to wait for. -/
theorem witness_Transactions_tend :
    let v (s : State) : State := (begun s (ctxOf s)).settleReads (ctxOf s) [0, 1]
    let good (s : State) : Nat := ((v s).judge (ctxOf s) [0, 1]).1.length
    let waits : State := smX.onCore 0 fun k =>
      { k with commit := [{ number := 0, line := 64, va := 0x2000, job := 0, bytes := [(0, 1)] }] }
    good smX = 1 ∧ Drained (v smX) (ctxOf smX) 5 (txnObjs ((v smX).judge (ctxOf smX) [0, 1]).1) ∧ good waits = 1 ∧
    ¬ Drained (v waits) (ctxOf waits) 5 (txnObjs ((v waits).judge (ctxOf waits) [0, 1]).1) ∧
    ((v sm).judge cx [0, 1]).1 = [] ∧ smX.commit (ctxOf smX) [0, 1] = .ok smX :=
  ⟨by decide, .inr (by decide), by decide, by unfold Drained; decide, by decide, by rfl⟩
theorem witness_Transactions_commit :
    (let v := smX.settleWrites (ctxOf smX) aTxn
     (∀ p ∈ aTxn.writes, v.routeDown p.1 = false ∧ v.served p.1 = p.1) ∧ (v.waves.find 0).isSome = true ∧
     1 < (v.wave 0).threads.length) ∧ ((smX.wave 0).thread 0).txn = some aTxn ∧
    sm.validates { aTxn with reads := [(0x2000, 0)] } = true ∧ sm.validates { aTxn with reads := [(0x2000, 1)] } = false ∧
    sm.validates { aTxn with torn := true } = false := by decide

/-! #### Rings, cells, the matrix engine -/

/-- A ring object at scratchpad offset 64 of block 0: one slot of 128 bytes at 256, with the given CLM, WP, RP; s8 = 64, s9
the first two words of the object. -/
def smR (clm wp rp : Nat) : State :=
  (({ sm with waves := sm.waves.mapVals fun w => { w with uni := [(2, 0x2000), (8, 64), (9, 256 + 128 * 2 ^ 32)] } } : State).putScratch
    0 64 32 (256 + 128 * 2 ^ 32 + 1 * 2 ^ 64 + clm * 2 ^ 128 + wp * 2 ^ 160 + rp * 2 ^ 192))
/-- RING with WIN 1 from s9, AWF and RLS of sequence number s0 = 0, on the object at s8; STRM and STRQ of s2. -/
def oRing : OpM := { opM with d := 9, a := 8, off := 1, ua := true }
def oAwf : OpM := { opM with d := 6, a := 8, ua := true }
def oStrm : OpM := { opM with d := 4, a := 2, off := 63, ua := true }
theorem witness_RingsAndStreams :
    let s := smR 1 1 0
    let c := ctxOf s
    Ready s c hdr [] [] ∧ s.ringPlace c oRing [0, 1] = .ok (0, 64) ∧ ringFits c 256 128 1 = true ∧
    ringFits c (65536 - 128) 128 1 = true ∧ ringFits c 65536 128 1 = false ∧
    Boundary s c hdr (awfRegs oAwf) [] s ∧ (begun s c).ringPlace c oAwf [0, 1] = .ok (0, 64) ∧ (s.ring 0 64).win ≠ 0 ∧
    (s.ring 0 64).poison = false ∧ ringSeq (begun s c) c oAwf = 0 ∧
    Boundary s c hdr [] [] s ∧ (begun s c).widen c 2 [0, 1] = 2 ∧ s.ringPoison 0 64 [0, 1] = none ∧
    Drained (begun s c) c 2 [(begun s c).ringObj c 0 64] ∧
    (0 - (s.ring 0 64).rp).toNat < ((s.ring 0 64).wp - (s.ring 0 64).rp).toNat ∧ ((smR 0 0 0).ring 0 64).wp = 0 :=
  ⟨ready_of (by decide), by rfl, by decide, by decide, by decide, boundary_of (by decide) (by decide), by rfl, by decide, by decide,
   by decide, boundary_of (by decide) (by decide), by decide, by decide, .inr (by decide), by decide, by decide⟩
/-- An object of no slots, and a poisoned one. -/
theorem witness_RingsAndStreams_errors :
    let p := smR 0 0 0 |>.putScratch 0 74 1 1
    Boundary sm cx hdr (awfRegs oAwf) [] sm ∧ sm.ringPlace cx { oAwf with a := 6 } [0, 1] ≠ .ok (0, 64) ∧ (sm.ring 0 0).win = 0 ∧
    sm.ringPlace cx { oAwf with a := 0 } [0, 1] = .ok (0, 0) ∧ (begun sm cx).ringPlace cx { oAwf with a := 0 } [0, 1] = .ok (0, 0) ∧
    (p.ring 0 64).poison = true ∧ (p.ring 0 64).win = 1 ∧ p.ringPlace (ctxOf p) oAwf [0, 1] = .ok (0, 64) :=
  ⟨boundary_of (by decide) (by decide), nofun, by decide, by rfl, by rfl, by decide, by decide, by rfl⟩
/-- RLS on an object of no slots; and a ring whose line a delivery has yet to fill. -/
theorem witness_RingsAndStreams_none :
    Boundary sm cx hdr [] [] sm ∧ sm.ringPlace cx { oAwf with a := 0 } [0, 1] = .ok (0, 0) ∧ (sm.ring 0 0).win = 0 ∧
    sm.someAbsent [(0, .local 0 false ((List.range 32).map fun i => 64 + i))] = false ∧
    (sm.onBlock 0 fun b => { b with absent := [0] }).someAbsent [(0, .local 0 false ((List.range 32).map fun i => 64 + i))] = true :=
  ⟨boundary_of (by decide) (by decide), by rfl, by decide⟩
/-- A free slot, and all 128 slots of the die's engines busy. -/
theorem witness_RingsAndStreams_strm :
    let busy : State := { sm with engines := (List.range 8).map fun e => (e, (List.range 16).map fun k => (k, { busy := true })) }
    isOk (sm.waveAddr cx [0] 32 (sm.readU cx.wave 2).toNat [0, 1]) = true ∧ Boundary sm cx hdr [] [] sm ∧
    Drained smB cx 5 [noObj] ∧ (released smB cx 5 [noObj]).findSlot 63 (dieOfCore cx.core) = some (0, 0) ∧
    busy.findSlot 63 0 = none ∧ isOk (busy.waveAddr (ctxOf busy) [0] 32 0x2000 [0, 1]) = true :=
  ⟨by decide, boundary_of (by decide) (by decide), .inr (by decide), by decide, by decide, by decide⟩
/-- A wave that waits for slot 0, which is filled after WP has passed it. -/
theorem witness_RingsAndStreams_wakes :
    let park (s : State) : State := { s with waves := s.waves.mapVals fun w => { w with park := some (.ring 0 64 0 6 0x1000 [0, 1]) } }
    (ctxOf (park (smR 1 1 0))).wave.park = some (.ring 0 64 0 6 0x1000 [0, 1]) ∧
    ((park (smR 1 1 0)).ring 0 64).poison = false ∧ (park (smR 1 1 0)).ringPoison 0 64 [0, 1] = none ∧ ((park (smR 1 1 0)).ring 0 64).filled 0 = true ∧
    ((park (smR 1 0 0)).ring 0 64).filled 0 = false ∧ ((smR 0 0 0).ring 0 64).open = true ∧
    ((smR 1 1 0).ring 0 64).open = false ∧ ((smR 1 1 0).blocks.find 0).isSome = true := by decide

/-- v4 of the lanes to the cells at v6 = 0; a lane whose v4 holds slag. -/
def oAst : OpM := { opM with d := 4, a := 6, w := 2 }
def slagged : State :=
  small 0 [0, 1] { threads := [thr 0 [(4, 0xFF805A01)] 0, thr 1 [(4, 9)] 0] }
theorem witness_CellsAndVerdicts :
    let act := sm.activeLanes cx 7 false
    Ready sm cx hdr [] (4 :: baseRegs oAst false) ∧ isOk (sm.placeAll cx [3] 4 .free (windowAddrs sm cx oAst blockBase act)) = true ∧
    (∀ l ∈ act, slagCode 10 (sm.readV cx.wave l 4).toNat = none) ∧ (sm.block 0).absent = [] ∧ (sm.block 0).poison = [] ∧
    (let c := ctxOf slagged
     Ready slagged c hdr [] (4 :: baseRegs oAst false) ∧
     isOk (slagged.placeAll c [3] 4 .free (windowAddrs slagged c oAst blockBase [0, 1])) = true ∧
     ([0, 1].filter fun l => (slagCode 10 (slagged.readV c.wave l 4).toNat).isSome) = [0]) ∧
    Clear sm cx [3] 4 .free .read (windowAddrs sm cx oAst blockBase act) ∧
    ReadyA sm cx hdr { o3 10 with b := 0, c := 0 } (shapeTslag { o3 10 with b := 0, c := 0 }) :=
  ⟨ready_of (by decide), by decide, by decide, by decide, by decide, ⟨ready_of (by decide), by decide, by decide⟩,
   clear_of (by decide) trivial, ready_of (by decide)⟩

/-- A matrix word issues: format slots of FP16, BF16, E4M3 and the block format 5; the active plane has format `f`; two waves. -/
def smM (w : Word) (f : BitVec 32) : State :=
  { sm with
    cur := some { wave := 0, lanes := [0, 1], pc := 0x1000, word := w }
    waves := sm.waves.mapVals (fun w => { w with q1 := [], gang := 3, uni := [(2, 0x2000), (3, 0x100), (6, 5), (8, 3)] }) ++
      [(1, { wid := 1, threads := [thr 32 [] 0], alloc := 256 })]
    blocks := [(0, { cluster := 0, matrix := { active := { slot := f, loaded := true }, claimed := true } })]
    cores := [(0, { tlb := [placedLeaf], owner := some 0 })]
    jobs := [(0, { card := { placedCard with waves := 2, formats := [1, 2, 3, 5] }, phase := .running })] }
theorem claim_of {s : State} {b : Nat} {x : Bool} (h : (s.claimMatrix b).1 = x) : s.claimMatrix b = (x, (s.claimMatrix b).2) := by
  rw [← h]
def isAccepted : Examination → Bool
  | .accepted _ => true
  | _ => false
theorem accepted_of {e : Examination} (h : isAccepted e = true) : ∃ x, e = .accepted x := by
  cases e <;> first | exact ⟨_, rfl⟩ | cases h

/-- GANG of s8 = 3 and of s6 = 5, which names a wave that is not in the block. -/
theorem witness_MatrixWords_gang :
    let s := smM 0x3A30000800000002 1
    let c := ctxOf s
    let good (m : Word) : Prop := m = 0 ∨ (2 ≤ popCount 64 m.toNat ∧ popCount 64 m.toNat ≤ 6 ∧ m.toNat / 2 ^ c.card.waves = 0 ∧
      m.getLsbD c.wave.wid = true)
    Ready s c hdr [] [] ∧ good (s.readU c.wave 8) ∧ good (s.readU c.wave 9) ∧ ¬ good (s.readU c.wave 6) :=
  ⟨ready_of (by decide), by decide⟩
/-- MLD from slot 0 at s2; a block that does not own the engine; MSTA of one row group to s2 through slots 0 (FP16) and 1. -/
theorem witness_MatrixWords_mld :
    let s := smM 0x3A31000200000002 1
    let c := ctxOf s
    let t : State := { s with cores := [(0, { tlb := [placedLeaf], owner := some 7 })] }
    Ready s c hdr [] [] ∧ s.claimMatrix (s.hostBlock c) = (true, s) ∧ (c.card.slot 0).fmt = 1 ∧ 0x2000 % 128 = 0 ∧
    0x2000 + operandBytes 1 64 ≤ c.card.shared ∧ s.operandAbsent 0 c.card (soloOp c 0x2000 [0, 1]) = false ∧
    (s.core (s.block 0).core).owner = some 0 ∧ Ready t (ctxOf t) hdr [] [] ∧
    t.claimMatrix (t.hostBlock (ctxOf t)) = (false, (t.claimMatrix (t.hostBlock (ctxOf t))).2) :=
  ⟨ready_of (by decide), by rfl, by decide, by decide, by decide, by decide, by decide, ready_of (by decide),
   claim_of (by decide)⟩
theorem witness_MatrixWords_msta :
    let s := smM 0x3A39000200000002 1
    let c := ctxOf s
    Ready s c hdr [] [] ∧ s.claimMatrix (s.hostBlock c) = (true, s) ∧ (c.card.slot (mSlot c.word)).fmt = 1 ∧
    mRowg c.word + mRows c.word ≤ 6 ∧ 0x2000 + 32 * mRows c.word * 64 * 2 ≤ c.card.shared ∧ (s.block 0).matrix.ops = [] ∧
    (∀ k ∈ storeKeys c.word, slagCode 10 ((s.block 0).matrix.elem (mTile c.word) k).toNat = none) ∧
    (s.block 0).matrix.poisoned c.word = none ∧ s.poolTakes c.core 1 = true :=
  ⟨ready_of (by decide), by rfl, by decide, by decide, by decide, by decide, fun _ _ => by rfl, by decide, by decide⟩
/-- MSWP and MZERO, MPSH into an empty q1, MPOP of a column. -/
theorem witness_MatrixWords_columns :
    let s := smM 0x3A36040000000000 1
    let c := ctxOf s
    let p : State := { s with waves := s.waves.mapVals fun w => { w with q0 := [{ vals := [1], poison := [2] }] } }
    Boundary s c hdr [] [4] s ∧ s.claimMatrix (s.hostBlock c) = (true, s) ∧
    (begun s c).claimMatrix ((begun s c).hostBlock c) = (true, begun s c) ∧ c.wave.q1.length < s.q1Room c ∧
    (begun s c).poolTakes c.core 1 = true ∧
    (let z := s.onCore 0 fun k => { k with poolMin := [0, 0, 0, 0], poolCap := [0, 0, 0, 0] }
     (begun z (ctxOf z)).poolTakes 0 1 = false) ∧
    Boundary p (ctxOf p) hdr [4] [] p ∧ (ctxOf p).wave.q0 = [{ vals := [1], poison := [2] }] ∧
    (∀ l ∈ [0, 1], l ∉ [2]) ∧ ((begun p (ctxOf p)).wave 0).q0 = [{ vals := [1], poison := [2] }] :=
  ⟨boundary_of (by decide) (by decide), by rfl, by rfl, by decide, by decide, by decide, boundary_of (by decide) (by decide),
   by decide, by decide, by decide⟩
/-- MMA with SOLO through slot 0 on a plane of FP16, MAS with SOLO through slot 3 on one of a block format, and MCONV of the
record at 0x2000, of one element in the scratchpad. -/
def opOf (s : State) (c : Ctx) : Matched := { c, a0 := s.readU c.wave 2, a1 := s.readU c.wave 3, act := [0, 1] }
def smConv : State := (smM 0x3A35080200000002 1).writeNat 0x2000 64 (blockBase + 2 ^ 128 + 2 ^ 411)
theorem witness_MatrixWords_solo :
    let ok (s : State) : Bool :=
      let c := ctxOf s
      let t := begun s c
      mSolo c.word && (s.claimMatrix 0).1 && (t.claimMatrix 0).1 && isAccepted (s.examine 0 [opOf s c]) &&
        isAccepted (t.examine 0 [opOf t c])
    let mma := smM 0x3A33080200000002 1
    let mas := smM 0x3A34080260000002 5
    ok mma = true ∧ ok mas = true ∧ ok smConv = true ∧ Boundary mma (ctxOf mma) hdr [] [] mma ∧
    Boundary mas (ctxOf mas) hdr [] [] mas ∧ Boundary smConv (ctxOf smConv) hdr [] [] smConv :=
  ⟨by decide, by decide, by decide, boundary_of (by decide) (by decide), boundary_of (by decide) (by decide),
   boundary_of (by decide) (by decide)⟩
/-- MMA without SOLO in a wave whose gang is there, and in one that has none. -/
theorem witness_MatrixWords_latch :
    let s := smM 0x3A33000200000002 1
    let c := ctxOf s
    let t : State := { s with waves := s.waves.mapVals fun w => { w with gang := 0 } }
    mSolo c.word = false ∧ c.wave.gang ≠ 0 ∧ s.gangGone 0 c.wave.gang = none ∧ Boundary s c hdr [] [] s ∧
    (s.claimMatrix 0).1 = true ∧ ((begun s c).claimMatrix 0).1 = true ∧ (ctxOf t).wave.gang = 0 ∧
    Boundary t (ctxOf t) hdr [] [] t :=
  ⟨by decide, by decide, by decide, boundary_of (by decide) (by decide), by decide, by decide, by decide,
   boundary_of (by decide) (by decide)⟩

/-- An accepted operation of each kind at the head of its block's list: MLD, MSWP, MMA, MAS, MCONV, MZERO, MSTA, at the last
row group that a tile has. -/
def opFor (op : Nat) : MatrixOp :=
  { word := BitVec.ofNat 64 (op * 2 ^ 48 + 5 * 2 ^ 26 + 2), pc := 0x1000, lanes := [0, 1], number := 0, a0 := 0x2000,
    members := [{ wave := 0, act := 0x2000 }] }
def withOp (m : MatrixOp) : State := (smM 0 1).onBlock 0 fun b => { b with matrix := { b.matrix with ops := [m], count := 1 } }
theorem witness_MatrixPerforms :
    ([0x31, 0x32, 0x33, 0x34, 0x35, 0x38, 0x39] : List Nat).all (fun n =>
      let m := opFor n
      let s := withOp m
      (s.blocks.find 0).isSome && (s.block 0).matrix.ops == [m] && m.out.isNone && mOp m.word == n && !mOut m.word &&
        mRowg m.word == 5 && (n != 0x39 || ((s.block 0).matrix.poisoned m.word).isNone)) = true := by decide

/-! #### Sifts, generators, compaction -/

/-- SIFT of v4 by 3 bits with two payload registers, from an empty cluster and while a store is awaited. -/
def oSift : OpA := { opA with d := 4, a := 8, b := 3, c := 2 }
theorem witness_SiftResults :
    Boundary sm cx hdr [] [] sm ∧ (sm.wave cx.w).results = [] ∧ smB.pushesTo cx = false ∧
    siftTrap sm cx oSift true [0, 1] = none ∧ siftTrap sm cx { oSift with d := 0, b := 0 } false [0, 1] = none ∧
    Drained smB cx 3 [noObj] ∧ (sm.waves.find cx.w).isSome = true ∧ (∀ l ∈ [0, 1], l < (sm.wave cx.w).threads.length) ∧
    (let s := { smD with blocks := [(0, { cluster := 0 }), (1, { cluster := 0 })] }
     Boundary s (ctxOf s) hdr [] [] s ∧ siftTrap s (ctxOf s) oSift true [0, 1] = none ∧
     ¬ Drained (begun s (ctxOf s)) (ctxOf s) 3 [noObj]) :=
  ⟨boundary_of (by decide) (by decide), by decide, by decide, by decide, by decide, .inr (by decide), by decide, by decide,
   boundary_of (by decide) (by decide), by decide, by unfold Drained; decide⟩
/-- A cluster whose threads have all arrived, and one that still has a live thread. -/
def sifting (live : Bool) : State :=
  { sm with
    waves := [(0, { threads := [{ live }], alloc := 8 })]
    clusters := [(0, {
      job := 0, blocks := [0], trays := true
      sift := some { word := 0x3060040803020002, pc := 0x1000, place := true, arrived := [{ tid := 0 }, { tid := 33, key := 1 }] } })] }
theorem witness_SiftResults_completes :
    let f := ((sifting false).cluster 0).sift.getD { word := 0, pc := 0, place := false }
    (sifting false).siftReady 0 f = true ∧ ((sifting false).cluster 0).life.resident = true ∧ f.place = true ∧ f.poison = false ∧
    ((sifting false).clusters.find 0).isSome = true ∧ (sifting true).siftReady 0 f = false ∧
    (∀ t ∈ f.arrived, dispatchWid { placedCard with waves := 2 } t < 64) := by decide

/-- v2 holds slag in one lane. -/
def oSeed : OpA := { opA with d := 4, a := 2, b := 6 }
theorem witness_GeneratorResults :
    Ready sm cx hdr (seedRegs oSeed true) [] ∧ Ready sm cx hdr [4] [] ∧ Ready sm cx hdr [4, 5] [] ∧
    Ready sm cx hdr [4] (seedRegs oSeed false) ∧ (∀ l ∈ [0, 1], slagCode 10 (srcA sm cx.wave oSeed l 32) = none) ∧
    (let c := ctxOf slagged
     let o := { oSeed with a := 4 }
     Ready slagged c hdr [4] (seedRegs o false) ∧ o.sp = false ∧
     ([0, 1].filter fun l => (slagCode 10 (srcA slagged c.wave o l 32)).isSome) = [0]) ∧
    (f32.decode 0x7FC00000).isNan = true ∧ (f32.decode 0x7F800000).isFinite = false ∧
    ((f32.decode 1).isFinite = true ∧ (f32.decode 1).isZero = false ∧ (f32.decode 0x7F7FFFFF).isNeg = false) :=
  ⟨ready_of (by decide), ready_of (by decide), ready_of (by decide), ready_of (by decide), by decide,
   ⟨ready_of (by decide), by decide⟩, by decide⟩
/-- T, in s6, holds slag; in the witness state it does not. -/
theorem witness_GeneratorResults_threshold :
    let s : State := { sm with waves := sm.waves.mapVals fun w => { w with uni := [(6, 0xFF805A02)] } }
    let o : OpA := { oSeed with ub := true }
    Ready s (ctxOf s) hdr [4] (seedRegs o false) ∧ o.sp = false ∧
    (slagCode 10 ((s.readU (ctxOf s).wave 6).toNat % 2 ^ 32)).isSome = true ∧
    slagCode 10 ((sm.readU cx.wave 6).toNat % 2 ^ 32) = none := ⟨ready_of (by decide), by decide⟩
theorem witness_GeneratorResults_seed : Ready sm cx hdr [] (seedRegs oSeed true) := ready_of (by decide)

/-- The narrowest and the widest row of SPCMP; a form that overflows and one that does not. -/
theorem witness_SparseResults :
    Ready sm cx hdr (regRange 4 (compactRegs 1)) (regRange 8 1) ∧ Ready sm cx hdr (regRange 235 (compactRegs 16)) (regRange 8 16) ∧
    Ready sm cx hdr (regRange 4 16) (regRange 40 (compactRegs 16)) ∧
    (∀ x ∈ List.replicate 16 (0 : Nat), x < 2 ^ 32) ∧
    ((List.range 16).filter fun i => decide ((List.replicate 16 (0 : Nat)).getD i 0 ≠ 0)).length ≤ 14 ∧ 240 + 14 < 255 :=
  ⟨ready_of (by decide), ready_of (by decide), ready_of (by decide), by decide⟩

/-! #### Events, engines -/

/-- A settling wave in the active set of quadrant 0, an older pending wave that can run, an outstanding result. -/
def smS : State :=
  { sm with waves := [(0, { threads := [thr 0 [] 0], results := [(5, [.uni 3 1])], settle := true, alloc := 8 }),
                      (1, { threads := [thr 1 [] 0], active := false, alloc := 8 })] }
theorem witness_EngineEvents_waves :
    (smS.wave 0).results.find 5 = some [.uni 3 1] ∧ (smS.wave 0).results.find 6 = none ∧
    (((smS.quadrant 0 0).filter fun p => p.2.active).find? (fun p => p.2.settling)).map Prod.fst = some 0 ∧
    (minBy ((smS.quadrant 0 0).filter fun p => !p.2.active && smS.runnable p.2) (fun p => p.2.age)).map Prod.fst = some 1 ∧
    (let s := { smS with waves := smS.waves.mapVals fun w => { w with settle := false } }
     (((s.quadrant 0 0).filter fun p => p.2.active).find? (fun p => p.2.settling)).isNone = true ∧
     ((s.quadrant 0 0).filter fun p => p.2.active).length < 8 ∧
     (minBy ((s.quadrant 0 0).filter fun p => !p.2.active && s.runnable p.2) (fun p => p.2.age)).map Prod.fst = some 1) := by
  decide
/-- Wave 0 is about to fetch from the page at 0x1000, which no TLB holds. -/
theorem witness_EngineEvents_walk :
    let s : State := { smP.writeNat 0x100008 8 0x102D with cores := [], waves := smP.waves.mapVals fun w => { w with threads := [thr 0 [] 0] } }
    let q := s.requester (s.ctxFor { wave := 0, lanes := [], pc := 0, word := 0 })
    (s.waves.find? fun p => s.aboutToAccess p.1 0 0 0x1000 .fetch).map Prod.fst = some 0 ∧
    findLeaf (s.core 0).tlb 0 0x1000 = none ∧ findLeaf (s.die q.die).l2tlb 0 0x1000 = none ∧
    (s.die q.die).missAt 0 0x1000 = none ∧
    (match s.walk 0 q.root 0x1000 with | .leaf l _ => l.permits .fetch | _ => false) = true := by decide

/-- A delivery of one byte, accepted; one that waits for its data; one that has landed. -/
def smDel (accepted landed : Bool) : State :=
  sm.onBlock 0 fun b => { b with absent := [2], deliveries := [{ kind := 0, owner := 0, number := 0, bytes := [(256, 1)], accepted, landed }] }
theorem witness_EngineEvents_deliveries :
    ((smDel true false).block 0).deliveries[0]?.map (fun d => (d.landed, d.accepted, d.kind)) = some (false, true, 0) ∧
    ((smDel false false).block 0).deliveries[0]?.map (fun d => d.accepted) = some false ∧
    ((smDel true true).block 0).deliveries[0]?.map (fun d => d.landed) = some true ∧
    ((sm.block 0).deliveries[0]?).isNone = true := by decide

/-- A command of block 0's copy queue; the block has published one command in its ring, a CFILL of 5 bytes. -/
def smK (w : BitVec 256) (claim : Option Claim) : State :=
  { (sm.onBlock 0 fun b => { b with taken := 1, copies := [{ entry := 0, command := w, claim }] }) with command := some (.copy 0 0) }
def aClaim : Claim := { off := 64, k := 0, init := 0, base := 256, size := 128 }
def fillWord : BitVec 256 := (encodeCommand (.cfill { rng := false, len := 5, pat := 7, dst := BitVec.ofNat 64 (blockBase + 512) })).getD 0
theorem witness_EngineEvents_copies :
    let y : CopyEntry := { entry := 0, command := fillWord, begun := true, claim := some aClaim }
    let s := sm.onBlock 0 fun b => { b with taken := 1, copies := [y] }
    let p := (sm.putScratch 0 0 8 1).putScratch 0 64 32 fillWord.toNat
    s.copyEntry 0 0 = some y ∧ s.copyDone 0 y = true ∧ s.claimLives 0 aClaim = true ∧ s.claimLives 0 { aClaim with init := 1 } = false ∧
    (smK fillWord none).copyDone 0 { entry := 0, command := fillWord } = false ∧
    (p.cluster (p.block 0).cluster).life.resident = true ∧ (p.block 0).stat = 0 ∧ (p.block 0).copies = [] ∧
    0 < p.scratchNat 0 0 8 ∧ ((p.block 0).taken - (p.block 0).done).toNat < (p.blockCard 0).cqe ∧ p.entryAt 0 0 = 64 ∧
    BitVec.ofNat 256 (p.scratchNat 0 64 32) = fillWord ∧ isOk (copyCommand fillWord) = true ∧
    isOk (p.copyPrints 0 { entry := 0, command := fillWord } (.cfill { rng := false, len := 5, pat := 7, dst := BitVec.ofNat 64 (blockBase + 512) })) = true := by
  decide
/-- A copy whose slot had advanced WP before its ring began anew, and one whose slot had not. -/
theorem witness_EngineEvents_stale :
    let y : CopyEntry := { entry := 0, command := fillWord, begun := true, claim := some { aClaim with init := 1 }, advanced := true }
    let s := sm.onBlock 0 fun b => { b with taken := 1, copies := [y] }
    let z := { y with advanced := false }
    s.copyEntry 0 0 = some y ∧ s.copyDone 0 y = true ∧ s.claimLives 0 { aClaim with init := 1 } = false ∧ (sm.block 0).held = true ∧
    (sm.onBlock 0 fun b => { b with taken := 1, copies := [z] }).copyDone 0 z = true := by decide
/-- An empty queue of a block whose status word is set; a cluster that has ended; a claim in an open ring and in a full one. -/
theorem witness_EngineEvents_claims :
    let s := sm.onBlock 0 fun b => { b with stat := 1 }
    let y : CopyEntry := { entry := 0, command := fillWord }
    (s.block 0).stat ≠ 0 ∧ (s.block 0).copies = [] ∧
    (let t : State := { sm with clusters := [(0, { job := 0, blocks := [0], life := .ended })] }
     (t.cluster (t.block 0).cluster).life = .ended) ∧
    (let t : State := { sm with clusters := [(0, { job := 0, blocks := [0], life := .dropped })] }
     (t.cluster (t.block 0).cluster).life = .dropped) ∧
    y.misses.any sm.missHeld = false ∧ ((smR 0 0 0).ring 0 64).open = true ∧ ((smR 1 1 0).ring 0 64).open = false ∧
    isOk ((smR 0 0 0).copyPrints 0 y (.cfill { rng := true, len := 5, pat := 7, dst := BitVec.ofNat 64 (blockBase + 64) })) = true := by decide

/-- What an engine's access gives. -/
def isGot {α : Type} : Got α → Bool
  | .ok _ => true
  | _ => false
/-- A command that begins, and its reads, as tests. -/
def beginsB (s : State) (i : Instr) (y : CopyEntry) : Bool :=
  s.command == some (.copy 0 0) && s.copyEntry 0 0 == some y && !(y.misses.any s.missHeld) && !y.begun &&
    (!(ringOf i).isSome || y.claim.isSome) && isOk (s.copyPrints 0 y i) && (s.block 0).copies.head? == some y &&
    y.got.isEmpty && (s.stage 0 y).isSome
theorem begins_of {s : State} {i : Instr} {y : CopyEntry} (h : beginsB s i y = true) (hy : y.entry = 0) :
    ∃ u, CopyBegins s i 0 0 y u := by
  simp only [beginsB, Bool.and_eq_true, Bool.or_eq_true, beq_iff_eq, Bool.not_eq_true'] at h
  obtain ⟨⟨⟨⟨⟨⟨⟨⟨h1, h2⟩, h3⟩, h4⟩, h5⟩, h6⟩, h7⟩, h8⟩, h9⟩ := h
  obtain ⟨u, hu⟩ := Option.isSome_iff_exists.1 h9
  refine ⟨u, h1, h2, h3, h4, by simpa using h8, hu, fun hr => by simpa [hr] using h5, ⟨_, ok_of { reads := [], writes := [] } h6⟩, ?_⟩
  intro z hz
  cases hc : (s.block 0).copies with
  | nil => simp [hc] at h7
  | cons a l =>
    rw [hc] at hz h7
    simp only [List.head?_cons, Option.some.injEq] at h7
    subst h7
    simp [hy] at hz
/-- The state in which a command reads. -/
def staged (s : State) : State := ((s.copyEntry 0 0).bind (s.stage 0)).getD s
/-- Reads that end within one line come in one go, whatever the part lets other agents do after it. -/
theorem gather_line {v u w : State} {e : Engine} {runs : List (Loc × Nat)} {l : Loc} {n k : Nat} {bytes : List Byte} {pages : Tab Nat}
    (ht : v.translateAll e.q (runs.flatMap fun r => match r.1 with | .global va => pagesOf va r.2 | .scratch .. => []) .read =
      (.ok pages, u))
    (hk : runsLength runs = k + 1) (hn : nextPiece runs 0 = some (l, n)) (hr : u.readLoc e l n = (.ok bytes, w))
    (hl : nextPiece runs bytes.length = none) : v.gather e runs [] = (.ok bytes, w) := by
  unfold State.gather
  dsimp only
  split
  · rename_i h; exact absurd (ht.symm.trans h) (by simp)
  · rename_i h; exact absurd (ht.symm.trans h) (by simp)
  · rename_i h
    obtain ⟨-, rfl⟩ := Prod.mk.inj (ht.symm.trans h)
    simp only [hk, State.readOn, List.length_nil, hn, hr, List.nil_append, hl, ite_self]
/-- A command's reads within one line, or of nothing, as a test. -/
def readsB (v : State) (runs : List (Loc × Nat)) (m : Moved) : Bool :=
  let e := v.copyEngine 0
  match v.translateAll e.q (runs.flatMap fun r => match r.1 with | .global va => pagesOf va r.2 | .scratch .. => []) .read with
  | (.ok _, u) =>
    match nextPiece runs 0 with
    | none => false
    | some (l, n) => match u.readLoc e l n with
      | (.ok bytes, w) => bytes.length == runsLength runs && decide (1 ≤ runsLength runs) && (nextPiece runs bytes.length).isNone &&
        (w.writeError (w.copyEngine 0) m.global).isNone && m.scratch.all fun x => w.poolTakes (w.block x.1).core 1
      | _ => false
  | _ => false
theorem reads_of {v : State} {runs : List (Loc × Nat)} {m : Moved} (h : readsB v runs m = true) :
    ∃ bytes w, CopyReads v 0 runs bytes m w := by
  unfold readsB at h
  dsimp only at h
  split at h
  · rename_i pages u ht
    split at h
    · simp at h
    · rename_i l n hn
      split at h
      · rename_i bytes w hr
        simp only [Bool.and_eq_true, List.all_eq_true, Option.isNone_iff_eq_none, beq_iff_eq, decide_eq_true_eq] at h
        obtain ⟨⟨⟨⟨h1, h2⟩, h3⟩, h4⟩, h5⟩ := h
        obtain ⟨k, hk⟩ : ∃ k, runsLength runs = k + 1 := ⟨runsLength runs - 1, by omega⟩
        exact ⟨bytes, w, gather_line ht hk hn hr h3, h1, h4, h5⟩
      · simp at h
  · simp at h
theorem reads_none {v : State} {m : Moved} (h1 : (v.writeError (v.copyEngine 0) m.global).isNone = true) (h2 : m.scratch = []) :
    ∃ bytes w, CopyReads v 0 [] bytes m w :=
  ⟨[], v, rfl, rfl, by simpa using h1, by simp [h2]⟩
/-- A CCOPY of 5 bytes from 0x2000 to the scratchpad and into a ring's slot; a CFILL of global memory. -/
def aCopy (rng : Bool) : CmdCopy :=
  { rng, len := 5, src := 0x2000, dst := BitVec.ofNat 64 (blockBase + 64) }
def fiveBytes : Moved := { scratch := [(0, (List.range 5).map fun i => (64 + i, 0))] }
theorem witness_CopyCommands :
    let s := smK 0 none
    let y : CopyEntry := { entry := 0, command := 0 }
    (∃ u, CopyBegins s (.ccopy (aCopy false)) 0 0 y u) ∧ isOk ((staged s).locate 0 0x2000 5 true) = true ∧
    isOk ((staged s).target 0 false (blockBase + 64) 5 true none) = true ∧
    (∃ bytes w, CopyReads (staged s) 0 [(.global 0x2000, 5)] bytes fiveBytes w) ∧
    isGot (deliver none (some (.scratch 0 64)) [1, 2, 3, 4, 5]) = true ∧
    (∃ u, CopyBegins s (.cfill { rng := false, len := 1, pat := 7, dst := 0x2000 }) 0 0 y u) ∧
    (∃ bytes w, CopyReads (staged s) 0 [] bytes { global := [(0x2000, 7)] } w) ∧
    isOk (s.copyPrints 0 y (.ccopy { aCopy false with src := BitVec.ofNat 64 stackBase })) = false :=
  ⟨begins_of (by decide) rfl, by decide, by decide, reads_of (by decide), by decide, begins_of (by decide) rfl,
   reads_none (by decide) rfl, by decide⟩
theorem witness_CopyCommands_ring :
    let s := smK 0 (some aClaim)
    let y : CopyEntry := { entry := 0, command := 0, claim := some aClaim }
    (∃ u, CopyBegins s (.ccopy (aCopy true)) 0 0 y u) ∧
    isOk ((staged s).target 0 true (blockBase + 64) 5 true (some aClaim)) = true ∧
    (List.replicate 128 (0 : Byte)).length ≤ aClaim.size ∧ aClaim.size < (List.replicate 129 (0 : Byte)).length :=
  ⟨begins_of (by decide) rfl, by decide⟩
/-- CGATH and CSCAT of one row of 4 bytes by the list at 8 × 8, and CTILE both ways on a tensor of four floats. -/
def aGather : CmdGather :=
  { rng := false, nidx := 1, tstr := 16, tbase := 0x2000, trows := 4, rowb := 4, idx := 8, dst := BitVec.ofNat 64 (blockBase + 256) }
def aScatter : CmdScatter :=
  { nidx := 1, tstr := 16, tbase := 0x2000, trows := 4, rowb := 4, idx := 8, src := BitVec.ofNat 64 (blockBase + 256) }
def aTile (dir : Bool) : CmdTile :=
  { rng := false, dir, tx0 := 2, tx1 := 1, tx2 := 1, tx3 := 1, tx4 := 1, tidx := 1, tsr := 0x2000,
    spa := BitVec.ofNat 64 (blockBase + 256) }
def smTsr (w : BitVec 256) : State := (smK w none).writeNat 0x2000 64 (0x3000 + 4 * 2 ^ 128 + 2 ^ 411)
theorem witness_CopyCommands_rows :
    let s := smK 0 none
    let y : CopyEntry := { entry := 0, command := 0 }
    let l := (staged s).rowsOf 0 y 8 1 4
    (∃ u, CopyBegins s (.cgath aGather) 0 0 y u) ∧ (∃ u, CopyBegins s (.cscat aScatter) 0 0 y u) ∧ isGot l.1 = true ∧
    (∃ bytes w, CopyReads l.2 0 [(.global 0x2000, 4)] bytes fiveBytes w) ∧
    (∃ bytes w, CopyReads l.2 0 [(.scratch 0 256, 4)] bytes { global := [(0x2000, 0)] } w) ∧
    isOk ((staged s).target 0 false (blockBase + 256) 4 false none) = true ∧
    isOk ((staged s).locate 0 (blockBase + 256) 4 false) = true :=
  ⟨begins_of (by decide) rfl, begins_of (by decide) rfl, by decide, reads_of (by decide), reads_of (by decide), by decide⟩
theorem witness_CopyCommands_tile :
    let s := smTsr 0
    let y : CopyEntry := { entry := 0, command := 0 }
    let r := (staged s).tsrOf 0 y 0x2000
    let t := parseTsr (0x3000 + 4 * 2 ^ 128 + 2 ^ 411)
    let tx := [2, 1, 1, 1, 1]
    let segs := t.segs 0 tx [0, 1, 2, 3, 4] 1
    (∃ u, CopyBegins s (.ctile (aTile false)) 0 0 y u) ∧ (∃ u, CopyBegins s (.ctile (aTile true)) 0 0 y u) ∧
    (match r.1 with | .ok x => x == (t, 0) | _ => false) = true ∧ t.tileOk 0 tx = true ∧ 1 < t.tiles tx ∧
    (∃ bytes w, CopyReads r.2 0 (tileRuns segs) bytes fiveBytes w) ∧
    (∃ bytes w, CopyReads r.2 0 [(.scratch 0 256, tileSize 0 tx)] bytes { global := [(0x3008, 1)] } w) ∧
    isOk (r.2.target 0 false (blockBase + 256) (tileSize 0 tx) false none) = true ∧
    isOk (r.2.locate 0 (blockBase + 256) (tileSize 0 tx) false) = true :=
  ⟨begins_of (by decide) rfl, begins_of (by decide) rfl, by decide, by decide, by decide, reads_of (by decide),
   reads_of (by decide), by decide⟩

/-- Program 0 of engine 0 is busy, bound to cluster 0; the die's TLB holds the page. -/
def smPr (p : Program) : State :=
  { smR 0 0 0 with
    engines := [(0, [(0, p)])], command := some (.stream 0 0), dies := [(0, { l2tlb := [placedLeaf] })] }
def aProgram : Program := { busy := true, state := 1, here := 0x2000, count := 1 }
def aPush (slots : List (Nat × Nat × Nat)) : Push := { number := 3, slots }
theorem goes_of (p : Program) (h : p.busy = true) : StreamGoes (smPr p) 0 0 p :=
  ⟨rfl, by simp [smPr, State.program, Tab.getD, Tab.find], h⟩
theorem witness_StreamCommands :
    let p := { aProgram with stack := [(1, 0x2000)] }
    let full := { aProgram with stack := List.replicate 4 (2, 0x2000) }
    StreamGoes (smPr aProgram) 0 0 aProgram ∧ StreamGoes (smPr p) 0 0 p ∧ StreamGoes (smPr full) 0 0 full ∧
    4 ≤ full.stack.length ∧ aProgram.stack = [] ∧ aProgram.inflight = [] ∧ aProgram.halting = false ∧
    StreamGoes (smPr { aProgram with inflight := [aPush []] }) 0 0 { aProgram with inflight := [aPush []] } ∧
    StreamGoes (smPr { aProgram with halting := true }) 0 0 { aProgram with halting := true } :=
  ⟨goes_of _ rfl, goes_of _ rfl, goes_of _ rfl, by decide, rfl, rfl, rfl, goes_of _ rfl, goes_of _ rfl⟩
/-- SWALK on the record at 0x2000, and at 0x2020, which is no multiple of 64. -/
theorem witness_StreamCommands_walk :
    let s := (smPr aProgram).writeNat 0x2000 64 (0x3000 + 4 * 2 ^ 128 + 2 ^ 411)
    windowOf 0x2000 = 0 ∧ 0x2000 + 64 ≤ stackBase ∧ 0x2000 % 64 = 0 ∧ 0x2020 % 64 ≠ 0 ∧ StreamGoes s 0 0 aProgram ∧
    (match (s.readTsr (s.streamEngine 0 aProgram) (s.job 0).card 0x2000).1 with
     | .ok (t, fmt) => t.tileOk fmt [2, 1, 1, 1, 1]
     | _ => false) = true :=
  ⟨by decide, by decide, by decide, by decide, ⟨rfl, by decide, rfl⟩, by decide⟩
/-- SPUSH of the tensor's first tile, of 8 bytes, into the ring at 64, which has one slot of 128 bytes. -/
def walked : Program := { aProgram with walk := some { tsr := 0x3000 + 4 * 2 ^ 128 + 2 ^ 411, tile := [2, 1, 1, 1, 1], order := [0, 1, 2, 3, 4], t := 0 } }
theorem witness_StreamCommands_push :
    let s := smPr walked
    let c : CmdPush := { mc := false, bmask := 1, ring := 64 }
    let full := { s with blocks := (smR 1 0 0).blocks }
    let ends (l : Life) : State := { s with clusters := [(0, { job := 0, blocks := [0], life := l })] }
    let t := parseTsr (0x3000 + 4 * 2 ^ 128 + 2 ^ 411)
    StreamGoes s 0 0 walked ∧ walked.push = none ∧ c.bmask.toNat < 2 ^ (s.job 0).card.blocks ∧
    c.ring.toNat + 32 ≤ (s.job 0).card.shared ∧ c.ring.toNat % 32 = 0 ∧ s.pushTargets c walked = [(0, 64)] ∧
    (s.cluster 0).life.resident = true ∧ (s.ring 0 64).open = true ∧ (full.ring 0 64).open = false ∧ (s.ring 0 64).ssize = 128 ∧
    tileSize (((s.job 0).card.slot t.slot).fmt) [2, 1, 1, 1, 1] = 8 ∧ tileSize 0 [33, 1, 1, 1, 1] = 132 ∧
    ((ends .ended).cluster 0).life = .ended ∧ ((ends .dropped).cluster 0).life = .dropped ∧
    ((ends (.preempted none)).cluster 0).life.resident = false :=
  ⟨goes_of _ rfl, by decide⟩
/-- The least slot is 128 bytes; a stamp in its last 8 bytes fits; pushes in flight to the same slot and to another. -/
theorem witness_StreamCommands_slots :
    let s := smPr walked
    let next := s.nextSlots [(0, 64)]
    (minBy [128] id).getD 0 = 128 ∧ 8 ≤ 128 ∧ 128 < tileSize 0 [33, 1, 1, 1, 1] ∧ 120 + 8 ≤ 128 ∧ walked.stamp = none ∧
    walked.inflight = [] ∧ slotsMeet next next = true ∧ slotsMeet next [(0, 4096, 128)] = false ∧
    StreamGoes (smPr { walked with inflight := [aPush next] }) 0 0 { walked with inflight := [aPush next] } ∧
    StreamGoes (smPr { walked with stamp := some 120 }) 0 0 { walked with stamp := some 120 } ∧
    StreamGoes (smPr { aProgram with walk := none }) 0 0 { aProgram with walk := none } :=
  ⟨by decide, by decide, by decide, by decide, rfl, rfl, by decide, by decide, goes_of _ rfl, goes_of _ rfl, goes_of _ rfl⟩
/-- SSIG at the word at 0x2000, at the queue there, at barrier 3 of block 0. -/
theorem witness_StreamCommands_signal :
    let s := { smPr aProgram with mem := (smQ 0).mem }
    let q := (s.streamEngine 0 aProgram).q
    let bar := s.onBlock 0 fun b => { b with barriers := [(3, { exp := 2 })] }
    StreamGoes s 0 0 aProgram ∧ sigAddr 0x2000 8 = none ∧ sigAddr 0x2000 64 = none ∧ (sigAddr 0x2004 8).isSome = true ∧
    (sigAddr 0x2020 64).isSome = true ∧ isPages (s.translateAll q [0x2000] .write).1 = true ∧
    (s.translateAll q [0x2000] .write).2.routeDown 0x2000 = false ∧ (s.translateAll q [0x2000] .write).2.poisonAt 0x2000 = none ∧
    isDone (s.enqueue (.virtual q) 0x2000 fun lgsz => if lgsz = 3 then some [9] else none).1 = true ∧
    StreamGoes bar 0 0 aProgram ∧ (bar.barrier 0 3).arr + 2 ≤ (bar.barrier 0 3).exp ∧
    (bar.barrier 0 3).exp < (bar.barrier 0 3).arr + 3 :=
  ⟨⟨rfl, by decide, rfl⟩, by decide, by decide, by decide, by decide, by decide, by decide, by decide, by decide,
   ⟨rfl, by decide, rfl⟩, by decide, by decide⟩
/-- SSIG over a link that is off, at a poisoned queue and at one without poison; SPUSH at blocks that the cluster lacks. -/
theorem witness_StreamCommands_errors :
    let s := { smPr aProgram with cxlOff := [0], dies := [(0, { l2tlb := [{ placedLeaf with pa := 0x100000000000 }] })] }
    let q := (s.streamEngine 0 aProgram).q
    StreamGoes s 0 0 aProgram ∧ isPages (s.translateAll q [0x2000] .write).1 = true ∧
    (s.translateAll q [0x2000] .write).2.routeDown 0x100000002000 = true ∧
    (let t := { smPr aProgram with mem := (smQ 0).mem }
     t.queueSector (t.streamEngine 0 aProgram) 0x2000 = none ∧
     ({ t with poison := [(0x100, 3)] } : State).queueSector (t.streamEngine 0 aProgram) 0x2000 =
       some { code := 0x0209, info0 := 0x2000, info1 := 3 }) ∧
    2 ^ (s.job (s.cluster 0).job).card.blocks ≤ (255 : BitVec 8).toNat ∧ (smPr walked).rawTargets walked 255 64 = [(0, 64)] :=
  ⟨⟨rfl, by decide, rfl⟩, by decide⟩

/-! #### The scheduler -/

/-- A ready device with one job queue, at 0x2000, of 16-byte entries: it holds an entry that names the card at 0x4000, whose
queues stand at 0x5000 and 0x5040; its address space is usable. -/
def smJ : State :=
  { State.reset with
    bootReady := true, jqtab := 0x8001, astbase := 0x40000, dies := [(0, { l2tlb := [placedLeaf] })]
    mem := [(0x2001, 0x30), (0x2008, 0x4), (0x2009, 0x1), (0x2018, 0x1), (0x3001, 0x40), (0x4001, 0x10), (0x4010, 0x1), (0x4039, 0x50), (0x4041, 0x50), (0x4048, 0x40), (0x4049, 0x50),
      (0x5001, 0x60), (0x5008, 0x5), (0x5009, 0x1), (0x5041, 0x70), (0x5048, 0x6), (0x5049, 0x1), (0x8001, 0x20), (0x8009, 0x40), (0x40000, 0x1), (0x40002, 0x10)] }
def anyImage : CardImage := { card := 0, ext := none, foot := none, binds := none, qcbs := [] }
theorem witness_JobsAndDispatch :
    smJ.bootReady = true ∧ smJ.jobsHeld < 4096 ∧ smJ.roundOrder = [0] ∧ (smJ.queueWaits 0).1 = true ∧
    (smJ.queueRequester 0).isSome = true ∧ (smJ.queueRequester 0) = smJ.scheduler 0 ∧ State.reset.bootReady = false ∧
    (match smJ.scheduler 0 with
     | some r => match (smJ.dequeue (.virtual r) (slice (smJ.queueEntry 0) 0 64) 1 (· == 4)).1 with
       | .done n l => n == 1 && l == [0x4000]
       | _ => false
     | none => false) = true := by decide
/-- The card breaks no rule; the card at 0x9000, all zero, breaks the sixth, for it names no queues. -/
theorem witness_JobsAndDispatch_card :
    let image (a : Nat) : Option CardImage := match smJ.scheduler 0 with
      | some q => match smJ.schedRead q a 256 with
        | (.ok (some n), u) => match u.readParts q n with
          | (.ok i, _) => some i
          | _ => none
        | _ => none
      | none => none
    (image 0x4000).isSome = true ∧ ((image 0x4000).getD anyImage).failed 0x4000 false = none ∧
    (image 0x9000).isSome = true ∧ (((image 0x9000).getD anyImage).failed 0x9000 false).isSome = true ∧
    (smJ.scheduler 1).isNone = true := by decide
/-- A ready job of one task in core 0's queue. -/
def smReady : State :=
  { smJ with
    jobs := [(0, { card := { entry := 0x1000, rcount := 1, regs := 8 }, phase := .ready, next := 1, limit := 1, tasks := 1 })]
    cores := [(0, { queue := [{ job := 0, first := 0, count := 1 }] })], nextId := 10 }
theorem witness_JobsAndDispatch_dispatch :
    let o := ((smReady.offers 0).headD { key := 0, job := 9, task := 9, queued := false })
    smReady.recordsStall = false ∧ smReady.lowerRequests 0 = false ∧ smReady.freeOffers 0 = [o] ∧
    (smReady.seatFor 0 o).isSome = true ∧ ((smReady.seatFor 0 o).map fun x => x.twin.isNone) = some true ∧
    (smReady.descriptor (smReady.job o.job).asid).isSome = true ∧ smReady.offers 1 = [] := by decide

/-- A running, a halted and a pre-empted cluster. -/
def smL (l : Life) : State := { sm with clusters := [(0, { job := 0, blocks := [0], life := l })] }
theorem witness_PreemptionAndRecords :
    ((smL (.halted 7)).clusters.find 0).isSome = true ∧ ((smL (.halted 7)).cluster 0).life = .halted 7 ∧
    ((smL .running).cluster 0).life = .running ∧ (sm.wave 0).stays = false ∧ (smL (.preempted none)).inCwait 0 = false ∧
    1 < (sm.wave 0).threads.length ∧ ((sm.wave 0).thread 1).live = true ∧ ((sm.wave 0).thread 1).txn = none ∧
    ((smL (.preempted none)).cluster 0).life = .preempted none ∧ (smL (.preempted none)).resumeAt 0 = some [0] ∧
    (let s := { smL (.preempted none) with jobs := [(0, { card := { placedCard with waves := 9 }, phase := .running })] }
     s.resumeAt 0 = none) ∧ sm.growers 0 = [] :=
  ⟨by decide, rfl, rfl, rfl, by decide, by decide, by decide, by decide, rfl, by decide, by decide, by decide⟩
/-- A wave that waits in GROW on a core that has not issued for 1,023 and for 1,024 clocks. -/
theorem witness_PreemptionAndRecords_grow :
    let s (n : Nat) : State :=
      { smG with waves := smG.waves.mapVals (fun w => { w with park := some (.grow 256) }), clk := n }
    ((s 1024).growers 0).getLast?.isSome = true ∧ ((s 1024).core 0).idle + 1024 ≤ (s 1024).clk ∧
    (s 1023).clk < ((s 1023).core 0).idle + 1024 := by decide
/-- A job with a deadline at 9, at time 9 and 10; a held record for the queue at 0x2000. -/
theorem witness_PreemptionAndRecords_records :
    let j : Job := { card := { placedCard with deadline := some 9 }, phase := .running }
    let h : Held := { asid := 0, queue := 0x2000, size := 4, bits := 1 }
    let s : State := { smJ with held := [h] }
    j.card.deadline = some 9 ∧ j.phase.active = true ∧ j.late = false ∧ s.recordsStall = false ∧ h.after.any s.storeHeld = false ∧ passed 10 9 = true ∧ passed 9 9 = false ∧
    s.held[0]? = some h ∧ (s.scheduler h.asid h.die).isSome = true ∧ (∀ x ∈ s.held.take 0, x.asid = h.asid → x.queue ≠ h.queue) ∧
    (match s.scheduler 0 with
     | some q => isDone (s.enqueue (.virtual q) 0x2000 fun lgsz => if lgsz = 4 then some [1] else none).1
     | none => false) = true := by decide
/-- A staged job whose input queue holds the marker, and a task. -/
def smStage (a : Nat) : State :=
  { (smQ 1).writeNat 0x40000 8 0x100001 |>.writeNat 0x3000 8 a with
    astbase := 0x40000, dies := [(0, { l2tlb := [placedLeaf] })], waves := [], blocks := [], clusters := []
    jobs := [(0, { card := { regs := 8 }, phase := .ready, stages := [{ entry := 0x1000, iq := 0x2000, low := 0, high := 1 }] })] }
theorem witness_PreemptionAndRecords_stage :
    [0, 5].all (fun a =>
      let s := smStage a
      let x := s.job 0
      match s.depths 0 with
      | (some l, u) =>
        let t := s.onCore 0 fun y => { y with roles := y.roles.insert 0 (s.role 0 0) }
        u.govern 0 0 l == 0 && l == [1] && s.role 0 0 == 0 && x.phase == .ready && !(s.core 0).gated && !s.blockedByRecords x &&
          !s.recordsStall && !s.stagedBefore 0 (s.edfKey x) false && (s.offers 0).isEmpty && (x.stages[0]?).map (fun g => g.marked) == some false && (t.seat x.card 0 0).isSome &&
          (match t.scheduler (t.job 0).asid with
           | some q => match (t.dequeue (.virtual q) 0x2000 1 (· == 3)).1 with
             | .done n l => n == 1 && l == [a]
             | _ => false
           | none => false)
      | _ => false) = true := by decide
theorem witness_PreemptionAndRecords_governs :
    let s := { smStage 5 with jobs := (smStage 5).jobs.mapVals fun j => { j with begun := true } }
    (s.jobs.filter fun p => p.2.phase == .ready && p.2.begun && !p.2.stages.isEmpty).map Prod.fst = [0] ∧
    (match s.depths 0 with | (some l, _) => l == [1] | _ => false) = true ∧ (smStage 5).lowerRequests 0 = false ∧
    (smStage 0).lowerRequests 0 = false := by decide

/-- Core 1 asks core 2; core 2 holds two entries, or one that it has started. -/
def started : List Chunk := [{ job := 0, first := 0, count := 5, started := true }]
def smSteal (queue : List Chunk) (x : Steal) : State :=
  { smReady with cores := [(2, { queue })], steals := [(7, x)] }
theorem witness_StealsAndReplicas_steal :
    let ask : Steal := { thief := 1, victim := 2 }
    let s := smSteal started ask
    State.reset.idles 1 = true ∧ s.idles 1 = false ∧ s.steals.find 7 = some ask ∧ ask.step = 1 ∧
    (s.steals.any fun p => decide (p.1 < 7) && p.2.victim == 2 && p.2.step == 1) = false ∧ (lend started).isSome = true ∧
    (started.map fun c => (c.job, c.first)).Nodup ∧ lend (started.map fun c => { c with count := 1 }) = none ∧
    lend ([] : List Chunk) = none ∧ ((victimOrder 1)[0 + 1]?).isSome = true := by decide
/-- The transferred entry, before and after its acceptance, 4,095 and 4,096 clocks after. -/
theorem witness_StealsAndReplicas_steps :
    let e : Chunk := { job := 0, first := 3, count := 2 }
    let x (n : Nat) : Steal := { thief := 1, victim := 2, chunk := some e, step := n }
    ((smSteal [] (x 3)).steals.find 7).bind (fun x => x.chunk) = some e ∧ ((smSteal [] (x 3)).core 1).gated = false ∧
    (({ smSteal [] (x 3) with cores := [(1, { gated := true })] } : State).core 1).gated = true ∧ (smReady.job 0).phase.active = true ∧
    (State.reset.job 0).phase.active = true ∧ (x 4).reclaimed = false ∧
    (x 4).since + 4096 ≤ ({ smReady with fabric := 4096 } : State).fabric ∧
    ({ smReady with fabric := 4095 } : State).fabric < (x 4).since + 4096 ∧ Phase.active .cancelled = false := by decide
/-- Twin waves whose hashes agree or differ. -/
def smTwin (a b : Nat) : State :=
  { sm with
    waves := [(0, { cluster := 0, park := some (.twin a) }), (1, { cluster := 1, park := some (.twin b) })]
    clusters := [(0, { run := some { role := 0, twin := some 1 } }), (1, { run := some { role := 1, twin := some 0 } })] }
theorem witness_StealsAndReplicas_replicas :
    let s := smTwin 5 6
    (s.wave 0).park = some (.twin 5) ∧ (s.wave 1).park = some (.twin 6) ∧
    (s.cluster (s.wave 0).cluster).run = some { role := 0, twin := some (s.wave 1).cluster } ∧
    (s.wave 0).runKey = (s.wave 1).runKey ∧ (s.wave 0).bounds = (s.wave 1).bounds ∧ ((smTwin 5 5).wave 1).park = some (.twin 5) := by
  decide
/-- A group whose step 3 is pending since time 0. -/
def smGroup : State := { smReady with groups := [(0, { peer := 2, enabled := true, steps := 3, pending := some (3, 0, 0) })] }
theorem witness_StealsAndReplicas_groups :
    ({ smGroup with links := [(2, { up := true })], pmodes := [(2, 1)] } : State).portUp 1 = true ∧ smGroup.portUp 1 = false ∧
    (smGroup.groups.find 0).map (fun g => (g.enabled, g.pending)) = some (true, some (3, 0, 0)) ∧
    smGroup.time.toNat < 0 + 100000000 ∧ 0 + 100000000 ≤ ({ smGroup with time := 100000000 } : State).time.toNat ∧
    (∃ x : BitVec 384, x.toNat ≠ stepDigest (smGroup.job 0)) ∧ (3 : Nat) < 4 ∧ (2 : Nat) < 3 := by
  refine ⟨by decide, by decide, by decide, by decide, by decide, ?_, by decide, by decide⟩
  by_cases h : (0 : BitVec 384).toNat = stepDigest (smGroup.job 0)
  · exact ⟨1, fun h2 => by have := h.trans h2.symm; revert this; decide⟩
  · exact ⟨0, h⟩

/-! #### The host's port, registers, links, power -/

/-- A host command is in progress. -/
def smOp (op : Byte) (a0 a1 : Word) : State := { smL (.halted 7) with busy := true, op, arg0 := a0, arg1 := a1 }
theorem witness_HostPort :
    let inv := smOp 1 0 0x2000
    let fields (a : Word) : Bool := decide (a.toNat = a.toNat % 2 ^ 14 + slice a.toNat 16 2 * 2 ^ 16)
    inv.busy = true ∧ inv.hostWait = none ∧ fields 0 = true ∧ fields 0x4000 = false ∧
    (let range := inv.invalRange 0 0x2000 0
     (inv.invalidateTlbs 0 0x2000 0).pursue (inv.storing range) (inv.sending range) = ([], [])) ∧
    (let s := { inv with waves := inv.waves.mapVals fun w => { w with rsb := [.store 64 0x2000 0 [(0, 1)]] } }
     let range := s.invalRange 0 0x2000 0
     ((s.invalidateTlbs 0 0x2000 0).pursue (s.storing range) (s.sending range)).1 = [0]) ∧
    (smOp 2 7 0).clusters.map (fun p => p.2.life) = [.halted 7] ∧ (smOp 2 7 0).arg0.toNat < 2 ^ 32 ∧
    (smOp 3 0 0).jobs.map (fun p => (p.2.card.addr, p.2.phase.active)) = [(0, true)] ∧
    (smOp 5 (2 ^ 16 + 3) 4).groups.find 4 = none ∧ (smOp 5 (2 ^ 16 + 3) 4).devid = 0 ∧ (smOp 6 5 0).locked = false ∧
    (let s := { smOp 5 (2 ^ 16 + 3) 4 with groups := [(4, { peer := 2, enabled := true, steps := 3 })] }
     (s.groups.find 4).isSome = true) ∧ ((smOp 2 7 0).clusters.find 0).isSome = true ∧
    ((BitVec.ofNat 64 (2 ^ 16 + 3)).toNat = 3 + 1 * 2 ^ 16) ∧ (3 : Nat) ≠ 0 ∧
    (smOp 6 5 0).time ≤ 5 := by decide
/-- Slot 0 with its queue, slot 1 whose queue the table does not have, and a queue of an address space that is not usable. -/
theorem witness_HostPort_slots :
    0 < smJ.queueCount ∧ (smJ.queueEntry 0).testBit 78 = true ∧ (smJ.scheduler (BitVec.ofNat 14 (slice (smJ.queueEntry 0) 64 14))).isSome = true ∧
    smJ.queueCount ≤ 1 ∧
    (match smJ.scheduler 0 with
     | some q => isDone (smJ.enqueue (.virtual q) (slice (smJ.queueEntry 0) 0 64) fun lgsz => if lgsz = 4 then some [0] else none).1
     | none => false) = true ∧
    (let s := smJ.writeNat 0x8000 16 (0x2000 + 2 ^ 64 + 2 ^ 78)
     (s.scheduler (BitVec.ofNat 14 (slice (s.queueEntry 0) 64 14))).isNone) = true := by decide
theorem witness_HostPort_mail :
    48 ≤ (48 : BitVec 13).toNat ∧ State.reset.firmware = none ∧ ({ State.reset with firmware := some 7 } : State).firmware = some 7 ∧
    (match smJ.scheduler 0 with
     | some q => (match (smJ.enqueue (.virtual q) 0x3000 fun lgsz => if lgsz = 4 then some [0] else none).1 with
       | .malformed _ => true
       | _ => false)
     | none => false) = true := by decide
/-- A slot with a GO that waits; and a GO at a queue whose page no table maps. -/
theorem witness_HostPort_waits :
    let w : State := { smJ with slots := [(0, { waiting := [7] })] }
    let s := { smJ with dies := [] }
    (w.slots.getD 0 {}).waiting ≠ [] ∧ (smJ.slots.getD 0 {}).waiting = [] ∧
    (match s.scheduler 0 with
     | some q => (match (s.enqueue (.virtual q) 0x2000 fun lgsz => if lgsz = 4 then some [0] else none).1 with
       | .park on => !on.isEmpty
       | _ => false)
     | none => false) = true := by decide
/-- A group that has stopped after step 3, with two jobs of its address space that wait; and one whose step 3 is pending. -/
def smHeld (g : Group) : State :=
  let j (n : Nat) : Job := { card := { step := true }, asid := 4, phase := .waiting, step := n, order := n }
  { smOp 5 (2 ^ 16 + 3) 4 with groups := [(4, g)], jobs := [(5, j 4), (6, j 5)] }
theorem witness_HostPort_groups :
    (smHeld { peer := 2, enabled := true, stopped := true, decided := 3, steps := 5 }).heldSteps 4 = [5, 6] ∧
    ((smHeld { peer := 2, enabled := true, pending := some (3, 5, 0) }).groups.find 4).bind (fun g => g.pending) = some (3, 5, 0) ∧
    [5, 6].Nodup ∧ (BitVec.ofNat 64 3).toNat % 2 ^ 10 ≠ (smHeld { peer := 2, enabled := true }).devid.toNat := by decide

/-- A fault buffer with one record, a descriptor that enables a stream and one that breaks a rule, a pool setting in range
and one above, a link that is up and one that is down. -/
theorem witness_RegisterWrites :
    let d : DieState := { fbPut := 1 }
    let on : Nat := (BitVec.ofNat 64 (2 ^ 48)).toNat * 2 ^ 320
    ((1 : BitVec 32) - d.fbGet).toNat ≤ (d.fbPut - d.fbGet).toNat ∧ (d.fbPut - d.fbGet).toNat < ((2 : BitVec 32) - d.fbGet).toNat ∧
    d.fbPut ≠ d.fbGet ∧ (State.reset.die 0).fbPut = (State.reset.die 0).fbGet ∧ (regionOf 0).isSome = true ∧
    (BitVec.ofNat 512 on).getLsbD 368 = true ∧ (BitVec.ofNat 512 0).getLsbD 368 = false ∧ [256, 256, 256, 256].sum ≤ 4096 ∧
    [1024, 1024, 1024, 1024].sum ≤ 4096 ∧ 4096 < [1024, 1024, 1024, 1025].sum ∧ (State.reset.links.getD 7 {}).up = false ∧
    State.reset.busy = false ∧ (8 : BitVec 24).toNat % 8 = 0 ∧ (4 : BitVec 24).toNat % 8 ≠ 0 := by decide
/-- An enabled video descriptor of one line for port 0, which breaks nothing; enabled and otherwise zero it breaks the slot's. -/
def videoDesc : BitVec 512 :=
  BitVec.ofNat 512 (1152 * 2 ^ 128 + 2 ^ 160 + 2 ^ 192 + 2 ^ 208 + 128 * 2 ^ 224 + 2 ^ 366 + 2 ^ 368)
theorem witness_RegisterWrites_ingest :
    videoDesc.getLsbD 368 = true ∧ (descriptorChecks videoDesc).all Prod.snd = true ∧ State.reset.ingestQueueOk 0 videoDesc = true ∧
    (let w := BitVec.ofNat 512 (2 ^ 368)
     ((descriptorChecks w ++ [(64, State.reset.ingestQueueOk 0 w)]).find? fun c => !c.2) = some (128, false)) ∧
    (regionOf (0 + 64 * 127)).isSome = true ∧ 3 < 4 ∧ 4 ≤ 4 := by decide

/-- Port 0 is up, an Ethernet port; 15 CRC errors stand within the millisecond; two retrains in a row have failed. -/
def smNet : State :=
  { State.reset with
    links := [(0, { up := true, errors := List.replicate 15 0, flits := [(5, 3)] }), (1, { up := true, training := true, failed := 2 })]
    pmodes := [(0, 2), (2, 1)] }
theorem witness_LinksTimePeers :
    (smNet.link (.port 0)).up = true ∧ (smNet.link (.port 0)).training = false ∧
    16 ≤ (((smNet.link (.port 0)).errors.filter fun t => decide (smNet.poweredOn < t + 1000000)) ++ [smNet.poweredOn]).length ∧
    4 ≤ Tab.getD (α := Nat) (smNet.link (.port 0)).flits 5 0 + 1 ∧ (smNet.link (.port 1)).training = true ∧
    2 ≤ (smNet.link (.port 1)).failed ∧ (smNet.links.getD 2 {}).up = false ∧ smNet.pmodes.getD 2 0 ≠ 0 ∧
    (smNet.links.getD 2 {}).failed < 3 ∧ smNet.offset = 0 ∧ smNet.pmodes.getD 0 0 = 2 ∧ smNet.locked = false := by decide
/-- Die edge 3 retrains, for the first time and after two failures. -/
theorem witness_LinksTimePeers_edge :
    let s (n : Nat) : State := { State.reset with edges := [(3, { up := true, training := true, failed := n })] }
    ((s 1).link (.edge 3)).training = true ∧ ((s 1).link (.edge 3)).failed < 2 ∧ 2 ≤ ((s 2).link (.edge 3)).failed := by decide
/-- Port 0 hears master 4 of rank 7: at the time 5 an exchange is under way, and the path's delay is known, of 10 or of 2000000. -/
def smPtp (locked : Bool) (delay : Int) : State :=
  { smNet with
    time := 5, locked, lockedOnce := locked
    ptp := { best := some (7, 4), sync := some (1, some 3, 4), sent := some (2, 4), delay := some delay } }
theorem witness_LinksTimePeers_ptp :
    let s := smPtp false 10
    let t := smPtp true 2000000
    (s.links.getD 0 {}).up = true ∧ s.pmodes.getD 0 0 = 2 ∧ (127 : BitVec 8) = s.domain ∧ (smNet.links.getD 2 {}).up = false ∧
    s.ptp.best.map Prod.snd = some 4 ∧ smNet.ptp.best = none ∧ s.ptp.best = some (7, 4) ∧ 6 < 7 ∧ 7 ≤ 7 ∧ 4 ≠ 5 ∧
    s.ptp.delay = some 10 ∧ (0 : Int) < (3 : Word).toNat + 10 - s.time.toNat ∧ s.lockedOnce = false ∧
    s.time.toNat + (((3 : Word).toNat : Int) + 10 - s.time.toNat).toNat < 2 ^ 64 ∧ t.lockedOnce = true ∧
    (1000000 : Int) < (3 : Word).toNat + 2000000 - t.time.toNat ∧ ((3 : Word).toNat : Int) + 10 - (smPtp true 10).time.toNat ≤ 1000000 ∧
    ((3 : Word).toNat : Int) + 2 - (smPtp false 2).time.toNat ≤ 0 ∧ t.ptp.sync = some (1, some 3, 4) ∧ t.ptp.sent = some (2, 4) ∧
    t.locked = true := by decide
/-- A peer's port is up; none is. -/
theorem witness_LinksTimePeers_peer :
    ({ smNet with links := [(2, { up := true })] } : State).portUp 1 = true ∧ smNet.portUp 1 = false ∧
    (0 : BitVec 39).toNat + [(1 : Byte)].length ≤ 2 ^ 39 := by decide
/-- A video, an audio and an ancillary stream each admit the packet at port 0, alone; the stream has begun, or seeks. -/
def aPacket (good field : Bool) : Packet :=
  { good, vlan := none, group := 0, src := 9, udpPort := 0, pt := 0, seq := 0, rtpTs := 0, marker := true, field, segments := [] }
theorem witness_LinksTimePeers_ingest :
    let s (d : BitVec 512) (seek : Bool) : State :=
      { smNet with dies := [(0, { ingest := [(3, { desc := d, began := true, seek })] })] }
    let ks (s : State) := ((s.die 0).ingest.filter fun x => admits x.2.desc 0 (aPacket true false)).map Prod.fst
    (decide (0 < 4 ∧ 0 < 2) && (smNet.links.getD (2 * 0 + 0) {}).up && smNet.pmodes.getD (2 * 0 + 0) 0 == 2) = true ∧
    (decide (1 < 4 ∧ 1 < 2) && (smNet.links.getD (2 * 1 + 1) {}).up && smNet.pmodes.getD (2 * 1 + 1) 0 == 2) = false ∧
    (aPacket true false).good = true ∧ (aPacket false false).good = false ∧ (aPacket true true).field = true ∧
    ([0, 1, 2].all fun kind =>
      let d := videoDesc ||| BitVec.ofNat 512 (kind * 2 ^ 364)
      [true, false].all fun seek => dKind d == kind && ks (s d seek) == [3] &&
        ((s d seek).stream 0 3).any fun x => x.seek == seek && x.began) = true ∧
    ks smNet = [] := by decide
/-- The last 8 bytes of a peer's window; a stream whose frame is open; a timestamp of 0. -/
theorem witness_LinksTimePeers_packets :
    (0x7FFFFFFFF8 : BitVec 39).toNat + 8 ≤ 2 ^ 39 ∧ (∀ i, i < 8 → smNet.served (0x7FFFFFFFF8 + i) = 0x7FFFFFFFF8 + i) ∧
    (let f : Frame := { number := 0, slot := 0, rtpTs := 0, first := 0, last := 0, deadline := 5, stored := true }
     let x : Stream := { desc := 0, frame := some f }
     let s (t : Word) : State := { smNet with dies := [(0, { ingest := [(3, x)] })], time := t }
     (s 5).stream 0 3 = some x ∧ x.frame = some f ∧ ((s 5).time.toNat : Int) ≤ f.deadline ∧ f.deadline < (s 6).time.toNat) := by
  decide

/-- A die at 115 degrees; one whose floor may fall after 10 ms; a core with nothing and one with a wave. -/
theorem witness_PowerAndReset :
    State.reset.stopped = none ∧ (1840 : BitVec 16).toInt ≤ 1840 ∧ 1840 < (1841 : BitVec 16).toInt ∧
    (let s : State := { State.reset with dies := [(0, { floor := 2, cool := some 0 })], poweredOn := 10000000 }
     (s.die 0).cool = some 0 ∧ 0 + 10000000 ≤ s.poweredOn) ∧ State.reset.flushed + 60000000000 ≤ 60000000000 ∧
    State.reset.poweredOn < State.reset.flushed + 60000000000 ∧ (0, 5) ∉ (sm.wave 0).rpoison ∧ sm.coreBusy 0 = true ∧
    State.reset.coreBusy 159 = false ∧ 0 ∉ (sm.block 0).poison ∧ (sm.blocks.find 0).isSome = true ∧
    regionOf 0 = some .hbm ∧ homeDie 0 = some 0 ∧ ((sm.jobs.filter fun p => p.2.phase.unfinished).map Prod.fst) = [0] ∧
    (sm.jobs.find 0).isSome = true := by decide
/-- Every boot step passes, or step 3 is the first that fails; a device without power, and one that has stopped. -/
def boot (third : Bool) (image : List Byte) : BootInputs :=
  { power := true, primaryOk := [true, true, third, true, true, true, true, true], alternateOk := [], details := []
    took := [], edges := [true, true, true, true], cxl := [true, true, true, true], imageA := image, imageB := [], devid := 1
    pmodes := [], routes := [], ptpDomain := 0, astbase := 0, jqtab := 0, hrq := 0, faultDepth := [], fbbase := [] }
/-- A header alone: its length is 256 and its last 144 bytes are 0. -/
def anImage : List Byte := 0 :: 1 :: List.replicate 254 0
/-- Whether an image verifies is the key's to say (log entry 10). -/
theorem witness_PowerAndReset_boot :
    (boot true []).power = true ∧ (∀ e ∈ State.reset.bootLog, slice e.2.toNat 16 8 ≠ 1) ∧
    (∀ image, imageAccepted image = true → ∀ k, 1 ≤ k → k ≤ 8 → stepPasses (boot true image) false k = true) ∧
    (256 ≤ anImage.length ∧ imageField anImage 0 8 = anImage.length ∧ ((anImage.drop 112).take 144).all (· == 0) = true) ∧
    stepPasses (boot false []) false 1 = true ∧ stepPasses (boot false []) false 2 = true ∧
    stepPasses (boot false []) false 3 = false ∧ isEvent .deal = true ∧ hostEvent .deal = false := by
  refine ⟨rfl, by decide, ?_, by decide, by decide, by decide, by rfl, by decide, by decide⟩
  intro image h k h1 h8
  have hk : k = 1 ∨ k = 2 ∨ k = 3 ∨ k = 4 ∨ k = 5 ∨ k = 6 ∨ k = 7 ∨ k = 8 := by omega
  rcases hk with rfl | rfl | rfl | rfl | rfl | rfl | rfl | rfl <;> first | rfl | simpa [stepPasses, bootImage, boot] using h

/-- A step of a device in which no host record waits. -/
theorem witness_HostInvariant : nopState.HostInv ∧ nopState.Anchored ∧ (∃ t, step nopState = .next t) :=
  ⟨fun _ h => absurd rfl h, by unfold State.Anchored; decide, _, rfl⟩

end Sys2Proof.Tests
end

section
/-! SUPPORT. Home memory: the number that bytes hold, what bytes written at their homes read back as, and what a write-back
leaves. -/
namespace Sys2Proof

/-! ### Bytes of a number -/

@[simp] theorem length_bytesOfNat (n v : Nat) : (bytesOfNat n v).length = n := by
  induction n generalizing v with
  | zero => rfl
  | succ n ih => simp [bytesOfNat, ih]

/-- The bytes of a number hold it, cut to their length. -/
theorem natOfBytes_bytesOfNat (n v : Nat) : natOfBytes (bytesOfNat n v) = v % 2 ^ (8 * n) := by
  induction n generalizing v with
  | zero => simp [bytesOfNat, natOfBytes, Nat.mod_one]
  | succ n ih =>
    have hpow : 2 ^ (8 * (n + 1)) = 256 * 2 ^ (8 * n) := by rw [Nat.mul_succ, Nat.add_comm, Nat.pow_add]
    rw [bytesOfNat, natOfBytes, ih, hpow, Nat.mod_mul, BitVec.toNat_ofNat]

/-- A lookup after every value is changed by a function of its key. -/
theorem Tab.find_map {α β : Type} (t : Tab α) (f : Nat → α → β) (k : Nat) :
    Tab.find (t.map fun x => (x.1, f x.1 x.2)) k = (t.find k).map (f k) := by
  induction t with
  | nil => rfl
  | cons q r ih =>
    by_cases hq : q.1 = k
    · subst hq; simp [Tab.find]
    · simp [Tab.find, hq, ih]

end Sys2Proof

namespace Sys2Proof.Machine

/-! ### The last write of an address -/

/-- The last of a list's writes to an address is that of its tail, if the tail has one. -/
theorem lastOf_cons (q : Nat × Byte) (r : List (Nat × Byte)) (k : Nat) :
    lastOf (q :: r) k = (lastOf r k).or (if q.1 = k then some q.2 else none) := by
  by_cases hq : q.1 = k <;> simp [lastOf, List.find?_append, hq]

/-- Among consecutive bytes the last write of an address is that of its offset. -/
theorem lastOf_mapIdx (bytes : List Byte) (a k : Nat) :
    lastOf (bytes.mapIdx fun i b => (a + i, b)) k = if a ≤ k then bytes[k - a]? else none := by
  induction bytes generalizing a with
  | nil => simp [lastOf]
  | cons b r ih =>
    have hr : (r.mapIdx fun i b => (a + (i + 1), b)) = r.mapIdx fun i b => (a + 1 + i, b) := by
      simp only [Nat.add_assoc, Nat.add_comm 1]
    rw [List.mapIdx_cons, lastOf_cons, hr, ih]
    rcases Nat.lt_trichotomy k a with h | rfl | h
    · simp [show ¬ a + 1 ≤ k by omega, show ¬ a ≤ k by omega, show ¬ a = k by omega]
    · rw [if_neg (show ¬ k + 1 ≤ k by omega)]; simp
    · obtain ⟨d, rfl⟩ := Nat.exists_eq_add_of_lt h
      simp [show a + 1 ≤ a + d + 1 by omega, show a + d + 1 - (a + 1) = d by omega, show a + d + 1 - a = d + 1 by omega,
        show a ≤ a + d + 1 by omega, show a ≠ a + d + 1 by omega]

/-! ### Writes at the home -/

/-- A byte written at its home reads back at every address that is served there, and no other changes (R102, R338). -/
theorem State.home_writeHome (s : State) (pa : Nat) (b : Byte) (a : Nat) :
    (s.writeHome pa b).home a = if s.served a = s.served pa then b else s.home a := by
  unfold State.home
  rw [State.served_writeHome]
  unfold State.writeHome
  dsimp only
  by_cases ha : s.served a = s.served pa
  · cases hc : isCxl (s.served pa) <;> simp [ha, hc, Tab.getD_put, Tab.find_insert]
  · cases hc : isCxl (s.served pa) <;> simp [ha, Tab.getD_put, Tab.find_insert]

theorem State.home_foldl_writeHome (l : List (Nat × Byte)) (s : State) (a : Nat) :
    (l.foldl (fun s p => s.writeHome p.1 p.2) s).home a =
      (lastOf (l.map fun p => (s.served p.1, p.2)) (s.served a)).getD (s.home a) := by
  induction l generalizing s with
  | nil => rfl
  | cons q r ih =>
    simp only [List.foldl_cons, ih, List.map_cons, lastOf_cons, State.served_writeHome, State.home_writeHome]
    cases lastOf (r.map fun p => (s.served p.1, p.2)) (s.served a) with
    | some b => rfl
    | none => by_cases h : s.served a = s.served q.1 <;> simp [h, eq_comm]

/-- Bytes written at their homes: each address reads as the last of them that is served where it is (R98, R119). -/
theorem State.home_writeHomes (s : State) (l : List (Nat × Byte)) (a : Nat) :
    (s.writeHomes l).home a = (lastOf (l.map fun p => (s.served p.1, p.2)) (s.served a)).getD (s.home a) := by
  rw [← State.home_foldl_writeHome]
  unfold State.writeHomes
  dsimp only
  split <;> rfl

/-- Where an access is served does not depend on what memory or its poison holds (R338). -/
@[simp] theorem State.served_writeHomes (s : State) (l : List (Nat × Byte)) (a : Nat) :
    (s.writeHomes l).served a = s.served a := by
  have hfold : (l.foldl (fun s p => s.writeHome p.1 p.2) s).served a = s.served a := by
    induction l generalizing s with
    | nil => rfl
    | cons q r ih => rw [List.foldl_cons, ih, State.served_writeHome]
  rw [← hfold]
  unfold State.writeHomes
  dsimp only
  split <;> rfl

/-- A number written over consecutive homes: the address at offset `k` reads as byte `k`, every other as before (R3). -/
theorem State.home_writeNat (s : State) (pa n v : Nat) (hs : ∀ i, i < n → s.served (pa + i) = s.served pa + i) (a : Nat) :
    (s.writeNat pa n v).home a =
      (if s.served pa ≤ s.served a then (bytesOfNat n v)[s.served a - s.served pa]? else none).getD (s.home a) := by
  have hmap : (((bytesOfNat n v).mapIdx fun i b => (pa + i, b)).map fun p => (s.served p.1, p.2)) =
      (bytesOfNat n v).mapIdx fun i b => (s.served pa + i, b) := by
    refine List.ext_getElem (by simp) fun i h _ => ?_
    have hi : i < n := by simpa using h
    simp [hs i hi]
  rw [State.writeNat, State.home_writeHomes, hmap, lastOf_mapIdx]

theorem State.homeBytes_writeNat (s : State) (pa n v : Nat) (hs : ∀ i, i < n → s.served (pa + i) = s.served pa + i) :
    (s.writeNat pa n v).homeBytes pa n = bytesOfNat n v := by
  refine List.ext_getElem (by simp [State.homeBytes]) fun i h _ => ?_
  have hi : i < n := by simpa [State.homeBytes] using h
  simp [State.homeBytes, State.home_writeNat s pa n v hs, hs i hi, hi]

/-- A number written at its home reads back, cut to its bytes (R3). -/
theorem State.homeNat_writeNat (s : State) (pa n v : Nat) (hs : ∀ i, i < n → s.served (pa + i) = s.served pa + i) :
    (s.writeNat pa n v).homeNat pa n = v % 2 ^ (8 * n) := by
  rw [State.homeNat, State.homeBytes_writeNat s pa n v hs, natOfBytes_bytesOfNat]

theorem State.home_writeNat_of_ne (s : State) (pa n v : Nat) (hs : ∀ i, i < n → s.served (pa + i) = s.served pa + i)
    (a : Nat) (ha : ∀ i, i < n → s.served a ≠ s.served pa + i) : (s.writeNat pa n v).home a = s.home a := by
  rw [State.home_writeNat s pa n v hs]
  split
  · rename_i hle
    have hout : n ≤ s.served a - s.served pa :=
      Nat.le_of_not_lt fun hlt => ha _ hlt (by omega)
    rw [List.getElem?_eq_none (by simpa using hout)]; rfl
  · rfl

/-! ### Write-back -/

@[simp] theorem State.served_writeBack (s : State) (p : Nat → Bool) (a : Nat) : (s.writeBack p).served a = s.served a := rfl

/-- A write-back brings the dirty bytes of CXL memory that it covers to memory (R102). -/
theorem State.mem_writeBack (s : State) (p : Nat → Bool) (a : Nat) :
    Tab.getD (α := Byte) (s.writeBack p).mem a 0 =
      (if p a && isCxl a then s.cxlDirty.find a else none).getD (Tab.getD (α := Byte) s.mem a 0) := by
  rw [← Tab.find_filter s.cxlDirty (fun k => p k && isCxl k) a]
  exact Tab.getD_foldr_put _ _ _

theorem State.cxlDirty_writeBack (s : State) (p : Nat → Bool) (a : Nat) :
    (s.writeBack p).cxlDirty.find a = if p a then none else s.cxlDirty.find a := by
  cases hp : p a <;> simp [State.writeBack, Tab.find_filter s.cxlDirty fun k => !p k, hp]

/-- The bytes of a clean line as a write-back leaves them: those of its dirty bytes that the test covers. -/
def State.cleanedLine (s : State) (p : Nat → Bool) (line : Nat) (l : List Byte) : List Byte :=
  l.mapIdx fun i b => if p (line * 128 + i) then (s.cxlDirty.find (line * 128 + i)).getD b else b

theorem State.getElem?_cleanedLine (s : State) (p : Nat → Bool) (a : Nat) (l : List Byte) :
    (s.cleanedLine p (a / 128) l)[a % 128]? = l[a % 128]?.map fun b => if p a then (s.cxlDirty.find a).getD b else b := by
  simp [State.cleanedLine, Nat.div_add_mod' a 128]

/-- A clean line of CXL memory takes the dirty bytes that are written back (R102). -/
theorem State.cachedByte_writeBack (s : State) (p : Nat → Bool) {a : Nat} (hc : isCxl a = true) :
    cachedByte (s.writeBack p).cxlClean a =
      (cachedByte s.cxlClean a).map fun b => if p a then (s.cxlDirty.find a).getD b else b := by
  unfold State.writeBack
  dsimp only
  split
  · rename_i hout
    have hnone : p a = true → s.cxlDirty.find a = none := fun hp => by
      have hf := Tab.find_filter s.cxlDirty (fun k => p k && isCxl k) a
      rw [List.isEmpty_iff.1 hout] at hf
      simpa [hp, hc, Tab.find] using hf.symm
    cases hp : p a with
    | false => simp
    | true => simp [hnone hp]
  · have hfind := Tab.find_map s.cxlClean (s.cleanedLine p) (a / 128)
    refine (congrArg (·.bind fun l => l[a % 128]?) hfind).trans ?_
    unfold cachedByte
    cases s.cxlClean.find (a / 128) with
    | none => rfl
    | some l => exact s.getElem?_cleanedLine p a l

/-- Writing CXL lines back changes no byte (R102). -/
theorem State.home_writeBack (s : State) (p : Nat → Bool) (a : Nat) : (s.writeBack p).home a = s.home a := by
  unfold State.home
  rw [State.served_writeBack]
  dsimp only
  rw [State.mem_writeBack, State.cxlDirty_writeBack]
  cases hc : isCxl (s.served a) with
  | false => simp
  | true =>
    rw [State.cachedByte_writeBack s p hc]
    cases hp : p (s.served a) with
    | false => simp
    | true => cases s.cxlDirty.find (s.served a) <;> cases cachedByte s.cxlClean (s.served a) <;> simp

/-- Settles O27. A write decides what the addresses served at its home read as, and a write-back moves bytes between the
places at which a home looks for them; each keeps the canonical form. -/
theorem memoryReadWrite : Obligations.MemoryReadWrite := by
  intro s
  refine ⟨s.home_writeHome, fun pa n v hs => ⟨s.homeNat_writeNat pa n v hs, s.home_writeNat_of_ne pa n v hs⟩,
    s.home_writeBack, fun h => ⟨fun pa b => s.writeHome_wf pa b h, fun pa n v => s.writeNat_wf pa n v h,
      fun p => s.writeBack_wf p h⟩⟩

end Sys2Proof.Machine
end

section
/-! SUPPORT. Integers of a type: what the bits of a reduced integer hold (R57). -/
namespace Sys2Proof

theorem intWidth_pos (ty : Nat) : 0 < intWidth ty := Nat.two_pow_pos _

/-- The signed value of `n` bits is the balanced remainder modulo 2^n. -/
theorem toSigned_eq_bmod {n : Nat} (hn : 0 < n) (x : Nat) : toSigned n x = (x : Int).bmod (2 ^ n) := by
  have hhalf : (2 ^ n + 1) / 2 = 2 ^ (n - 1) := by
    obtain ⟨k, rfl⟩ := Nat.exists_eq_succ_of_ne_zero (Nat.ne_of_gt hn)
    rw [Nat.succ_sub_one, Nat.pow_succ]
    omega
  have hhalf' : (((2 ^ n : Nat) : Int) + 1) / 2 = ((2 ^ (n - 1) : Nat) : Int) := by rw [← hhalf]; rfl
  unfold toSigned
  rw [if_neg (Nat.ne_of_gt hn), Int.bmod_def, hhalf', ← Int.natCast_emod]
  simp only [Int.ofNat_lt]

/-- An integer's low bits are congruent to it. -/
theorem ofSigned_emod (n : Nat) (x : Int) : ((ofSigned n x : Nat) : Int) = x % ((2 ^ n : Nat) : Int) :=
  Int.toNat_of_nonneg (Int.emod_nonneg _ (Int.natCast_ne_zero.2 (Nat.ne_of_gt (Nat.two_pow_pos n))))

/-- The value that bits have in a type is in the type's range. -/
theorem intOf_mem_range (ty x : Nat) : intMin ty ≤ intOf ty x ∧ intOf ty x ≤ intMax ty := by
  have hpos := intWidth_pos ty
  have hpow : (2 : Nat) ^ intWidth ty = 2 * 2 ^ (intWidth ty - 1) := by
    rw [← Nat.pow_succ', Nat.succ_eq_add_one, Nat.sub_add_cancel hpos]
  have hlt : x % 2 ^ intWidth ty < 2 ^ intWidth ty := Nat.mod_lt _ (Nat.two_pow_pos _)
  unfold intOf intMin intMax
  cases intSigned ty with
  | false => simp only [Bool.false_eq_true, if_false]; omega
  | true =>
    simp only [if_true, toSigned, Nat.ne_of_gt hpos, if_false]
    split <;> omega

/-- A type keeps of an integer its remainder modulo 2^N (R57). -/
theorem intOf_ofSigned_emod (ty : Nat) (x : Int) :
    intOf ty (ofSigned (intWidth ty) x) % ((2 ^ intWidth ty : Nat) : Int) = x % ((2 ^ intWidth ty : Nat) : Int) := by
  unfold intOf
  split
  · rw [toSigned_eq_bmod (intWidth_pos ty), ofSigned_emod, Int.bmod_emod, Int.emod_emod]
  · rw [Int.natCast_emod, ofSigned_emod, Int.emod_emod, Int.emod_emod]

/-- Two integers in a type's range are equal where they are congruent modulo 2^N. -/
theorem eq_of_emod_of_range {ty : Nat} {x y : Int}
    (h : x % ((2 ^ intWidth ty : Nat) : Int) = y % ((2 ^ intWidth ty : Nat) : Int))
    (hx : intMin ty ≤ x ∧ x ≤ intMax ty) (hy : intMin ty ≤ y ∧ y ≤ intMax ty) : x = y := by
  have hpow : (2 : Nat) ^ intWidth ty = 2 * 2 ^ (intWidth ty - 1) := by
    rw [← Nat.pow_succ', Nat.succ_eq_add_one, Nat.sub_add_cancel (intWidth_pos ty)]
  have hspan : intMax ty - intMin ty < ((2 ^ intWidth ty : Nat) : Int) := by
    unfold intMin intMax; split <;> omega
  have hzero := Int.eq_zero_of_dvd_of_natAbs_lt_natAbs
    (Int.dvd_of_emod_eq_zero (Int.emod_eq_emod_iff_emod_sub_eq_zero.1 h)) (by omega)
  omega

/-- An integer in a type's range is the value of its own bits. -/
theorem intOf_ofSigned_of_range {ty : Nat} {x : Int} (hx : intMin ty ≤ x ∧ x ≤ intMax ty) :
    intOf ty (ofSigned (intWidth ty) x) = x :=
  eq_of_emod_of_range (intOf_ofSigned_emod ty x) (intOf_mem_range ty _) hx

theorem intMin_le_intMax (ty : Nat) : intMin ty ≤ intMax ty :=
  Int.le_trans (intOf_mem_range ty 0).1 (intOf_mem_range ty 0).2

/-- With OV = 1 the reduction clamps to the range (R57). -/
theorem intOf_reduceInt_clamp (ty : Nat) (x : Int) :
    intOf ty (reduceInt ty true x) = max (intMin ty) (min x (intMax ty)) := by
  rw [reduceInt, if_pos rfl, Int.min_comm x,
    intOf_ofSigned_of_range ⟨Int.le_max_left _ _, Int.max_le.2 ⟨intMin_le_intMax ty, Int.min_le_left _ _⟩⟩]

/-- Without, it wraps modulo 2^N (R57). -/
theorem intOf_reduceInt_wrap (ty : Nat) (x : Int) :
    (intOf ty (reduceInt ty false x) - x) % ((2 ^ intWidth ty : Nat) : Int) = 0 :=
  Int.emod_eq_emod_iff_emod_sub_eq_zero.1 (intOf_ofSigned_emod ty x)

end Sys2Proof

namespace Sys2Proof.Machine

/-- An integer word that may act places the value of its function on A, B and C. -/
theorem State.issueInt_ready {s : State} {c : Ctx} {h : Hdr} {o : OpA} {sh : ShapeA} (r : ReadyA s c h o sh) (late : Bool)
    (f : Int → Int → Int → Nat) :
    s.issueInt h o sh late f =
      if late then lateA s c h o sh o.ty.toNat fun l => f (intA s c o l) (intB s c o l) (intC s c o l)
      else resultA s c h o sh o.ty.toNat fun l => f (intA s c o l) (intB s c o l) (intC s c o l) :=
  State.issueValue_ready r late _ _

/-- Settles O12. IDIV and IREM are integer words on the quotient and the remainder of R58; the laws of R57 are those of the
reduction. -/
theorem divisionResults : Obligations.DivisionResults := by
  refine ⟨fun s c h o => ⟨fun r => ?idiv, fun r => ?irem⟩, fun ty x _ =>
    ⟨intOf_reduceInt_wrap ty x, (intOf_mem_range ty _).1, (intOf_mem_range ty _).2, intOf_reduceInt_clamp ty x⟩⟩
  case idiv => exact congrArg Host.Outcome.next (State.issueInt_ready r true _)
  case irem => exact congrArg Host.Outcome.next (State.issueInt_ready r true _)

end Sys2Proof.Machine
end

section
/-! SUPPORT. What register writes leave in a wave: each cell reads the last write to it. -/
namespace Sys2Proof.Machine

/-! ### One thread of a wave -/

theorem Wave.thread_onThread {w : Wave} {l : Nat} (hl : l < w.threads.length) (k : Nat) (f : Thread → Thread) :
    (w.onThread k f).thread l = if k = l then f (w.thread l) else w.thread l := by
  simp only [Wave.thread, Wave.onThread, List.getD_eq_getElem?_getD, List.getElem?_modify, List.getElem?_eq_getElem hl]
  split <;> rfl

@[simp] theorem Wave.length_onThread (w : Wave) (l : Nat) (f : Thread → Thread) :
    (w.onThread l f).threads.length = w.threads.length := by
  simp [Wave.onThread]

theorem Wave.thread_onThread_ne {w : Wave} {k l : Nat} (hk : k ≠ l) (f : Thread → Thread) :
    (w.onThread k f).thread l = w.thread l := by
  simp [Wave.thread, Wave.onThread, List.getD_eq_getElem?_getD, hk]

/-! ### One write -/

/-- What a write puts into vector register `r` of lane `l`, into uniform register `r`, into predicate `k` of lane `l`. -/
def RegWrite.toVec (l r : Nat) : RegWrite → Option Reg
  | .vec l' r' x => if l' = l ∧ r' = r then some x else none
  | _ => none
def RegWrite.toUni (r : Nat) : RegWrite → Option Word
  | .uni r' x => if r' = r then some x else none
  | _ => none
def RegWrite.toPred (l k : Nat) : RegWrite → Option Bool
  | .pred l' k' x => if l' = l ∧ k' = k then some x else none
  | _ => none

@[simp] theorem Wave.length_apply (w : Wave) (x : RegWrite) : (w.apply x).threads.length = w.threads.length := by
  cases x with
  | vec l r v => simp only [Wave.apply, Wave.length_onThread]; split <;> rfl
  | uni r v => rfl
  | pred l r v => simp only [Wave.apply]; split <;> simp

@[simp] theorem Wave.results_apply (w : Wave) (x : RegWrite) : (w.apply x).results = w.results := by
  cases x with
  | vec l r v => simp only [Wave.apply, Wave.onThread]; split <;> rfl
  | uni r v => rfl
  | pred l r v => simp only [Wave.apply, Wave.onThread]; split <;> rfl

/-- A vector write changes its thread's registers alone. -/
theorem Wave.thread_apply_vec {w : Wave} {l : Nat} (hl : l < w.threads.length) (k r : Nat) (v : Reg) :
    (w.apply (.vec k r v)).thread l =
      if k = l then { w.thread l with v := (w.thread l).v.put r v 0 } else w.thread l := by
  simp only [Wave.apply]
  split <;> exact Wave.thread_onThread hl k _

theorem Wave.v_apply {w : Wave} {l : Nat} (hl : l < w.threads.length) (r : Nat) (x : RegWrite) :
    ((w.apply x).thread l).v.getD r 0 = (x.toVec l r).getD ((w.thread l).v.getD r 0) := by
  cases x with
  | vec k q v =>
    rw [Wave.thread_apply_vec hl]
    by_cases hk : k = l
    · by_cases hq : q = r
      · simp [RegWrite.toVec, hk, hq, Tab.getD_put]
      · simp [RegWrite.toVec, hk, hq, Tab.getD_put, Ne.symm hq]
    · simp [RegWrite.toVec, hk]
  | uni q v => rfl
  | pred k q v =>
    simp only [Wave.apply, RegWrite.toVec, Option.getD_none]
    split
    · rfl
    · rw [Wave.thread_onThread hl]; split <;> rfl

theorem Wave.u_apply (w : Wave) (r : Nat) (x : RegWrite) : (w.apply x).u r = (x.toUni r).getD (w.u r) := by
  cases x with
  | vec k q v => simp only [Wave.apply, Wave.u, Wave.onThread]; split <;> rfl
  | uni q v =>
    by_cases hq : q = r
    · simp [Wave.apply, Wave.u, RegWrite.toUni, hq, Tab.getD_put]
    · simp [Wave.apply, Wave.u, RegWrite.toUni, hq, Tab.getD_put, Ne.symm hq]
  | pred k q v => simp only [Wave.apply, Wave.u, Wave.onThread]; split <;> rfl

/-- Bit `k` of the predicates after bit `q` is set or cleared. -/
theorem getLsbD_setPred (p : BitVec 7) {k : Nat} (hk : k < 7) (q : Nat) (v : Bool) :
    (if v then p ||| (1#7 <<< q) else p &&& ~~~(1#7 <<< q)).getLsbD k = if q = k then v else p.getLsbD k := by
  have hone : (1#7 <<< q).getLsbD k = decide (q = k) := by
    rw [BitVec.getLsbD_shiftLeft, BitVec.getLsbD_one, Bool.eq_iff_iff]
    simp only [Bool.and_eq_true, decide_eq_true_eq, Bool.not_eq_true', decide_eq_false_iff_not]
    omega
  cases v with
  | true =>
    rw [if_pos rfl, BitVec.getLsbD_or, hone]
    by_cases hq : q = k <;> simp [hq]
  | false =>
    rw [if_neg (by simp), BitVec.getLsbD_and, BitVec.getLsbD_not, hone, decide_eq_true hk]
    by_cases hq : q = k <;> simp [hq]

theorem Wave.p_apply {w : Wave} {l k : Nat} (hl : l < w.threads.length) (hk : k < 7) (x : RegWrite) :
    ((w.apply x).thread l).p.getLsbD k = (x.toPred l k).getD ((w.thread l).p.getLsbD k) := by
  cases x with
  | vec j q v => rw [Wave.thread_apply_vec hl]; split <;> rfl
  | uni q v => rfl
  | pred j q v =>
    simp only [Wave.apply, RegWrite.toPred]
    by_cases h7 : q = 7
    · simp [h7, show ¬ 7 = k by omega]
    · rw [if_neg h7, Wave.thread_onThread hl]
      by_cases hj : j = l
      · simp only [hj, if_true, true_and, getLsbD_setPred _ hk]; split <;> rfl
      · simp [hj]

/-- A write that is no predicate of lane `l`, or one to p7, leaves the lane's predicates. -/
theorem Wave.p_apply_pred_of_discarded (w : Wave) {l k q : Nat} (hq : q = 7 ∨ k ≠ l) (v : Bool) :
    ((w.apply (.pred k q v)).thread l).p = (w.thread l).p := by
  simp only [Wave.apply]
  split
  · rfl
  · rw [Wave.thread_onThread_ne (hq.resolve_left ‹_›)]

/-! ### A list of writes -/

@[simp] theorem Wave.length_applyAll (w : Wave) (xs : List RegWrite) :
    (w.applyAll xs).threads.length = w.threads.length := by
  unfold Wave.applyAll
  induction xs generalizing w with
  | nil => rfl
  | cons x xs ih => rw [List.foldl_cons, ih, Wave.length_apply]

@[simp] theorem Wave.results_applyAll (w : Wave) (xs : List RegWrite) : (w.applyAll xs).results = w.results := by
  unfold Wave.applyAll
  induction xs generalizing w with
  | nil => rfl
  | cons x xs ih => rw [List.foldl_cons, ih, Wave.results_apply]

/-- Something of a wave that each write sets as `sel` says is set by a list of writes which agree about it, or has their
value before. -/
theorem Wave.read_applyAll {α : Type} (read : Wave → α) (sel : RegWrite → Option α) (n : Nat)
    (one : ∀ w x, w.threads.length = n → read (Wave.apply w x) = (sel x).getD (read w))
    {xs : List RegWrite} {v : α} (agree : ∀ x ∈ xs, ∀ u, sel x = some u → u = v) {w : Wave} (hn : w.threads.length = n)
    (written : read w = v ∨ ∃ x ∈ xs, sel x = some v) : read (w.applyAll xs) = v := by
  unfold Wave.applyAll
  induction xs generalizing w with
  | nil => exact written.resolve_right fun ⟨_, hx, _⟩ => nomatch hx
  | cons x xs ih =>
    refine ih (fun y hy => agree y (List.mem_cons_of_mem x hy)) ((Wave.length_apply w x).trans hn) ?_
    rw [one w x hn]
    cases hx : sel x with
    | some u => exact .inl (agree x List.mem_cons_self u hx)
    | none =>
      refine written.imp id fun ⟨y, hy, hv⟩ => ⟨y, (List.mem_cons.1 hy).resolve_left fun hyx => ?_, hv⟩
      rw [hyx, hx] at hv
      cases hv

theorem Wave.v_applyAll {w : Wave} {l r : Nat} {v : Reg} {xs : List RegWrite} (hl : l < w.threads.length)
    (agree : ∀ x ∈ xs, ∀ u, x.toVec l r = some u → u = v) (written : ∃ x ∈ xs, x.toVec l r = some v) :
    ((w.applyAll xs).thread l).v.getD r 0 = v :=
  Wave.read_applyAll (fun w => (w.thread l).v.getD r 0) _ _ (fun _ x hn => Wave.v_apply (hn ▸ hl) r x) agree rfl (.inr written)

theorem Wave.u_applyAll {w : Wave} {r : Nat} {v : Word} {xs : List RegWrite}
    (agree : ∀ x ∈ xs, ∀ u, x.toUni r = some u → u = v) (written : ∃ x ∈ xs, x.toUni r = some v) :
    (w.applyAll xs).u r = v :=
  Wave.read_applyAll (fun w => w.u r) _ _ (fun w x _ => Wave.u_apply w r x) agree rfl (.inr written)

theorem Wave.p_applyAll {w : Wave} {l k : Nat} {v : Bool} {xs : List RegWrite} (hl : l < w.threads.length) (hk : k < 7)
    (agree : ∀ x ∈ xs, ∀ u, x.toPred l k = some u → u = v) (written : ∃ x ∈ xs, x.toPred l k = some v) :
    ((w.applyAll xs).thread l).p.getLsbD k = v :=
  Wave.read_applyAll (fun w => (w.thread l).p.getLsbD k) _ _ (fun _ x hn => Wave.p_apply (hn ▸ hl) hk x) agree rfl (.inr written)

/-! ### The end of a word -/

theorem Wave.thread_advance (w : Wave) (ls : List Nat) (l : Nat) :
    ((w.advance ls).thread l).v = (w.thread l).v ∧ ((w.advance ls).thread l).p = (w.thread l).p := by
  simp only [Wave.thread, Wave.advance, Wave.onLanes, List.getD_eq_getElem?_getD, List.getElem?_mapIdx]
  cases w.threads[l]? with
  | none => exact ⟨rfl, rfl⟩
  | some t => simp only [Option.map_some, Option.getD_some]; split <;> exact ⟨rfl, rfl⟩

/-- A wave without outstanding results, after a word that wrote `now` at once. -/
theorem State.wave_retired {s : State} {c : Ctx} (hw : (s.waves.find c.w).isSome) (hr : (s.wave c.w).results = [])
    (settle : Bool) (now : List RegWrite) :
    (retired s c settle false now []).wave c.w =
      closed settle false (((s.wave c.w).applyAll now).advance (s.curLanes c)) := by
  rw [retired, State.wave_onWave s c.w c.w _ hw, if_pos rfl]
  simp [State.writeNow, State.overtake, Wave.writeLate, hr]

theorem State.results_retired {s : State} {c : Ctx} (hw : (s.waves.find c.w).isSome) (hr : (s.wave c.w).results = [])
    (settle : Bool) (now : List RegWrite) : ((retired s c settle false now []).wave c.w).results = [] := by
  rw [State.wave_retired hw hr]
  exact (Wave.results_applyAll _ now).trans hr

theorem State.thread_retired {s : State} {c : Ctx} (hw : (s.waves.find c.w).isSome) (hr : (s.wave c.w).results = [])
    (settle : Bool) (now : List RegWrite) (l : Nat) :
    (((retired s c settle false now []).wave c.w).thread l).v = (((s.wave c.w).applyAll now).thread l).v ∧
    (((retired s c settle false now []).wave c.w).thread l).p = (((s.wave c.w).applyAll now).thread l).p := by
  rw [State.wave_retired hw hr]
  exact Wave.thread_advance _ _ l

/-! ### Reads without outstanding results -/

theorem State.readV_of_settled (s : State) {w : Wave} (hw : w.results = []) (l r : Nat) :
    s.readV w l r = (w.thread l).v.getD r 0 := by simp [State.readV, hw]

theorem State.readU_of_settled (s : State) {w : Wave} (hw : w.results = []) (r : Nat) : s.readU w r = w.u r := by
  simp [State.readU, hw]

theorem State.readP_of_settled (s : State) {w : Wave} (hw : w.results = []) (l : Nat) {k : Nat} (hk : k ≠ 7) :
    s.readP w l k = (w.thread l).p.getLsbD k := by simp [State.readP, hw, hk]

section
variable {s : State} {c : Ctx} (hw : (s.waves.find c.w).isSome) (hr : (s.wave c.w).results = []) (settle : Bool)
  {now : List RegWrite}
include hw hr

/-- A register that the word's writes agree about reads their value after the word. -/
theorem State.readV_retired {l r : Nat} {v : Reg} (hl : l < (s.wave c.w).threads.length)
    (agree : ∀ x ∈ now, ∀ u, x.toVec l r = some u → u = v) (written : ∃ x ∈ now, x.toVec l r = some v) :
    (retired s c settle false now []).readV ((retired s c settle false now []).wave c.w) l r = v := by
  rw [State.readV_of_settled _ (State.results_retired hw hr settle now), (State.thread_retired hw hr settle now l).1]
  exact Wave.v_applyAll hl agree written

theorem State.readU_retired {r : Nat} {v : Word} (agree : ∀ x ∈ now, ∀ u, x.toUni r = some u → u = v)
    (written : ∃ x ∈ now, x.toUni r = some v) :
    (retired s c settle false now []).readU ((retired s c settle false now []).wave c.w) r = v := by
  rw [State.readU_of_settled _ (State.results_retired hw hr settle now), State.wave_retired hw hr]
  exact Wave.u_applyAll agree written

theorem State.readP_retired {l k : Nat} {v : Bool} (hl : l < (s.wave c.w).threads.length) (hk : k < 7)
    (agree : ∀ x ∈ now, ∀ u, x.toPred l k = some u → u = v) (written : ∃ x ∈ now, x.toPred l k = some v) :
    (retired s c settle false now []).readP ((retired s c settle false now []).wave c.w) l k = v := by
  rw [State.readP_of_settled _ (State.results_retired hw hr settle now) l (by omega),
    (State.thread_retired hw hr settle now l).2]
  exact Wave.p_applyAll hl hk agree written

end

end Sys2Proof.Machine
end

section
/-! SUPPORT. Where a class A result is placed (R56, R154, R187). -/
namespace Sys2Proof.Machine

/-! ### Results in vector registers -/

/-- The writes of a result in a vector destination: each active lane's own (R154, R199). -/
theorem destWrites_vector {sh : ShapeA} {o : OpA} {wide : Bool}
    (hd : sh.dst = .vec wide ∨ (sh.dst = .cross wide ∧ o.uc = false) ∨
      (sh.dst = .reg wide ∧ (sh.isUniform o && decide (192 ≤ o.d.toNat)) = false))
    (act : List Nat) (ty : Nat) (res : Nat → Nat) :
    destWrites sh o act ty res = act.flatMap fun l => vecWrites ty l o.d.toNat (res l) := by
  rcases hd with hd | ⟨hd, hu⟩ | ⟨hd, hu⟩ <;> simp [destWrites, *]

/-- The writes of a result in a uniform destination: once, the lowest active lane's. -/
theorem destWrites_uniform {sh : ShapeA} {o : OpA} {wide : Bool} (hd : sh.dst = .reg wide) (hu : sh.isUniform o = true)
    (h192 : 192 ≤ o.d.toNat) (l : Nat) (rest : List Nat) (ty : Nat) (res : Nat → Nat) :
    destWrites sh o (l :: rest) ty res = [.uni (o.d.toNat - 192) (uniBits ty (res l))] := by
  simp [destWrites, hd, hu, h192]

theorem destWrites_cross {sh : ShapeA} {o : OpA} {wide : Bool} (hd : sh.dst = .cross wide) (hu : o.uc = true) (l : Nat)
    (rest : List Nat) (ty : Nat) (res : Nat → Nat) :
    destWrites sh o (l :: rest) ty res = [.uni o.d.toNat (uniBits ty (res l))] := by
  simp [destWrites, hd, hu]

/-- The value that a result of a type leaves in the register `k` places after D. -/
def resultReg (ty x k : Nat) : Reg :=
  if tyWide (BitVec.ofNat 4 ty) then BitVec.ofNat 32 (x / 2 ^ (32 * k)) else vecBits ty x

/-- The writes of a lane's result: one register, or two of a pair. -/
theorem mem_vecWrites {ty l d x : Nat} {y : RegWrite} : y ∈ vecWrites ty l d x ↔
    y = .vec l d (resultReg ty x 0) ∨
      (tyWide (BitVec.ofNat 4 ty) = true ∧ y = .vec l (d + 1) (resultReg ty x 1)) := by
  cases h : tyWide (BitVec.ofNat 4 ty) <;> simp [vecWrites, resultReg, h]

/-- The writes of the active lanes' results to the register `k` places after D agree. -/
theorem toVec_lanes {act : List Nat} {ty d l k : Nat} {res : Nat → Nat} {y : RegWrite}
    (hy : y ∈ act.flatMap fun l => vecWrites ty l d (res l)) {u : Reg} (hu : y.toVec l (d + k) = some u) :
    u = resultReg ty (res l) k := by
  obtain ⟨j, -, hj⟩ := List.mem_flatMap.1 hy
  rcases mem_vecWrites.1 hj with rfl | ⟨-, rfl⟩ <;>
  · simp only [RegWrite.toVec, Option.ite_none_right_eq_some, Option.some.injEq] at hu
    obtain ⟨⟨rfl, hk⟩, rfl⟩ := hu
    congr 1; omega

section
variable {s : State} {c : Ctx} (hw : (s.waves.find c.w).isSome) (hr : (s.wave c.w).results = []) {h : Hdr} {o : OpA}
  {sh : ShapeA} {ty : Nat} {res : Nat → Nat}
include hw hr

/-- Register D + `k` of an active lane after a word with a vector destination: its part of the lane's result. -/
theorem State.readV_resultA (hlen : ∀ l ∈ s.activeLanes c h.pg h.pn, l < (s.wave c.w).threads.length)
    (hd : destWrites sh o (s.activeLanes c h.pg h.pn) ty res =
      (s.activeLanes c h.pg h.pn).flatMap fun l => vecWrites ty l o.d.toNat (res l))
    {l : Nat} (hl : l ∈ s.activeLanes c h.pg h.pn) {k : Nat}
    (hk : k = 0 ∨ (tyWide (BitVec.ofNat 4 ty) = true ∧ k = 1)) :
    (resultA s c h o sh ty res).readV ((resultA s c h o sh ty res).wave c.w) l (o.d.toNat + k) =
      resultReg ty (res l) k := by
  unfold resultA
  rw [hd]
  refine State.readV_retired hw hr _ (hlen l hl) (fun x hx u hu => toVec_lanes hx hu)
    ⟨.vec l (o.d.toNat + k) (resultReg ty (res l) k), List.mem_flatMap.2 ⟨l, hl, mem_vecWrites.2 ?_⟩, if_pos ⟨rfl, rfl⟩⟩
  rcases hk with rfl | ⟨hwide, rfl⟩
  · exact .inl rfl
  · exact .inr ⟨hwide, rfl⟩

/-- A uniform register after a word that writes it alone. -/
theorem State.readU_resultA {r : Nat} {v : Word} (hd : destWrites sh o (s.activeLanes c h.pg h.pn) ty res = [.uni r v]) :
    (resultA s c h o sh ty res).readU ((resultA s c h o sh ty res).wave c.w) r = v := by
  unfold resultA
  rw [hd]
  refine State.readU_retired hw hr _ (fun x hx u hu => ?_) ⟨_, List.mem_singleton_self _, if_pos rfl⟩
  rw [List.mem_singleton.1 hx, RegWrite.toUni, if_pos rfl] at hu
  exact (Option.some.inj hu).symm

/-! ### Results in predicates -/

/-- The predicate of an active lane after a word with a predicate result; p7 reads true (R152). -/
theorem State.readP_resultP (hlen : ∀ l ∈ s.activeLanes c h.pg h.pn, l < (s.wave c.w).threads.length) {res : Nat → Bool}
    {l : Nat} (hl : l ∈ s.activeLanes c h.pg h.pn) :
    (resultP s c h o res).readP ((resultP s c h o res).wave c.w) l (o.d.toNat % 8) =
      if o.d.toNat % 8 = 7 then true else res l := by
  split
  · simp [State.readP, *]
  · refine State.readP_retired hw hr _ (hlen l hl) (by omega) (fun x hx u hu => ?_)
      ⟨_, List.mem_map_of_mem hl, if_pos ⟨rfl, rfl⟩⟩
    obtain ⟨j, -, rfl⟩ := List.mem_map.1 hx
    simp only [RegWrite.toPred, Option.ite_none_right_eq_some, Option.some.injEq] at hu
    obtain ⟨⟨rfl, -⟩, rfl⟩ := hu
    rfl

/-- A predicate result leaves the predicates of other lanes, and with p7 as its destination all. -/
theorem State.p_resultP {res : Nat → Bool} {l : Nat} (hl : o.d.toNat % 8 = 7 ∨ l ∉ s.activeLanes c h.pg h.pn) :
    (((resultP s c h o res).wave c.w).thread l).p = ((s.wave c.w).thread l).p := by
  unfold resultP predWrites
  rw [(State.thread_retired hw hr _ _ l).2]
  clear hw hr
  generalize s.wave c.w = w
  unfold Wave.applyAll
  generalize s.activeLanes c h.pg h.pn = act at hl ⊢
  induction act generalizing w with
  | nil => rfl
  | cons j js ih =>
    simp only [List.mem_cons, not_or] at hl
    rw [List.map_cons, List.foldl_cons, ih _ (hl.imp_right And.right),
      Wave.p_apply_pred_of_discarded w (hl.imp_right fun h => Ne.symm h.1)]

end

/-- A pair that holds the two halves of a number holds its low 64 bits. -/
theorem append_halves (x : Nat) : BitVec.ofNat 32 (x / 2 ^ 32) ++ BitVec.ofNat 32 x = BitVec.ofNat 64 x := by
  refine BitVec.eq_of_toNat_eq ?_
  rw [BitVec.toNat_append, BitVec.toNat_ofNat, BitVec.toNat_ofNat, BitVec.toNat_ofNat,
    ← Nat.shiftLeft_add_eq_or_of_lt (Nat.mod_lt _ (by decide)), Nat.shiftLeft_eq]
  omega

/-- Settles O9. The word's writes are those of its active lanes' results, and each cell reads the last write to it. -/
theorem resultPlaced : Obligations.ResultPlaced := by
  refine ⟨fun s c h o sh ty res hw hr hlen => ⟨fun wide hd => ?_, fun wide hd hu h192 l rest hact => ?_,
    fun wide hd hu l rest hact => ?_⟩, fun s c h o res hw hr hlen => ⟨fun l hl => ?_, fun h7 l => ?_, fun l hl => ?_⟩⟩
  · have hdst := destWrites_vector hd (s.activeLanes c h.pg h.pn) ty res
    refine ⟨fun l hl hwide => ?_, fun l hl hwide => ?_⟩
    · have hlow := State.readV_resultA hw hr hlen hdst hl (.inl rfl)
      rwa [resultReg, hwide] at hlow
    · have hlow := State.readV_resultA hw hr hlen hdst hl (.inl rfl)
      have hhigh := State.readV_resultA hw hr hlen hdst hl (.inr ⟨hwide, rfl⟩)
      rw [resultReg, if_pos hwide] at hlow hhigh
      rw [State.readPair, hhigh, ← append_halves]
      exact congrArg _ (hlow.trans (by simp))
  · exact State.readU_resultA hw hr ((congrArg (destWrites sh o · ty res) hact).trans (destWrites_uniform hd hu h192 ..))
  · exact State.readU_resultA hw hr ((congrArg (destWrites sh o · ty res) hact).trans (destWrites_cross hd hu ..))
  · exact State.readP_resultP hw hr hlen hl
  · exact State.p_resultP hw hr (.inl h7)
  · exact State.p_resultP hw hr (.inr hl)

end Sys2Proof.Machine
end

section
/-! SUPPORT. The register rule (Table 18-4) and rejected slag (R76, R385): what a word that meets them comes to. -/
namespace Sys2Proof.Machine

/-! ### The lowest register beyond the allocation -/

theorem minBy_concat_of_some {α : Type} {f : α → Nat} {l : List α} {b : α} (h : minBy l f = some b) (a : α) :
    minBy (l ++ [a]) f = if f a < f b then some a else some b := by
  unfold minBy at h ⊢
  rw [List.foldl_append, h]
  rfl

/-- The element that `minBy` finds is in the list and has the least measure; by induction on the list's last elements, in
whose order it looks. -/
theorem minBy_reverse_mem_least {α : Type} {f : α → Nat} {l : List α} (hl : l ≠ []) :
    ∃ a, minBy l.reverse f = some a ∧ a ∈ l ∧ ∀ x ∈ l, f a ≤ f x := by
  induction l with
  | nil => exact absurd rfl hl
  | cons a l ih =>
    by_cases hnil : l = []
    · subst hnil
      exact ⟨a, rfl, List.mem_cons_self, fun x hx => Nat.le_of_eq (congrArg f (List.mem_singleton.1 hx).symm)⟩
    · obtain ⟨b, hb, hmem, hle⟩ := ih hnil
      rw [List.reverse_cons, minBy_concat_of_some hb]
      split
      · rename_i hlt
        exact ⟨a, rfl, List.mem_cons_self,
          List.forall_mem_cons.2 ⟨Nat.le_refl _, fun x hx => Nat.le_trans (Nat.le_of_lt hlt) (hle x hx)⟩⟩
      · rename_i hge
        exact ⟨b, rfl, List.mem_cons_of_mem a hmem, List.forall_mem_cons.2 ⟨Nat.le_of_not_lt hge, hle⟩⟩

theorem minBy_id_of_least {r : Nat} {l : List Nat} (hr : r ∈ l) (least : ∀ x ∈ l, r ≤ x) : minBy l id = some r := by
  obtain ⟨a, ha, hmem, hle⟩ := minBy_reverse_mem_least (f := id) (List.ne_nil_of_mem (List.mem_reverse.2 hr))
  rw [List.reverse_reverse] at ha
  exact ha.trans (congrArg some (Nat.le_antisymm (hle r (List.mem_reverse.2 hr)) (least a (List.mem_reverse.1 hmem))))

/-- A word that names registers beyond the allocation traps with the lowest of them. -/
theorem registerTrap_least {c : Ctx} {regs : List Nat} {r : Nat} (hr : r ∈ regs) (ha : c.wave.alloc ≤ r)
    (least : ∀ x ∈ regs, c.wave.alloc ≤ x → r ≤ x) (act : List Nat) :
    registerTrap c regs act = some (.error 0x0004 r c.wave.alloc act) := by
  have hmin : minBy (regs.filter fun r => decide (c.wave.alloc ≤ r)) id = some r :=
    minBy_id_of_least (List.mem_filter.2 ⟨hr, decide_eq_true ha⟩) fun x hx =>
      least x (List.mem_filter.1 hx).1 (of_decide_eq_true (List.mem_filter.1 hx).2)
  rw [registerTrap, hmin]

theorem State.issueOn_registerTrap {s : State} {c : Ctx} {lanes : State → Ctx → List Nat} {regs : List Nat} {t : Trap}
    (hc : s.ctx = some c) (ha : lanes s c ≠ []) (ht : registerTrap c regs (lanes s c) = some t) (settle : Bool)
    (reads : List Nat) (eff : State → Ctx → List Nat → Effect) :
    s.issueOn settle lanes regs reads eff = s.takeTrap c t := by
  simp only [State.issueOn, hc, isEmpty_of_ne ha, ht, Bool.false_eq_true, if_false, State.finish_trap]

/-- At a region boundary the register rule stands before the commit and before open transactions abort. -/
theorem State.issueBoundary_registerTrap {s : State} {c : Ctx} {h : Hdr} {dst src : List Nat} {t : Trap}
    (hc : s.ctx = some c) (ha : s.activeLanes c h.pg h.pn ≠ [])
    (ht : registerTrap c (dst ++ src) (s.activeLanes c h.pg h.pn) = some t) (check : State → Ctx → List Nat → Option Effect)
    (eff : State → Ctx → List Nat → Effect) (uni : List Nat) (out : Reach) :
    s.issueBoundary h dst src check eff uni out = s.takeTrap c t := by
  simp only [State.issueBoundary, State.issueBoundaryIn, hc, isEmpty_of_ne ha, ht, Bool.false_eq_true, if_false,
    State.finish_trap]

/-! ### Words that are region boundaries -/

/-- A load with an order is issued as a region boundary that names its data group and its base. -/
theorem State.issueLoad_boundary (s : State) (h : Hdr) {o : OpM} (ho : o.ord ≠ 0) (f : Form) :
    ∃ check eff uni out, s.issueLoad h o f = s.issueBoundary h (groupRegs o) (baseRegs o f.pair) check eff uni out := by
  unfold State.issueLoad
  rw [if_neg (show ¬ o.ord.toNat = 0 from fun h0 => ho (BitVec.eq_of_toNat_eq h0))]
  exact ⟨_, _, _, _, rfl⟩

theorem State.issueStore_boundary (s : State) (h : Hdr) {o : OpM} (ho : o.ord ≠ 0) (f : Form) :
    ∃ check eff uni out, s.issueStore h o f = s.issueBoundary h [] (groupRegs o ++ baseRegs o f.pair) check eff uni out := by
  unfold State.issueStore
  rw [if_neg (show ¬ o.ord.toNat = 0 from fun h0 => ho (BitVec.eq_of_toNat_eq h0))]
  exact ⟨_, _, _, _, rfl⟩

/-- A load is issued by its form, and is a boundary word where it has an order. -/
theorem exec_of_loadForm {i : Instr} {h : Hdr} {o : OpM} {f : Form} (hi : loadForm i = some (h, o, f)) :
    (∀ s, exec i s = .next (s.issueLoad h o f)) ∧
    boundaryWord i = if o.ord = 0 then none else some (h, groupRegs o ++ baseRegs o f.pair, id) := by
  cases i <;> cases hi <;> exact ⟨fun _ => rfl, rfl⟩

theorem exec_of_storeForm {i : Instr} {h : Hdr} {o : OpM} {f : Form} (hi : storeForm i = some (h, o, f)) :
    (∀ s, exec i s = .next (s.issueStore h o f)) ∧
    boundaryWord i = if o.ord = 0 then none else some (h, groupRegs o ++ baseRegs o f.pair, id) := by
  cases i <;> cases hi <;> exact ⟨fun _ => rfl, rfl⟩

/-- A RED that releases is issued as a region boundary that names its operands and its base. -/
theorem exec_red_boundary (h : Hdr) {o : OpM} (ho : 2 ≤ o.ord.toNat) (s : State) :
    ∃ check eff uni out, exec (.red h o) s = .next (s.issueBoundary h [] (atomRegs o ++ baseRegs o true) check eff uni out) := by
  have hexec : exec (.red h o) s = execRed h o s := rfl
  rw [hexec, execRed, if_neg (Nat.not_lt.2 ho)]
  exact ⟨_, _, _, _, rfl⟩

/-- A boundary word that names vector registers is issued as a region boundary which names them, and then looks at what it
waits for. -/
theorem exec_boundaryWord {i : Instr} {h : Hdr} {regs : List Nat} {wake : State → State}
    (hi : boundaryWord i = some (h, regs, wake)) (hregs : regs ≠ []) (s : State) :
    ∃ dst src check eff uni out, dst ++ src = regs ∧
      exec i s = .next (wake (s.issueBoundary h dst src check eff uni out)) := by
  cases hl : loadForm i with
  | some x =>
    obtain ⟨hexec, hword⟩ := exec_of_loadForm hl
    rw [hword, Option.ite_none_left_eq_some] at hi
    obtain ⟨ho, ⟨⟩⟩ := hi
    obtain ⟨check, eff, uni, out, hb⟩ := s.issueLoad_boundary x.1 ho x.2.2
    exact ⟨_, _, check, eff, uni, out, rfl, (hexec s).trans (congrArg _ hb)⟩
  | none =>
  cases hs : storeForm i with
  | some x =>
    obtain ⟨hexec, hword⟩ := exec_of_storeForm hs
    rw [hword, Option.ite_none_left_eq_some] at hi
    obtain ⟨ho, ⟨⟩⟩ := hi
    obtain ⟨check, eff, uni, out, hb⟩ := s.issueStore_boundary x.1 ho x.2.2
    exact ⟨_, _, check, eff, uni, out, List.nil_append _, (hexec s).trans (congrArg _ hb)⟩
  | none =>
  cases i
  case awf => cases hi; exact ⟨_, _, _, _, _, _, List.append_nil _, rfl⟩
  case mpsh => cases hi; exact ⟨_, _, _, _, _, _, List.nil_append _, rfl⟩
  case mpop => cases hi; exact ⟨_, _, _, _, _, _, List.append_nil _, rfl⟩
  case enq => cases hi; exact ⟨_, _, _, _, _, _, List.nil_append _, rfl⟩
  case deq => cases hi; exact ⟨_, _, _, _, _, _, rfl, rfl⟩
  case qwait => cases hi; exact ⟨_, _, _, _, _, _, List.nil_append _, rfl⟩
  case atom => cases hi; exact ⟨_, _, _, _, _, _, rfl, rfl⟩
  case red _ o =>
    obtain ⟨ho, ⟨⟩⟩ := Option.ite_none_right_eq_some.1 hi
    obtain ⟨check, eff, uni, out, hb⟩ := exec_red_boundary h ho s
    exact ⟨_, _, check, eff, uni, out, List.nil_append _, hb⟩
  -- every other word names no vector register, or is no boundary word
  all_goals simp_all [boundaryWord, loadForm, storeForm]

/-! ### Rejected slag -/

/-- A word whose first operand holds slag in its lowest active lane traps with that verdict, for every lane in which an
operand that it examines holds slag (R385). -/
theorem slagTrap_first {l v : Nat} {e : Examined} (hv : slagOf e.ty (e.bits l) = some v) (op cls : Nat) (rest : List Nat)
    (ex : List Examined) :
    slagTrap op cls (l :: rest) (e :: ex) = some (.slag op cls (slagBits 10 v) e.operand
      ((l :: rest).filter fun k => (e :: ex).any fun e => (slagOf e.ty (e.bits k)).isSome)) := by
  have hfirst : ((e :: ex).any fun e => (slagOf e.ty (e.bits l)).isSome) = true := by simp [hv]
  simp only [slagTrap, List.filter_cons_of_pos (p := fun k => (e :: ex).any fun e => (slagOf e.ty (e.bits k)).isSome) hfirst,
    firstSome, hv, Option.map_some]

/-- A class A word that may act and whose check stops it takes that trap. -/
theorem State.issueA_trap {s : State} {c : Ctx} {h : Hdr} {o : OpA} {sh : ShapeA} (r : ReadyA s c h o sh) {t : Trap}
    {check : State → Ctx → List Nat → Option Trap} (stop : check s c (s.activeLanes c h.pg h.pn) = some t) (late : Bool)
    (out : State → Ctx → List Nat → List RegWrite) : s.issueA h o sh late check out = s.takeTrap c t := by
  unfold State.issueA
  rw [State.issueWord_ready r]
  simp only [stop, State.finish_trap]

/-- A floating-point word on two operands with SP = 0 whose operand A holds slag in the lowest active lane. -/
theorem State.issueFp_slag {s : State} {c : Ctx} {h : Hdr} {o : OpA} {sh : ShapeA} {l v : Nat} {rest : List Nat}
    (hact : s.activeLanes c h.pg h.pn = l :: rest) (r : ReadyA s c h o sh) (hsp : o.sp = false)
    (hv : slagOf o.ty.toNat (fpA s c o l) = some v) (op : Nat) (late : Bool) (f : Nat → Nat → Nat → Nat) :
    s.issueFp h o op sh 2 late f = s.takeTrap c (.slag op 0 (slagBits 10 v) 0 ((l :: rest).filter fun k =>
      (slagOf o.ty.toNat (fpA s c o k)).isSome || (slagOf o.ty.toNat (fpB s c o k)).isSome)) := by
  refine State.issueA_trap r ?_ _ _
  rw [hact, hsp, Bool.false_and, if_neg Bool.false_ne_true]
  refine (slagTrap_first (e := ⟨0, o.ty.toNat, fpA s c o⟩) hv op 0 rest [⟨1, o.ty.toNat, fpB s c o⟩]).trans ?_
  simp only [List.any_cons, List.any_nil, Bool.or_false]

/-- Settles O10. The register rule is the first condition of every word, and names the lowest register; slag of operand A in
the lowest active lane is the slag that the trap names. -/
theorem operandTraps : Obligations.OperandTraps := by
  refine ⟨fun s c h dst src eff r hc ha hr halloc least => ?_, fun s c settle x y r hc ha hr halloc least => ?_,
    fun s c i h regs wake r hi hc ha hr halloc least => ?_, fun s c h o l v rest hact rdy hsp hv => ?_⟩
  · exact State.issueOn_registerTrap (lanes := fun s c => s.activeLanes c h.pg h.pn) hc ha
      (registerTrap_least hr halloc least _) _ _ _
  · exact congrArg Host.Outcome.next (State.issueOn_registerTrap (lanes := fun s c => c.lanes.filter fun l =>
      (s.activeLanes c x.pg x.pn).contains l || (s.activeLanes c y.pg y.pn).contains l) hc ha
      (registerTrap_least hr halloc least _) _ _ _)
  · obtain ⟨dst, src, check, eff, uni, out, rfl, hexec⟩ := exec_boundaryWord hi (List.ne_nil_of_mem hr) s
    rw [hexec, State.issueBoundary_registerTrap hc ha (registerTrap_least hr halloc least _)]
    rfl
  · refine ⟨?_, ?_, ?_⟩ <;> exact congrArg Host.Outcome.next (State.issueFp_slag hact rdy hsp hv _ _ _)

end Sys2Proof.Machine
end

section
/-! SUPPORT. Floating-point words that may act: operands free of slag, or slag that the result carries (R77, R193). -/
namespace Sys2Proof.Machine

section
variable {s : State} {c : Ctx} {h : Hdr} {o : OpA} {sh : ShapeA} (r : ReadyA s c h o sh)
  {check : State → Ctx → List Nat → Option Trap} (pass : check s c (s.activeLanes c h.pg h.pn) = none)
include r pass

/-- A fixed-latency class A word that may act and whose check passes has its result. -/
theorem State.issueA_result (ty : Nat) (res : State → Ctx → List Nat → Nat → Nat) :
    s.issueA h o sh false check (fun s c act => destWrites sh o act ty (res s c act)) =
      resultA s c h o sh ty (res s c (s.activeLanes c h.pg h.pn)) :=
  State.issueA_ready r false check _ pass

/-- A variable-latency one has it as an outstanding result (R165). -/
theorem State.issueA_late (ty : Nat) (res : State → Ctx → List Nat → Nat → Nat) :
    s.issueA h o sh true check (fun s c act => destWrites sh o act ty (res s c act)) =
      lateA s c h o sh ty (res s c (s.activeLanes c h.pg h.pn)) :=
  State.issueA_ready r true check _ pass

/-- One with a predicate result has it in each active lane. -/
theorem State.issueA_pred (res : State → Ctx → List Nat → Nat → Bool) :
    s.issueA h o sh false check (fun s c act => predWrites o act (res s c act)) =
      resultP s c h o (res s c (s.activeLanes c h.pg h.pn)) :=
  State.issueA_ready r false check _ pass

end

/-- The slag check of a word on the first `k` operands passes where those are free of slag or carry it. -/
theorem slagCheck_of_slagFree {o : OpA} {act : List Nat} {k op : Nat} {xs : List (Nat → Nat)}
    (free : SlagFree o act (xs.take k)) :
    (if o.sp && slagCarries o.ty.toNat then none
      else slagTrap op 0 act ((xs.mapIdx fun i x => (⟨i, o.ty.toNat, x⟩ : Examined)).take k)) = none := by
  refine slagCheck_none (free.imp_right fun hx l hl e he => ?_)
  obtain ⟨i, hi, rfl⟩ := List.mem_iff_getElem.1 he
  simp only [List.length_take, List.length_mapIdx] at hi
  simp only [List.getElem_take, List.getElem_mapIdx]
  exact hx l hl _ (List.mem_take_iff_getElem.2 ⟨i, by omega, rfl⟩)

/-- A slag check passes where the word admits slag or its operands are free of it. -/
theorem slagCheck_of_noSlag {lenient : Prop} [Decidable lenient] {act : List Nat} {op : Nat} {ex : List Examined}
    (free : lenient ∨ NoSlag act (ex.map fun e => (e.ty, e.bits))) :
    (if lenient then none else slagTrap op 0 act ex) = none := by
  split
  · rfl
  · exact slagTrap_none _ _ _ _ fun l hl e he => free.resolve_left ‹_› l hl _ (List.mem_map_of_mem he)

section
variable {s : State} {c : Ctx} {h : Hdr} {o : OpA} {sh : ShapeA} (r : ReadyA s c h o sh) (op : Nat) (late : Bool)
include r

/-- A floating-point word of one operand. -/
theorem State.issueFp_one {f : Nat → Nat} (free : SlagFree o (s.activeLanes c h.pg h.pn) [fpA s c o]) :
    s.issueFp h o op sh 1 late (fun x _ _ => f x) =
      if late then lateA s c h o sh o.ty.toNat fun l => fp1 o.ty.toNat f (fpA s c o l)
      else resultA s c h o sh o.ty.toNat fun l => fp1 o.ty.toNat f (fpA s c o l) :=
  State.issueA_ready r late _ _ (slagCheck_of_slagFree (k := 1) (xs := [fpA s c o, fpB s c o, fpC s c o]) free)

/-- Of two operands. -/
theorem State.issueFp_two {f : Nat → Nat → Nat} (free : SlagFree o (s.activeLanes c h.pg h.pn) [fpA s c o, fpB s c o]) :
    s.issueFp h o op sh 2 late (fun x y _ => f x y) =
      if late then lateA s c h o sh o.ty.toNat fun l => fp2 o.ty.toNat f (fpA s c o l) (fpB s c o l)
      else resultA s c h o sh o.ty.toNat fun l => fp2 o.ty.toNat f (fpA s c o l) (fpB s c o l) :=
  State.issueA_ready r late _ _ (slagCheck_of_slagFree (k := 2) (xs := [fpA s c o, fpB s c o, fpC s c o]) free)

/-- Of three operands. -/
theorem State.issueFp_three {f : Nat → Nat → Nat → Nat}
    (free : SlagFree o (s.activeLanes c h.pg h.pn) [fpA s c o, fpB s c o, fpC s c o]) :
    s.issueFp h o op sh 3 late f =
      if late then lateA s c h o sh o.ty.toNat fun l => fp3 o.ty.toNat f (fpA s c o l) (fpB s c o l) (fpC s c o l)
      else resultA s c h o sh o.ty.toNat fun l => fp3 o.ty.toNat f (fpA s c o l) (fpB s c o l) (fpC s c o l) :=
  State.issueA_ready r late _ _ (slagCheck_of_slagFree (k := 3) (xs := [fpA s c o, fpB s c o, fpC s c o]) free)

end

end Sys2Proof.Machine
end

section
/-! SUPPORT. The special cases of the floating-point functions (Table 3-12, R66), by the kind of the operand. -/
namespace Sys2Proof

section
variable (f : Fmt) (rm : Nat) (ov : Bool) {x : Nat}

/-- A NaN gives the canonical NaN. -/
theorem Fmt.unary_of_nan (hx : f.decode x = .nan) :
    f.rcpBits rm ov x = f.nan ∧ f.rsqBits rm ov x = f.nan ∧ f.sqrtBits rm ov x = f.nan ∧ f.ex2Bits rm ov x = f.nan ∧
    f.lg2Bits rm ov x = f.nan ∧ f.sinBits rm ov x = f.nan ∧ f.cosBits rm ov x = f.nan ∧ f.tanhBits rm ov x = f.nan := by
  simp only [Fmt.rcpBits, Fmt.rsqBits, Fmt.sqrtBits, Fmt.ex2Bits, Fmt.lg2Bits, Fmt.sinBits, Fmt.cosBits, Fmt.tanhBits, hx,
    and_self]

theorem Fmt.unary_of_inf {neg : Bool} (hx : f.decode x = .inf neg) :
    f.rcpBits rm ov x = f.signed neg 0 ∧ f.sinBits rm ov x = f.nan ∧ f.cosBits rm ov x = f.nan ∧
    f.tanhBits rm ov x = f.round 0 false (.fin neg 1 0) ∧ f.rsqBits rm ov x = (if neg then f.nan else f.signed false 0) ∧
    f.sqrtBits rm ov x = (if neg then f.nan else f.infinity false) ∧
    f.lg2Bits rm ov x = (if neg then f.nan else f.infinity false) ∧
    f.ex2Bits rm ov x = (if neg then f.signed false 0 else f.infinity false) := by
  simp only [Fmt.rcpBits, Fmt.rsqBits, Fmt.sqrtBits, Fmt.ex2Bits, Fmt.lg2Bits, Fmt.sinBits, Fmt.cosBits, Fmt.tanhBits, hx,
    and_self]

theorem Fmt.unary_of_zero {neg : Bool} {e : Int} (hx : f.decode x = .fin neg 0 e) :
    f.rcpBits rm ov x = f.infinity neg ∧ f.rsqBits rm ov x = f.infinity neg ∧ f.sqrtBits rm ov x = x ∧
    f.sinBits rm ov x = x ∧ f.tanhBits rm ov x = x ∧ f.lg2Bits rm ov x = f.infinity true ∧
    f.ex2Bits rm ov x = f.round 0 false (.fin false 1 0) ∧ f.cosBits rm ov x = f.round 0 false (.fin false 1 0) := by
  simp only [Fmt.rcpBits, Fmt.rsqBits, Fmt.sqrtBits, Fmt.ex2Bits, Fmt.lg2Bits, Fmt.sinBits, Fmt.cosBits, Fmt.tanhBits, hx,
    if_true, and_self]

/-- The root, its reciprocal and the logarithm of a negative value are NaN. -/
theorem Fmt.roots_of_neg {m : Nat} {e : Int} (hm : m ≠ 0) (hx : f.decode x = .fin true m e) :
    f.sqrtBits rm ov x = f.nan ∧ f.rsqBits rm ov x = f.nan ∧ f.lg2Bits rm ov x = f.nan := by
  simp only [Fmt.rsqBits, Fmt.sqrtBits, Fmt.lg2Bits, hx, hm, if_true, if_false, and_self]

/-- The reciprocal of a finite value other than zero is rounded once. -/
theorem Fmt.rcpBits_of_fin {neg : Bool} {m : Nat} {e : Int} (hm : m ≠ 0) (hx : f.decode x = .fin neg m e) :
    f.rcpBits rm ov x = f.roundRat rm ov neg (ratOf m e).2 (ratOf m e).1 := by
  simp only [Fmt.rcpBits, hx, hm, if_false]

/-- So is the quotient of two. -/
theorem Fmt.divBits_of_fin {y m n : Nat} {a b : Bool} {e g : Int} (hm : m ≠ 0) (hn : n ≠ 0) (hx : f.decode x = .fin a m e)
    (hy : f.decode y = .fin b n g) :
    f.divBits rm ov x y = f.roundRat rm ov (a != b) (ratOf m (e - g)).1 ((ratOf m (e - g)).2 * n) := by
  simp only [Fmt.divBits, hx, hy, hm, hn, if_false]

end

/-! ### Minimum and maximum -/

/-- Comparison in the other order. -/
theorem Fl.compare_swap (x y : Fl) : y.compare x = (x.compare y).map Ordering.swap := by
  cases x with
  | nan => cases y <;> rfl
  | inf a =>
    cases y with
    | nan => rfl
    | inf b => cases a <;> cases b <;> rfl
    | fin b n g => cases a <;> rfl
  | fin a m e =>
    cases y with
    | nan => rfl
    | inf b => cases b <;> rfl
    | fin b n g => simp only [Fl.compare, Int.min_comm g e, Option.map_some, ← Std.OrientedCmp.eq_swap]

/-- Two zeros are equal. -/
theorem Fl.compare_of_isZero {x y : Fl} (hx : x.isZero = true) (hy : y.isZero = true) : x.compare y = some .eq := by
  cases x <;> cases y <;> simp_all [Fl.isZero, Fl.compare, Fl.scaled]

section
variable {f : Fmt} {x y : Nat}

theorem Fmt.minMax_of_nan (hx : f.decode x = .nan) (hy : f.decode y = .nan) (b : Bool) : f.minMax b x y = f.nan := by
  simp [Fmt.minMax, hx, hy, Fl.compare, Fl.isNan]

/-- A NaN gives way to the other operand (R66). -/
theorem Fmt.minMax_of_nan_left (hx : f.decode x = .nan) (hy : f.decode y ≠ .nan) (b : Bool) : f.minMax b x y = y := by
  cases h : f.decode y <;> simp_all [Fmt.minMax, Fl.compare, Fl.isNan]

theorem Fmt.minMax_of_nan_right (hx : f.decode x ≠ .nan) (hy : f.decode y = .nan) (b : Bool) : f.minMax b x y = x := by
  cases h : f.decode x <;> simp_all [Fmt.minMax, Fl.compare, Fl.isNan]

theorem Fmt.minMax_of_lt (h : (f.decode x).lt (f.decode y) = true) : f.minMax false x y = x ∧ f.minMax true x y = y := by
  have hlt : (f.decode x).compare (f.decode y) = some .lt := by simpa [Fl.lt] using h
  simp [Fmt.minMax, hlt]

theorem Fmt.minMax_of_gt (h : (f.decode y).lt (f.decode x) = true) : f.minMax false x y = y ∧ f.minMax true x y = x := by
  have hlt : (f.decode y).compare (f.decode x) = some .lt := by simpa [Fl.lt] using h
  have hgt : (f.decode x).compare (f.decode y) = some .gt := by rw [Fl.compare_swap, hlt]; rfl
  simp [Fmt.minMax, hgt]

/-- -0 stands below +0 (R66). -/
theorem Fmt.minMax_of_zeros (hx : (f.decode x).isZero = true) (hy : (f.decode y).isZero = true)
    (hnx : (f.decode x).isNeg = true) (hny : (f.decode y).isNeg = false) :
    f.minMax false x y = x ∧ f.minMax true x y = y ∧ f.minMax false y x = x ∧ f.minMax true y x = y := by
  simp [Fmt.minMax, Fl.compare_of_isZero hx hy, Fl.compare_of_isZero hy hx, hx, hy, hnx, hny]

end

end Sys2Proof

namespace Sys2Proof.Machine

/-- Settles O14. Each word is a floating-point word on its operands' elements; the special cases are those of its function. -/
theorem floatResults : Obligations.FloatResults := by
  refine ⟨fun s c h o => ⟨fun r free => ?sums, fun r free => ?extremes, fun r free => ?ffma, fun r free => ?frnd,
    fun r free => ?fscl, fun r => ?fcls, fun r free => ?fsetp⟩,
    fun s c h o => ⟨fun r free => ?functions, fun r free => ?fsqrt, fun r free => ?fdiv⟩,
    fun f rm ov x => ⟨f.unary_of_nan rm ov, fun _ => f.unary_of_inf rm ov, fun _ _ => f.unary_of_zero rm ov,
      fun _ _ hm => f.roots_of_neg rm ov hm, fun _ _ _ hm => f.rcpBits_of_fin rm ov hm⟩,
    fun f rm ov x y a b m n e g => f.divBits_of_fin rm ov,
    fun f x y => ⟨Fmt.minMax_of_nan, Fmt.minMax_of_nan_left, Fmt.minMax_of_nan_right, Fmt.minMax_of_lt, Fmt.minMax_of_gt,
      Fmt.minMax_of_zeros⟩⟩
  case sums => refine ⟨?_, ?_, ?_⟩ <;> exact congrArg Host.Outcome.next (State.issueFp_two r _ _ free)
  case extremes => constructor <;> exact congrArg Host.Outcome.next (State.issueFp_two r _ _ free)
  case ffma => exact congrArg Host.Outcome.next (State.issueFp_three r _ _ free)
  case frnd => exact congrArg Host.Outcome.next (State.issueFp_one r _ _ free)
  case fscl =>
    exact congrArg Host.Outcome.next (State.issueA_result r (slagCheck_of_slagFree (k := 1) (xs := [fpA s c o]) free) _ _)
  case fcls => exact congrArg Host.Outcome.next (State.issueValue_ready r false _ _)
  case fsetp =>
    exact congrArg Host.Outcome.next (State.issueA_pred r (slagCheck_of_noSlag (ex := [⟨0, _, _⟩, ⟨1, _, _⟩]) free) _)
  case functions =>
    refine ⟨?_, ?_, ?_, ?_, ?_, ?_, ?_⟩ <;> exact congrArg Host.Outcome.next (State.issueFp_one r _ _ free)
  case fsqrt => exact congrArg Host.Outcome.next (State.issueFp_one r _ _ free)
  case fdiv => exact congrArg Host.Outcome.next (State.issueFp_two r _ _ free)

end Sys2Proof.Machine
end

section
/-! SUPPORT. The checks of conversions (R195 to R198) and of reductions across lanes (R202, R385), and the words themselves. -/
namespace Sys2Proof.Machine

/-- A slot of an admitted format traps nothing (Table 18-4). -/
theorem slotTrap_none {c : Ctx} {k : Nat} {admitted : List Nat} (h : (c.card.slot k).fmt ∈ admitted) (act : List Nat) :
    slotTrap c k admitted act = none := by
  simp [slotTrap, h]

/-- A reduction on integers, or on values free of slag or with slag admitted, traps nothing (R202). -/
theorem reduceTrap_none {o : OpA} {s : State} {c : Ctx} {act : List Nat}
    (clean : o.ty.toNat ≤ 7 ∨ SlagFree o act [fpA s c o]) (op : Nat) : reduceTrap o op s c act = none := by
  unfold reduceTrap
  dsimp only
  split
  · rfl
  · rename_i hno
    simp only [Bool.or_eq_true, decide_eq_true_eq, Bool.and_eq_true, not_or] at hno
    obtain ⟨hfloat, hsp⟩ := hno
    have hnone : slagTrap op 0 act [⟨0, o.ty.toNat, fun l => srcA s c.wave o l (fpBits o.ty.toNat)⟩] = none :=
      slagTrap_none _ _ _ _ fun l hl e he => by
        rw [List.mem_singleton.1 he]
        exact ((clean.resolve_left hfloat).resolve_left hsp) l hl _ (List.mem_singleton_self _)
    rw [hnone]

/-- Settles O15. Each conversion is a class A word whose check passes on operands free of slag. -/
theorem conversionResults : Obligations.ConversionResults := by
  refine fun s c h o => ⟨fun r free => ?fcvt, fun r free => ?icvt, fun r free => ?npack, fun r free => ?nunpk,
    fun r fmt free => ?bxhdr, fun r fmt free => ?dot4, fun r => ?tslag⟩
  case fcvt =>
    exact congrArg Host.Outcome.next (State.issueA_result r
      (slagCheck_of_noSlag (ex := [⟨0, _, _⟩]) (free.imp_left (Bool.and_eq_true _ _).mpr)) _ _)
  case icvt =>
    exact congrArg Host.Outcome.next (State.issueA_result r (slagCheck_of_noSlag (ex := [⟨0, _, _⟩]) free) _ _)
  case npack =>
    exact congrArg Host.Outcome.next (State.issueA_result r
      (slagCheck_of_noSlag (ex := [⟨0, _, _⟩, ⟨1, _, _⟩]) (free.imp_left (Bool.and_eq_true _ _).mpr)) _ _)
  case nunpk =>
    exact congrArg Host.Outcome.next (State.issueA_result r (slagCheck_of_noSlag (ex := [⟨0, _, _⟩]) free) _ _)
  case bxhdr =>
    have hexec : exec (.bxhdr h o) s = execBxhdr h o s := rfl
    have pass : (slotTrap c o.x3.toNat [5, 6] (s.activeLanes c h.pg h.pn)).or
        (slagTrap 0x44 0 (s.activeLanes c h.pg h.pn) [⟨0, 10, fun l => srcA s c.wave o l 32⟩]) = none := by
      rw [slotTrap_none (by simpa using fmt), Option.none_or]
      exact slagTrap_none _ _ _ _ fun l hl => by simpa using free l hl
    rw [hexec, execBxhdr, State.issueA_ready r _ _ _ pass]
    dsimp only
    generalize packBx _ _ _ _ _ = block
    rfl
  case dot4 =>
    have pass : (slotTrap c o.x3.toNat [3, 4, 7] (s.activeLanes c h.pg h.pn)).or
        (if o.sp then none
          else slagTrap 0x45 0 (s.activeLanes c h.pg h.pn) [⟨2, 10, fun l => srcC s c.wave o l 32⟩]) = none := by
      rw [slotTrap_none (by simpa using fmt), Option.none_or]
      exact slagCheck_of_noSlag (ex := [⟨2, _, _⟩]) free
    exact congrArg Host.Outcome.next (State.issueA_result r pass _ _)
  case tslag =>
    exact congrArg Host.Outcome.next (State.issueValue_ready r false _ _)

/-- Settles O16. SHFL and MATCH are class A words without a check; the check of WRED and WSCAN passes. -/
theorem crossLaneResults : Obligations.CrossLaneResults := by
  refine fun s c h o => ⟨fun r => ?shfl, fun r => ?matchLanes, fun r clean => ?wred, fun r clean => ?wscan⟩
  case shfl =>
    refine (congrArg Host.Outcome.next (State.issueValue_ready r true _ _)).trans ?_
    refine congrArg (fun res => Host.Outcome.next (lateA s c h o (shapeShfl o) (rawTy o) res)) (funext fun l => ?_)
    dsimp only [rawWidth]
    cases shuffleLane o.x3.toNat l (srcB s c.wave o l 32) with
    | none => rfl
    | some j => by_cases hj : j ∈ s.activeLanes c h.pg h.pn <;> simp [hj]
  case matchLanes =>
    exact congrArg Host.Outcome.next (State.issueValue_ready r true _ _)
  case wred =>
    exact congrArg Host.Outcome.next (State.issueA_late r (reduceTrap_none clean _) _ _)
  case wscan =>
    exact congrArg Host.Outcome.next (State.issueA_late r (reduceTrap_none clean _) _ _)

end Sys2Proof.Machine
end

section
/-! SUPPORT. The machine after reset, and writes of the management registers (R356). -/
namespace Sys2Proof.Machine

/-- Settles O60. Reset holds empty tables and defaults, so that the invariants hold for want of entries. -/
theorem resetInvariant : Obligations.ResetInvariant := by
  have hhome : ∀ a, State.reset.home a = 0 := fun a => by
    change (if isCxl (State.reset.served a) then (0 : Byte) else 0) = 0
    exact ite_self _
  exact ⟨fun _ h => absurd rfl h, fun _ h => (List.not_mem_nil h).elim, rfl, State.reset_wf, rfl, rfl, rfl, rfl, rfl, hhome,
    fun _ => ⟨rfl, rfl, rfl⟩, fun _ => ⟨rfl, rfl⟩, rfl, rfl⟩

/-! ### Registers of dies, cores and ports -/

section
variable (s : State) {d : Nat} (v : Word)

/-- A register of a die that does not exist ignores its writes (R13). -/
theorem State.dieRegisters_absent (hd : 4 ≤ d) (b : Bool) :
    s.writeFbget d v = s ∧ s.writeFaultConfig d b v = s ∧ s.clearDropped d v = s ∧ s.clearIgdrop d v = s ∧
      s.setIngest d v = s :=
  have no : ∀ {p : Prop}, ¬ (d < 4 ∧ p) := fun h => Nat.not_le.2 h.1 hd
  ⟨if_neg no, if_pos (.inl hd), if_neg no, if_neg no, if_pos hd⟩

/-- While the fault buffer is empty its base and its depth are taken (R412). -/
theorem State.writeFaultConfig_empty (hd : d < 4) (h : (s.die d).fbPut = (s.die d).fbGet) (base : Bool) :
    s.writeFaultConfig d base v =
      if base then s.onDie d fun x => { x with fbBase := slice v.toNat 12 40 * 4096 }
      else if 8 ≤ v.toNat ∧ v.toNat ≤ 4096 then s.onDie d fun x => { x with faultDepth := v.toNat }
      else s :=
  if_neg fun hn => hn.elim (Nat.not_le.2 hd) fun hne => hne h

/-- What INGSET does with the descriptor `w` that it reads (R344): one that is not enabled leaves its place, one that breaks
no condition takes it, any other is reported by the first condition that it breaks. -/
theorem State.setIngest_cases (hd : d < 4) {w : BitVec 512}
    (hw : BitVec.ofNat 512 (s.tableNat ((s.die d).ingBase.toNat % 2 ^ 52 + 64 * (v.toNat % 128)) 64) = w) :
    (w.getLsbD 368 = false →
      s.setIngest d v = s.onDie d fun x => { x with ingest := x.ingest.remove (v.toNat % 128) }) ∧
    (w.getLsbD 368 = true →
      ((descriptorChecks w ++ [(64, s.ingestQueueOk d w)]).find? (fun c : Nat × Bool => !c.2) = none →
        s.setIngest d v = s.onDie d fun x => { x with ingest := x.ingest.insert (v.toNat % 128) { desc := w } }) ∧
      ∀ c, (descriptorChecks w ++ [(64, s.ingestQueueOk d w)]).find? (fun c : Nat × Bool => !c.2) = some c →
        s.setIngest d v = (s.onDie d fun x => { x with ingest := x.ingest.remove (v.toNat % 128) }).hostRecord
          (4 + d * 2 ^ 8 + v.toNat % 128 * 2 ^ 16 + c.1 * 2 ^ 32 + s.time.toNat * 2 ^ 128)) := by
  unfold State.setIngest
  dsimp only
  rw [hw, if_neg (Nat.not_le.2 hd)]
  refine ⟨fun hoff => if_pos (by rw [hoff]; rfl), fun hon => ?_⟩
  rw [if_neg (by rw [hon]; decide)]
  exact ⟨fun hnone => by rw [hnone], fun c hc => by rw [hc]⟩

/-- Checks that all hold have no first one that fails. -/
theorem find?_failed_none {l : List (Nat × Bool)} {c : Nat × Bool} (hl : l.all Prod.snd = true) (hc : c.2 = true) :
    (l ++ [c]).find? (fun c => !c.2) = none :=
  List.find?_eq_none.2 fun x hx => by
    have hx2 : x.2 = true := (List.mem_append.1 hx).elim (List.all_eq_true.1 hl x) fun h => List.mem_singleton.1 h ▸ hc
    simp [hx2]

/-- The buffer pool's register takes a write that Table 12-9 admits (R330). -/
theorem State.writePool_eq {c : Nat} (hc : c < 160) (cap : Bool) {new mins caps : List Nat}
    (hnew : new = (List.range 4).map fun i => slice v.toNat (16 * i) 16)
    (hmins : mins = if cap then (s.core c).poolMin else new) (hcaps : caps = if cap then new else (s.core c).poolCap) :
    s.writePool c cap v =
      if (∀ x ∈ new, x ≤ 4096) ∧ (∀ p ∈ mins.zip caps, p.1 ≤ p.2) ∧ mins.sum ≤ 4096 then
        s.onCore c fun k => { k with poolMin := mins, poolCap := caps }
      else s := by
  subst hnew hmins hcaps
  simp only [State.writePool, hc, true_and, List.all_eq_true, decide_eq_true_eq]

end

/-- Settles O56. Each write is its register's function on the state; what remains is which of its conditions holds. -/
theorem registerWrites : Obligations.RegisterWrites := by
  intro s v
  refine ⟨fun d hd => ⟨⟨fun h => ?get, fun h => ?getOut⟩, fun h _ => ?filled, fun h => ⟨?base, fun hv => ?depth,
      fun hv => ?depthOut⟩, ?dropped, ?igdrop⟩, fun c hc => ?sconf, fun d hd b => ?absent,
    fun d hd hr => ⟨fun hw => ?off, fun hw hall hq => ?on, fun c hw hc => ?bad⟩,
    fun c cap hc => ⟨fun h1 h2 h3 => ?pool, fun h => ?poolOut⟩, rfl, fun p hp hup hm => ?pmode, fun p h => ?pmodeOut,
    rfl, rfl, rfl, rfl, fun hb => ?idle, fun hb => ?busy, rfl, rfl, fun off ho => ?unaligned, rfl, rfl⟩
  case get => exact congrArg Host.Outcome.next (if_pos ⟨hd, h⟩)
  case getOut => exact congrArg Host.Outcome.next (if_neg fun hn => Nat.not_le.2 h hn.2)
  case filled => exact congrArg Host.Outcome.next (if_pos (.inr h))
  case base => exact congrArg Host.Outcome.next (s.writeFaultConfig_empty v hd h true)
  case depth => exact congrArg Host.Outcome.next ((s.writeFaultConfig_empty v hd h false).trans (if_pos hv))
  case depthOut =>
    exact congrArg Host.Outcome.next ((s.writeFaultConfig_empty v hd h false).trans (if_neg fun hn : 8 ≤ v.toNat ∧ v.toNat ≤ 4096 => by omega))
  case dropped => exact congrArg Host.Outcome.next (by simp only [State.clearDropped, hd, true_and])
  case igdrop => exact congrArg Host.Outcome.next (by simp only [State.clearIgdrop, hd, true_and])
  case sconf => exact congrArg Host.Outcome.next (by simp only [State.clearSconf, hc, true_and])
  case absent =>
    obtain ⟨hget, hconfig, hdropped, higdrop, hingest⟩ := s.dieRegisters_absent v hd b
    exact ⟨congrArg _ hget, congrArg _ hconfig, congrArg _ hdropped, congrArg _ higdrop, congrArg _ hingest⟩
  case off => exact congrArg Host.Outcome.next ((s.setIngest_cases v hd (congrArg _ (if_pos hr))).1 hw)
  case on =>
    exact congrArg Host.Outcome.next
      (((s.setIngest_cases v hd (congrArg _ (if_pos hr))).2 hw).1 (find?_failed_none hall hq))
  case bad => exact congrArg Host.Outcome.next (((s.setIngest_cases v hd (congrArg _ (if_pos hr))).2 hw).2 c hc)
  case pool => exact congrArg Host.Outcome.next ((s.writePool_eq v hc cap rfl rfl rfl).trans (if_pos ⟨h1, h2, h3⟩))
  case poolOut =>
    refine congrArg Host.Outcome.next ((s.writePool_eq v hc cap rfl rfl rfl).trans (if_neg ?_))
    rintro ⟨h1, h2, h3⟩
    rcases h with ⟨x, hx, hlt⟩ | ⟨p, hp, hlt⟩ | hlt
    · exact Nat.not_le.2 hlt (h1 x hx)
    · exact Nat.not_le.2 hlt (h2 p hp)
    · exact Nat.not_le.2 hlt h3
  case pmode =>
    have hw : s.writePmode p v = { s with
        pmodes := s.pmodes.put p (v.setWidth 2) 0, links := s.links.put p { s.links.getD p {} with failed := 0 } {} } :=
      if_neg (by simp [hup, hm, hp])
    exact ⟨_, congrArg Host.Outcome.next hw, rfl, by simp [Tab.getD_put]⟩
  case pmodeOut => exact congrArg Host.Outcome.next (if_pos h)
  case idle =>
    have hopen : ∀ off, ¬ (0x600000 ≤ off ∧ off < 0x600040 ∧ s.busy = true) := fun _ hn => by simp [hb] at hn
    exact ⟨congrArg Host.Outcome.next (if_neg (hopen _)), congrArg Host.Outcome.next (if_neg (hopen _)),
      congrArg Host.Outcome.next (if_neg (hopen _))⟩
  case busy =>
    exact ⟨congrArg Host.Outcome.next (if_pos (⟨by decide, by decide, hb⟩ : 0x600000 ≤ 0x600000 ∧ 0x600000 < 0x600040 ∧ _)),
      congrArg Host.Outcome.next (if_pos (⟨by decide, by decide, hb⟩ : 0x600000 ≤ 0x600008 ∧ 0x600008 < 0x600040 ∧ _))⟩
  case unaligned => exact congrArg Host.Outcome.next (if_neg ho)

end Sys2Proof.Machine
end

section
/-! SUPPORT. What leaves the bytes at their homes: changes of cores, dies and jobs, and so the fills of the caches. -/
namespace Sys2Proof.Machine

@[simp] theorem State.home_onCore (s : State) (k a : Nat) (f : CoreState → CoreState) : (s.onCore k f).home a = s.home a := rfl
@[simp] theorem State.home_onDie (s : State) (d a : Nat) (f : DieState → DieState) : (s.onDie d f).home a = s.home a := rfl
@[simp] theorem State.home_onJob (s : State) (j a : Nat) (f : Job → Job) : (s.onJob j f).home a = s.home a := rfl

theorem SameMemory.refl (s : State) : SameMemory s s := fun _ => rfl

theorem SameMemory.trans {s t u : State} (h : SameMemory s t) (k : SameMemory t u) : SameMemory s u :=
  fun a => (k a).trans (h a)

theorem SameMemory.foldl {α : Type} {f : State → α → State} (h : ∀ s a, SameMemory s (f s a)) (l : List α) (s : State) :
    SameMemory s (l.foldl f s) := by
  induction l generalizing s with
  | nil => exact SameMemory.refl s
  | cons a l ih => exact (h s a).trans (ih _)

theorem State.sameMemory_fillLine (s : State) (core line : Nat) : SameMemory s (s.fillLine core line) := fun a => by
  unfold State.fillLine
  split
  · rfl
  · dsimp only
    split <;> rfl

theorem State.sameMemory_fillLookup (s : State) (core line : Nat) : SameMemory s (s.fillLookup core line) := fun a => by
  unfold State.fillLookup
  split <;> rfl

theorem State.sameMemory_fillFor (s : State) (p : LoadPath) (rsb : List Buffered) (pas : List Nat) :
    SameMemory s (s.fillFor p rsb pas) := by
  unfold State.fillFor
  split
  · exact SameMemory.foldl (fun s l => s.sameMemory_fillLine p.core l) _ s
  · exact SameMemory.refl s

theorem State.sameMemory_onOrder (s : State) (c : Ctx) (scope : Nat) (f : Order → Nat → List Nat → Order) :
    SameMemory s (s.onOrder c scope f) := fun a => by
  unfold State.onOrder
  split <;> rfl

end Sys2Proof.Machine
end

section
/-! SUPPORT. Loads (R212, R213, R217, R220): what a relaxed and an ordered one comes to. -/
namespace Sys2Proof.Machine

/-- The register writes of a load's lanes. -/
def State.loadWrites (s : State) (c : Ctx) (o : OpM) (pages : Tab Nat) (spots : List (Nat × Place)) : List RegWrite :=
  spots.flatMap fun q => groupWrites o q.1 (s.laneBytes c (loadPath c o) (s.wave c.w).rsb (widthOf o) pages q.1 q.2)

section
variable {s t u : State} {c : Ctx} {f : Form} {h : Hdr} {o : OpM} {spots : List (Nat × Place)} {pages : Tab Nat}

/-- A load that is clear of every check of R399 is prepared, and nothing changes. -/
theorem State.prepareLoad_clear {act : List Nat}
    (h : Clear s c f.windows (widthOf o) (f.contig s c o) .read (f.addrs s c o act)) :
    ∃ spots pages, s.prepareLoad c f o act = (.ok (spots, pages), s) := by
  obtain ⟨spots, pages, hplace, hpages, -, -, -, habsent, hpoison, -, hfit⟩ :=
    clear_ok s c f.windows (widthOf o) _ .read _ ⟨o.w.toNat, Nat.le_of_lt_succ o.w.isLt, rfl⟩ h
  refine ⟨spots, pages, ?_⟩
  simp only [State.prepareLoad, hplace, hfit, hpages, habsent, hpoison, Bool.false_eq_true, if_false]

/-- Outside a deterministic job no check of R394 stands against a load, and what it notes changes no byte. -/
theorem State.noteLoad_free (hdet : c.det = false) (s : State) (p : LoadPath) (g : Nat) (pages : Tab Nat)
    (spots : List (Nat × Place)) : ∃ t, s.noteLoad c p g pages spots = .ok t ∧ SameMemory s t := by
  simp only [State.noteLoad, hdet, Bool.false_eq_true, if_false, Except.map]
  refine ⟨_, rfl, ?_⟩
  split
  · exact (s.sameMemory_onOrder c 5 _).trans (State.sameMemory_fillFor _ p _ _)
  · refine fun a => (State.home_onWave _ _ _ _).trans ?_
    exact (s.sameMemory_onOrder c 5 _).trans (State.sameMemory_fillFor _ p _ _) a

theorem State.performLoad_noted (hn : s.noteLoad c (loadPath c o) (widthOf o) pages spots = .ok t) (after : State → State) :
    s.performLoad c o spots pages after =
      .done (after (t.countConflicts (widthOf o) spots)) [] (s.loadWrites c o pages spots) := by
  simp only [State.performLoad, hn]
  rfl

/-- A relaxed load. -/
theorem State.issueLoad_relaxed (ho : o.ord.toNat = 0) (r : Ready s c h (groupRegs o) (baseRegs o f.pair))
    (hp : s.prepareLoad c f o (s.activeLanes c h.pg h.pn) = (.ok (spots, pages), t))
    (hn : t.noteLoad c (loadPath c o) (widthOf o) pages spots = .ok u) :
    s.issueLoad h o f =
      retired (u.countConflicts (widthOf o) spots) c h.s false [] (t.loadWrites c o pages spots) := by
  rw [State.issueLoad, if_pos ho, State.issueWord_ready r]
  simp only [hp, State.performLoad_noted hn]
  rfl

/-- The load of an ordered one, after its release: an acquire comes before its checks (R129). -/
def State.orderedLoad (s : State) (c : Ctx) (o : OpM) (spots : List (Nat × Place)) (pages : Tab Nat) (sc : Nat)
    (objs : List Obj) (words : List Nat) : Effect :=
  if o.ord.toNat % 2 = 1 then
    (s.noteAcquire c sc words).performLoad c o spots pages fun s => s.acquire c sc objs words
  else s.performLoad c o spots pages id

theorem State.orderedLoad_noted {sc : Nat} {objs : List Obj} {words : List Nat} {v : State}
    (hv : v = if o.ord.toNat % 2 = 1 then s.noteAcquire c sc words else s)
    (hn : v.noteLoad c (loadPath c o) (widthOf o) pages spots = .ok t) :
    s.orderedLoad c o spots pages sc objs words =
      .done (if o.ord.toNat % 2 = 1 then (t.countConflicts (widthOf o) spots).acquire c sc objs words
        else t.countConflicts (widthOf o) spots) [] (v.loadWrites c o pages spots) := by
  unfold State.orderedLoad
  by_cases hodd : o.ord.toNat % 2 = 1
  · rw [if_pos hodd] at hv
    rw [if_pos hodd, if_pos hodd, ← hv, State.performLoad_noted hn]
  · rw [if_neg hodd] at hv
    rw [if_neg hodd, if_neg hodd, ← hv, State.performLoad_noted hn]
    rfl

/-- An ordered load is a region boundary (R213), which with ORD 10 and 11 releases first (R127). -/
theorem State.issueLoad_ordered {s0 : State} (ho : o.ord.toNat ≠ 0)
    (b : Boundary s c h (groupRegs o) (baseRegs o f.pair) s0)
    (pass : ∃ x y, s.prepareLoad c f o (s.activeLanes c h.pg h.pn) = (.ok x, y) ∧
      y.loadConflict c o (s.activeLanes c h.pg h.pn) x.1 x.2 = none)
    (hp : (begun s0 c).prepareLoad c f o (s.activeLanes c h.pg h.pn) = (.ok (spots, pages), t)) :
    s.issueLoad h o f =
      let sc := t.scopeFor c o.sc.toNat spots
      let objs := t.wordObjs c (widthOf o) spots
      let words := syncWords (widthOf o) pages spots
      State.finish c h.s true (if 2 ≤ o.ord.toNat then
          t.releaseThen c sc objs fun s => (s.noteRelease c sc []).orderedLoad c o spots pages sc objs words
        else t.orderedLoad c o spots pages sc objs words) := by
  obtain ⟨⟨x, y⟩, z, hx, hclear⟩ := pass
  rw [State.issueLoad, if_neg ho, State.issueBoundary_ready b _ _ (by simp only [hx, hclear, Option.map_none]) (baseUni o)]
  simp only [hp]
  rfl

end

/-- The byte that a global load returns: the first that holds it of the wave's buffer, its core's commit buffer, the caches
and the home (R92). -/
theorem State.loadByte_eq (s : State) (p : LoadPath) (rsb : List Buffered) (pa : Nat) :
    s.loadByte p rsb pa = ((bufferedByte rsb pa).or ((committedByte (s.core p.core) pa).or
      (if p.skip then none else (cachedByte (s.core p.core).l1 pa).or (cachedByte (s.die (dieOfCore p.core)).rdc pa)))).getD
        (s.home pa) := by
  unfold State.loadByte
  cases bufferedByte rsb pa with
  | some b => rfl
  | none =>
    dsimp only
    cases committedByte (s.core p.core) pa with
    | some b => rfl
    | none =>
      cases p.skip with
      | true => rfl
      | false => cases cachedByte (s.core p.core).l1 pa <;> rfl

/-- Settles O29. A relaxed load is prepared and noted; an ordered one is so in the state that its release and its acquire
leave; the byte is the first that holds the address on its path. -/
theorem loadResults : Obligations.LoadResults := by
  refine ⟨fun i h o f s s0 s1 s2 c spots pages hi => ⟨fun ho r hp hn => ?relaxed, fun ho hdet r hclear => ?clear,
    fun ho b pass hp => ⟨fun hd hn => ?ordered, fun h2 hd => ?waits⟩⟩, fun s p rsb pa => ?byte⟩
  case relaxed => exact ((exec_of_loadForm hi).1 s).trans (congrArg _ (State.issueLoad_relaxed ho r hp hn))
  case clear =>
    obtain ⟨spots, pages, hp⟩ := State.prepareLoad_clear hclear
    obtain ⟨t, hn, hsame⟩ := s.noteLoad_free hdet (loadPath c o) (widthOf o) pages spots
    exact ⟨spots, pages, t, hp, hsame,
      ((exec_of_loadForm hi).1 s).trans (congrArg _ (State.issueLoad_relaxed ho r hp hn))⟩
  case ordered =>
    refine ((exec_of_loadForm hi).1 s).trans (congrArg _ ((State.issueLoad_ordered ho b pass hp).trans ?_))
    dsimp only at hd hn ⊢
    by_cases h2 : 2 ≤ o.ord.toNat
    · simp only [if_pos h2] at hn ⊢
      rw [State.releaseThen_drained (hd h2), State.orderedLoad_noted rfl hn]
      rfl
    · simp only [if_neg h2] at hn ⊢
      rw [State.orderedLoad_noted rfl hn]
      rfl
  case waits =>
    refine ((exec_of_loadForm hi).1 s).trans (congrArg _ ((State.issueLoad_ordered ho b pass hp).trans ?_))
    dsimp only at hd ⊢
    rw [if_pos h2, State.releaseThen_waits hd]
    rfl
  case byte =>
    rw [State.loadByte_eq]
    refine ⟨fun b hb => ?_, fun b hr hb => ?_, fun hr hc hskip => ?_, fun b hr hc hskip hb => ?_⟩
    · rw [hb]; rfl
    · rw [hr, hb]; rfl
    · rw [hr, hc]
      rcases hskip with hskip | hnone
      · rw [hskip]; rfl
      · rw [hnone, ite_self]; rfl
    · rw [hr, hc, hskip, hb]; rfl

end Sys2Proof.Machine
end

section
/-! SUPPORT. Table lookups (R222, R223, R96) and prefetches (R224). -/
namespace Sys2Proof

/-- A table that is held to a size keeps the key it was to keep. -/
theorem Tab.find_bound {α : Type} (t : Tab α) (most keep : Nat) : (t.bound most keep).find keep = t.find keep := by
  unfold Tab.bound
  split
  · rfl
  · cases hp : t.find? fun p => p.1 != keep with
    | none => rfl
    | some p =>
      have hne : keep ≠ p.1 := fun h => by simpa [h] using List.find?_some hp
      exact (Tab.find_remove t p.1 keep).trans (if_neg hne)

end Sys2Proof

namespace Sys2Proof.Machine

@[simp] theorem State.core_onCore (s : State) (k : Nat) (f : CoreState → CoreState) : (s.onCore k f).core k = f (s.core k) := by
  simp [State.onCore, State.setCore, State.core, Tab.getD_put]

/-! ### Elements of a table -/

/-- A wrapped index lies in the table, congruent to the index that it is of (R223). -/
theorem tableIndex_wrap (i : Int) {n : Nat} (hn : 0 < n) :
    tableIndex true i n < n ∧ ((tableIndex true i n : Int) - i) % n = 0 := by
  have hpos : (0 : Int) < n := Int.natCast_pos.2 hn
  have hcast : ((i % (n : Int)).toNat : Int) = i % n := Int.toNat_of_nonneg (Int.emod_nonneg i (Int.ne_of_gt hpos))
  have hlt := Int.emod_lt_of_pos i hpos
  simp only [tableIndex, if_true]
  refine ⟨by omega, ?_⟩
  rw [hcast, Int.emod_sub_emod, Int.sub_self, Int.zero_emod]

/-- A clamped index is the nearest one of the table. -/
theorem tableIndex_clamp (i : Int) {n : Nat} (hn : 0 < n) :
    tableIndex false i n < n ∧ (0 ≤ i → i < n → tableIndex false i n = i) ∧ (i < 0 → tableIndex false i n = 0) ∧
      ((n : Int) ≤ i → tableIndex false i n = n - 1) := by
  simp only [tableIndex, Bool.false_eq_true, if_false]
  omega

theorem Table.linear_of_not_finite (t : Table) {two : Bool} {x y : Fl}
    (h : x.isFinite = false ∨ (two = true ∧ y.isFinite = false)) : t.linear two x y = none := by
  refine if_pos ?_
  rcases h with h | ⟨h2, h⟩ <;> simp [*]

/-! ### What LKP reads -/

section
variable (s : State) (c : Ctx) (o : OpM)

/-- The table that LKP names in s(A) and s(A + 1) (R222). -/
def lkpTable : Table :=
  { base := (s.readU c.wave o.a.toNat).toNat, wd := (s.readU c.wave (o.a.toNat + 1)).toNat % 2 ^ 32
    ht := (s.readU c.wave (o.a.toNat + 1)).toNat / 2 ^ 32, g := widthOf o, wrap := o.off.getLsbD 2 }

/-- The coordinates of a lane. -/
def lkpX (l : Nat) : Nat := (s.readV c.wave l o.d.toNat).toNat
def lkpY (l : Nat) : Nat := if o.off.getLsbD 0 then (s.readV c.wave l (o.d.toNat + 1)).toNat else 0

/-- The elements that a lane reads, with their weights. -/
def lkpParts (l : Nat) : Option (List (Nat × Fl)) :=
  if o.off.getLsbD 1 then (lkpTable s c o).linear (o.off.getLsbD 0) (f32.decode (lkpX s c o l)) (f32.decode (lkpY s c o l))
  else some [((lkpTable s c o).nearest (o.off.getLsbD 0) (lkpX s c o l) (lkpY s c o l), .fin false 1 0)]

/-- Their addresses, and those of all lanes. -/
def lkpVas (l : Nat) : List Nat := ((lkpParts s c o l).getD []).map Prod.fst
def lkpReads (act : List Nat) : List (Nat × Nat) := act.flatMap fun l => (lkpVas s c o l).map fun a => (l, a)

/-- The registers that LKP reads. -/
def lkpRegs : List Nat := if o.off.getLsbD 0 then [o.d.toNat, o.d.toNat + 1] else [o.d.toNat]

/-- The element at a physical address as a lane reads it (R96). -/
def State.lkpElem (l pa : Nat) : Nat :=
  natOfBytes ((List.range (widthOf o)).map fun i => s.lookupByte c.core c.det (widthOf o) l (pa + i))

/-- What a lane gets of elements (R222, R223): of one, extended; or the rounded exact sum of the weighted ones. -/
def lkpNear (e : Nat) : Nat := if o.sg then ofSigned 32 (toSigned (8 * widthOf o) e) else e
def lkpSum (elem : Nat → Nat) (ps : List (Nat × Fl)) : Nat :=
  match ps.map fun p => Fl.mul p.2 (f32.decode (elem p.1)) with
  | [] => 0
  | z :: zs => f32.round 0 false (zs.foldl (Fl.add 0) z)

/-- A lane's result, where `elem` gives its elements. -/
def lkpValue (elem : Nat → Nat) (l : Nat) : Nat :=
  if o.off.getLsbD 1 then
    match lkpParts s c o l with
    | none => f32.nan
    | some ps => lkpSum elem ps
  else lkpNear o (elem ((lkpVas s c o l).headD 0))

/-- The lines that LKP has read are in the lookup cache. -/
def State.lkpFilled (t s : State) (c : Ctx) (o : OpM) (pages : Tab Nat) (act : List Nat) : State :=
  (distinct ((act.flatMap (lkpVas s c o)).map fun a => pageAddr pages a / 128)).foldl (fun u n => u.fillLookup c.core n) t

end

/-- An LKP that may act on a table that is not empty and meets no check of R399: its elements are placed, translated, leaving
`t`, and sound, and in linear mode neither coordinates nor elements hold slag. -/
structure LkpPasses (s t : State) (c : Ctx) (h : Hdr) (o : OpM) (spots : List (Nat × Place)) (pages : Tab Nat) : Prop where
  ready   : Ready s c h [o.d.toNat] (lkpRegs o)
  wide    : (lkpTable s c o).wd ≠ 0
  high    : o.off.getLsbD 0 = true → (lkpTable s c o).ht ≠ 0
  aligned : (lkpTable s c o).base % widthOf o = 0
  coords  : o.off.getLsbD 1 = true →
    coordSlag s c.wave (o.off.getLsbD 0) o.d.toNat (s.activeLanes c h.pg h.pn) = none
  placed  : s.placeAll c [0] (widthOf o) .free (lkpReads s c o (s.activeLanes c h.pg h.pn)) = .ok spots
  mapped  : s.wordPages c (widthOf o) .read spots = (.ok pages, t)
  sound   : t.poisonTrap (widthOf o) pages (t.lookupHome c.core c.det (widthOf o)) spots = none
  elems   : o.off.getLsbD 1 = true → ∀ l ∈ s.activeLanes c h.pg h.pn, ∀ a ∈ lkpVas s c o l,
    slagCode 10 (t.lkpElem c o l (pageAddr pages a)) = none

section
variable {s t : State} {c : Ctx} {h : Hdr} {o : OpM} {spots : List (Nat × Place)} {pages : Tab Nat}

/-- An LKP that meets no check completes with each lane's result (R222, R223). -/
theorem exec_lkp_passes (p : LkpPasses s t c h o spots pages) :
    exec (.lkp h o) s = .next (retired (t.lkpFilled s c o pages (s.activeLanes c h.pg h.pn)) c h.s false []
      ((s.activeLanes c h.pg h.pn).map fun l =>
        .vec l o.d.toNat (BitVec.ofNat 32 (lkpValue s c o (fun a => t.lkpElem c o l (pageAddr pages a)) l)))) := by
  have hexec : exec (.lkp h o) s = execLkp h o s := rfl
  have hsize : ¬ ((lkpTable s c o).wd = 0 ∨ (o.off.getLsbD 0 = true ∧ (lkpTable s c o).ht = 0)) :=
    not_or.2 ⟨p.wide, fun hn => p.high hn.1 hn.2⟩
  have hcoord : (if o.off.getLsbD 1 then coordSlag s c.wave (o.off.getLsbD 0) o.d.toNat (s.activeLanes c h.pg h.pn)
      else none) = none := ite_eq_right_iff.2 p.coords
  have hbad : ((s.activeLanes c h.pg h.pn).filter fun l => o.off.getLsbD 1 &&
      (lkpVas s c o l).any fun a => (slagCode 10 (t.lkpElem c o l (pageAddr pages a))).isSome) = [] :=
    List.filter_eq_nil_iff.2 fun l hl => by
      simp only [Bool.and_eq_true, List.any_eq_true, not_and, not_exists]
      exact fun hlin a ha => by simp [p.elems hlin l hl a ha]
  rw [hexec, execLkp]
  dsimp only
  have hregs : (if o.off.getLsbD 0 = true then [o.d.toNat, o.d.toNat + 1] else [o.d.toNat]) = lkpRegs o := rfl
  rw [hregs, State.issueWord_ready p.ready]
  have hal : ¬ (lkpTable s c o).base % widthOf o ≠ 0 := fun h => h p.aligned
  have hplaced := p.placed
  simp only [lkpReads, lkpVas, lkpParts, lkpX, lkpY, lkpTable, State.lkpElem] at hsize hal hplaced hbad
  simp only [if_neg hsize, hplaced, if_neg hal, hcoord, p.mapped, p.sound, Option.or_none, hbad]
  rfl

/-- The same with each lane's result by another name. -/
theorem exec_lkp_value (p : LkpPasses s t c h o spots pages) {val : Nat → Nat}
    (hval : ∀ l ∈ s.activeLanes c h.pg h.pn,
      lkpValue s c o (fun a => t.lkpElem c o l (pageAddr pages a)) l = val l) :
    exec (.lkp h o) s = .next (retired (t.lkpFilled s c o pages (s.activeLanes c h.pg h.pn)) c h.s false []
      ((s.activeLanes c h.pg h.pn).map fun l => .vec l o.d.toNat (BitVec.ofNat 32 (val l)))) := by
  rw [exec_lkp_passes p, List.map_congr_left fun l hl => by rw [hval l hl]]

/-- One whose elements are clear of every check of R399 meets none, and nothing changes; its elements lie where the core's TLB
maps them. -/
theorem lkpPasses_clear {pa : Nat → Nat} (r : Ready s c h [o.d.toNat] (lkpRegs o)) (wide : (lkpTable s c o).wd ≠ 0)
    (high : o.off.getLsbD 0 = true → (lkpTable s c o).ht ≠ 0) (aligned : (lkpTable s c o).base % widthOf o = 0)
    (clear : Clear s c [0] (widthOf o) .free .read (lkpReads s c o (s.activeLanes c h.pg h.pn)))
    (mapped : ∀ l ∈ s.activeLanes c h.pg h.pn, ∀ a ∈ lkpVas s c o l, Mapped s c .read a (pa a))
    (slag : o.off.getLsbD 1 = true → coordSlag s c.wave (o.off.getLsbD 0) o.d.toNat (s.activeLanes c h.pg h.pn) = none ∧
      ∀ l ∈ s.activeLanes c h.pg h.pn, ∀ a ∈ lkpVas s c o l, slagCode 10 (s.lkpElem c o l (pa a)) = none) :
    ∃ spots pages, LkpPasses s s c h o spots pages ∧
      ∀ l ∈ s.activeLanes c h.pg h.pn, ∀ a ∈ lkpVas s c o l, pageAddr pages a = pa a := by
  obtain ⟨spots, pages, hplace, hpages, -, -, haddr, -, hpoison, -, -⟩ :=
    clear_ok s c [0] (widthOf o) .free .read _ ⟨o.w.toNat, Nat.le_of_lt_succ o.w.isLt, rfl⟩ clear
  have hpa : ∀ l ∈ s.activeLanes c h.pg h.pn, ∀ a ∈ lkpVas s c o l, pageAddr pages a = pa a := fun l hl a ha => by
    have hread : (l, a) ∈ lkpReads s c o (s.activeLanes c h.pg h.pn) :=
      List.mem_flatMap.2 ⟨l, hl, List.mem_map_of_mem ha⟩
    exact (haddr _ hread (List.mem_singleton.1 (clear.inside _ hread).1) _ (mapped l hl a ha)).1
  exact ⟨spots, pages, ⟨r, wide, high, aligned, fun hlin => (slag hlin).1, hplace, hpages, hpoison _,
    fun hlin l hl a ha => by rw [hpa l hl a ha]; exact (slag hlin).2 l hl a ha⟩, hpa⟩

/-- A lane's result depends on the elements that it reads alone. -/
theorem lkpValue_congr {e e' : Nat → Nat} {l : Nat} (he : ∀ a ∈ lkpVas s c o l, e a = e' a) :
    lkpValue s c o e l = lkpValue s c o e' l := by
  unfold lkpValue
  split
  · cases hparts : lkpParts s c o l with
    | none => rfl
    | some ps =>
      have hmap : (ps.map fun p => Fl.mul p.2 (f32.decode (e p.1))) = ps.map fun p => Fl.mul p.2 (f32.decode (e' p.1)) :=
        List.map_congr_left fun p hp => by
          rw [he p.1 (by simpa [lkpVas, hparts] using ⟨p.2, hp⟩)]
      simp only [lkpSum, hmap]
  · rename_i hlin
    have hvas : ∃ a, lkpVas s c o l = [a] := ⟨_, by rw [lkpVas, lkpParts, if_neg hlin]; rfl⟩
    obtain ⟨a, ha⟩ := hvas
    rw [ha, List.headD_cons, he a (by rw [ha]; exact List.mem_singleton_self a)]

theorem State.sameMemory_lkpFilled (t s : State) (c : Ctx) (o : OpM) (pages : Tab Nat) (act : List Nat) :
    SameMemory t (t.lkpFilled s c o pages act) :=
  SameMemory.foldl (fun u n => u.sameMemory_fillLookup c.core n) _ t

/-- Lanes at one address of the global window pass every test of placement for a byte. -/
theorem State.placeAll_byte {a : Nat} (ha : a < stackBase) (s : State) (c : Ctx) (act : List Nat) :
    ∃ spots, s.placeAll c [0] 1 .free (act.map fun l => (l, a)) = .ok spots := by
  have hwindow : windowOf a = 0 := if_pos ha
  have hplace : ∀ l, s.place c l a 1 = some (.global a) := fun l => by simp only [State.place, hwindow]; exact if_pos ha
  have hin : ((act.map fun l => (l, a)).map fun p => (p, if [0].contains (windowOf p.2) then s.place c p.1 p.2 1 else none)) =
      act.map fun l => ((l, a), some (.global a)) := by
    rw [List.map_map]
    exact List.map_congr_left fun l _ => by simp [hwindow, hplace]
  have hmiss : (act.map fun l => ((l, a), some (Place.global a))).filter (fun p => p.2.isNone) = [] :=
    List.filter_eq_nil_iff.2 fun p hp => by obtain ⟨l, -, rfl⟩ := List.mem_map.1 hp; simp
  have huneven : (act.map fun l => (l, a)).filter (fun p => p.2 % 1 != 0) = [] :=
    List.filter_eq_nil_iff.2 fun p _ => by simp [Nat.mod_one]
  unfold State.placeAll
  dsimp only
  rw [hin, hmiss, huneven]
  exact ⟨_, rfl⟩

/-- An empty table traps (R222). -/
theorem exec_lkp_empty (r : Ready s c h [o.d.toNat] (lkpRegs o))
    (empty : (lkpTable s c o).wd = 0 ∨ (o.off.getLsbD 0 = true ∧ (lkpTable s c o).ht = 0))
    (inside : (lkpTable s c o).base < stackBase) (aligned : (lkpTable s c o).base % widthOf o = 0) :
    exec (.lkp h o) s = .next (s.programError c 0x010A (lkpTable s c o).base (s.readU c.wave (o.a.toNat + 1)).toNat
      (s.activeLanes c h.pg h.pn)) := by
  obtain ⟨spots, hplace⟩ := State.placeAll_byte inside s c (s.activeLanes c h.pg h.pn)
  have hexec : exec (.lkp h o) s = execLkp h o s := rfl
  have hregs : (if o.off.getLsbD 0 = true then [o.d.toNat, o.d.toNat + 1] else [o.d.toNat]) = lkpRegs o := rfl
  have hal : ¬ (lkpTable s c o).base % widthOf o ≠ 0 := fun h => h aligned
  rw [hexec, execLkp]
  dsimp only
  rw [hregs, State.issueWord_ready r]
  simp only [lkpTable] at empty hplace hal ⊢
  simp only [if_pos empty, hplace, if_neg hal]
  rfl

end

/-! ### PREF -/

/-- A prefetch fills caches or does nothing: no byte and no wave changes. -/
theorem State.prefetch_keeps (s : State) (c : Ctx) (va : Nat) :
    SameMemory s (s.prefetch c va) ∧ (s.prefetch c va).waves = s.waves := by
  unfold State.prefetch
  dsimp only
  split
  · refine ⟨s.sameMemory_fillLine _ _, ?_⟩
    unfold State.fillLine
    split
    · rfl
    · dsimp only
      split <;> rfl
  · exact ⟨SameMemory.refl s, rfl⟩

/-- Prefetches of a list of addresses, each with its last byte. -/
theorem State.prefetches_keep (c : Ctx) (n : Nat) (l : List (Nat × Nat)) (s : State) :
    SameMemory s (l.foldl (fun s p => (s.prefetch c p.2).prefetch c (p.2 + n - 1)) s) ∧
      (l.foldl (fun s p => (s.prefetch c p.2).prefetch c (p.2 + n - 1)) s).waves = s.waves := by
  induction l generalizing s with
  | nil => exact ⟨SameMemory.refl s, rfl⟩
  | cons p l ih =>
    obtain ⟨hm, hw⟩ := s.prefetch_keeps c p.2
    obtain ⟨hm', hw'⟩ := (s.prefetch c p.2).prefetch_keeps c (p.2 + n - 1)
    obtain ⟨hm'', hw''⟩ := ih ((s.prefetch c p.2).prefetch c (p.2 + n - 1))
    exact ⟨(hm.trans hm').trans hm'', hw''.trans (hw'.trans hw)⟩

/-- PREF completes (R224): with CQ = 00 its lanes' lines are prefetched. -/
theorem exec_pref_ready {s : State} {c : Ctx} {h : Hdr} {o : OpM} (r : Ready s c h [] (baseRegs o true)) :
    (o.cq ≠ 0 → exec (.pref h o) s = .next (retired s c h.s false [] [])) ∧
    (o.cq = 0 → ∃ l : List (Nat × Nat), exec (.pref h o) s = .next (retired
      (l.foldl (fun s p => (s.prefetch c p.2).prefetch c (p.2 + widthOf o - 1)) s) c h.s false [] [])) := by
  have hexec : exec (.pref h o) s = execPref h o s := rfl
  rw [hexec, execPref, State.issueWord_ready r]
  dsimp only
  refine ⟨fun hcq => ?_, fun hcq => ?_⟩
  · rw [if_neg fun h0 : o.cq.toNat = 0 => hcq (BitVec.eq_of_toNat_eq h0)]
    rfl
  · rw [if_pos (by rw [hcq]; rfl)]
    exact ⟨_, rfl⟩

/-- A line that L1 lacks is in it after its fill, as the remote-data cache or else the home holds it (R92). -/
theorem State.find_fillLine {s : State} {core line : Nat} (hnone : (s.core core).l1.find line = none) :
    ((s.fillLine core line).core core).l1.find line =
      some (((s.die (dieOfCore core)).rdc.find line).getD (s.homeBytes (line * 128) 128)) := by
  unfold State.fillLine
  rw [hnone, if_neg (by decide)]
  dsimp only
  rw [State.core_onCore]
  exact (Tab.find_bound _ _ _).trans ((Tab.find_insert _ _ _ _).trans (if_pos rfl))

/-- Settles O35. LKP is issued with the elements of its table, whose addresses and results the statement writes out; PREF is
a list of prefetches, each a fill. -/
theorem lookupAndPrefetch : Obligations.LookupAndPrefetch := by
  refine ⟨fun s s1 c h o spots pages => ?lkp,
    ⟨fun i n hn => ?index, fun t ix iy => ⟨rfl, by simp [Table.elem]⟩, fun t two x y => t.linear_of_not_finite⟩,
    fun s c h o r => ⟨(exec_pref_ready r).1, fun hcq => ?pref⟩, fun s c va l lv hw => ?walk,
    fun s core line => State.find_fillLine⟩
  case lkp =>
    intro act two lin d g lo hi t x y parts vas pa elem sum near filled r
    refine ⟨fun hwd hht hal hslag hplace hpages hpoison => ⟨fun hlin => ?nearest, fun hlin hclean => ?linear⟩,
      fun pa hwd hht hal hclear hmap hslag => ?clear, fun hempty hin hal => exec_lkp_empty r hempty hin hal⟩
    case nearest =>
      exact exec_lkp_value ⟨r, hwd, hht, hal, hslag, hplace, hpages, hpoison, fun h1 => absurd h1 (Bool.eq_false_iff.1 hlin)⟩
        fun l _ => if_neg (Bool.eq_false_iff.1 hlin)
    case linear =>
      exact exec_lkp_value ⟨r, hwd, hht, hal, hslag, hplace, hpages, hpoison, fun _ => hclean⟩ fun l _ => if_pos hlin
    case clear =>
      obtain ⟨spots, pages, hpass, hpa⟩ := lkpPasses_clear r hwd hht hal hclear hmap hslag
      exact ⟨_, fun l => lkpValue s c o (fun a => s.lkpElem c o l (pa a)) l,
        exec_lkp_value hpass fun l hl => lkpValue_congr fun a ha => by rw [hpa l hl a ha],
        s.sameMemory_lkpFilled s c o pages _, fun hlin l => if_neg (Bool.eq_false_iff.1 hlin)⟩
  case index =>
    obtain ⟨hwrap, hmod⟩ := tableIndex_wrap i hn
    exact ⟨hwrap, hmod, tableIndex_clamp i hn⟩
  case pref =>
    obtain ⟨l, hl⟩ := (exec_pref_ready r).2 hcq
    obtain ⟨hm, hw⟩ := State.prefetches_keep c (widthOf o) l s
    exact ⟨_, hl, hm, hw⟩
  case walk =>
    unfold State.prefetch
    dsimp only
    rw [hw]

end Sys2Proof.Machine
end

section
/-! SUPPORT. What a write at the home, a translation and a fresh read of a counter leave unchanged. -/
namespace Sys2Proof.Machine

/-! ### Writes at the home -/

/-- A write at its home changes memory, the dirty bytes of the home L2s, and the poison of units written whole, nothing else. -/
theorem State.writeHomes_frame (s : State) (l : List (Nat × Byte)) :
    ∃ mem dirty poison, s.writeHomes l = { s with mem := mem, cxlDirty := dirty, poison := poison } := by
  have hfold : ∃ mem dirty, l.foldl (fun s p => s.writeHome p.1 p.2) s = { s with mem := mem, cxlDirty := dirty } := by
    induction l generalizing s with
    | nil => exact ⟨_, _, rfl⟩
    | cons p l ih =>
      obtain ⟨mem, dirty, h⟩ := ih (s.writeHome p.1 p.2)
      rw [List.foldl_cons, h]
      unfold State.writeHome
      dsimp only
      split <;> exact ⟨_, _, rfl⟩
  obtain ⟨mem, dirty, h⟩ := hfold
  unfold State.writeHomes
  dsimp only
  rw [h]
  split <;> exact ⟨_, _, _, rfl⟩

/-- A late write that lands is a write at the home (R134). -/
theorem State.clusters_landOn (s : State) (core : Nat) : (s.landOn core).clusters = s.clusters := by
  have hfold : ∀ (l : List LateWrite) (t : State),
      (l.foldl (fun s w => s.writeHomes (w.bytes.mapIdx fun i b => (w.pa + i, b))) t).clusters = t.clusters := by
    intro l
    induction l with
    | nil => exact fun _ => rfl
    | cons w l ih =>
      intro t
      obtain ⟨_, _, _, h⟩ := t.writeHomes_frame (w.bytes.mapIdx fun i b => (w.pa + i, b))
      rw [List.foldl_cons, ih, h]
  unfold State.landOn State.landIf
  split
  · rfl
  · exact hfold _ _

/-- The update of a leaf's entry (R105) is a write at its home. -/
theorem State.touchLeaf_frame (s : State) (pte : Nat) (dirty : Bool) :
    ∃ mem cxl poison, s.touchLeaf pte dirty = { s with mem := mem, cxlDirty := cxl, poison := poison } := by
  unfold State.touchLeaf State.writeTable
  dsimp only
  split
  · exact s.writeHomes_frame _
  · exact ⟨_, _, _, rfl⟩

/-! ### Translations -/

theorem State.clusters_fillTlb (s : State) (q : Requester) (va : Nat) (l : Leaf) :
    (s.fillTlb q va l).clusters = s.clusters := by
  unfold State.fillTlb
  dsimp only
  split <;> rfl

/-- A regeneration gives no translation at once (R110). -/
theorem State.regenerate_not_ok (s t : State) (q : Requester) (bits base pte entry pa : Nat) (l : Leaf) :
    s.regenerate q bits base pte entry ≠ (.ok pa l, t) := by
  unfold State.regenerate
  dsimp only
  split
  · simp
  · split <;> simp

/-- A walk that gives a translation has found a leaf with the permission, updated its entry, and filled the TLBs (R105,
R107). -/
theorem State.walkAnew_ok {s t : State} {q : Requester} {va : Nat} {acc : Access} {pa : Nat} {m : Leaf}
    (h : s.walkAnew q va acc = (.ok pa m, t)) :
    ∃ l : Leaf, t = (s.touchLeaf l.pte (acc == .write)).fillTlb q va { l with dt := l.dt || acc == .write } := by
  unfold State.walkAnew at h
  dsimp only at h
  split at h
  · simp at h
  · split at h
    · exact absurd h (State.regenerate_not_ok _ _ _ _ _ _ _ _ _)
    · split at h <;> simp at h
  · rename_i l level hwalk
    split at h
    · exact ⟨l, (Prod.mk.inj h).2.symm⟩
    · split at h <;> simp at h

/-- An address that translates changes no cluster. -/
theorem State.clusters_of_translateIn_ok {s t : State} {q : Requester} {va : Nat} {acc : Access} {pa : Nat} {l : Leaf}
    (h : s.translateIn q va acc = (.ok pa l, t)) : t.clusters = s.clusters := by
  have hwalk : ∀ u, s.walkAnew q va acc = (.ok pa l, u) → u.clusters = s.clusters := fun u hu => by
    obtain ⟨m, rfl⟩ := State.walkAnew_ok hu
    obtain ⟨_, _, _, hm⟩ := s.touchLeaf_frame m.pte (acc == .write)
    rw [State.clusters_fillTlb, hm]
  have htrans : s.translate q va acc = (.ok pa l, t) := by
    unfold State.translateIn at h
    split at h
    · split at h <;> simp at h
    · exact h
  unfold State.translate at htrans
  dsimp only at htrans
  split at htrans
  · simp at htrans
  · split at htrans
    · split at htrans
      · rw [← (Prod.mk.inj htrans).2]
      · exact hwalk t htrans
    · split at htrans
      · split at htrans
        · rw [← (Prod.mk.inj htrans).2]
          split <;> rfl
        · exact hwalk t htrans
      · exact hwalk t htrans

/-- A counter's value is found without a change of a cluster (R140). -/
theorem State.clusters_readCounter {s u : State} {c : Ctx} {block : Option Nat} {a x : Nat} {obj : Obj} {words : List Nat}
    (h : s.readCounter c block a = (.value x obj words, u)) : u.clusters = s.clusters := by
  unfold State.readCounter at h
  dsimp only at h
  cases block with
  | some b =>
    dsimp only at h
    split at h
    · simp at h
    · split at h
      · simp at h
      · rw [← (Prod.mk.inj h).2]
  | none =>
    dsimp only at h
    have hone : distinct ([a].map (· / 4096)) = [a / 4096] := rfl
    simp only [State.translateAll, hone, List.foldl_cons, List.foldl_nil] at h
    rcases ht : s.translateIn (s.requester c) (a / 4096 * 4096) .read with ⟨r, t⟩
    rw [ht] at h
    cases r with
    | ok pa l =>
      dsimp only at h
      split at h
      · simp at h
      · rw [← (Prod.mk.inj h).2]
        exact State.clusters_of_translateIn_ok ht
    | miss d m => simp at h
    | full d => simp at h
    | error code i j => simp at h

end Sys2Proof.Machine
end

section
/-! SUPPORT. Counted waits, fences and bindings (R239, R133, R97, R240). -/
namespace Sys2Proof.Machine

theorem State.job_onJob {s : State} {j : Nat} (h : (s.jobs.find j).isSome = true) (f : Job → Job) :
    (s.onJob j f).job j = f (s.job j) := by
  obtain ⟨x, hx⟩ := Option.isSome_iff_exists.1 h
  simp only [State.job, State.onJob_jobs, Tab.getD, Tab.find_modify, hx, if_true]
  rfl

section
variable {s s1 : State} {c : Ctx} {h : Hdr} {o : OpS}

/-- A region boundary that may act comes to its effect, also where that reaches outside its cluster (R323). -/
theorem State.issueBoundary_reaching {dst src : List Nat} (b : Boundary s c h dst src s1)
    (check : State → Ctx → List Nat → Option Effect) (eff : State → Ctx → List Nat → Effect)
    (pass : check s c (s.activeLanes c h.pg h.pn) = none) (uni : List Nat) (out : Reach) :
    s.issueBoundary h dst src check eff uni out =
      State.finish c h.s true (eff (begun s1 c) c (s.activeLanes c h.pg h.pn)) := by
  have hg : ∀ n, s.gate c n = .go := fun n => by simp only [State.gate, b.single]
  simp only [State.issueBoundary, State.issueBoundaryIn, b.ready.ctx, isEmpty_of_ne b.ready.active,
    registerTrap_none c _ _ b.ready.below, State.boundaryAbort_plain b.plain, pass,
    registerPoison_none c.wave src _ b.ready.clean, hg, b.commits, Bool.false_eq_true, if_false,
    State.noteBoundary_single b.still, begun]

/-! ### CWAIT, FENCE and FENCELK -/

/-- CWAIT parks its wave on the counter word that it names, once that passes the checks of R399 (R239). -/
theorem exec_cwait_ready {u : State} {p : Place} {pages : Tab Nat} (b : Boundary s c h [] [] s1)
    (pass : ∃ x y, s.waveWord c (s.readU c.wave (uniField o.a)).toNat (s.activeLanes c h.pg h.pn) = (.ok x, y))
    (hword : (begun s1 c).waveWord c ((begun s1 c).readU c.wave (uniField o.a)).toNat (s.activeLanes c h.pg h.pn) =
      (.ok (p, pages), u)) :
    exec (.cwait h o) s = .next ((waiting u c h.s true [] (.counter (counterSpot p).1 (counterSpot p).2
      (u.readU c.wave (uniField o.d))
      (u.scopeFor c (scopeField o.imm.toNat) [((s.activeLanes c h.pg h.pn).headD 0, p)]) c.pc [])).wakeCur
        State.wakeCounter) := by
  obtain ⟨x, y, hx⟩ := pass
  have hexec : exec (.cwait h o) s = execCwait h o s := rfl
  rw [hexec, execCwait]
  dsimp only
  rw [State.issueBoundary_reaching b _ _ (by rw [hx]), hword]
  rfl

/-- FENCE is a release at its scope, then what a FENCE acquires (R133). -/
theorem exec_fence_ready (b : Boundary s c h [] [] s1) :
    exec (.fence h o) s = .next (State.finish c h.s true ((begun s1 c).releaseThen c
      ((begun s1 c).widen c (scopeField o.imm.toNat) (s.activeLanes c h.pg h.pn)) [noObj] fun r =>
        let sc := (begun s1 c).widen c (scopeField o.imm.toNat) (s.activeLanes c h.pg h.pn)
        let f := if c.det then r.onJob c.job fun j =>
          { j with det := j.det.fence c.task (scopeKeys sc (groupOfCore c.core)) } else r
        let g := f.onOrder c sc fun d a keys => d.fence a keys
        .done (g.acquireAt c.core sc (g.views c) [noObj] (g.reachOf c)) [] [])) :=
  congrArg Host.Outcome.next (State.issueBoundary_ready b _ _ rfl)

/-- FENCELK is a release at device scope, which empties the lookup cache (R97). -/
theorem exec_fencelk_ready (b : Boundary s c h [] [] s1) :
    exec (.fencelk h o) s = .next (State.finish c h.s true ((begun s1 c).releaseThen c 5 [noObj] fun r =>
      .done (r.onCore c.core fun k => { k with lookup := [] }) [] [])) :=
  congrArg Host.Outcome.next (State.issueBoundary_ready b _ _ rfl)

/-- A wave of a task that runs once and waits on a counter, where it waits for no miss, goes on with an acquire exactly where
a fresh read meets its target (R140). -/
theorem State.wakeCounter_read {u : State} {block : Option Nat} {a sc x : Nat} {v pc : Word} {on : List (Nat × Nat)}
    {obj : Obj} {words : List Nat} (hpark : c.wave.park = some (.counter block a v sc pc on))
    (hrun : (s.cluster c.cl).run = none) (hon : on = [] ∨ ∃ m ∈ on, s.missHeld m = false)
    (hread : (s.landOn c.core).readCounter c block a = (.value x obj words, u)) :
    s.wakeCounter c =
      if v.toNat ≤ x then (u.acquire c sc [obj] words).onWave c.w fun w => { w with park := none } else u := by
  have hclusters : u.cluster c.cl = s.cluster c.cl :=
    congrArg (fun t : Tab Cluster => t.getD c.cl {}) ((State.clusters_readCounter hread).trans (s.clusters_landOn c.core))
  have hfollows : u.follows c = false := by rw [State.follows, hclusters, hrun]; rfl
  have hgo : (s.leaderWaits c || (!on.isEmpty && on.all s.missHeld)) = false := by
    have hleader : s.leaderWaits c = false := by rw [State.leaderWaits, hrun]; rfl
    rw [hleader, Bool.false_or, Bool.and_eq_false_iff]
    rcases hon with rfl | ⟨m, hm, hfree⟩
    · exact .inl rfl
    · exact .inr (List.all_eq_false.2 ⟨m, hm, by rw [hfree]; exact Bool.false_ne_true⟩)
  simp only [State.wakeCounter, hpark, hgo, hread, hfollows, Bool.false_eq_true, or_false, if_false, ge_iff_le]

/-! ### BIND and UNBIND -/

/-- BIND of some bytes adds the binding that it names, once, while the table has room (R240, R403). -/
theorem exec_bind_named {b : Binding} (r : Ready s c h [] []) (hlen : o.imm.toNat % 2 ^ 30 ≠ 0)
    (hb : s.bindingOf c o (s.activeLanes c h.pg h.pn) = .ok b)
    (hbar : o.imm.toNat / 2 ^ 30 ≠ 3 ∨ (s.readU c.wave (uniField o.d)).toNat % 1024 < c.card.bars) :
    exec (.bind h o) s = .next (State.finish c h.s false
      (if b ∈ (s.job c.job).table c.cl then
        .done (s.learnChange c (s.activeLanes c h.pg h.pn) ((s.job c.job).lastChange b)) [] []
      else if 256 ≤ (s.job c.job).bindings.length then
        .trap s (.error 0x010B (s.readU c.wave (uniField o.d)).toNat (s.readU c.wave (uniField o.a)).toNat
          (s.activeLanes c h.pg h.pn))
      else .done (s.rebind c (s.activeLanes c h.pg h.pn) true b) [] [])) := by
  have hexec : exec (.bind h o) s = execBind h o s := rfl
  have hin : ¬ (o.imm.toNat / 2 ^ 30 = 3 ∧ (s.readU c.wave (uniField o.d)).toNat % 1024 ≥ c.card.bars) := by omega
  rw [hexec, execBind, State.issueWord_ready r]
  simp only [if_neg hlen, hb, if_neg hin, List.contains_iff_mem, ge_iff_le]

/-- UNBIND removes the binding that it names, where the table has it (R240). -/
theorem exec_unbind_named {b : Binding} (r : Ready s c h [] [])
    (hb : s.bindingOf c o (s.activeLanes c h.pg h.pn) = .ok b) :
    exec (.unbind h o) s = .next (retired (if b ∈ (s.job c.job).table c.cl
      then s.rebind c (s.activeLanes c h.pg h.pn) false b
      else s.learnChange c (s.activeLanes c h.pg h.pn) ((s.job c.job).lastChange b)) c h.s false [] []) := by
  have hexec : exec (.unbind h o) s = execUnbind h o s := rfl
  rw [hexec, execUnbind, State.issueWord_ready r]
  simp only [hb, List.contains_iff_mem, State.finish_done]

theorem State.bindings_rebind (hj : (s.jobs.find c.job).isSome = true) (act : List Nat) (add : Bool) (b : Binding) :
    ((s.rebind c act add b).job c.job).bindings =
      if add then (s.job c.job).bindings ++ [b] else (s.job c.job).bindings.filter fun y => y != b :=
  congrArg Job.bindings (State.job_onJob (s := s.fresh.2) hj _)

end

/-- Settles O40. Each word is issued as a word or a region boundary; a waiting wave reads its counter anew; a change of the
binding table is one of its job. -/
theorem waitsFencesBindings : Obligations.WaitsFencesBindings := by
  refine ⟨⟨fun s s1 u c h o p pages b => ⟨exec_cwait_ready b, fun hd => ?fence, fun hd => ?fenceWaits, fun hd => ?fencelk⟩,
      fun s u c block a sc x v pc on obj words hpark hrun hon hread => ⟨fun hle => ?goesOn, fun hlt => ?waitsOn⟩⟩,
    fun s c h o b r => ⟨fun hlen => ?none, fun hlen hb hbar => ⟨fun hmem => ?held, fun hmem hroom => ?room,
      fun hmem hfull => ?full⟩, fun hb => ⟨fun hmem => ?unbind, fun hmem => ?unheld⟩, fun t ht => ?unnamed,
      fun add hj => ⟨State.bindings_rebind hj _ add b, fun _ => rfl⟩⟩⟩
  case fence => rw [exec_fence_ready b, State.releaseThen_drained hd]; rfl
  case fenceWaits => rw [exec_fence_ready b, State.releaseThen_waits hd]; rfl
  case fencelk => rw [exec_fencelk_ready b, State.releaseThen_drained hd]; rfl
  case goesOn => exact (State.wakeCounter_read hpark hrun hon hread).trans (if_pos hle)
  case waitsOn => exact (State.wakeCounter_read hpark hrun hon hread).trans (if_neg (Nat.not_le.2 hlt))
  case none =>
    exact congrArg Host.Outcome.next ((State.issueWord_ready r _).trans (congrArg (State.finish c h.s false) (if_pos hlen)))
  case held => rw [exec_bind_named r hlen hb hbar, if_pos hmem]; rfl
  case room => rw [exec_bind_named r hlen hb hbar, if_neg hmem, if_neg (Nat.not_le.2 hroom)]; rfl
  case full => rw [exec_bind_named r hlen hb hbar, if_neg hmem, if_pos hfull]; rfl
  case unbind => rw [exec_unbind_named r hb, if_pos hmem]
  case unheld => rw [exec_unbind_named r hb, if_neg hmem]
  case unnamed =>
    refine congrArg Host.Outcome.next ((State.issueWord_ready r _).trans ?_)
    rw [ht]
    rfl

end Sys2Proof.Machine
end

section
/-! SUPPORT. Events of the pipeline: results that return (R166), exchanges of waves (R329), table walks (R104, R107). -/
namespace Sys2Proof.Machine

/-! ### Results that return -/

/-- A result that returns is written, and leaves the outstanding ones with the numbers that they have (R166). -/
theorem State.returnResult_found (s : State) {w : Wave} {k : Nat} {l : List RegWrite} (h : w.results.find k = some l) :
    ∃ rest, s.returnResult w k = { w.applyAll l with results := rest } ∧
      rest.map Prod.fst = (w.results.remove k).map Prod.fst := by
  unfold State.returnResult
  rw [h]
  exact ⟨_, rfl, by rw [List.map_map]; rfl⟩

/-! ### Exchanges of waves -/

/-- Two states that differ in which waves are active alone, and since when. -/
def SameButActive (s t : State) : Prop :=
  t = { s with waves := t.waves } ∧ ∀ k, { t.wave k with active := false, ready := 0, runFrom := 0 } =
    { s.wave k with active := false, ready := 0, runFrom := 0 }

theorem SameButActive.refl (s : State) : SameButActive s s := ⟨rfl, fun _ => rfl⟩

/-- A change of a wave's place in the active set. -/
theorem SameButActive.onWave {s t : State} (h : SameButActive s t) (w : Nat) {f : Wave → Wave}
    (hf : ∀ x, { f x with active := false, ready := 0, runFrom := 0 } = { x with active := false, ready := 0, runFrom := 0 }) :
    SameButActive s (t.onWave w f) := by
  refine ⟨by rw [h.1]; rfl, fun k => (?_ : _ = _).trans (h.2 k)⟩
  by_cases hk : (t.waves.find k).isSome
  · rw [State.wave_onWave t w k f hk]
    split
    · exact hf _
    · rfl
  · simp only [State.wave, State.onWave_waves, Tab.getD, Tab.find_modify, Option.not_isSome_iff_eq_none.1 hk, Option.map_none,
      ite_self]

theorem State.exchange_sameButActive (s : State) (x y : Nat) : SameButActive s (s.exchange x y) := by
  unfold State.exchange
  refine ((SameButActive.refl s).onWave x ?_).onWave y ?_ <;> exact fun _ => rfl

theorem exec_waveSwap (s : State) (core q : Nat) : exec (.waveSwap core q) s = execWaveSwap core q s := rfl

/-- WAVE_SWAP changes which waves are active alone (R329). -/
theorem exec_waveSwap_sameButActive (s : State) (core q : Nat) :
    ∃ t, exec (.waveSwap core q) s = .next t ∧ SameButActive s t := by
  rw [exec_waveSwap, execWaveSwap]
  refine ⟨_, rfl, ?_⟩
  split
  · exact s.exchange_sameButActive _ _
  · split
    · exact (SameButActive.refl s).onWave _ fun _ => rfl
    · split
      · exact SameButActive.refl s
      · split
        · exact s.exchange_sameButActive _ _
        · exact SameButActive.refl s
  · exact SameButActive.refl s

/-- A settling wave leaves the active set for the oldest pending one that can run (R329). -/
theorem exec_waveSwap_settling {s : State} {core q : Nat} {x y : Nat × Wave}
    (hx : ((s.quadrant core q).filter fun p => p.2.active).find? (fun p => p.2.settling) = some x)
    (hy : minBy ((s.quadrant core q).filter fun p => !p.2.active && s.runnable p.2) (fun p => p.2.age) = some y) :
    exec (.waveSwap core q) s = .next (s.exchange x.1 y.1) := by
  rw [exec_waveSwap, execWaveSwap]
  dsimp only
  rw [hx, hy]

/-- Without a settling wave the oldest pending one that can run takes a free place of the 8 (R329). -/
theorem exec_waveSwap_free {s : State} {core q : Nat} {y : Nat × Wave}
    (hx : ((s.quadrant core q).filter fun p => p.2.active).find? (fun p => p.2.settling) = none)
    (hfree : ((s.quadrant core q).filter fun p => p.2.active).length < 8)
    (hy : minBy ((s.quadrant core q).filter fun p => !p.2.active && s.runnable p.2) (fun p => p.2.age) = some y) :
    exec (.waveSwap core q) s = .next (s.onWave y.1 fun w => { w with active := true, ready := s.clk + 2 }) := by
  rw [exec_waveSwap, execWaveSwap]
  dsimp only
  rw [hx, hy]
  exact congrArg _ (if_pos hfree)

/-! ### Table walks -/

/-- A translation is one of an address in an address space. -/
def Leaf.covers (l : Leaf) (asid : BitVec 14) (va : Nat) : Prop := l.asid = asid ∧ va / 2 ^ l.bits * 2 ^ l.bits = l.va

theorem leafOf_leaf {asid : BitVec 14} {va level bits pte e lv : Nat} {l : Leaf}
    (h : leafOf asid va level bits pte e = .leaf l lv) : l.covers asid va := by
  unfold leafOf at h
  split at h
  · cases h
  · split at h
    · cases h
    · split at h
      · cases h
      · cases h
        exact ⟨rfl, rfl⟩

theorem ownEntry_leaf {asid : BitVec 14} {va pte e lv : Nat} {l : Leaf} (h : ownEntry asid va pte e = .leaf l lv) :
    l.covers asid va := by
  unfold ownEntry at h
  split at h
  · split at h
    · rename_i m level hm
      cases h
      exact ⟨(leafOf_leaf hm).1, rfl⟩
    · exact leafOf_leaf h
  · exact leafOf_leaf h

/-- The leaf that a walk finds is one of the address (R104, R106). -/
theorem State.walk_leaf {s : State} {asid : BitVec 14} {root va lv : Nat} {l : Leaf}
    (h : s.walk asid root va = .leaf l lv) : l.covers asid va := by
  unfold State.walk at h
  generalize 5 = level at h
  induction level generalizing root with
  | zero =>
    simp only [State.walkFrom, State.groupWalk] at h
    split at h
    · exact leafOf_leaf h
    · split at h
      · exact leafOf_leaf h
      · split at h
        · exact leafOf_leaf h
        · exact ownEntry_leaf h
  | succ level ih =>
    rw [State.walkFrom] at h
    split at h
    · exact leafOf_leaf h
    · split at h
      · cases h
      · split at h
        · cases h
        · exact ih h

/-- The newest translation of a TLB is found where it covers the address. -/
theorem findLeaf_newest {l : Leaf} {asid : BitVec 14} {va : Nat} (h : l.covers asid va) (rest : List Leaf) (n : Nat) :
    findLeaf ((l :: rest).take (n + 1)) asid va = some l := by
  simp [findLeaf, h.1, h.2]

/-- A fill puts the translation into the TLBs of the core and its die (R107). -/
theorem State.findLeaf_fillTlb (s : State) {q : Requester} {core va : Nat} {l : Leaf} (hq : q.core = some core)
    (h : l.covers q.asid va) :
    findLeaf ((s.fillTlb q va l).core core).tlb q.asid va = some l ∧
      findLeaf ((s.fillTlb q va l).die q.die).l2tlb q.asid va = some l := by
  unfold State.fillTlb
  rw [hq]
  dsimp only
  refine ⟨?_, ?_⟩
  · rw [State.core_onCore]
    exact findLeaf_newest h _ 63
  · have hdie : ∀ t : State, (t.onDie q.die fun d => { d with l2tlb := (l :: dropLeaf d.l2tlb q.asid va).take 16384 }).die q.die =
        { t.die q.die with l2tlb := (l :: dropLeaf (t.die q.die).l2tlb q.asid va).take 16384 } := fun t =>
      (Tab.getD_put _ _ _ _ _).trans (if_pos rfl)
    refine Eq.trans (congrArg (fun d : DieState => findLeaf d.l2tlb q.asid va) (hdie s)) ?_
    exact findLeaf_newest h _ 16383

/-- A translation that no TLB and no miss has is walked (R107). -/
theorem State.translate_walks {s : State} {q : Requester} {core va : Nat} (acc : Access) (hq : q.core = some core)
    (hmiss : (s.die q.die).missAt q.asid va = none) (hl1 : findLeaf (s.core core).tlb q.asid va = none)
    (hl2 : findLeaf (s.die q.die).l2tlb q.asid va = none) : s.translate q va acc = s.walkAnew q va acc := by
  unfold State.translate
  simp only [hmiss, hq, Option.bind_some, hl1, hl2]

/-- A walk for an access that a wave is about to make fills the TLBs with the leaf that it finds (PAGE_WALK, R107). -/
theorem exec_pageWalk_fills {s : State} {core k lv : Nat} {w : Wave} {asid : BitVec 14} {va : Word} {acc : Access} {l : Leaf}
    (hfind : (s.waves.find? fun p => s.aboutToAccess p.1 core asid va.toNat acc) = some (k, w)) :
    let q := s.requester (s.ctxFor { wave := k, lanes := [], pc := 0, word := 0 })
    let m := { l with dt := l.dt || acc == .write }
    findLeaf (s.core core).tlb asid va.toNat = none → findLeaf (s.die q.die).l2tlb asid va.toNat = none →
    (s.die q.die).missAt asid va.toNat = none → s.walk asid q.root va.toNat = .leaf l lv → l.permits acc = true →
    ∃ t, exec (.pageWalk core asid va acc) s = .next t ∧ findLeaf (t.core core).tlb asid va.toNat = some m ∧
      findLeaf (t.die q.die).l2tlb asid va.toNat = some m := by
  intro q m hl1 hl2 hmiss hwalk hperm
  have habout := List.find?_some hfind
  simp only [State.aboutToAccess, Bool.and_eq_true, beq_iff_eq] at habout
  obtain ⟨⟨⟨⟨hcore, -⟩, -⟩, hasid⟩, -⟩ := habout
  have hqcore : q.core = some core := congrArg some hcore
  have hqasid : q.asid = asid := hasid
  rw [← hqasid] at hl1 hl2 hmiss hwalk ⊢
  have hcovers : m.covers q.asid va.toNat := (State.walk_leaf hwalk : l.covers q.asid va.toNat)
  have htrans : s.translate q va.toNat acc =
      (.ok (m.addr va.toNat) m, (s.touchLeaf l.pte (acc == .write)).fillTlb q va.toNat m) := by
    rw [State.translate_walks acc hqcore hmiss hl1 hl2]
    unfold State.walkAnew
    dsimp only
    rw [hwalk]
    exact if_pos hperm
  have hexec : exec (.pageWalk core q.asid va acc) s =
      .next ((s.touchLeaf l.pte (acc == .write)).fillTlb q va.toNat m) := by
    have hunfold : exec (.pageWalk core q.asid va acc) s = execPageWalk core q.asid va acc s := rfl
    rw [hunfold, execPageWalk, hqasid, hfind]
    dsimp only
    rw [htrans]
  exact ⟨_, hexec, State.findLeaf_fillTlb _ hqcore hcovers⟩

end Sys2Proof.Machine
end

section
/-! SUPPORT. Deliveries (R90, R262) and the copy units' queues (R144, R254, R428, R431). -/
namespace Sys2Proof.Machine

/-! ### Deliveries -/

/-- An accepted delivery of a copy unit lands (R90): its bytes are written, its lines come nearer to presence, rings advance. -/
theorem State.land_accepted {s : State} {b k : Nat} {d : Delivery} (hd : (s.block b).deliveries[k]? = some d)
    (hland : d.landed = false) (hacc : d.accepted = true) (hkind : d.kind ≠ 1) :
    s.land b k = (s.onBlock b fun x => { x.store d.bytes with
      absent := dropLines x.absent d.lines
      deliveries := if d.claim.isSome then x.deliveries.set k { d with landed := true }
        else x.deliveries.eraseIdx k }).advanceRings b := by
  unfold State.land
  rw [hd]
  dsimp only
  rw [if_neg (by simp [hland, hacc]), if_neg fun h => hkind h.1]

/-- One that has landed or is not accepted lands no more. -/
theorem State.land_none {s : State} {b k : Nat}
    (h : ∀ d, (s.block b).deliveries[k]? = some d → d.landed = true ∨ d.accepted = false) : s.land b k = s := by
  unfold State.land
  cases hd : (s.block b).deliveries[k]? with
  | none => rfl
  | some d => exact if_pos (by rcases h d hd with h | h <;> simp [h])

/-- The scratchpad after a list of writes: each place holds the last write to it. -/
theorem Tab.getD_foldl_put (l : List (Nat × Byte)) (t : Tab Byte) (n : Nat) :
    (l.foldl (fun t p => t.put p.1 p.2 0) t).getD n 0 = (lastOf l n).getD (t.getD n 0) := by
  induction l generalizing t with
  | nil => rfl
  | cons p l ih =>
    rw [List.foldl_cons, ih, lastOf_cons, Tab.getD_put]
    cases lastOf l n with
    | some b => rfl
    | none => by_cases h : n = p.1 <;> simp [h, eq_comm]

/-- What a store in a scratchpad leaves beside its bytes and their poison. -/
theorem Block.store_frame (x : Block) (bytes : List (Nat × Byte)) :
    ∃ poison, x.store bytes = { x with scratch := bytes.foldl (fun t p => t.put p.1 p.2 0) x.scratch, poison := poison } := by
  unfold Block.store
  dsimp only
  split <;> exact ⟨_, rfl⟩

theorem Block.scratch_store (x : Block) (bytes : List (Nat × Byte)) (n : Nat) :
    (x.store bytes).scratch.getD n 0 = (lastOf bytes n).getD (x.scratch.getD n 0) := by
  obtain ⟨_, h⟩ := x.store_frame bytes
  rw [h]
  exact Tab.getD_foldl_put bytes x.scratch n

/-! ### Completions -/

theorem State.block_onBlock {s : State} {b : Nat} (h : (s.blocks.find b).isSome = true) (f : Block → Block) :
    (s.onBlock b f).block b = f (s.block b) := by
  obtain ⟨x, hx⟩ := Option.isSome_iff_exists.1 h
  simp only [State.block, State.onBlock, Tab.getD, Tab.find_modify, hx, if_true]
  rfl

/-- A copy command whose writes are at their points counts in DONE and leaves the queue (R144). -/
theorem State.block_finishCopy {s : State} {b : Nat} (h : (s.blocks.find b).isSome = true) (n : Nat) :
    ((s.finishCopy b n).block b).done = (s.block b).done + 1 ∧
      ((s.finishCopy b n).block b).copies = (s.block b).copies.filter fun z => z.entry != n := by
  have hmod : ∀ (t : State) (f : Block → Block), (t.blocks.find b).isSome = true → ((t.onBlock b f).blocks.find b).isSome = true :=
    fun t f ht => by simp [State.onBlock, Tab.find_modify, ht]
  have h1 := hmod s (fun x => { x with copies := x.copies.filter fun e => e.entry != n }) h
  have h2 := hmod _ (fun x => { x with done := (s.block b).done + 1 }) h1
  unfold State.finishCopy State.setDone State.putScratch
  rw [State.block_onBlock h2, State.block_onBlock h1, State.block_onBlock h]
  obtain ⟨_, hstore⟩ := Block.store_frame
    { s.block b with copies := (s.block b).copies.filter fun e => e.entry != n, done := (s.block b).done + 1 }
    ((bytesOfNat 8 ((s.block b).done + 1).toNat).mapIdx fun i y => (16 + i, y))
  rw [hstore]
  exact ⟨rfl, rfl⟩

/-- COPY_COMPLETE of a command that can complete: it leaves the queue, or fails for a claim of an earlier initialisation of
its ring that has not advanced it (R431). -/
theorem exec_copyComplete_entry {s : State} {b n : Nat} {y : CopyEntry} (hy : s.copyEntry b n = some y) :
    (s.copyDone b y = false → exec (.copyComplete b n) s = .next s) ∧
    (s.copyDone b y = true →
      ((∀ c, y.claim = some c → y.advanced = true ∨ s.claimLives b c = true) →
        exec (.copyComplete b n) s = .next (s.finishCopy b n)) ∧
      ∀ c, y.claim = some c → y.advanced = false → s.claimLives b c = false →
        exec (.copyComplete b n) s = .next (s.failCopy b n { code := 0x020C, info0 := c.off, info1 := c.k })) := by
  have hexec : exec (.copyComplete b n) s = execCopyComplete b n s := rfl
  rw [hexec, execCopyComplete, hy]
  dsimp only
  refine ⟨fun hd => congrArg Host.Outcome.next (if_pos (by rw [hd]; rfl)), fun hd => ?_⟩
  rw [if_neg (by rw [hd]; decide)]
  refine ⟨fun hlive => ?_, fun c hc hadv hdead => ?_⟩
  · cases hc : y.claim with
    | none => rfl
    | some c => exact congrArg Host.Outcome.next (if_pos (by rcases hlive c hc with h | h <;> simp [h]))
  · rw [hc]
    exact congrArg Host.Outcome.next (if_neg (by simp [hadv, hdead]))

/-! ### Taking -/

/-- A command of a copy queue that still awaits its claim, with its ring (R254). -/
def awaited (e : CopyEntry) : Option (CopyEntry × Instr × Nat) :=
  match copyCommand e.command with
  | .ok i => if e.claim.isNone then (ringOf i).map fun off => (e, i, off) else none
  | .error _ => none

theorem awaited_none {e : CopyEntry} (h : ∀ i, copyCommand e.command = .ok i → e.claim.isSome = true ∨ ringOf i = none) :
    awaited e = none := by
  unfold awaited
  split
  · rename_i i hi
    rcases h i hi with hc | hr
    · exact if_neg (by simp [Option.isSome_iff_ne_none.1 hc])
    · rw [hr]; exact ite_self _
  · rfl

theorem firstSome_none {α β : Type} {l : List α} {f : α → Option β} (h : ∀ a ∈ l, f a = none) : firstSome l f = none := by
  induction l with
  | nil => rfl
  | cons a l ih =>
    rw [firstSome, h a List.mem_cons_self]
    exact ih fun x hx => h x (List.mem_cons_of_mem a hx)

/-- While no claim is awaited and the status word is set, a turn of take() does nothing (R428). -/
theorem State.takeOne_stopped {s : State} {b : Nat} (hstat : (s.block b).stat ≠ 0)
    (hclaimed : ∀ e ∈ (s.block b).copies, awaited e = none) (more : Bool) : s.takeOne b more = none := by
  have hfirst : firstSome (s.block b).copies awaited = none := firstSome_none hclaimed
  unfold State.takeOne
  dsimp only
  split
  · rfl
  · split
    · rename_i heq
      exact absurd (heq.symm.trans hfirst) nofun
    · exact if_neg fun h => hstat h.2.1

/-- A turn of take() takes the next entry of an empty queue into the unit (R254). -/
theorem State.takeOne_entry {s : State} {b : Nat} {i : Instr} {p : Prints} (hstat : (s.block b).stat = 0)
    (hcopies : (s.block b).copies = []) (hnotify : (s.block b).taken.toNat < s.scratchNat b 0 8)
    (hroom : ((s.block b).taken - (s.block b).done).toNat < (s.blockCard b).cqe)
    (hfirst : (s.block b).absent.contains (s.entryAt b (s.block b).taken.toNat / 128) = false)
    (hlast : (s.block b).absent.contains ((s.entryAt b (s.block b).taken.toNat + 31) / 128) = false) :
    let n := (s.block b).taken.toNat
    let w := BitVec.ofNat 256 (s.scratchNat b (s.entryAt b n) 32)
    let u := s.setTaken b ((s.block b).taken + 1)
    let t := u.onBlock b fun y =>
      { y with copies := y.copies ++ [{ entry := n, command := w, told := u.heardAt b [localCode b 0] }] }
    copyCommand w = .ok i → t.copyPrints b { entry := n, command := w } i = .ok p → s.takeOne b true = some t := by
  intro n w u t hcmd hprints
  unfold State.takeOne
  dsimp only
  rw [if_neg (by omega)]
  split
  · rename_i heq
    rw [hcopies] at heq
    cases heq
  · rw [if_pos ⟨rfl, hstat, hnotify, hroom, by simp only [hfirst, Bool.not_false], by simp only [hlast, Bool.not_false]⟩]
    rw [show copyCommand (BitVec.ofNat 256 (s.scratchNat b (s.entryAt b (s.block b).taken.toNat) 32)) = .ok i from hcmd]
    dsimp only
    exact congrArg some (by rw [show _ = _ from hprints])

theorem State.take_none {s : State} {b : Nat} {more : Bool} (h : s.takeOne b more = none) (n : Nat) :
    s.take b more n = s := by
  cases n with
  | zero => rfl
  | succ n => rw [State.take, h]

theorem State.take_some {s t : State} {b : Nat} {more : Bool} (h : s.takeOne b more = some t) (n : Nat) :
    s.take b more (n + 1) = t.take b more n := by
  rw [State.take, h]

/-- Commands whose rings have no free slot leave the queue of a dropped block. -/
theorem State.dropUnclaimed_open {s : State} {b off : Nat} {e : CopyEntry} {i : Instr}
    (he : e ∈ ((s.dropUnclaimed b).block b).copies) (hcmd : copyCommand e.command = .ok i) (hring : ringOf i = some off)
    (hclaim : e.claim = none) (hmiss : e.misses.any s.missHeld = false) : (s.ring b off).open = true := by
  refine Decidable.byContradiction fun hopen => ?_
  unfold State.dropUnclaimed at he
  dsimp only at he
  split at he
  · rename_i hany
    have hfound : (s.blocks.find b).isSome = true := by
      refine Decidable.byContradiction fun hnone => ?_
      have hempty : (s.block b).copies = [] := by simp [State.block, Tab.getD, Option.not_isSome_iff_eq_none.1 hnone]
      simp [hempty] at hany
    rw [State.block_onBlock hfound] at he
    simp [hclaim, hmiss, hcmd, hring, hopen] at he
  · rename_i hany
    exact hany (List.any_eq_true.2 ⟨e, he, by simp [hclaim, hmiss, hcmd, hring, hopen]⟩)

/-- The claim of a command other than CTILE that meets no outstanding miss and passes its checks: of the ring's next slot, once
the ring is open (R254). -/
theorem State.claimFor_checked {s : State} {b off : Nat} {y : CopyEntry} {i : Instr} {p : Prints}
    (hmiss : y.misses.any s.missHeld = false) (htile : ∀ c, i ≠ .ctile c) (hprints : s.copyPrints b y i = .ok p) :
    s.claimFor b off y i = if (s.ring b off).open then some ((s.claimSlot b off).2.onCopy b y.entry fun z =>
      { z with claim := some (s.claimSlot b off).1
               told := joinKnown z.told
                 (s.heardAt b [freeCode b off ((s.ring b off).clm.toNat % (s.ring b off).win)]) }) else none := by
  unfold State.claimFor
  dsimp only
  rw [if_neg (by simp [hmiss])]
  split
  · exact absurd rfl (htile _)
  · rw [hprints]

/-- Where every command that delivers into a ring has its claim, none leaves the queue of a dropped block. -/
theorem State.dropUnclaimed_claimed {s : State} {b : Nat}
    (hclaimed : ∀ e ∈ (s.block b).copies, ∀ i, copyCommand e.command = .ok i → e.claim.isSome = true ∨ ringOf i = none) :
    s.dropUnclaimed b = s := by
  refine if_neg fun hany => ?_
  obtain ⟨e, he, hstuck⟩ := List.any_eq_true.1 hany
  rw [Bool.and_eq_true, Bool.and_eq_true] at hstuck
  obtain ⟨⟨hclaim, -⟩, hring⟩ := hstuck
  cases hcmd : copyCommand e.command with
  | error x => simp [hcmd] at hring
  | ok i => rcases hclaimed e he i hcmd with h | h <;> simp_all

theorem exec_copyTake (s : State) (b : Nat) : exec (.copyTake b) s = execCopyTake b s := rfl

/-- COPY_TAKE while no claim is awaited and the status word is set (R428). -/
theorem exec_copyTake_stopped {s : State} {b : Nat} (hstat : (s.block b).stat ≠ 0)
    (hclaimed : ∀ e ∈ (s.block b).copies, ∀ i, copyCommand e.command = .ok i → e.claim.isSome = true ∨ ringOf i = none) :
    exec (.copyTake b) s = .next s := by
  have htake : ∀ more, s.take b more 512 = s := fun more =>
    State.take_none (State.takeOne_stopped hstat (fun e he => awaited_none (hclaimed e he)) more) 512
  rw [exec_copyTake, execCopyTake]
  cases (s.cluster (s.block b).cluster).life with
  | running => exact congrArg _ (htake _)
  | halted handle => exact congrArg _ (htake _)
  | preempted handle => exact congrArg _ (htake _)
  | dropped => exact congrArg _ ((congrArg (·.dropUnclaimed b) (htake false)).trans (State.dropUnclaimed_claimed hclaimed))
  | ended => rfl

/-- COPY_TAKE of an ended block does nothing. -/
theorem exec_copyTake_ended {s : State} {b : Nat} (h : (s.cluster (s.block b).cluster).life = .ended) :
    exec (.copyTake b) s = .next s := by
  rw [exec_copyTake, execCopyTake, h]

/-- The commands already taken of a dropped block go on to their claims (R336, R377). -/
theorem exec_copyTake_dropped {s : State} {b : Nat} (h : (s.cluster (s.block b).cluster).life = .dropped) :
    exec (.copyTake b) s = .next ((s.take b false 512).dropUnclaimed b) := by
  rw [exec_copyTake, execCopyTake, h]

/-- The copy unit of a resident block that holds its reservation takes entries (R254). -/
theorem exec_copyTake_resident {s : State} {b : Nat} (hlife : (s.cluster (s.block b).cluster).life.resident = true)
    (hheld : (s.block b).held = true) : exec (.copyTake b) s = .next (s.take b true 512) := by
  rw [exec_copyTake, execCopyTake, hheld]
  cases hl : (s.cluster (s.block b).cluster).life with
  | running => rfl
  | halted handle => rfl
  | preempted handle => rw [hl] at hlife; cases hlife
  | dropped => rw [hl] at hlife; cases hlife
  | ended => rw [hl] at hlife; cases hlife

/-! ### The statement -/

/-- Settles O49: each event by the lemma about it above. -/
theorem engineEvents : Obligations.EngineEvents := by
  unfold Obligations.EngineEvents
  refine ⟨⟨fun s w k l h => ⟨?_, s.returnResult_found h⟩, fun s w k h => ?_, fun s core q => ?_,
    fun s core q x y => exec_waveSwap_settling, fun s core q y => exec_waveSwap_free,
    fun s core k w asid va acc l lv h => exec_pageWalk_fills h⟩,
    fun s b k d hd hland hacc hkind => congrArg _ (State.land_accepted hd hland hacc hkind),
    fun s b k h => congrArg _ (State.land_none h), Block.scratch_store, fun s b n y hy => ⟨?_, ?_, ?_⟩,
    fun s b => exec_copyTake_stopped, fun s b => exec_copyTake_ended, fun s b h => ?_,
    fun s b off y i p hmiss htile hprints => ?_, fun s b i p => ?_⟩
  · exact congrArg _ (if_pos (by rw [h]; rfl))
  · exact congrArg _ (if_neg (by rw [h]; exact Bool.false_ne_true))
  · obtain ⟨t, ht, hsame, hwaves⟩ := exec_waveSwap_sameButActive s core q
    exact ⟨t, ht, hsame, hwaves⟩
  · exact (exec_copyComplete_entry hy).1
  · intro hdone hlive hfound
    exact ⟨_, ((exec_copyComplete_entry hy).2 hdone).1 hlive, State.block_finishCopy hfound n⟩
  · intro c hdone
    exact ((exec_copyComplete_entry hy).2 hdone).2 c
  · exact ⟨_, exec_copyTake_dropped h, fun e he i off => State.dropUnclaimed_open he⟩
  · have hclaim := State.claimFor_checked (off := off) hmiss htile hprints
    exact ⟨fun hopen => hclaim.trans (if_pos hopen), fun hshut => hclaim.trans (if_neg (by simp [hshut]))⟩
  · intro x n off w hlife hheld hstat hcopies hnotify hroom hfirst hlast hcmd u t hprints
    rw [exec_copyTake_resident hlife hheld]
    exact congrArg _ (State.take_some (State.takeOne_entry hstat hcopies hnotify hroom hfirst hlast hcmd hprints) 511)

end Sys2Proof.Machine
end

section
/-! SUPPORT. A store under a translation that no page table gives (R105): its bytes straddle a line boundary of physical memory,
so that one lane needs two entries of the region store buffer (R34). -/
namespace Sys2Proof.Machine

/-- A translation whose physical page begins at the last byte of a line. -/
def straddlingLeaf : Leaf :=
  { asid := 0, va := 0, bits := 12, pa := 127, home := 0, w := true, x := true, dt := true, pte := 0 }

/-- Wave 0 issues a word in lane 0 under that translation; its region store buffer has one entry left. -/
def straddlingIssue : Issue := { wave := 0, lanes := [0], pc := 0, word := 0 }
def straddlingState : State :=
  { cur := some straddlingIssue
    waves := [(0, { threads := [{}], rsb := (List.range 63).map fun n => .store (n + 2) 0 0 [] })]
    cores := [(0, { tlb := [straddlingLeaf] })] }
def straddlingCtx : Ctx := straddlingState.ctxFor straddlingIssue

/-- A relaxed STG of two bytes at address 0. -/
def straddlingHdr : Hdr := { s := false, pg := 7, pn := false }
def straddlingStore : OpM := { d := 0, a := 0, off := 0, w := 1, sc := 0, ord := 0, cq := 0, ua := true, sg := false }

theorem straddlingStore_ready :
    Ready straddlingState straddlingCtx straddlingHdr [] (groupRegs straddlingStore ++ baseRegs straddlingStore true) where
  ctx := rfl
  active := by decide
  below := by decide
  clean := by decide

theorem straddlingStore_clear : Clear straddlingState straddlingCtx [0] 2 .free .write [(0, 0)] where
  inside := by decide
  placed := trivial
  single := by decide
  mapped := fun p hp _ => by
    rw [List.mem_singleton.1 hp]
    exact ⟨127, ⟨rfl, straddlingLeaf, rfl, rfl, fun _ => rfl, rfl⟩, by decide⟩
  sound := rfl
  whole := fun p hp b k offs h => by
    rw [List.mem_singleton.1 hp] at h
    cases h

theorem straddlingStore_prepared :
    straddlingState.prepareStore straddlingCtx (formGlobal false) straddlingStore [0] =
      (.ok ([(0, .global 0)], [(0, 127)]), straddlingState) := rfl

/-- The second byte finds the buffer full (R389). -/
theorem straddlingStore_refused :
    straddlingState.performStore straddlingCtx straddlingStore [(0, .global 0)] [(0, 127)] 0 =
      .error (.error 0x0008 0 0 [0]) := rfl

/-- Refutes O30: `Clear` does not ask that the TLB's leaves map pages to pages, so that a lane of a clear store can need two
entries of the buffer where the statement counts one. -/
theorem not_storesComplete : ¬ Obligations.StoresComplete := by
  intro h
  obtain ⟨-, hclear, -⟩ := h (.stg straddlingHdr straddlingStore) straddlingHdr straddlingStore (formGlobal false)
    straddlingState straddlingState straddlingState straddlingState straddlingState straddlingCtx [] [] rfl
  obtain ⟨p, m, t, hprepared, hperformed, -⟩ :=
    hclear rfl straddlingStore_ready straddlingStore_clear (by decide)
  have hspots : (Except.ok (p, m), straddlingState) =
      ((.ok ([(0, .global 0)], [(0, 127)]), straddlingState) : Except Effect (List (Nat × Place) × Tab Nat) × State) :=
    hprepared.symm.trans straddlingStore_prepared
  cases hspots
  cases straddlingStore_refused.symm.trans hperformed

end Sys2Proof.Machine
end

section
/-! SUPPORT. A queue whose entries lie in a poisoned sector: an ENQ that fills the sector clears the poison (R419), which
entries written one by one do not. -/
namespace Sys2Proof.Machine

/-- An empty queue of four 8-byte entries at 0x3000, and the bits of its control block (Table 8-7). -/
def fourEntryQueue : Qcb := { base := 0x3000, lgsz := 3, lgcap := 2, head := 0, tail := 0 }
def fourEntryBits : Nat := 0x3000 + (3 + 2 * 2 ^ 8) * 2 ^ 64

theorem fourEntryBits_lt {n : Nat} (hn : 80 ≤ n) : fourEntryBits < 2 ^ n :=
  Nat.lt_of_lt_of_le (by decide) (Nat.pow_le_pow_right Nat.two_pos hn)

/-- A number has no bits from a place below whose power of two it is. -/
theorem slice_of_lt {x off : Nat} (h : x < 2 ^ off) (n : Nat) : slice x off n = 0 := by
  rw [slice, Nat.div_eq_of_lt h, Nat.zero_mod]

theorem parseQcb_fourEntryBits : parseQcb fourEntryBits = some fourEntryQueue := by
  have hhigh : slice fourEntryBits 320 192 = 0 := slice_of_lt (fourEntryBits_lt (by decide)) 192
  unfold parseQcb
  dsimp only
  rw [hhigh, if_pos (by decide)]
  decide

/-- A control block that is reached while no late write waits, over a link that is up, and that is well formed is opened. -/
theorem State.openQueue_reached {s t : State} {sp : Space} {va : Nat} {acc : Access} {pages : Tab Nat} {q : Qcb}
    (hal : va % 64 = 0) (hreach : s.reach sp [va] acc = (.ok pages, t)) (hland : t.landAll = t)
    (hup : t.routeDown (pageAddr pages va) = false) (hq : parseQcb (t.homeNat (pageAddr pages va) 64) = some q) :
    s.openQueue sp va acc = (.ok (q, pageAddr pages va), t) := by
  unfold State.openQueue
  rw [if_neg (not_not_intro hal), hreach]
  dsimp only
  rw [hland, if_neg (by rw [hup]; exact Bool.false_ne_true), hq]

/-- Core 0 as a requester; its TLB maps the page, where the control block stands at 0x2000 and the entries' sector is poisoned
(structure 3, HBM). -/
def poisonedRequester : Requester := { core := some 0, die := 0, engine := false, asid := 0, root := 0, regt := 0 }
def poisonedState : State :=
  State.writeNat { cores := [(0, { tlb := [placedLeaf] })], poison := [(0x3000 / 32, 3)] } 0x2000 64 fourEntryBits

theorem poisonedState_homeNat : poisonedState.homeNat 0x2000 64 = fourEntryBits := by
  have hlt := fourEntryBits_lt (n := 8 * 64) (by decide)
  rw [poisonedState, State.homeNat_writeNat _ _ _ _ (by decide), Nat.mod_eq_of_lt hlt]

theorem poisonedState_opens : poisonedState.openQueue (.virtual poisonedRequester) 0x2000 .write =
    (.ok (fourEntryQueue, 0x2000), poisonedState) :=
  State.openQueue_reached (pages := [(2, 0x2000)]) rfl (by decide) (by decide) (by decide)
    ((congrArg parseQcb poisonedState_homeNat).trans parseQcb_fourEntryBits)

theorem poisonedState_reaches :
    poisonedState.reach (.virtual poisonedRequester) [0x3000, 0x3008, 0x3010, 0x3018] .write =
      (.ok [(3, 0x3000)], poisonedState) := by decide

/-- Refutes O36: an ENQ of four entries writes the whole poisoned sector at once and clears its poison, where the statement's
state, after four writes of 8 bytes, still has it. -/
theorem not_queueOperations : ¬ Obligations.QueueOperations := by
  intro h
  obtain ⟨-, hwritten⟩ := h.1 poisonedState poisonedState poisonedState (.virtual poisonedRequester) 0x2000 0x2000
    fourEntryQueue (fun _ => some [1, 2, 3, 4]) [1, 2, 3, 4] [(3, 0x3000)] poisonedState_opens rfl poisonedState_reaches
  have hpoison := congrArg (fun w : List Nat × State => w.2.poison) (hwritten (by decide))
  revert hpoison
  decide

end Sys2Proof.Machine
end

section
/-! SUPPORT. The commands of a stream program (R268, R429, R430, R143), each as its engine performs it. -/
namespace Sys2Proof.Machine

/-! ### Programs of an engine -/

@[simp] theorem State.program_onProgram (s : State) (e k : Nat) (f : Program → Program) :
    (s.onProgram e k f).program e k = f (s.program e k) := by
  simp [State.onProgram, State.setProgram, State.program, Tab.getD_put]

/-- A program that is not to halt goes on at the address. -/
theorem Program.goTo_of_not_halting {p : Program} (h : p.halting = false) (a : Word) :
    p.goTo a = { p with here := a, state := 1, misses := [], window := none } :=
  if_neg (by rw [h]; exact Bool.false_ne_true)

theorem Program.goTo_of_halting {p : Program} (h : p.halting = true) (a : Word) :
    p.goTo a = { p with busy := false, state := 3 } := if_pos h

theorem State.here_skipCommand {s : State} {e k : Nat} (h : (s.program e k).halting = false) (cmd : Nat) :
    ((s.skipCommand e k cmd).program e k).here = (s.program e k).here + 32 := by
  rw [State.skipCommand, State.nextCommand, State.program_onProgram, State.program_onProgram]
  refine (congrArg Program.here (Program.goTo_of_not_halting ?_ _)).trans rfl
  exact h

section
variable {s : State} {e k : Nat} {p : Program} (g : StreamGoes s e k p)
include g

/-- An SSIG acts once no push of its program is in flight, and does nothing before. -/
theorem State.onSignal_goes (f : State → Nat → Nat → Program → State) :
    (p.inflight = [] → s.onSignal f = f s e k p) ∧ (p.inflight ≠ [] → s.onSignal f = s) := by
  rw [State.onSignal, State.onStream_goes g]
  exact ⟨fun h => if_pos (by rw [h]; rfl), fun h => if_neg (by rw [isEmpty_of_ne h]; exact Bool.false_ne_true)⟩

/-! ### SWALK, SLOOP, SENDL, SHALT -/

theorem exec_swalk_outside {c : CmdWalk} {va : Nat} (hva : (relAddr c.rel c.tsr p).toNat = va)
    (hout : windowOf va ≠ 0 ∨ stackBase < va + 64 ∨ va % 64 ≠ 0) :
    exec (.swalk c) s = .next (s.failStream e k [] (addressViolation va 64)) := by
  have hexec : exec (.swalk c) s = execSwalk c s := rfl
  subst hva
  rw [hexec, execSwalk, State.onStream_goes g]
  exact congrArg Host.Outcome.next (if_pos hout)

/-- SWALK sets the walk of a tile that its TSR allows. -/
theorem exec_swalk_inside {c : CmdWalk} {va : Nat} {t : Tsr} {fmt : Nat} {u : State}
    (hva : (relAddr c.rel c.tsr p).toNat = va) (hwin : windowOf va = 0) (hend : va + 64 ≤ stackBase) (hal : va % 64 = 0)
    (hread : s.readTsr (s.streamEngine e p) (s.job p.job).card va = (.ok (t, fmt), u))
    (htile : t.tileOk fmt ([c.tx0, c.tx1, c.tx2, c.tx3, c.tx4].map BitVec.toNat) = true) :
    exec (.swalk c) s = .next ((u.onProgram e k fun p => { p with
      walk := some { tsr := t.bits, tile := [c.tx0, c.tx1, c.tx2, c.tx3, c.tx4].map BitVec.toNat, order := walkOrder c,
                     t := c.start.toNat % t.tiles ([c.tx0, c.tx1, c.tx2, c.tx3, c.tx4].map BitVec.toNat) } }).nextCommand e k) := by
  have hexec : exec (.swalk c) s = execSwalk c s := rfl
  subst hva
  rw [hexec, execSwalk, State.onStream_goes g]
  dsimp only
  rw [if_neg (by omega), hread]
  exact congrArg Host.Outcome.next (if_neg (by rw [htile]; decide))

/-- SLOOP: beyond four loops it fails, with COUNT 0 it seeks its SENDL, else it begins a loop. -/
theorem exec_sloop (c : CmdLoop) : exec (.sloop c) s = .next (
    if p.stack.length ≥ 4 then s.failStream e k [] { code := 0x0207, info0 := 1, info1 := 0 }
    else if c.count = 0 then (s.onProgram e k fun p => { p with skip := some 0 }).nextCommand e k
    else (s.onProgram e k fun p => { p with stack := (c.count.toNat, p.here + 32) :: p.stack }).nextCommand e k) :=
  congrArg Host.Outcome.next (State.onStream_goes g _)

theorem exec_sendl_unopened (h : p.stack = []) :
    exec .sendl s = .next (s.failStream e k [] { code := 0x0207, info0 := 0, info1 := 0 }) := by
  have hexec : exec .sendl s = execSendl s := rfl
  rw [hexec, execSendl, State.onStream_goes g, h]

/-- SENDL loops while its count is over 1. -/
theorem exec_sendl_opened {n : Nat} {a : Word} {rest : List (Nat × Word)} (h : p.stack = (n, a) :: rest) :
    exec .sendl s = .next (
      if n > 1 then s.onProgram e k fun p => { p with stack := (n - 1, a) :: rest }.goTo a
      else (s.onProgram e k fun p => { p with stack := rest }).nextCommand e k) := by
  have hexec : exec .sendl s = execSendl s := rfl
  rw [hexec, execSendl, State.onStream_goes g, h]

/-- SHALT ends the program once nothing of it is in flight. -/
theorem exec_shalt (c : CmdHalt) : exec (.shalt c) s = .next (
    if p.inflight.isEmpty then s.onProgram e k fun p => { p with busy := false, state := 3 } else s) :=
  congrArg Host.Outcome.next (State.onStream_goes g _)

end

/-! ### SPUSH -/

section
variable (s : State) (e k : Nat) (p : Program) (c : CmdPush) (w : Walk)

/-- The least slot size of the rings that an SPUSH targets, and the size of its tile. -/
def State.leastSlot : Nat :=
  (minBy (((s.pushTargets c p).map fun t => s.ring t.1 t.2).map fun r => r.ssize) id).getD 0
def State.pushSize : Nat :=
  tileSize (((s.job (s.cluster p.cluster).job).card.slot (parseTsr w.tsr).slot).fmt) w.tile

/-- An SPUSH in a walk, of a cluster that lives: it waits for its rings, fails where the tile or its stamp fits no slot,
waits for the pushes in flight to its slots, or claims its slots and reads its tile (R268, R430, R143). -/
def State.pushWalk : State :=
  if !(s.cluster p.cluster).life.resident ∨ ((s.pushTargets c p).map fun t => s.ring t.1 t.2).any fun r => !r.open then
    s.onProgram e k fun p => { p with state := 2, window := some (c.bmask.toNat, c.ring.toNat) }
  else if s.pushSize p w > s.leastSlot p c then
    s.failStream e k (s.pushTargets c p) { code := 0x0204, info0 := s.pushSize p w, info1 := s.leastSlot p c }
  else match p.stamp.filter fun o => decide (o + 8 > s.leastSlot p c) with
    | some o => s.failStream e k (s.pushTargets c p) { code := 0x0204, info0 := o + 8, info1 := s.leastSlot p c }
    | none =>
      if p.inflight.any fun x => slotsMeet (s.nextSlots (s.pushTargets c p)) x.slots then s
      else
        let u := ({ s with nextId := s.nextId + 1 } : State).claimPush e k s.nextId (s.pushTargets c p)
        (u.onProgram e k fun p =>
          { p with push := some (s.nextId, u.time), state := 1, window := none }).readPush e k (s.pushTargets c p)

end

section
variable {s : State} {e k : Nat} {p : Program} {c : CmdPush} {w : Walk}

theorem exec_spush_badMask (g : StreamGoes s e k p) (hpush : p.push = none)
    (hmask : 2 ^ (s.job (s.cluster p.cluster).job).card.blocks ≤ c.bmask.toNat) :
    ∃ bits, exec (.spush c) s = .next (s.failStream e k (s.rawTargets p c.bmask.toNat c.ring.toNat)
      { code := 0x0201, info0 := bits, info1 := 3 }) := by
  have hexec : exec (.spush c) s = execSpush c s := rfl
  rw [hexec, execSpush, State.onStream_goes g]
  dsimp only
  rw [hpush, if_neg (by decide), if_pos hmask]
  exact ⟨_, rfl⟩

/-- An SPUSH that begins, whose mask names blocks of the cluster and whose ring lies in their scratchpads. -/
structure PushBegins (s : State) (e k : Nat) (p : Program) (c : CmdPush) : Prop where
  goes    : StreamGoes s e k p
  fresh   : p.push = none
  blocks  : c.bmask.toNat < 2 ^ (s.job (s.cluster p.cluster).job).card.blocks
  inside  : c.ring.toNat + 32 ≤ (s.job (s.cluster p.cluster).job).card.shared
  aligned : c.ring.toNat % 32 = 0

theorem exec_spush_dead (b : PushBegins s e k p c)
    (hdead : (s.cluster p.cluster).life = .ended ∨ (s.cluster p.cluster).life = .dropped) :
    exec (.spush c) s = .next (s.failStream e k [] { code := 0x0208, info0 := c.bmask.toNat, info1 := c.ring.toNat }) := by
  obtain ⟨g, hpush, hmask, hin, hal⟩ := b
  have hexec : exec (.spush c) s = execSpush c s := rfl
  rw [hexec, execSpush, State.onStream_goes g]
  dsimp only
  rw [hpush, if_neg (by decide), if_neg (Nat.not_le.2 hmask), if_neg (by omega)]
  rcases hdead with h | h <;> rw [h]

/-- One of a cluster that lives goes by the walk of its program. -/
theorem exec_spush_live (b : PushBegins s e k p c) (he : (s.cluster p.cluster).life ≠ .ended)
    (hd : (s.cluster p.cluster).life ≠ .dropped) :
    (p.walk = none → exec (.spush c) s =
      .next (s.failStream e k (s.pushTargets c p) { code := 0x0206, info0 := 0, info1 := 0 })) ∧
    ∀ w, p.walk = some w → exec (.spush c) s = .next (s.pushWalk e k p c w) := by
  obtain ⟨g, hpush, hmask, hin, hal⟩ := b
  have hexec : exec (.spush c) s = execSpush c s := rfl
  rw [hexec, execSpush, State.onStream_goes g]
  dsimp only
  rw [hpush, if_neg (by decide), if_neg (Nat.not_le.2 hmask), if_neg (by omega)]
  cases hl : (s.cluster p.cluster).life with
  | ended => exact absurd hl he
  | dropped => exact absurd hl hd
  | running => exact ⟨fun hw => by rw [hw], fun w hw => by rw [hw, State.pushWalk, hl]; rfl⟩
  | halted handle => exact ⟨fun hw => by rw [hw], fun w hw => by rw [hw, State.pushWalk, hl]; rfl⟩
  | preempted handle => exact ⟨fun hw => by rw [hw], fun w hw => by rw [hw, State.pushWalk, hl]; rfl⟩

/-- A push waits while its cluster is not resident or one of its rings has no free slot (R430). -/
theorem State.pushWalk_waits (e k : Nat) (h : (s.cluster p.cluster).life.resident = false ∨
      ∃ r ∈ (s.pushTargets c p).map fun t => s.ring t.1 t.2, r.open = false) :
    s.pushWalk e k p c w =
      s.onProgram e k fun p => { p with state := 2, window := some (c.bmask.toNat, c.ring.toNat) } := by
  refine if_pos (h.imp (fun hr => by rw [hr]; rfl) fun hr => ?_)
  obtain ⟨r, hmem, hopen⟩ := hr
  exact List.any_eq_true.2 ⟨r, hmem, by rw [hopen]; rfl⟩

section
variable (hres : (s.cluster p.cluster).life.resident = true)
  (hopen : ∀ r ∈ (s.pushTargets c p).map fun t => s.ring t.1 t.2, r.open = true)
include hres hopen

theorem not_pushWaits : ¬ ((!(s.cluster p.cluster).life.resident) = true ∨
    ((s.pushTargets c p).map fun t => s.ring t.1 t.2).any (fun r => !r.open) = true) := by
  rw [hres, List.any_eq_true]
  rintro (h | ⟨r, hmem, hr⟩)
  · cases h
  · rw [hopen r hmem] at hr
    cases hr

theorem State.pushWalk_tooLarge (e k : Nat) (hsize : s.leastSlot p c < s.pushSize p w) :
    s.pushWalk e k p c w = s.failStream e k (s.pushTargets c p)
      { code := 0x0204, info0 := s.pushSize p w, info1 := s.leastSlot p c } :=
  (if_neg (not_pushWaits hres hopen)).trans (if_pos hsize)

/-- A push that fits its slots claims them, unless one in flight has a slot that overlaps (R143). -/
theorem State.pushWalk_fits (e k : Nat) (hsize : s.pushSize p w ≤ s.leastSlot p c)
    (hstamp : p.stamp = none ∨ ∃ o, p.stamp = some o ∧ o + 8 ≤ s.leastSlot p c) :
    s.pushWalk e k p c w = if p.inflight.any fun x => slotsMeet (s.nextSlots (s.pushTargets c p)) x.slots then s else
      let u := ({ s with nextId := s.nextId + 1 } : State).claimPush e k s.nextId (s.pushTargets c p)
      (u.onProgram e k fun p =>
        { p with push := some (s.nextId, u.time), state := 1, window := none }).readPush e k (s.pushTargets c p) := by
  have hfilter : (p.stamp.filter fun o => decide (o + 8 > s.leastSlot p c)) = none := by
    rcases hstamp with h | ⟨o, h, hle⟩
    · rw [h]; rfl
    · rw [h, Option.filter_eq_none_iff]
      rintro _ ⟨⟩
      simpa using hle
  rw [State.pushWalk, if_neg (not_pushWaits hres hopen), if_neg (Nat.not_lt.2 hsize), hfilter]

end

end

/-! ### SSIG -/

section
variable {s : State} {e k : Nat} {p : Program} (g : StreamGoes s e k p)
include g

/-- An SSIG waits for the pushes of its program in flight (R268). -/
theorem exec_ssig_waits (c : CmdSigWord) (h : p.inflight ≠ []) :
    exec (.ssigRed c) s = .next s ∧ exec (.ssigEnq c) s = .next s :=
  ⟨congrArg Host.Outcome.next ((State.onSignal_goes g _).2 h), congrArg Host.Outcome.next ((State.onSignal_goes g _).2 h)⟩

variable (idle : p.inflight = [])
include idle

/-- One at an address that is no aligned one of global memory fails. -/
theorem exec_ssigRed_outside {c : CmdSigWord} {x : EngineError} (h : sigAddr (relAddr c.rel c.addr p).toNat 8 = some x) :
    exec (.ssigRed c) s = .next (s.failStream e k [] x) := by
  have hexec : exec (.ssigRed c) s = execSsigRed c s := rfl
  rw [hexec, execSsigRed, (State.onSignal_goes g _).1 idle]
  dsimp only
  rw [h]

theorem exec_ssigEnq_outside {c : CmdSigWord} {x : EngineError} (h : sigAddr (relAddr c.rel c.addr p).toNat 64 = some x) :
    exec (.ssigEnq c) s = .next (s.failStream e k [] x) := by
  have hexec : exec (.ssigEnq c) s = execSsigEnq c s := rfl
  rw [hexec, execSsigEnq, (State.onSignal_goes g _).1 idle]
  dsimp only
  rw [h]

section
variable {c : CmdSigWord} {a : Nat} (ha : (relAddr c.rel c.addr p).toNat = a) {u : State}
include ha

/-- An SSIG at a word over a link that is down is lost (R438). -/
theorem exec_ssigRed_lost {pages : Tab Nat} (haddr : sigAddr a 8 = none)
    (hpages : s.translateAll (s.streamEngine e p).q [a] .write = (.ok pages, u))
    (hdown : u.routeDown (pageAddr pages a) = true) :
    exec (.ssigRed c) s = .next ((u.reportLost [{ job := p.job, pa := pageAddr pages a }]).nextCommand e k) := by
  have hexec : exec (.ssigRed c) s = execSsigRed c s := rfl
  subst ha
  rw [hexec, execSsigRed, (State.onSignal_goes g _).1 idle]
  dsimp only
  rw [haddr]
  dsimp only
  rw [hpages]
  exact congrArg Host.Outcome.next (if_pos hdown)

/-- An SSIG at a word adds to it at its home (R268). -/
theorem exec_ssigRed_adds {pages : Tab Nat} (haddr : sigAddr a 8 = none)
    (hpages : s.translateAll (s.streamEngine e p).q [a] .write = (.ok pages, u))
    (hup : u.routeDown (pageAddr pages a) = false) (hsound : u.poisonAt (pageAddr pages a) = none) {v : State}
    (hv : (u.atomicWide p.cluster (u.block (u.blockOf p.cluster 0)).core 5
      { lane := 0, pa := pageAddr pages a, ty := 8, opn := 0, v := c.value, c := 0 }).2 = v) :
    exec (.ssigRed c) s = .next (((if (v.job p.job).card.det then
        v.onJob p.job fun j => { j with det := j.det.engineRed p.known (pageAddr pages a / 8) } else v).programTells p
      deviceReach [wordCode (pageAddr pages a / 8)]).nextCommand e k) := by
  have hexec : exec (.ssigRed c) s = execSsigRed c s := rfl
  subst ha hv
  rw [hexec, execSsigRed, (State.onSignal_goes g _).1 idle]
  dsimp only
  rw [haddr]
  dsimp only
  rw [hpages]
  dsimp only
  rw [if_neg (by rw [hup]; exact Bool.false_ne_true), hsound]

/-- An SSIG at a queue whose control block is poisoned fails (R445). -/
theorem exec_ssigEnq_poisoned {x : EngineError} (haddr : sigAddr a 64 = none)
    (hsector : s.queueSector (s.streamEngine e p) a = some x) :
    exec (.ssigEnq c) s = .next (s.failStream e k [] x) := by
  have hexec : exec (.ssigEnq c) s = execSsigEnq c s := rfl
  subst ha
  rw [hexec, execSsigEnq, (State.onSignal_goes g _).1 idle]
  dsimp only
  rw [haddr]
  dsimp only
  rw [hsector]

/-- An SSIG at a queue enqueues its value, and does not go on while the queue is full (R268). -/
theorem exec_ssigEnq_enqueues {n : Nat} {es : List Nat} (haddr : sigAddr a 64 = none)
    (hsector : s.queueSector (s.streamEngine e p) a = none)
    (henq : s.enqueue (.virtual (s.streamEngine e p).q) a (fun lgsz => if lgsz = 3 then some [c.value.toNat] else none) =
      (.done n es, u)) :
    exec (.ssigEnq c) s = .next (if n = 0 then u else
      ((u.programTells p deviceReach
        (if p.told.isEmpty then [] else s.queueCodes (.virtual (s.streamEngine e p).q) a 1 true)).reportLost
          (lostOf p.job es)).nextCommand e k) := by
  have hexec : exec (.ssigEnq c) s = execSsigEnq c s := rfl
  subst ha
  rw [hexec, execSsigEnq, (State.onSignal_goes g _).1 idle]
  dsimp only
  rw [haddr]
  dsimp only
  rw [hsector]
  dsimp only
  rw [henq]
  cases n <;> rfl

end

/-- An SSIG at a barrier of a cluster that has ended fails (R429). -/
theorem exec_ssigBarrier_dead {c : CmdSigBar}
    (hdead : (s.cluster p.cluster).life = .ended ∨ (s.cluster p.cluster).life = .dropped) :
    exec (.ssigBarrier c) s = .next (s.failStream e k []
      { code := 0x0208, info0 := c.block.toNat, info1 := c.bar.toNat }) := by
  have hexec : exec (.ssigBarrier c) s = execSsigBarrier c s := rfl
  rw [hexec, execSsigBarrier, (State.onSignal_goes g _).1 idle]
  dsimp only
  rcases hdead with h | h <;> rw [h]

/-- One at a barrier that its cluster has arrives there, or fails where more arrive than are expected (R430). -/
theorem exec_ssigBarrier_live {c : CmdSigBar} {idx b : Nat} {x : Barrier}
    (he : (s.cluster p.cluster).life ≠ .ended) (hd : (s.cluster p.cluster).life ≠ .dropped)
    (hidx : (if c.cl then 0 else c.block.toNat) = idx) (hb : s.blockOf p.cluster idx = b)
    (hx : s.barrier b c.bar.toNat = x) (hbar : c.bar.toNat < (s.job (s.cluster p.cluster).job).card.bars)
    (hblock : idx < (s.job (s.cluster p.cluster).job).card.blocks) :
    exec (.ssigBarrier c) s = .next (
      if x.arr + c.count.toNat > x.exp then s.failStream e k []
        { code := 0x020A, info0 := c.bar.toNat + (if c.cl then 1024 else 0) + idx * 2 ^ 11
          info1 := x.arr + x.exp * 2 ^ 16 + c.count.toNat * 2 ^ 32 }
      else ((s.programTells p (s.blockReaches b) [phaseCode b c.bar.toNat x.ph.toNat]).onBarrier b c.bar.toNat
        fun x => x.arrive c.count.toNat none).nextCommand e k) := by
  have hexec : exec (.ssigBarrier c) s = execSsigBarrier c s := rfl
  subst hidx hb hx
  rw [hexec, execSsigBarrier, (State.onSignal_goes g _).1 idle]
  dsimp only
  have hin : ¬ (c.bar.toNat ≥ (s.job (s.cluster p.cluster).job).card.bars ∨
      (if c.cl then 0 else c.block.toNat) ≥ (s.job (s.cluster p.cluster).job).card.blocks) :=
    not_or.2 ⟨Nat.not_le.2 hbar, Nat.not_le.2 hblock⟩
  rw [if_neg hin]
  cases hl : (s.cluster p.cluster).life with
  | ended => exact absurd hl he
  | dropped => exact absurd hl hd
  | running => rfl
  | halted handle => rfl
  | preempted handle => rfl

end

/-! ### The statement -/

/-- Settles O51: each command by the lemma about it above. -/
theorem streamCommands : Obligations.StreamCommands := by
  unfold Obligations.StreamCommands
  refine ⟨fun s e k p g => ⟨fun c t fmt u => ?walk, fun c => ?loop, exec_sendl_unopened g, fun n a rest h => ?sendl,
      fun c => ?mark, fun c => ?halt, fun cmd h => ?skip, fun a => ?goTo⟩,
    fun s e k p g => ⟨fun c hpush hmask => exec_spush_badMask g hpush hmask, fun c w => ?push, fun c pages u => ?signal,
      fun c => ?barrier⟩⟩
  case walk =>
    exact ⟨fun hwin hend hal hread htile => exec_swalk_inside g rfl hwin hend hal hread htile,
      fun hout => exec_swalk_outside g rfl hout⟩
  case loop =>
    rw [exec_sloop g c]
    exact ⟨fun h => congrArg _ (if_pos h), fun h h0 => congrArg _ ((if_neg (Nat.not_le.2 h)).trans (if_pos h0)),
      fun h h0 => congrArg _ ((if_neg (Nat.not_le.2 h)).trans (if_neg h0))⟩
  case sendl =>
    rw [exec_sendl_opened g h]
    exact ⟨fun hn => congrArg _ (if_pos hn), fun hn => congrArg _ (if_neg (Nat.not_lt.2 hn))⟩
  case mark => exact congrArg _ (State.onStream_goes g _)
  case halt =>
    rw [exec_shalt g c]
    exact ⟨fun h => congrArg _ (if_pos (by rw [h]; rfl)),
      fun h => congrArg _ (if_neg (by rw [isEmpty_of_ne h]; exact Bool.false_ne_true))⟩
  case skip =>
    rw [← g.program] at h ⊢
    exact State.here_skipCommand h cmd
  case goTo =>
    exact ⟨fun h => by rw [Program.goTo_of_not_halting h]; exact ⟨rfl, rfl, rfl⟩,
      fun h => by rw [Program.goTo_of_halting h]; exact ⟨rfl, rfl⟩⟩
  case push =>
    intro targets rings t size least hpush hmask hin hal
    have b : PushBegins s e k p c := ⟨g, hpush, hmask, hin, hal⟩
    refine ⟨exec_spush_dead b, fun he hd => (exec_spush_live b he hd).1, fun he hd hw => ?_⟩
    rw [(exec_spush_live b he hd).2 w hw]
    refine ⟨fun h => congrArg _ (State.pushWalk_waits e k h), fun hres hopen =>
      ⟨fun hsize => congrArg _ (State.pushWalk_tooLarge hres hopen e k hsize), fun hsize hstamp => ?_⟩⟩
    rw [State.pushWalk_fits hres hopen e k hsize hstamp]
    exact ⟨fun h => congrArg _ (if_neg (by simpa using h)), fun h => congrArg _ (if_pos (List.any_eq_true.2 h))⟩
  case signal =>
    exact ⟨exec_ssig_waits g c,
      fun idle haddr hpages hup hsound => exec_ssigRed_adds g idle rfl haddr hpages hup hsound rfl,
      fun idle haddr hpages hdown => exec_ssigRed_lost g idle rfl haddr hpages hdown,
      fun x idle h => exec_ssigRed_outside g idle h,
      fun n es idle haddr hsector henq => exec_ssigEnq_enqueues g idle rfl haddr hsector henq,
      fun x idle haddr hsector => exec_ssigEnq_poisoned g idle rfl haddr hsector,
      fun x idle h => exec_ssigEnq_outside g idle h⟩
  case barrier =>
    intro idx b x idle
    refine ⟨exec_ssigBarrier_dead g idle, fun he hd hbar hblock => ?_⟩
    rw [exec_ssigBarrier_live g idle he hd rfl rfl rfl hbar hblock]
    exact ⟨fun h => congrArg _ (if_neg (Nat.not_lt.2 h)), fun h => congrArg _ (if_pos h)⟩

end Sys2Proof.Machine
end

section
/-! SUPPORT. Region boundaries in lanes with an open transaction (Table 8-12). -/
namespace Sys2Proof.Machine

/-! ### Every boundary word is issued as a region boundary -/

theorem groupRegs_ne_nil (o : OpM) : groupRegs o ≠ [] := by
  simp only [groupRegs, ne_eq, List.map_eq_nil_iff, List.range_eq_nil]
  split
  · decide
  · split <;> decide

theorem atomRegs_ne_nil (o : OpM) : atomRegs o ≠ [] := by
  simp only [atomRegs, ne_eq, List.map_eq_nil_iff, List.range_eq_nil]
  split <;> split <;> decide

/-- A boundary word, with or without vector registers, is issued as a region boundary that names them, and then looks at what
it waits for. -/
theorem exec_anyBoundaryWord {i : Instr} {h : Hdr} {regs : List Nat} {wake : State → State}
    (hi : boundaryWord i = some (h, regs, wake)) (s : State) :
    ∃ dst src check eff uni out, dst ++ src = regs ∧
      exec i s = .next (wake (s.issueBoundary h dst src check eff uni out)) := by
  by_cases hregs : regs = []
  · cases i
    case region | binit | fence | fencelk | shrink | job | exit | rls | strm | mswp | mzero | sift | sifth | barv | bsync |
        bwait | cwait | grow | mma | mas | mconv =>
      cases hi; exact ⟨[], [], _, _, _, _, rfl, rfl⟩
    case awf => cases hi; exact ⟨_, _, _, _, _, _, List.append_nil _, rfl⟩
    case qwait => cases hi; exact ⟨_, _, _, _, _, _, List.nil_append _, rfl⟩
    -- every other word names a vector register, or is no boundary word
    all_goals simp_all [boundaryWord, loadForm, storeForm, groupRegs_ne_nil, atomRegs_ne_nil]
  · exact exec_boundaryWord hi hregs s

/-! ### What a boundary does in lanes with an open transaction -/

/-- A filter of a list by what another filter of it leaves out. -/
theorem filter_not_contains_filter {α : Type} [DecidableEq α] (l : List α) (p : α → Bool) :
    (l.filter fun a => !(l.filter p).contains a) = l.filter fun a => !p a :=
  List.filter_congr fun a ha => by cases hp : p a <;> simp [ha, hp]

section
variable {s t : State} {c : Ctx} {h : Hdr} {dst src : List Nat} (hc : s.ctx = some c)
  (ha : s.activeLanes c h.pg h.pn ≠ []) (hregs : ∀ r ∈ dst ++ src, r < c.wave.alloc)
  {txn : State → Ctx → List Nat → List Nat × State}
include hc ha hregs

/-- A boundary that is left no lane to be performed in only advances. -/
theorem State.issueBoundaryIn_none (htxn : txn s c (s.activeLanes c h.pg h.pn) = ([], t))
    (check : State → Ctx → List Nat → Option Effect) (eff : State → Ctx → List Nat → Effect) (uni : List Nat) (out : Reach) :
    s.issueBoundaryIn h dst src txn check eff uni out = retired t c h.s false [] [] := by
  simp only [State.issueBoundaryIn, hc, isEmpty_of_ne ha, registerTrap_none c _ _ hregs, htxn, Bool.false_eq_true, if_false,
    List.isEmpty_nil, if_true, State.finish_done]

/-- One that is left some lanes is performed in those, after the commit. -/
theorem State.issueBoundaryIn_some {rest : List Nat} {s2 : State} (htxn : txn s c (s.activeLanes c h.pg h.pn) = (rest, t))
    (hne : rest ≠ []) {check : State → Ctx → List Nat → Option Effect} (pass : check t c rest = none)
    (hclean : ∀ l ∈ rest, ∀ r ∈ src, (l, r) ∉ c.wave.rpoison) (hrun : (t.cluster c.cl).run = none)
    (hcommit : t.commit c rest = .ok s2) (hrun2 : (s2.cluster c.cl).run = none) (eff : State → Ctx → List Nat → Effect)
    (uni : List Nat) (out : Reach) :
    s.issueBoundaryIn h dst src txn check eff uni out = State.finish c h.s true (eff (begun s2 c) c rest) := by
  have hgate : ∀ n, t.gate c n = .go := fun n => by simp only [State.gate, hrun]
  simp only [State.issueBoundaryIn, hc, isEmpty_of_ne ha, registerTrap_none c _ _ hregs, htxn, isEmpty_of_ne hne, pass,
    registerPoison_none c.wave src _ hclean, hgate, hcommit, State.noteBoundary_single hrun2, Bool.false_eq_true, if_false,
    begun]

end

/-- An abort of lanes that all have an open transaction leaves none. -/
theorem State.boundaryAbort_open {s : State} {c : Ctx} {act : List Nat} (hopen : ∀ l ∈ act, (c.wave.thread l).txn ≠ none) :
    s.boundaryAbort c act = ([], s.abortLanes c act 9 0) := by
  have htx : act.filter (fun l => (c.wave.thread l).txn.isSome) = act :=
    List.filter_eq_self.2 fun l hl => Option.isSome_iff_ne_none.2 (hopen l hl)
  simp [State.boundaryAbort, htx]

theorem State.boundaryAbort_mixed (s : State) (c : Ctx) (act : List Nat) :
    s.boundaryAbort c act = (act.filter fun l => (c.wave.thread l).txn.isNone,
      s.abortLanes c (act.filter fun l => (c.wave.thread l).txn.isSome) 9 0) := by
  simp only [State.boundaryAbort, filter_not_contains_filter, Option.not_isSome]

end Sys2Proof.Machine
end

section
/-! SUPPORT. TBEGIN, TEND and TABORT (R241 to R244), and the outcome of a transaction (R136). -/
namespace Sys2Proof.Machine

section
variable {s s1 : State} {c : Ctx} {h : Hdr} {o : OpS} (hdet : c.det = false) (r : Ready s c h [] [])
include hdet r

/-- TBEGIN aborts transactions that are open, with cause 8. -/
theorem exec_tbegin_open (hopen : ∀ l ∈ s.activeLanes c h.pg h.pn, (c.wave.thread l).txn ≠ none) :
    exec (.tbegin h o) s = .next (retired (s.abortLanes c (s.activeLanes c h.pg h.pn) 8 0) c h.s false [] []) := by
  have htx : (s.activeLanes c h.pg h.pn).filter (fun l => (c.wave.thread l).txn.isSome) = s.activeLanes c h.pg h.pn :=
    List.filter_eq_self.2 fun l hl => Option.isSome_iff_ne_none.2 (hopen l hl)
  exact congrArg Host.Outcome.next (State.issueBoundaryIn_none r.ctx r.active r.below (by simp [hdet, htx]) _ _ _ _)

variable (hrun : (s.cluster c.cl).run = none) (hrun1 : (s1.cluster c.cl).run = none)
  (hcommit : s.commit c (s.activeLanes c h.pg h.pn) = .ok s1)
include hrun hrun1 hcommit

/-- TBEGIN opens a transaction in each active lane. -/
theorem exec_tbegin_plain (hplain : ∀ l ∈ s.activeLanes c h.pg h.pn, (c.wave.thread l).txn = none) :
    exec (.tbegin h o) s = .next (retired ((begun s1 c).onWave c.w fun w => w.onLanes (s.activeLanes c h.pg h.pn) fun _ x =>
      x.beginTxn (c.pc + 8 + 8 * o.imm.signExtend 64)) c h.s true [] []) := by
  have htx : (s.activeLanes c h.pg h.pn).filter (fun l => (c.wave.thread l).txn.isSome) = [] :=
    List.filter_eq_nil_iff.2 fun l hl => by simp [hplain l hl]
  exact congrArg Host.Outcome.next (State.issueBoundaryIn_some (t := s) r.ctx r.active r.below
    (by simp [hdet, htx, State.abortLanes]) r.active (by simp [txnForbidden, hdet]) r.clean hrun hcommit hrun1 _ _ _)

/-- TABORT aborts the open transactions of the active lanes with cause 6 and its code. -/
theorem exec_tabort_ready :
    exec (.tabort h o) s = .next (retired ((begun s1 c).abortLanes c ((s.activeLanes c h.pg h.pn).filter fun l =>
      (((begun s1 c).wave c.w).thread l).txn.isSome) 6 (o.imm.toNat % 256)) c h.s true [] []) :=
  congrArg Host.Outcome.next (State.issueBoundaryIn_some (t := s) r.ctx r.active r.below rfl r.active
    (by simp [txnForbidden, hdet]) r.clean hrun hcommit hrun1 _ _ _)

/-- TEND decides its lanes once their reads are settled; those that commit release first (R243). -/
theorem exec_tend_ready {v : State} (hv : (begun s1 c).settleReads c (s.activeLanes c h.pg h.pn) = v) :
    exec (.tend h o) s = .next (State.finish c h.s true (
      if (v.judge c (s.activeLanes c h.pg h.pn)).1.isEmpty then v.endTxns c (o.d.toNat % 8) (s.activeLanes c h.pg h.pn)
      else v.releaseThen c 5 (txnObjs (v.judge c (s.activeLanes c h.pg h.pn)).1) fun s' =>
        s'.endTxns c (o.d.toNat % 8) (s.activeLanes c h.pg h.pn))) := by
  subst hv
  exact congrArg Host.Outcome.next (State.issueBoundaryIn_some (t := s) r.ctx r.active r.below rfl r.active
    (by simp [txnForbidden, hdet]) r.clean hrun hcommit hrun1 _ _ _)

end

/-! ### TEND -/

/-- Without an open transaction there is nothing to settle and nothing to decide. -/
theorem State.settleReads_plain {s : State} {c : Ctx} {act : List Nat}
    (hplain : ∀ l ∈ act, ((s.wave c.w).thread l).txn = none) : s.settleReads c act = s := by
  unfold State.settleReads
  dsimp only
  rw [List.flatMap_eq_nil_iff.2]
  · rfl
  · exact fun l hl => by rw [hplain l hl]

theorem State.judge_plain {s : State} {c : Ctx} {act : List Nat}
    (hplain : ∀ l ∈ act, ((s.wave c.w).thread l).txn = none) : s.judge c act = ([], [], []) := by
  have hopened : (act.filterMap fun l => ((s.wave c.w).thread l).txn.map fun x => (l, x)) = [] :=
    List.filterMap_eq_nil_iff.2 fun l hl => by rw [hplain l hl]; rfl
  unfold State.judge
  rw [hopened]
  rfl

theorem State.endTxns_plain {s : State} {c : Ctx} {act : List Nat}
    (hplain : ∀ l ∈ act, ((s.wave c.w).thread l).txn = none) (pd : Nat) :
    s.endTxns c pd act = .done s (act.map fun l => .pred l pd false) [] := by
  unfold State.endTxns
  rw [State.judge_plain hplain]
  rfl

/-- TEND is performed at once for what it decides. -/
theorem State.endTxns_done (s : State) (c : Ctx) (pd : Nat) (act : List Nat) :
    ∃ u now, s.endTxns c pd act = .done u now [] := ⟨_, _, rfl⟩

/-! ### Outcomes of a transaction -/

theorem State.validates_iff (s : State) (x : Txn) :
    s.validates x = true ↔ x.torn = false ∧ ∀ p ∈ x.reads, s.home p.1 = p.2 := by
  simp [State.validates]

/-- The fields of sr.tstat: cause, code and count of aborts are each a byte below bit 31 (Table 8-11). -/
theorem tstat_fields {cause code count : Nat} (hcause : cause < 256) (hcode : code < 256) (hcount : count < 256) :
    let y := BitVec.ofNat 64 (count * 2 ^ 16 + code * 2 ^ 8 + cause)
    slice y.toNat 0 8 = cause ∧ slice y.toNat 8 8 = code ∧ slice y.toNat 16 8 = count ∧ y.getLsbD 31 = false := by
  intro y
  have hy : y.toNat = count * 2 ^ 16 + code * 2 ^ 8 + cause := Nat.mod_eq_of_lt (by omega)
  simp only [slice, BitVec.getLsbD, hy]
  exact ⟨by omega, by omega, by omega, Nat.testBit_lt_two_pow (by omega)⟩

/-- An abort drops the writes, names its cause, counts, and sends the thread to the abort target (R242). -/
theorem Thread.abort_open {t : Thread} {x : Txn} (hx : t.txn = some x) (cause code : Nat) :
    t.abort cause code = { t with
      txn := none, pc := x.target, startPc := x.target, startMt := t.mt
      tstat := BitVec.ofNat 64 (min 255 (slice t.tstat.toNat 16 8 + 1) * 2 ^ 16 + code * 2 ^ 8 + cause) } := by
  unfold Thread.abort
  rw [hx]

/-- A transaction that begins keeps the count of aborts. -/
theorem Thread.beginTxn_fields (t : Thread) (target : Word) :
    let y := t.beginTxn target
    y.txn = some { target } ∧ y.tstat.getLsbD 31 = true ∧ slice y.tstat.toNat 0 16 = 0 ∧
    slice y.tstat.toNat 16 8 = slice t.tstat.toNat 16 8 := by
  intro y
  have hcount : slice t.tstat.toNat 16 8 < 256 := Nat.mod_lt _ (by decide)
  have hy : y.tstat.toNat = 2 ^ 31 + slice t.tstat.toNat 16 8 * 2 ^ 16 := Nat.mod_eq_of_lt (by omega)
  generalize slice t.tstat.toNat 16 8 = count at hcount hy ⊢
  simp only [BitVec.getLsbD, hy, Nat.testBit_eq_decide_div_mod_eq, decide_eq_true_eq]
  simp only [slice]
  exact ⟨rfl, by omega, by omega, by omega⟩

/-! ### Commit -/

/-- Bytes written at homes that every link reaches are written, and none is lost. -/
theorem State.writeOut_up {s : State} {bytes : List (Nat × Byte)} (h : ∀ p ∈ bytes, s.routeDown p.1 = false) :
    s.writeOut bytes = ([], s.writeHomes bytes) := by
  have hlost : bytes.filter (fun p => s.routeDown p.1) = [] := List.filter_eq_nil_iff.2 fun p hp => by simp [h p hp]
  have hkept : bytes.filter (fun p => !s.routeDown p.1) = bytes := List.filter_eq_self.2 fun p hp => by simp [h p hp]
  rw [State.writeOut, hlost, hkept]
  rfl

theorem Wave.thread_onLanes_self {w : Wave} {l : Nat} (hl : l < w.threads.length) (f : Nat → Thread → Thread) :
    (w.onLanes [l] f).thread l = f l (w.thread l) := by
  simp [Wave.thread, Wave.onLanes, List.getD_eq_getElem?_getD, List.getElem?_eq_getElem hl]

theorem Wave.thread_onLanes_ne {w : Wave} {k l : Nat} (hk : k ≠ l) (f : Nat → Thread → Thread) :
    (w.onLanes [l] f).thread k = w.thread k := by
  simp only [Wave.thread, Wave.onLanes, List.getD_eq_getElem?_getD, List.getElem?_mapIdx]
  cases w.threads[k]? <;> simp [hk]

/-- The lines that a committing transaction has written are, in the lookup caches, ones that each LKP reads at one moment
(R137). -/
def State.markWhole (s : State) (x : Txn) : State :=
  { s with cores := s.cores.mapVals fun k =>
    { k with whole := distinct (k.whole ++ x.writeLines.filter fun n => (k.lookup.find n).isSome) } }

@[simp] theorem State.home_markWhole (s : State) (x : Txn) (a : Nat) : (s.markWhole x).home a = s.home a := rfl
@[simp] theorem State.wave_markWhole (s : State) (x : Txn) (k : Nat) : (s.markWhole x).wave k = s.wave k := rfl

@[simp] theorem State.waves_writeHomes (s : State) (l : List (Nat × Byte)) : (s.writeHomes l).waves = s.waves := by
  obtain ⟨_, _, _, h⟩ := s.writeHomes_frame l
  rw [h]

/-- A commit whose links are up writes its write set at the homes, and ends the transaction (R136). -/
theorem State.commitTxn_up {s v : State} {c : Ctx} {x : Txn} (hv : s.settleWrites c x = v)
    (hup : ∀ p ∈ x.writes, v.routeDown p.1 = false) (l : Nat) :
    s.commitTxn c l x = ((v.writeHomes x.writes).markWhole x).onWave c.w fun w =>
      w.onLanes [l] fun _ t => { t with txn := none, tstat := 0 } := by
  unfold State.commitTxn
  rw [hv]
  dsimp only
  rw [State.writeOut_up hup]
  rfl

/-- After the commit each address reads as the write set's last byte for it. -/
theorem State.home_commitTxn {s v : State} {c : Ctx} {x : Txn} (hv : s.settleWrites c x = v)
    (hup : ∀ p ∈ x.writes, v.routeDown p.1 = false) (hserved : ∀ p ∈ x.writes, v.served p.1 = p.1) (l a : Nat) :
    (s.commitTxn c l x).home a = (lastOf x.writes (v.served a)).getD (v.home a) := by
  have hmap : (x.writes.map fun p => (v.served p.1, p.2)) = x.writes :=
    (List.map_congr_left fun p hp => by rw [hserved p hp]; rfl).trans (List.map_id _)
  rw [State.commitTxn_up hv hup, State.home_onWave, State.home_markWhole, State.home_writeHomes, hmap]

/-- The thread has no open transaction, and sr.tstat is clear; no other thread changes. -/
theorem State.thread_commitTxn {s v : State} {c : Ctx} {x : Txn} (hv : s.settleWrites c x = v)
    (hup : ∀ p ∈ x.writes, v.routeDown p.1 = false) (hwave : (v.waves.find c.w).isSome = true) {l : Nat}
    (hl : l < (v.wave c.w).threads.length) :
    (((s.commitTxn c l x).wave c.w).thread l).txn = none ∧ (((s.commitTxn c l x).wave c.w).thread l).tstat = 0 ∧
    ∀ k, k ≠ l → ((s.commitTxn c l x).wave c.w).thread k = (v.wave c.w).thread k := by
  have hsame : ((v.writeHomes x.writes).markWhole x).wave c.w = v.wave c.w :=
    congrArg (fun t : Tab Wave => t.getD c.w {}) (State.waves_writeHomes v x.writes)
  have hfound : (((v.writeHomes x.writes).markWhole x).waves.find c.w).isSome = true :=
    (congrArg (fun t : Tab Wave => (t.find c.w).isSome) (State.waves_writeHomes v x.writes)).trans hwave
  rw [State.commitTxn_up hv hup, State.wave_onWave _ _ _ _ hfound, if_pos rfl, hsame, Wave.thread_onLanes_self hl]
  exact ⟨rfl, rfl, fun k hk => Wave.thread_onLanes_ne hk _⟩

/-- Settles O41. The words that abort are issued as region boundaries which find their lanes' transactions open; TBEGIN, TEND
and TABORT act on the state that their commit leaves; the rest is what an abort and a commit leave in a thread and in
memory. -/
theorem transactions : Obligations.Transactions := by
  unfold Obligations.Transactions
  refine ⟨fun s s1 c h o => ?words, ⟨fun i h regs wake s c hi => ?boundaryWords, fun s s2 c h dst src check eff uni out => ?mixed⟩,
    State.validates_iff, fun t x cause code hx hcause hcode => ?abort, Thread.beginTxn_fields,
    fun s c l x => ?commit⟩
  case words =>
    intro act t hdet r hrun hrun1
    refine ⟨fun hplain hcommit => exec_tbegin_plain hdet r hrun hrun1 hcommit hplain,
      fun hopen => exec_tbegin_open hdet r hopen, fun hcommit =>
      ⟨exec_tabort_ready hdet r hrun hrun1 hcommit, fun hplain => ?plain, ?decided⟩⟩
    case plain =>
      rw [exec_tend_ready hdet r hrun hrun1 hcommit (State.settleReads_plain hplain), State.judge_plain hplain]
      exact congrArg (fun x => Host.Outcome.next (State.finish c h.s true x)) (State.endTxns_plain hplain _)
    case decided =>
      intro v good q
      refine ⟨fun hgood => ?_, fun hgood hwaits => ?_⟩
      · obtain ⟨u, now, hu⟩ := State.endTxns_done q c (o.d.toNat % 8) act
        refine ⟨u, now, ?_, hu⟩
        rw [exec_tend_ready hdet r hrun hrun1 hcommit rfl]
        by_cases hnone : good = []
        · have hq : q = v := if_pos hnone
          rw [hq] at hu
          rw [if_pos (List.isEmpty_iff.2 hnone), hu, State.finish_done]
        · have hq : q = released v c 5 (txnObjs good) := if_neg hnone
          rw [hq] at hu
          rw [isEmpty_of_ne hnone, if_neg Bool.false_ne_true, State.releaseThen_drained (hgood.resolve_left hnone), hu,
            State.finish_done]
      · rw [exec_tend_ready hdet r hrun hrun1 hcommit rfl, isEmpty_of_ne hgood, if_neg Bool.false_ne_true,
          State.releaseThen_waits hwaits]
        rfl
  case boundaryWords =>
    intro act hc ha hregs hopen
    obtain ⟨dst, src, check, eff, uni, out, rfl, hexec⟩ := exec_anyBoundaryWord hi s
    rw [hexec, State.issueBoundary, State.issueBoundaryIn_none hc ha hregs (State.boundaryAbort_open hopen)]
  case mixed =>
    intro act rest t hc hne hregs pass hclean hrun hcommit hrun2
    have ha : s.activeLanes c h.pg h.pn ≠ [] := fun hnil => hne (by simp only [rest, act, hnil]; rfl)
    exact State.issueBoundaryIn_some hc ha hregs (State.boundaryAbort_mixed s c _) hne pass hclean hrun hcommit hrun2 _ _ _
  case abort =>
    intro y
    have hy : y = _ := Thread.abort_open hx cause code
    obtain ⟨h0, h8, h16, h31⟩ := tstat_fields hcause hcode (count := min 255 (slice t.tstat.toNat 16 8 + 1)) (by omega)
    rw [hy]
    exact ⟨rfl, rfl, rfl, rfl, rfl, h0, h8, h16, h31⟩
  case commit =>
    intro v hup hserved hwave hl t
    obtain ⟨htxn, htstat, hothers⟩ := State.thread_commitTxn rfl hup hwave hl
    exact ⟨State.home_commitTxn rfl hup hserved l, htxn, htstat, hothers⟩

end Sys2Proof.Machine
end

section
/-! SUPPORT. The checks and the issue of ATOM and RED (R225, R228, R399). -/
namespace Sys2Proof.Machine

/-! ### Clear accesses after a region boundary -/

/-- A region boundary keeps each thread's transaction. -/
theorem Wave.txn_thread_mark (w : Wave) (l : Nat) : (w.mark.thread l).txn = (w.thread l).txn := by
  simp only [Wave.thread, Wave.mark, List.getD_eq_getElem?_getD, List.getElem?_map]
  cases w.threads[l]? with
  | none => rfl
  | some t => simp only [Option.map_some, Option.getD_some]; split <;> rfl

theorem State.txn_thread_begun (s : State) (c : Ctx) (l : Nat) :
    (((begun s c).wave c.w).thread l).txn = ((s.wave c.w).thread l).txn := by
  cases hfind : s.waves.find c.w with
  | some w => rw [begun, State.wave_onWave _ _ _ _ (Option.isSome_iff_exists.2 ⟨w, hfind⟩), if_pos rfl, Wave.txn_thread_mark]
  | none =>
    have hnone : (begun s c).waves.find c.w = none := by simp [begun, Tab.find_modify, hfind]
    simp only [State.wave, Tab.getD, hnone, hfind]

/-- An access that is clear is so in the state in which a boundary's effect begins. -/
theorem Clear.begun {s : State} {c : Ctx} {windows : List Nat} {g : Nat} {cg : Contig} {acc : Access}
    {addrs : List (Nat × Nat)} (h : Clear s c windows g cg acc addrs) :
    Clear (begun s c) c windows g cg acc addrs where
  inside := h.inside
  placed := h.placed
  single := fun p hp => (s.txn_thread_begun c p.1).trans (h.single p hp)
  mapped := h.mapped
  sound  := h.sound
  whole  := h.whole

/-! ### The checks of ATOM and RED -/

section
variable {s s1 t : State} {c : Ctx} {h : Hdr} {o : OpM} {op : Nat} {returns : Bool} {spots : List (Nat × Place)}
  {pages : Tab Nat}

/-- An atomic that is clear of every check of R399, allowed in its job and whose value is no slag that it rejects, is
prepared, and nothing changes. -/
theorem State.prepareAtomic_clear {act : List Nat}
    (clear : Clear s c [0, 1, 2, 3] (widthOf o) (.oneOr (widthOf o)) .write (genericAddrs s c o 16 act))
    (hallowed : c.det = true → returns = false ∧ (opnOf o < 8 ∨ 12 < opnOf o))
    (hslag : atomSlag s c.wave o op act = none) :
    ∃ spots pages, s.prepareAtomic c o op returns act = (.ok (spots, pages), s) ∧ spots.length = act.length := by
  obtain ⟨spots, pages, hplace, hpages, hlanes, -, -, habsent, hpoison, -⟩ :=
    clear_ok s c _ (widthOf o) _ .write _ ⟨o.w.toNat, Nat.le_of_lt_succ o.w.isLt, rfl⟩ clear
  have hlen : spots.length = act.length := by simpa [genericAddrs] using congrArg List.length hlanes
  have hfree : (c.det && (returns || (8 ≤ opnOf o && opnOf o ≤ 12))) = false := by
    cases hdet : c.det with
    | false => rfl
    | true =>
      obtain ⟨rfl, hopn⟩ := hallowed hdet
      simp only [Bool.true_and, Bool.false_or, Bool.and_eq_false_iff, decide_eq_false_iff_not]
      omega
  refine ⟨spots, pages, ?_, hlen⟩
  simp only [State.prepareAtomic, hfree, hplace, hslag, hpages, habsent, hpoison, Bool.false_eq_true, if_false]

/-! ### What ATOM and RED do once they are prepared -/

/-- What an ATOM does once its release has waited: notes, its lanes' operations, its acquire. -/
def State.atomNoted (s : State) (c : Ctx) (o : OpM) (sc : Nat) (words : List Nat) : State :=
  let t := (if o.ord.toNat % 2 = 1 then s.noteAcquire c sc words else s).noteWrites c (decide (2 ≤ o.ord.toNat)) words
  if 2 ≤ o.ord.toNat then t.noteRelease c sc words else t

/-- The effect of an ATOM in the state that its notes leave. -/
def State.atomEffect (s : State) (c : Ctx) (o : OpM) (sc : Nat) (objs : List Obj) (pages : Tab Nat)
    (spots : List (Nat × Place)) : Effect :=
  let r := s.performAtomic c o sc pages spots
  let u := r.2.countConflicts (widthOf o) spots
  .done (if o.ord.toNat % 2 = 1 then u.acquire c sc objs [] else u) []
    (r.1.flatMap fun p => vecWrites (if o.w.toNat = 3 then 7 else 6) p.1 o.d.toNat p.2)

/-- ATOM is a region boundary, which with ORD 10 and 11 releases first (R227). -/
theorem exec_atom_ready {s0 : State} (b : Boundary s c h (groupRegs o) (atomRegs o ++ baseRegs o true) s0)
    (pass : ∃ x y, s.prepareAtomic c o 0x10 true (s.activeLanes c h.pg h.pn) = (.ok x, y))
    (hp : (begun s0 c).prepareAtomic c o 0x10 true (s.activeLanes c h.pg h.pn) = (.ok (spots, pages), s1)) :
    exec (.atom h o) s =
      let sc := s1.atomScope c o spots
      let objs := s1.wordObjs c (widthOf o) spots
      let words := syncWords (widthOf o) pages spots
      .next (State.finish c h.s true (
        if 2 ≤ o.ord.toNat then
          s1.releaseThen c sc objs fun t => (t.atomNoted c o sc words).atomEffect c o sc objs pages spots
        else (s1.atomNoted c o sc words).atomEffect c o sc objs pages spots)) := by
  obtain ⟨x, y, hx⟩ := pass
  have hexec : exec (.atom h o) s = execAtom h o s := rfl
  rw [hexec, execAtom]
  dsimp only
  rw [State.issueBoundary_reaching b _ _ (by rw [hx])]
  simp only [hp]
  rfl

/-- What a RED does to the places of its lanes. -/
def State.redDone (s : State) (c : Ctx) (o : OpM) (sc : Nat) (pages : Tab Nat) (spots : List (Nat × Place)) : State :=
  (s.performAtomic c o sc pages spots).2.countConflicts (widthOf o) spots

/-- RED with ORD 10 and 11 is a region boundary and a release on its words (R228). -/
theorem exec_red_ordered {s0 : State} (hord : 2 ≤ o.ord.toNat) (b : Boundary s c h [] (atomRegs o ++ baseRegs o true) s0)
    (pass : ∃ x y, s.prepareAtomic c o 0x11 false (s.activeLanes c h.pg h.pn) = (.ok x, y))
    (hp : (begun s0 c).prepareAtomic c o 0x11 false (s.activeLanes c h.pg h.pn) = (.ok (spots, pages), s1)) :
    exec (.red h o) s =
      let sc := s1.atomScope c o spots
      let words := syncWords (widthOf o) pages spots
      .next (State.finish c h.s true (s1.releaseThen c sc (s1.wordObjs c (widthOf o) spots) fun t =>
        .done (((t.noteWrites c true words).noteRelease c sc words).redDone c o sc pages spots) [] [])) := by
  obtain ⟨x, y, hx⟩ := pass
  have hexec : exec (.red h o) s = execRed h o s := rfl
  rw [hexec, execRed]
  dsimp only
  rw [if_neg (Nat.not_lt.2 hord), State.issueBoundary_reaching b _ _ (by rw [hx])]
  simp only [hp]
  rfl

/-- The scope of an atomic does not depend on what its job has noted. -/
theorem State.atomScope_noteWrites (s : State) (c d : Ctx) (adds : Bool) (words : List Nat) (o : OpM)
    (spots : List (Nat × Place)) : (s.noteWrites d adds words).atomScope c o spots = s.atomScope c o spots := by
  unfold State.noteWrites
  split <;> rfl

/-- RED with ORD 00 and 01 is no boundary: relaxed, its global lanes are buffered; with 01 it is performed at once (R228). -/
theorem exec_red_ready (hord : o.ord.toNat < 2) (r : Ready s c h [] (atomRegs o ++ baseRegs o true))
    (hp : s.prepareAtomic c o 0x11 false (s.activeLanes c h.pg h.pn) = (.ok (spots, pages), s1)) :
    exec (.red h o) s = .next (State.finish c h.s false (
      if o.ord.toNat = 0 then s1.redRelaxed c o spots pages
      else .done ((s1.noteWrites c true (syncWords (widthOf o) pages spots)).redDone c o (s1.atomScope c o spots)
        pages spots) [] [])) := by
  have hexec : exec (.red h o) s = execRed h o s := rfl
  rw [hexec, execRed]
  dsimp only
  rw [if_pos hord, State.issueWord_ready r]
  simp only [hp, State.atomScope_noteWrites]
  rfl

/-! ### The region store buffer -/

theorem State.redRelaxed_ok {rsb : List Buffered}
    (hb : bufferRed (s.wave c.w).rsb (s.atomScope c o spots) (globalOps s c o spots pages) = .ok rsb) :
    s.redRelaxed c o spots pages =
      let near := nearLanes spots
      .done ((((s.onWave c.w fun w => { w with rsb }).noteWrites c true (syncWords (widthOf o) pages near)).performAtomic c o
        (s.atomScope c o spots) pages near).2.countConflicts (widthOf o) spots) [] [] := by
  simp only [State.redRelaxed, hb]

theorem State.redRelaxed_error {va : Nat}
    (hb : bufferRed (s.wave c.w).rsb (s.atomScope c o spots) (globalOps s c o spots pages) = .error va) :
    s.redRelaxed c o spots pages = .trap s (.error 0x0008 va 0 (spots.map Prod.fst)) := by
  simp only [State.redRelaxed, hb]

end

theorem length_distinct_le {α : Type} [DecidableEq α] (l : List α) : (distinct l).length ≤ l.length := by
  have hfold : ∀ l r : List α, (l.foldl (fun r a => if a ∈ r then r else r ++ [a]) r).length ≤ r.length + l.length := by
    intro l
    induction l with
    | nil => exact fun r => Nat.le_refl _
    | cons a l ih =>
      intro r
      have hstep : (if a ∈ r then r else r ++ [a]).length ≤ r.length + 1 := by split <;> simp
      have := ih (if a ∈ r then r else r ++ [a])
      simp only [List.foldl_cons, List.length_cons]
      omega
  simpa [distinct] using hfold l []

/-- Operations for which the buffer has an entry each are buffered (R34, R389). -/
theorem bufferRed_room {rsb : List Buffered} {ops : List (Nat × RedOp)} (scope : Nat) (hroom : rsb.length + ops.length ≤ 64) :
    ∃ rsb', bufferRed rsb scope ops = .ok rsb' := by
  have hlines := length_distinct_le (ops.map fun p => lineOf p.2.pa)
  rw [List.length_map] at hlines
  unfold bufferRed
  dsimp only
  rw [List.length_map, if_pos (by omega)]
  exact ⟨_, rfl⟩

theorem length_globalOps_le (s : State) (c : Ctx) (o : OpM) (spots : List (Nat × Place)) (pages : Tab Nat) :
    (globalOps s c o spots pages).length ≤ spots.length := List.length_filterMap_le _ _

/-! ### Clear atomics complete -/

section
variable {s : State} {c : Ctx} {h : Hdr} {o : OpM} (clear : Clear s c [0, 1, 2, 3] (widthOf o) (.oneOr (widthOf o)) .write
  (genericAddrs s c o 16 (s.activeLanes c h.pg h.pn)))
include clear

/-- An ATOM with ORD 00 and 01 that is clear, with nothing buffered, completes. -/
theorem exec_atom_clear (r : Ready s c h (groupRegs o) (atomRegs o ++ baseRegs o true)) (hdet : c.det = false)
    (hrun : (s.cluster c.cl).run = none) (hrsb : (s.wave c.w).rsb = [])
    (hplain : ∀ l ∈ s.activeLanes c h.pg h.pn, (c.wave.thread l).txn = none)
    (hslag : atomSlag s c.wave o 0x10 (s.activeLanes c h.pg h.pn) = none) (hord : o.ord.toNat < 2) :
    ∃ (t : State) (now : List (Nat × Nat)), exec (.atom h o) s = .next (retired t c h.s true [] (now.flatMap fun p =>
      vecWrites (if o.w.toNat = 3 then 7 else 6) p.1 o.d.toNat p.2)) := by
  have b : Boundary s c h (groupRegs o) (atomRegs o ++ baseRegs o true) s :=
    { ready := r, single := hrun, plain := hplain, commits := s.commit_empty c _ hrsb, still := hrun }
  have hallowed : c.det = true → true = false ∧ (opnOf o < 8 ∨ 12 < opnOf o) := fun hd => by simp [hdet] at hd
  obtain ⟨spots0, pages0, hp0, -⟩ := State.prepareAtomic_clear clear hallowed hslag
  obtain ⟨spots, pages, hp, -⟩ := State.prepareAtomic_clear (s := begun s c) clear.begun hallowed hslag
  rw [exec_atom_ready b ⟨_, _, hp0⟩ hp]
  dsimp only
  rw [if_neg (Nat.not_le.2 hord)]
  exact ⟨_, _, rfl⟩

/-- A RED with ORD 01, or with 00 where the buffer has an entry for each lane, that is clear completes. -/
theorem exec_red_clear (r : Ready s c h [] (atomRegs o ++ baseRegs o true))
    (hallowed : c.det = false ∨ opnOf o < 8 ∨ 12 < opnOf o)
    (hslag : atomSlag s c.wave o 0x11 (s.activeLanes c h.pg h.pn) = none)
    (hord : o.ord.toNat = 1 ∨ (o.ord.toNat = 0 ∧ (s.wave c.w).rsb.length + (s.activeLanes c h.pg h.pn).length ≤ 64)) :
    ∃ t : State, exec (.red h o) s = .next (retired t c h.s false [] []) := by
  obtain ⟨spots, pages, hp, hlen⟩ := State.prepareAtomic_clear (returns := false) clear
    (fun hd => ⟨rfl, hallowed.resolve_left (by simp [hd])⟩) hslag
  rcases hord with h1 | ⟨h0, hroom⟩
  · rw [exec_red_ready (by omega) r hp, if_neg (by omega)]
    exact ⟨_, rfl⟩
  · have hops := length_globalOps_le s c o spots pages
    obtain ⟨rsb, hb⟩ := bufferRed_room (rsb := (s.wave c.w).rsb) (ops := globalOps s c o spots pages)
      (s.atomScope c o spots) (by omega)
    rw [exec_red_ready (by omega) r hp, if_pos h0, State.redRelaxed_ok hb]
    exact ⟨_, rfl⟩

end

end Sys2Proof.Machine
end

section
/-! SUPPORT. One lane's read-modify-write at the home (R227, Table 8-6), and its landing (R134). -/
namespace Sys2Proof.Machine

/-! ### At the home -/

section
variable (s : State) (o : RedOp)

theorem State.atomicHome_old : (s.atomicHome o).1 = s.homeNat o.pa o.ty := by
  unfold State.atomicHome
  dsimp only
  split <;> rfl

variable {s o}

theorem State.atomicHome_some {new : Nat}
    (hnew : atomicNew o.opn o.ty (s.homeNat o.pa o.ty) o.v.toNat o.c.toNat = some new) :
    (s.atomicHome o).2 = s.writeNat o.pa o.ty new := by
  simp only [State.atomicHome, hnew]

theorem State.atomicHome_none (hnew : atomicNew o.opn o.ty (s.homeNat o.pa o.ty) o.v.toNat o.c.toNat = none) :
    (s.atomicHome o).2 = s := by
  simp only [State.atomicHome, hnew]

/-- A read-modify-write changes no byte but its own. -/
theorem State.home_atomicHome_ne (hserved : ∀ i, i < o.ty → s.served (o.pa + i) = s.served o.pa + i) {a : Nat}
    (ha : ∀ i, i < o.ty → s.served a ≠ s.served o.pa + i) : (s.atomicHome o).2.home a = s.home a := by
  cases hnew : atomicNew o.opn o.ty (s.homeNat o.pa o.ty) o.v.toNat o.c.toNat with
  | none => rw [State.atomicHome_none hnew]
  | some new => rw [State.atomicHome_some hnew, s.home_writeNat_of_ne _ _ _ hserved _ ha]

@[simp] theorem State.lateWrites_writeHomes (s : State) (l : List (Nat × Byte)) :
    (s.writeHomes l).lateWrites = s.lateWrites := by
  obtain ⟨_, _, _, h⟩ := s.writeHomes_frame l
  rw [h]

theorem State.lateWrites_atomicHome : (s.atomicHome o).2.lateWrites = s.lateWrites := by
  cases hnew : atomicNew o.opn o.ty (s.homeNat o.pa o.ty) o.v.toNat o.c.toNat with
  | none => rw [State.atomicHome_none hnew]
  | some new => rw [State.atomicHome_some hnew, State.writeNat, State.lateWrites_writeHomes]

/-! ### At a wider scope -/

/-- The write of an atomic that is late towards the agents outside its scope. -/
def State.lateWrite (s : State) (cl core scope : Nat) (o : RedOp) : LateWrite :=
  { pa := o.pa, bytes := (s.atomicHome o).2.homeBytes o.pa o.ty, scope, group := groupOfCore core, cluster := cl }

/-- Whatever a test says, a choice is the one value or the other. -/
theorem ite_eq_else_or_then {α : Type} (b : Bool) (x y : α) :
    (if b = true then x else y) = y ∨ (if b = true then x else y) = x := by
  cases b
  · exact .inl rfl
  · exact .inr rfl

/-- Where no late write is held, a wide read-modify-write is performed at the home, or its write is held late. -/
theorem State.atomicWide_cases (cl core scope : Nat) (hlate : s.lateWrites = []) :
    s.atomicWide cl core scope o = s.atomicHome o ∨ (scope ≤ 5 ∧
      s.atomicWide cl core scope o = (s.homeNat o.pa o.ty, { s with lateWrites := [s.lateWrite cl core scope o] })) := by
  have hland : s.landOn core = s := by simp [State.landOn, State.landIf, hlate]
  unfold State.atomicWide
  dsimp only
  rw [hland]
  by_cases hscope : scope ≤ 5
  · refine (ite_eq_else_or_then _ _ _).imp id fun hheld => ⟨hscope, hheld.trans ?_⟩
    rw [hlate, State.atomicHome_old]
    rfl
  · rw [decide_eq_false hscope]
    exact .inl rfl

/-- A late write that lands puts its bytes at their homes, over what has come there before. -/
theorem State.home_landAll_late {w : LateWrite}
    (hserved : ∀ i, i < w.bytes.length → s.served (w.pa + i) = s.served w.pa + i) (bytes : List (Nat × Byte)) {i : Nat} {x : Byte}
    (hx : w.bytes[i]? = some x) :
    (({ s with lateWrites := [w] } : State).writeHomes bytes).landAll.home (w.pa + i) = x := by
  obtain ⟨mem, dirty, poison, hwritten⟩ := State.writeHomes_frame { s with lateWrites := [w] } bytes
  have hland : (({ s with lateWrites := [w] } : State).writeHomes bytes).landAll =
      ({ s with mem := mem, cxlDirty := dirty, poison := poison, lateWrites := [] } : State).writeHomes
        (w.bytes.mapIdx fun i b => (w.pa + i, b)) := by rw [hwritten]; rfl
  have hmap : (w.bytes.mapIdx fun i b => (w.pa + i, b)).map (fun p => (s.served p.1, p.2)) =
      w.bytes.mapIdx fun i b => (s.served w.pa + i, b) :=
    List.ext_getElem (by simp) fun k hk _ => by simp [hserved k (by simpa using hk)]
  have hi : i < w.bytes.length := (List.getElem?_eq_some_iff.1 hx).1
  have hlast : lastOf ((w.bytes.mapIdx fun i b => (w.pa + i, b)).map fun p => (s.served p.1, p.2)) (s.served (w.pa + i)) =
      some x := by
    rw [hmap, lastOf_mapIdx, hserved i hi, if_pos (Nat.le_add_right _ _), Nat.add_sub_cancel_left, hx]
  rw [hland, State.home_writeHomes]
  exact congrArg (fun y : Option Byte => y.getD _) hlast

end

/-! ### Table 8-6 -/

theorem slagCode_f32_isSome {old : Nat} (h : old < 2 ^ 32) :
    (slagCode 10 old).isSome = true ↔ 0xFF805A01 ≤ old ∧ old ≤ 0xFF805A03 := by
  rw [slagCode, if_pos rfl, Nat.mod_eq_of_lt h]
  split <;> simp_all

/-- The slag of an old value of f32 that a floating-point operation does not replace. -/
theorem atomicSlag_iff {n old : Nat} (h : old < 2 ^ (8 * n)) :
    (decide (n = 4) && (slagCode 10 old).isSome) = true ↔ n = 4 ∧ 0xFF805A01 ≤ old ∧ old ≤ 0xFF805A03 := by
  rw [Bool.and_eq_true, decide_eq_true_eq]
  exact and_congr_right fun hn => slagCode_f32_isSome (by rw [hn] at h; exact h)

/-- Table 8-6. -/
theorem atomicNew_table {n old : Nat} (v c : Nat) (hold : old < 2 ^ (8 * n)) (hv : v < 2 ^ (8 * n)) :
    let f := if n = 4 then f32 else f64
    let slag := n = 4 ∧ 0xFF805A01 ≤ old ∧ old ≤ 0xFF805A03
    atomicNew 10 n old v c = (if slag then none else some (f.addBits 0 false old v)) ∧
    atomicNew 11 n old v c = (if slag then none else some (f.minMax false old v)) ∧
    atomicNew 12 n old v c = (if slag then none else some (f.minMax true old v)) ∧
    atomicNew 13 n old v c = some ((old + (2 ^ (8 * n) - v)) % 2 ^ (8 * n)) := by
  have hslag := atomicSlag_iff hold
  exact ⟨ite_congr (propext hslag) (fun _ => rfl) fun _ => rfl, ite_congr (propext hslag) (fun _ => rfl) fun _ => rfl, ite_congr (propext hslag) (fun _ => rfl) fun _ => rfl,
    congrArg (fun x => some (x % 2 ^ (8 * n))) (Nat.add_sub_assoc (Nat.le_of_lt hv) old)⟩

/-- Settles O34. The words come to `performAtomic` once they are prepared, and a clear access is prepared in the state that
its boundary leaves; at the home an operation is a read and a write of its bytes, and a late one is that write as it lands. -/
theorem atomicResults : Obligations.AtomicResults := by
  unfold Obligations.AtomicResults
  refine ⟨fun h o s s0 s1 c spots pages => ?words, fun s o hserved => ?home, fun s cl core scope o hlate hserved => ?wide,
    fun n old v c hn hold hv => ?table⟩
  case words =>
    intro act g ord src sc objs t words noted done
    refine ⟨fun b pass hp hd => ?atom, fun hord b pass hp hd => ?redOrdered,
      fun r hp => ⟨fun h1 => ?redAtOnce, fun h0 => ⟨fun rsb hb => ?redBuffered, fun va hb => ?redFull⟩⟩,
      fun clear => ⟨fun r hdet hrun hrsb hplain hslag hord => exec_atom_clear clear r hdet hrun hrsb hplain hslag hord,
        fun r hallowed hslag hord => exec_red_clear clear r hallowed hslag hord⟩⟩
    case atom =>
      rw [exec_atom_ready b pass hp]
      dsimp only
      by_cases hord : 2 ≤ o.ord.toNat
      · have ht : t = released s1 c sc objs := if_pos hord
        rw [if_pos hord, State.releaseThen_drained (hd hord), ht]
        rfl
      · have ht : t = s1 := if_neg hord
        rw [if_neg hord, ht]
        rfl
    case redOrdered =>
      have ht : t = released s1 c sc objs := if_pos hord
      rw [exec_red_ordered hord b pass hp, ht]
      dsimp only
      rw [State.releaseThen_drained hd]
      rfl
    case redAtOnce =>
      have hord : o.ord.toNat = 1 := h1
      rw [exec_red_ready (by omega) r hp, if_neg (by omega)]
      rfl
    case redBuffered =>
      have hord : o.ord.toNat = 0 := h0
      rw [exec_red_ready (by omega) r hp, if_pos hord, State.redRelaxed_ok hb]
      rfl
    case redFull =>
      have hord : o.ord.toNat = 0 := h0
      rw [exec_red_ready (by omega) r hp, if_pos hord, State.redRelaxed_error hb]
      rfl
  case home =>
    refine ⟨s.atomicHome_old o, fun new hnew => ?_, State.atomicHome_none, fun a ha => State.home_atomicHome_ne hserved ha⟩
    rw [State.atomicHome_some hnew, State.homeNat_writeNat _ _ _ _ hserved]
  case wide =>
    rcases State.atomicWide_cases cl core scope hlate with hnow | ⟨hscope, hheld⟩
    · rw [hnow]
      exact ⟨s.atomicHome_old o, fun _ => rfl, fun hne => absurd (State.lateWrites_atomicHome.trans hlate) hne⟩
    · rw [hheld]
      refine ⟨rfl, fun hnil => absurd hnil (List.cons_ne_nil _ _), fun _ => ⟨hscope, fun a => rfl, fun bytes i hi => ?_⟩⟩
      have hlen : (s.lateWrite cl core scope o).bytes.length = o.ty := by simp [State.lateWrite, State.homeBytes]
      exact State.home_landAll_late (w := s.lateWrite cl core scope o) (fun k hk => hserved k (hlen ▸ hk)) bytes
        (by simp [State.lateWrite, State.homeBytes, hi])
  case table =>
    obtain ⟨hadd, hmin, hmax, hsub⟩ := atomicNew_table v c hold hv
    exact ⟨rfl, rfl, rfl, rfl, rfl, rfl, rfl, rfl, rfl, rfl, hadd, hmin, hmax, hsub, rfl, rfl⟩

end Sys2Proof.Machine
end

section
/-! SUPPORT. The formats of words (Tables 6-1 to 6-8): a word is that of its fields, and has the fields that it is made of. -/
namespace Sys2Proof

/-! ### Fields of concatenated bits

The width of the whole is left open to matching, for a word's is written as a number and not as the sum of its fields'. -/

section
variable {v w : Nat} (x : BitVec v) (y : BitVec w)

theorem extractLsb'_append_right {start len : Nat} (h : start + len ≤ w) :
    BitVec.extractLsb' start len (no_index (x ++ y)) = y.extractLsb' start len :=
  BitVec.extractLsb'_append_eq_of_add_le h

theorem extractLsb'_append_left {start len : Nat} (h : w ≤ start) :
    BitVec.extractLsb' start len (no_index (x ++ y)) = x.extractLsb' (start - w) len :=
  BitVec.extractLsb'_append_eq_of_le h

theorem getLsbD_append_right {k : Nat} (h : k < w) : BitVec.getLsbD (no_index (x ++ y)) k = y.getLsbD k := by
  rw [BitVec.getLsbD_append, if_pos h]

theorem getLsbD_append_left {k : Nat} (h : w ≤ k) : BitVec.getLsbD (no_index (x ++ y)) k = x.getLsbD (k - w) := by
  rw [BitVec.getLsbD_append, if_neg (Nat.not_lt.2 h)]

end

/-- Fields that lie side by side are one field. -/
theorem extractLsb'_append_adjacent {w m n p q : Nat} (x : BitVec w) (h : q = p + n) :
    no_index (x.extractLsb' q m ++ x.extractLsb' p n) = x.extractLsb' p (m + n) :=
  BitVec.extractLsb'_append_extractLsb'_eq_extractLsb' h

theorem ofBool_getLsbD {w : Nat} (x : BitVec w) (k : Nat) : BitVec.ofBool (x.getLsbD k) = x.extractLsb' k 1 := by
  ext i hi
  obtain rfl : i = 0 := Nat.lt_one_iff.1 hi
  simp

/-! ### Single words -/

/-- Bits [63:48] of a single word are its header, its format class and its opcode (Table 6-1). -/
theorem hdrBits_iff {w : Word} {h : Hdr} {fc : BitVec 2} {op : BitVec 8} :
    w.extractLsb' 48 16 = hdrBits h fc op ↔
      isPaired w = false ∧ hdrOf w = h ∧ fcOf w = fc ∧ w.extractLsb' 48 8 = op := by
  constructor
  · intro e
    have hbit (p : Nat) (hp : p < 16) : w.getLsbD (48 + p) = (hdrBits h fc op).getLsbD p := by
      rw [← e]; simp [hp]
    have hfield (p n : Nat) (hp : p + n ≤ 16) : w.extractLsb' (48 + p) n = (hdrBits h fc op).extractLsb' p n := by
      rw [← e]; ext i hi; simp [show p + i < 16 by omega, Nat.add_assoc]
    have hs : w.getLsbD 63 = h.s := (hbit 15 (by decide)).trans (by
      simp [hdrBits, getLsbD_append_left, -BitVec.getLsbD_eq_getElem])
    have hk : w.getLsbD 62 = false := (hbit 14 (by decide)).trans (by
      simp [hdrBits, getLsbD_append_left, getLsbD_append_right, -BitVec.getLsbD_eq_getElem])
    have hpn : w.getLsbD 58 = h.pn := (hbit 10 (by decide)).trans (by
      simp [hdrBits, getLsbD_append_left, getLsbD_append_right, -BitVec.getLsbD_eq_getElem])
    have hpg : w.extractLsb' 59 3 = h.pg := (hfield 11 3 (by decide)).trans (by
      simp [hdrBits, extractLsb'_append_left, extractLsb'_append_right])
    have hfc : w.extractLsb' 56 2 = fc := (hfield 8 2 (by decide)).trans (by
      simp [hdrBits, extractLsb'_append_left, extractLsb'_append_right])
    have hop : w.extractLsb' 48 8 = op := (hfield 0 8 (by decide)).trans (by
      simp [hdrBits, extractLsb'_append_right])
    exact ⟨hk, by rw [hdrOf, hs, hpg, hpn], hfc, hop⟩
  · rintro ⟨hk, rfl, rfl, rfl⟩
    have hk : 0#1 = w.extractLsb' 62 1 := by rw [← ofBool_getLsbD, show w.getLsbD 62 = false from hk]; rfl
    simp only [hdrBits, hdrOf, fcOf, hk, ofBool_getLsbD, extractLsb'_append_adjacent]

/-- A class A word (Tables 6-2, 6-3) is that of its header, its opcode and its operands. -/
theorem encA_iff {w : Word} {op : BitVec 8} {h : Hdr} {o : OpA} :
    w = encA op h o ↔
      (isPaired w = false ∧ hdrOf w = h ∧ fcOf w = 0#2 ∧ w.extractLsb' 48 8 = op) ∧ opAOf w = o := by
  rw [← hdrBits_iff]
  constructor
  · rintro rfl
    exact ⟨by simp [encA, extractLsb'_append_left], by
      simp [opAOf, encA, modaBits, extractLsb'_append_left, extractLsb'_append_right, getLsbD_append_left,
        getLsbD_append_right, -BitVec.getLsbD_eq_getElem]⟩
  · rintro ⟨e, rfl⟩
    simp only [encA, ← e, opAOf, modaBits, ofBool_getLsbD, extractLsb'_append_adjacent]
    exact BitVec.extractLsb'_eq_self.symm

/-- A class B word (Table 6-4). -/
theorem encB_iff {w : Word} {op : BitVec 8} {h : Hdr} {o : OpB} :
    w = encB op h o ↔
      (isPaired w = false ∧ hdrOf w = h ∧ fcOf w = 1#2 ∧ w.extractLsb' 48 8 = op) ∧ opBOf w = o := by
  rw [← hdrBits_iff]
  constructor
  · rintro rfl
    exact ⟨by simp [encB, extractLsb'_append_left], by
      simp [opBOf, encB, extractLsb'_append_left, extractLsb'_append_right]⟩
  · rintro ⟨e, rfl⟩
    simp only [encB, ← e, opBOf, extractLsb'_append_adjacent]
    exact BitVec.extractLsb'_eq_self.symm

/-- A class M word (Tables 6-5, 6-6). -/
theorem encM_iff {w : Word} {op : BitVec 8} {h : Hdr} {o : OpM} :
    w = encM op h o ↔
      (isPaired w = false ∧ hdrOf w = h ∧ fcOf w = 2#2 ∧ w.extractLsb' 48 8 = op) ∧ opMOf w = o := by
  rw [← hdrBits_iff]
  constructor
  · rintro rfl
    exact ⟨by simp [encM, extractLsb'_append_left], by
      simp [opMOf, encM, modmBits, extractLsb'_append_left, extractLsb'_append_right, getLsbD_append_left,
        getLsbD_append_right, -BitVec.getLsbD_eq_getElem]⟩
  · rintro ⟨e, rfl⟩
    simp only [encM, ← e, opMOf, modmBits, ofBool_getLsbD, extractLsb'_append_adjacent]
    exact BitVec.extractLsb'_eq_self.symm

/-- A class C word of layout C.J (R157). -/
theorem encJ_iff {w : Word} {op : BitVec 8} {h : Hdr} {o : OpJ} :
    w = encJ op h o ↔
      (isPaired w = false ∧ hdrOf w = h ∧ fcOf w = 3#2 ∧ w.extractLsb' 48 8 = op) ∧ opJOf w = o := by
  rw [← hdrBits_iff]
  constructor
  · rintro rfl
    exact ⟨by simp [encJ, extractLsb'_append_left], by
      simp [opJOf, encJ, extractLsb'_append_left, extractLsb'_append_right]⟩
  · rintro ⟨e, rfl⟩
    simp only [encJ, ← e, opJOf, extractLsb'_append_adjacent]
    exact BitVec.extractLsb'_eq_self.symm

/-- A class C word of layout C.S (R157). -/
theorem encS_iff {w : Word} {op : BitVec 8} {h : Hdr} {o : OpS} :
    w = encS op h o ↔
      (isPaired w = false ∧ hdrOf w = h ∧ fcOf w = 3#2 ∧ w.extractLsb' 48 8 = op) ∧ opSOf w = o := by
  rw [← hdrBits_iff]
  constructor
  · rintro rfl
    exact ⟨by simp [encS, extractLsb'_append_left], by
      simp [opSOf, encS, extractLsb'_append_left, extractLsb'_append_right]⟩
  · rintro ⟨e, rfl⟩
    simp only [encS, ← e, opSOf, extractLsb'_append_adjacent]
    exact BitVec.extractLsb'_eq_self.symm

/-! ### Paired words -/

/-- The 31 bits from bit `p` on are a half (Table 6-8). -/
theorem halfBits_iff {w : Word} {p : Nat} {x : Half} : w.extractLsb' p 31 = halfBits x ↔ halfAt w p = x := by
  constructor
  · intro e
    have hbit (k : Nat) (hk : k < 31) : w.getLsbD (p + k) = (halfBits x).getLsbD k := by
      rw [← e]; simp [hk]
    have hfield (k n : Nat) (hk : k + n ≤ 31) : w.extractLsb' (p + k) n = (halfBits x).extractLsb' k n := by
      rw [← e]; ext i hi; simp [show k + i < 31 by omega, Nat.add_assoc]
    rw [halfAt, hfield 25 6 (by decide), hbit 24 (by decide), hfield 16 8 (by decide), hfield 8 8 (by decide),
      hfield 5 3 (by decide), hbit 4 (by decide), show w.extractLsb' p 4 = _ from hfield 0 4 (by decide)]
    simp [halfBits, extractLsb'_append_left, extractLsb'_append_right, getLsbD_append_left, getLsbD_append_right,
      -BitVec.getLsbD_eq_getElem]
  · rintro rfl
    simp only [halfBits, halfAt, ofBool_getLsbD, extractLsb'_append_adjacent]

/-- A paired word is that of its S bit and its halves (Table 6-8). -/
theorem pairedBits_iff {w : Word} {settle : Bool} {x y : Half} :
    w = BitVec.ofBool settle ++ 1#1 ++ halfBits x ++ halfBits y ↔
      isPaired w = true ∧ w.getLsbD 63 = settle ∧ halfAt w 31 = x ∧ halfAt w 0 = y := by
  rw [← halfBits_iff, ← halfBits_iff]
  constructor
  · rintro rfl
    simp [isPaired, extractLsb'_append_left, extractLsb'_append_right, getLsbD_append_left, getLsbD_append_right,
      -BitVec.getLsbD_eq_getElem]
  · rintro ⟨hk, rfl, hx, hy⟩
    have hk : 1#1 = w.extractLsb' 62 1 := by rw [← ofBool_getLsbD, show w.getLsbD 62 = true from hk]; rfl
    simp only [← hx, ← hy, hk, ofBool_getLsbD, extractLsb'_append_adjacent]
    exact BitVec.extractLsb'_eq_self.symm

end Sys2Proof
end

section
/-! SUPPORT. The decoder against the encoder: the opcode maps (Tables 6-12 to 6-15) are inverse to the opcodes that the encoder
gives. -/
namespace Sys2Proof

/-! ### From an instruction to its word -/

theorem candidate_encA (op : BitVec 8) (h : Hdr) (o : OpA) : candidate (encA op h o) = decodeA op.toNat h o := by
  obtain ⟨⟨hk, hh, hfc, hop⟩, ho⟩ := encA_iff.1 (Eq.refl (encA op h o))
  simp only [candidate, opOf, hk, hh, hfc, hop, ho]
  rfl

theorem candidate_encB (op : BitVec 8) (h : Hdr) (o : OpB) : candidate (encB op h o) = decodeB op.toNat h o := by
  obtain ⟨⟨hk, hh, hfc, hop⟩, ho⟩ := encB_iff.1 (Eq.refl (encB op h o))
  simp only [candidate, opOf, hk, hh, hfc, hop, ho]
  rfl

theorem candidate_encM (op : BitVec 8) (h : Hdr) (o : OpM) : candidate (encM op h o) = decodeM op.toNat h o := by
  obtain ⟨⟨hk, hh, hfc, hop⟩, ho⟩ := encM_iff.1 (Eq.refl (encM op h o))
  simp only [candidate, opOf, hk, hh, hfc, hop, ho]
  rfl

theorem candidate_encJ {op : BitVec 8} (hj : op.toNat < 4) (h : Hdr) (o : OpJ) :
    candidate (encJ op h o) = decodeCJ op.toNat h o := by
  obtain ⟨⟨hk, hh, hfc, hop⟩, ho⟩ := encJ_iff.1 (Eq.refl (encJ op h o))
  simp only [candidate, opOf, hk, hh, hfc, hop, ho, if_pos hj]
  rfl

theorem candidate_encS {op : BitVec 8} (hs : ¬ op.toNat < 4) (h : Hdr) (o : OpS) :
    candidate (encS op h o) = decodeCS op.toNat h o := by
  obtain ⟨⟨hk, hh, hfc, hop⟩, ho⟩ := encS_iff.1 (Eq.refl (encS op h o))
  simp only [candidate, opOf, hk, hh, hfc, hop, ho, if_neg hs]
  rfl

theorem candidate_pairedBits (settle : Bool) (x y : Half) :
    candidate (BitVec.ofBool settle ++ 1#1 ++ halfBits x ++ halfBits y : BitVec 64) = some (.pairedWord settle x y) := by
  obtain ⟨hk, hs, hx, hy⟩ := pairedBits_iff.1 (Eq.refl (BitVec.ofBool settle ++ 1#1 ++ halfBits x ++ halfBits y : BitVec 64))
  simp only [candidate, hk, hs, hx, hy, if_true]

/-- MEET and MEET #0 share an opcode, and are told apart by D (Table 7-14). -/
theorem d_of_wellFormed_meet {h : Hdr} {o : OpS} (hwf : WellFormed (.meet h o) = true) : o.d.toNat = 0 := by
  simp_all [WellFormed, Instr.problem, problemS, firstProblem, zero8]

theorem d_of_wellFormed_meetClear {h : Hdr} {o : OpS} (hwf : WellFormed (.meetClear h o) = true) : o.d.toNat = 1 := by
  simp_all [WellFormed, Instr.problem, problemS, firstProblem, zero8]

/-- The word of a well-formed instruction names it. -/
theorem candidate_of_encodeWord {i : Instr} {w : Word} (hwf : WellFormed i = true) (hi : ∀ x, i ≠ .illegalEncoding x)
    (he : encodeWord i = some w) : candidate w = some i := by
  cases i
  case iadd | isub | imul | imulh | imad | imin | imax | iabs | ineg | idiv | irem | lea | and | or | xor | andn | shl |
      shr | sar | rotl | funsh | bfx | bfi | popc | clz | ctz | brev | prmt | isetp | isel | mov | fadd | fsub | fmul |
      ffma | fmin | fmax | fsetp | frcp | frsq | fsqrt | fdiv | fex2 | flg2 | fsin | fcos | ftanh | frnd | fcls | fscl |
      fcvt | icvt | npack | nunpk | bxhdr | dot4 | shfl | vote | matchLanes | wred | wscan | plop | pget | pset | sift |
      sifth | rseed | rand | prune | spcmp | spexp | tslag =>
    cases he; exact candidate_encA _ _ _
  case movi | movhi | iaddi | imuli | andi | ori | xori | isetpi | faddi | fmuli | fsetpi =>
    cases he; exact candidate_encB _ _ _
  case ldg | stg | ldgs | stgs | lds | sts | ldc | stc | ldl | stl | ld | st | lkp | pref | atom | red | enq | deq |
      qwait | asthr | ring | awf | rls | strm | strq | gang | mld | mswp | mma | mas | mconv | mpsh | mpop | mzero |
      msta =>
    cases he; exact candidate_encM _ _ _
  case bra | brx | call | ret =>
    cases he; exact candidate_encJ (by decide) _ _
  case exit | nop | trap | sleep | binit | barv | bwait | bsync | cwait | fence | fencelk | bind | unbind | tbegin |
      tend | tabort | region | grow | shrink | job | rsp | wsp | emuret | halt | tlbinv =>
    cases he; exact candidate_encS (by decide) _ _
  case meet h o =>
    cases he
    refine (candidate_encS (by decide) _ _).trans ?_
    simp [decodeCS, d_of_wellFormed_meet hwf]
  case meetClear h o =>
    cases he
    refine (candidate_encS (by decide) _ _).trans ?_
    simp [decodeCS, d_of_wellFormed_meetClear hwf]
  case pairedWord settle x y => cases he; exact candidate_pairedBits settle x y
  case illegalEncoding x => exact absurd rfl (hi x)
  -- commands and events have no word
  all_goals cases he

/-! ### From a word to its instruction -/

theorem encodeWord_of_decodeA {op : Nat} {h : Hdr} {o : OpA} {i : Instr} (hd : decodeA op h o = some i) :
    encodeWord i = some (encA (BitVec.ofNat 8 op) h o) := by
  unfold decodeA at hd
  split at hd <;> cases hd <;> rfl

theorem encodeWord_of_decodeB {op : Nat} {h : Hdr} {o : OpB} {i : Instr} (hd : decodeB op h o = some i) :
    encodeWord i = some (encB (BitVec.ofNat 8 op) h o) := by
  unfold decodeB at hd
  split at hd <;> cases hd <;> rfl

theorem encodeWord_of_decodeM {op : Nat} {h : Hdr} {o : OpM} {i : Instr} (hd : decodeM op h o = some i) :
    encodeWord i = some (encM (BitVec.ofNat 8 op) h o) := by
  unfold decodeM at hd
  split at hd <;> cases hd <;> rfl

theorem encodeWord_of_decodeCJ {op : Nat} {h : Hdr} {o : OpJ} {i : Instr} (hd : decodeCJ op h o = some i) :
    encodeWord i = some (encJ (BitVec.ofNat 8 op) h o) := by
  unfold decodeCJ at hd
  split at hd <;> cases hd <;> rfl

theorem encodeWord_of_decodeCS {op : Nat} {h : Hdr} {o : OpS} {i : Instr} (hd : decodeCS op h o = some i) :
    encodeWord i = some (encS (BitVec.ofNat 8 op) h o) := by
  unfold decodeCS at hd
  split at hd
  · cases hd; split <;> rfl
  all_goals cases hd <;> rfl

/-- The opcode of a single word, as a number of 8 bits. -/
theorem ofNat_opOf (w : Word) : BitVec.ofNat 8 (opOf w) = w.extractLsb' 48 8 := by
  rw [opOf, BitVec.ofNat_toNat, BitVec.setWidth_eq]

/-- The instruction that a word names has that word. -/
theorem encodeWord_of_candidate {w : Word} {i : Instr} (hc : candidate w = some i) : encodeWord i = some w := by
  unfold candidate at hc
  split at hc
  · rename_i hk
    cases hc
    exact congrArg some (pairedBits_iff.2 ⟨hk, rfl, rfl, rfl⟩).symm
  · rename_i hk
    have hk : isPaired w = false := Bool.eq_false_iff.2 hk
    have hfc {n : Nat} (hn : (fcOf w).toNat = n) : fcOf w = BitVec.ofNat 2 n := by
      rw [← hn, BitVec.ofNat_toNat, BitVec.setWidth_eq]
    split at hc
    · rename_i h0
      rw [encodeWord_of_decodeA hc, ofNat_opOf, ← encA_iff.2 ⟨⟨hk, rfl, hfc h0, rfl⟩, rfl⟩]
    · rename_i h1
      rw [encodeWord_of_decodeB hc, ofNat_opOf, ← encB_iff.2 ⟨⟨hk, rfl, hfc h1, rfl⟩, rfl⟩]
    · rename_i h2
      rw [encodeWord_of_decodeM hc, ofNat_opOf, ← encM_iff.2 ⟨⟨hk, rfl, hfc h2, rfl⟩, rfl⟩]
    · rename_i h0 h1 h2
      have h3 : (fcOf w).toNat = 3 := by
        have hlt := (fcOf w).isLt
        have h0 : (fcOf w).toNat ≠ 0 := h0
        have h1 : (fcOf w).toNat ≠ 1 := h1
        have h2 : (fcOf w).toNat ≠ 2 := h2
        omega
      split at hc
      · rw [encodeWord_of_decodeCJ hc, ofNat_opOf, ← encJ_iff.2 ⟨⟨hk, rfl, hfc h3, rfl⟩, rfl⟩]
      · rw [encodeWord_of_decodeCS hc, ofNat_opOf, ← encS_iff.2 ⟨⟨hk, rfl, hfc h3, rfl⟩, rfl⟩]

/-! ### The checks -/

/-- A word decodes to the instruction that it names, where that is well formed (R172). -/
theorem decodeWord_iff {w : Word} {i : Instr} :
    decodeWord w = .ok i ↔ candidate w = some i ∧ WellFormed i = true := by
  unfold decodeWord checked WellFormed
  cases candidate w with
  | none => simp
  | some j =>
    cases hj : j.problem with
    | none =>
      simp only [hj, Except.ok.injEq, Option.some.injEq]
      exact ⟨fun h => ⟨h, by rw [← h, hj]; rfl⟩, fun h => h.1⟩
    | some p =>
      simp only [hj, reduceCtorEq, Option.some.injEq, false_iff, not_and]
      rintro rfl
      simp [hj]

/-- Settles O1. The word of each instruction is that of its format, whose fields the decoder reads back, and its opcode names it;
a well-formed one passes the checks. -/
theorem decodeEncodeWord : Obligations.DecodeEncodeWord :=
  fun _ _ hwf hi he => decodeWord_iff.2 ⟨candidate_of_encodeWord hwf hi he, hwf⟩

/-- Settles O2. The fields of a format make up its whole word, and each opcode map's instruction is encoded with that opcode. -/
theorem encodeDecodeWord : Obligations.EncodeDecodeWord := fun _ _ hd =>
  have ⟨hc, hwf⟩ := decodeWord_iff.1 hd
  ⟨encodeWord_of_candidate hc, hwf⟩

end Sys2Proof
end

section
/-! SUPPORT. Paired words (R161 to R163), TRAP and words that are no instruction (R173, R208), the return from the handler
(R250). -/
namespace Sys2Proof.Machine

/-! ### Paired words -/

/-- The lanes in which a paired word has an active half. -/
def pairLanes (x y : Half) (s : State) (c : Ctx) : List Nat :=
  c.lanes.filter fun l => (s.activeLanes c x.pg x.pn).contains l || (s.activeLanes c y.pg y.pn).contains l

/-- A paired word is issued on the registers that both halves name; its effect reads in the state before any write. -/
theorem exec_pairedWord (settle : Bool) (x y : Half) (s : State) :
    exec (.pairedWord settle x y) s = .next (s.issueOn settle (pairLanes x y)
      (halfReads x ++ halfReads y ++ [x.d.toNat, y.d.toNat]) (halfReads x ++ halfReads y) fun s c _ =>
        match pairSlag (halfSlag s c.wave x (s.activeLanes c x.pg x.pn)) (halfSlag s c.wave y (s.activeLanes c y.pg y.pn)) with
        | some t => .trap s t
        | none => .done s (halfWrites s c.wave x (s.activeLanes c x.pg x.pn) ++
            halfWrites s c.wave y (s.activeLanes c y.pg y.pn)) []) := rfl

/-- Settles O19. The writes of both halves are lists made from the state in which the word is issued. -/
theorem pairedResults : Obligations.PairedResults := by
  intro s c settle x y ax ay act value r hx hy
  rw [exec_pairedWord, State.issueOn_issued (lanes := pairLanes x y) r, hx, hy]
  rfl

/-! ### TRAP, words that are no instruction, EMURET -/

theorem exec_trap (h : Hdr) (o : OpS) (s : State) :
    exec (.trap h o) s = .next (s.issueWord h [] [] fun s _ act => .trap s (.call o.imm.toNat act)) := rfl

theorem exec_illegalEncoding (w : Word) (s : State) : exec (.illegalEncoding w) s = .next (s.issueIllegal w) := rfl

/-- A word that is no instruction traps where it has an active lane, and only advances where it has none (R173). -/
theorem State.issueIllegal_active {s : State} {c : Ctx} {w : Word} (r : Issued s c (wordLanes w s c) [] []) :
    s.issueIllegal w = s.takeTrap c (.illegal (illegalEmu w) (wordLanes w s c)) :=
  State.issueOn_issued (lanes := wordLanes w) r _ _

theorem State.issueIllegal_idle {s : State} {c : Ctx} {w : Word} (hc : s.ctx = some c) (ha : wordLanes w s c = []) :
    s.issueIllegal w = retired s c (w.getLsbD 63) false [] [] :=
  State.issueOn_idle (lanes := wordLanes w) hc ha _ _ _ _

section
variable {s : State} {c : Ctx} (h : Hdr) (o : OpS) (hc : s.ctx = some c)
include hc

/-- EMURET is a region boundary in the handler, and no instruction outside it (R250, R382). -/
theorem exec_emuret_inside (hh : c.wave.handlerMode = true) :
    exec (.emuret h o) s = .next (s.issueBoundary h [] []
      (fun s c _ => if (s.wave c.w).results.isEmpty then none else some (.settle s))
      (fun s c act => .moved (s.onWave c.w fun w => (w.advance (s.curLanes c)).leaveHandler act) [])) := by
  show execEmuret h o s = _
  simp only [execEmuret, hc, hh, if_true]

theorem exec_emuret_outside (hh : c.wave.handlerMode = false) :
    exec (.emuret h o) s = .next (s.issueIllegal c.word) := by
  show execEmuret h o s = _
  simp only [execEmuret, hc, hh, Bool.false_eq_true, if_false]

end

/-- A lane of a list is changed as the list's lanes are. -/
theorem Wave.thread_onLanes_mem {w : Wave} {lanes : List Nat} {l : Nat} (hl : l ∈ lanes) (hlt : l < w.threads.length)
    (f : Nat → Thread → Thread) : (w.onLanes lanes f).thread l = f l (w.thread l) := by
  simp [Wave.thread, Wave.onLanes, List.getD_eq_getElem?_getD, List.getElem?_eq_getElem hlt, hl]

/-- Settles O21. TRAP and a word that is no instruction are words whose effect is the trap; EMURET in the handler is a region
boundary. -/
theorem trapsAndReturn : Obligations.TrapsAndReturn := by
  refine ⟨⟨fun s c h o r => ?trap, fun s c w r => ?illegal, fun s c w hc ha => ?idle⟩,
    fun s s1 c h o b hh hres => ?returns, fun w lanes l hl hlt => ?left, fun s c h o hc hh => exec_emuret_outside h o hc hh⟩
  case trap => rw [exec_trap, State.issueWord_ready r, State.finish_trap]
  case illegal => rw [exec_illegalEncoding, State.issueIllegal_active r]
  case idle => rw [exec_illegalEncoding, State.issueIllegal_idle hc ha]
  case returns =>
    rw [exec_emuret_inside h o b.ready.ctx hh, State.issueBoundary_ready b _ _ (by simp [hres]), State.finish_moved]
  case left =>
    rw [Wave.leaveHandler, Wave.thread_onLanes_mem hl hlt]
    exact ⟨rfl, rfl⟩

end Sys2Proof.Machine
end

section
/-! SUPPORT. Words with no active lane (R160): each only advances, and what looks at a wait afterwards finds none. -/
namespace Sys2Proof.Machine

/-! ### What a word with no active lane leaves of its wave -/

/-- Its wave's park, cluster and host block stand. -/
theorem retired_keeps (settle : Bool) (s : State) (c : Ctx) (w : Wave) :
    let x := closed settle false (((s.writeNow w []).writeLate c.det []).advance (s.curLanes c))
    x.park = w.park ∧ x.cluster = w.cluster ∧ x.host = w.host := by
  simp only [closed, State.writeNow, State.overtake, Wave.applyAll, Wave.writeLate, Wave.advance, Wave.onLanes,
    List.foldl_nil, List.isEmpty_nil, if_true, Bool.false_eq_true, if_false]
  split <;> exact ⟨rfl, rfl, rfl⟩

/-- What a change of a wave keeps of each wave, it keeps in the table. -/
theorem State.wave_onWave_keeps {α : Type} (read : Wave → α) {f : Wave → Wave} (hf : ∀ x, read (f x) = read x) (s : State)
    (w k : Nat) : read ((s.onWave w f).wave k) = read (s.wave k) := by
  simp only [State.wave, State.onWave_waves, Tab.getD, Tab.find_modify]
  cases s.waves.find k with
  | none => simp
  | some x => by_cases hk : k = w <;> simp [hk, hf]

/-- The context of the word after it: the wave is parked as before, on the same core. -/
theorem State.ctx_retired (settle : Bool) {s : State} {c : Ctx} (hc : s.ctx = some c) :
    ∃ d, (retired s c settle false [] []).ctx = some d ∧ d.wave.park = c.wave.park ∧ d.core = c.core := by
  obtain ⟨i, hi, rfl⟩ := Option.map_eq_some_iff.1 hc
  refine ⟨_, congrArg (Option.map _) hi, ?_, ?_⟩
  · exact State.wave_onWave_keeps Wave.park (fun x => (retired_keeps settle s _ x).1) s _ _
  · exact State.wave_onWave_keeps s.coreOf (fun x => by
      obtain ⟨_, hcluster, hhost⟩ := retired_keeps settle s (s.ctxFor i) x
      rw [State.coreOf, hcluster, hhost, State.coreOf]) s _ _

/-! ### What looks at a wait -/

/-- A look at what a wave waits for does nothing where the wave is not parked. -/
def LooksAtPark (f : State → Ctx → State) : Prop := ∀ s c, c.wave.park = none → f s c = s

theorem wakeBarrier_looksAtPark : LooksAtPark State.wakeBarrier := fun s c h => by simp only [State.wakeBarrier, h]
theorem wakeCounter_looksAtPark : LooksAtPark State.wakeCounter := fun s c h => by simp only [State.wakeCounter, h]
theorem wakeRing_looksAtPark : LooksAtPark State.wakeRing := fun s c h => by simp only [State.wakeRing, h]
theorem wakeLatch_looksAtPark : LooksAtPark State.wakeLatch := fun s c h => by simp only [State.wakeLatch, h]

/-! ### Waiting requests for registers -/

theorem insertBy_ne_nil {α : Type} (f : α → Nat) (a : α) (l : List α) : insertBy f a l ≠ [] := by
  cases l with
  | nil => exact List.cons_ne_nil _ _
  | cons b r => rw [insertBy]; split <;> exact List.cons_ne_nil _ _

theorem sortBy_eq_nil_iff {α : Type} {f : α → Nat} {l : List α} : sortBy f l = [] ↔ l = [] := by
  constructor
  · intro h
    rcases List.eq_nil_or_concat l with hl | ⟨r, a, rfl⟩
    · exact hl
    · rw [List.concat_eq_append, sortBy, List.foldl_append] at h
      exact absurd h (insertBy_ne_nil f a _)
  · rintro rfl; rfl

/-- No request waits on a core when no wave of a resident cluster is parked in GROW there. -/
theorem State.growers_eq_nil_iff {s : State} {core : Nat} :
    s.growers core = [] ↔ ∀ p ∈ s.waves, s.coreOf p.2 = core → (s.cluster p.2.cluster).life.resident = true →
      ∀ a, p.2.park ≠ some (.grow a) := by
  rw [State.growers, sortBy_eq_nil_iff, List.filter_eq_nil_iff]
  refine forall₂_congr fun p _ => ?_
  simp only [Bool.and_eq_true, beq_iff_eq, not_and, and_imp]
  refine forall₂_congr fun _ _ => ?_
  split
  · rename_i a hpark
    exact ⟨fun h => absurd rfl h, fun h => absurd hpark (h a)⟩
  · rename_i hpark
    exact ⟨fun _ => hpark, fun _ => Bool.false_ne_true⟩

/-- A word with no active lane makes no wave wait for registers. -/
theorem State.growers_retired {s : State} {c : Ctx} {core : Nat} (h : s.growers core = []) (settle : Bool) :
    (retired s c settle false [] []).growers core = [] := by
  rw [State.growers_eq_nil_iff] at h ⊢
  intro p hp
  obtain ⟨q, hq, rfl⟩ := List.mem_map.1 hp
  dsimp only
  split
  · obtain ⟨hpark, hcluster, hhost⟩ := retired_keeps settle s c q.2
    intro hcore hlife
    rw [State.coreOf, hcluster, hhost] at hcore
    rw [hcluster] at hlife
    rw [hpark]
    exact h q hq hcore hlife
  · exact h q hq

/-- Without waiting requests there is none to grant. -/
theorem State.grant_none {s : State} {core : Nat} (h : s.growers core = []) : s.grant core = s := by
  rw [State.grant, h]; rfl

/-! ### Ways to issue a word -/

section
variable {s : State} {c : Ctx} {h : Hdr} (hc : s.ctx = some c) (ha : s.activeLanes c h.pg h.pn = [])
include hc

theorem State.wakeCur_guardedOff (hpark : c.wave.park = none) {f : State → Ctx → State} (hf : LooksAtPark f) {t : State}
    {settle : Bool} (ht : t = retired s c settle false [] []) : t.wakeCur f = retired s c settle false [] [] := by
  obtain ⟨d, hd, hdpark, -⟩ := State.ctx_retired settle hc
  rw [ht, State.wakeCur, hd]
  exact hf _ d (hdpark.trans hpark)

theorem State.grantCur_guardedOff (hg : s.growers c.core = []) {t : State} {settle : Bool}
    (ht : t = retired s c settle false [] []) :
    (t.wakeCur fun s c => s.grant c.core) = retired s c settle false [] [] := by
  obtain ⟨d, hd, -, hcore⟩ := State.ctx_retired settle hc
  rw [ht, State.wakeCur, hd]
  exact State.grant_none (hcore ▸ State.growers_retired hg settle)

include ha

theorem State.issueWord_guardedOff (dst src : List Nat) (eff : State → Ctx → List Nat → Effect) :
    s.issueWord h dst src eff = retired s c h.s false [] [] :=
  (State.issueWord_idle hc ha dst src eff).trans (State.finish_done _ _ _ _ _ _)

theorem State.issueA_guardedOff (o : OpA) (sh : ShapeA) (late : Bool) (check : State → Ctx → List Nat → Option Trap)
    (out : State → Ctx → List Nat → List RegWrite) : s.issueA h o sh late check out = retired s c h.s false [] [] :=
  State.issueWord_guardedOff hc ha _ _ _

theorem State.issueValue_guardedOff (o : OpA) (sh : ShapeA) (late : Bool) (ty : Nat)
    (f : State → Ctx → List Nat → Nat → Nat) : s.issueValue h o sh late ty f = retired s c h.s false [] [] :=
  State.issueA_guardedOff hc ha _ _ _ _ _

theorem State.issueBoundaryIn_guardedOff (dst src : List Nat) (txn : State → Ctx → List Nat → List Nat × State)
    (check : State → Ctx → List Nat → Option Effect) (eff : State → Ctx → List Nat → Effect) (uni : List Nat) (out : Reach) :
    s.issueBoundaryIn h dst src txn check eff uni out = retired s c h.s false [] [] := by
  simp only [State.issueBoundaryIn, hc, ha, List.isEmpty_nil, if_true, State.finish_done]

theorem State.issueBoundary_guardedOff (dst src : List Nat) (check : State → Ctx → List Nat → Option Effect)
    (eff : State → Ctx → List Nat → Effect) (uni : List Nat) (out : Reach) :
    s.issueBoundary h dst src check eff uni out = retired s c h.s false [] [] :=
  State.issueBoundaryIn_guardedOff hc ha _ _ _ _ _ _ _

theorem State.issueLoad_guardedOff (o : OpM) (f : Form) : s.issueLoad h o f = retired s c h.s false [] [] := by
  unfold State.issueLoad
  dsimp only
  split
  · exact State.issueWord_guardedOff hc ha _ _ _
  · exact State.issueBoundaryIn_guardedOff hc ha _ _ _ _ _ _ _

theorem State.issueStore_guardedOff (o : OpM) (f : Form) : s.issueStore h o f = retired s c h.s false [] [] := by
  unfold State.issueStore
  dsimp only
  split
  · exact State.issueWord_guardedOff hc ha _ _ _
  · exact State.issueBoundaryIn_guardedOff hc ha _ _ _ _ _ _ _

theorem exec_red_guardedOff (o : OpM) : exec (.red h o) s = .next (retired s c h.s false [] []) := by
  show execRed h o s = _
  unfold execRed
  split
  · exact congrArg Host.Outcome.next (State.issueWord_guardedOff hc ha _ _ _)
  · exact congrArg Host.Outcome.next (State.issueBoundaryIn_guardedOff hc ha _ _ _ _ _ _ _)

/-- A word with a header and no active lane only advances: whichever way it is issued, its guard stands before everything
else. -/
theorem exec_guardedOff {i : Instr} (hi : hdrOfInstr i = some h) (hpark : c.wave.park = none)
    (hg : ∀ o, i = .grow h o → s.growers c.core = []) : exec i s = .next (retired s c h.s false [] []) := by
  cases i
  case ldg | ldgs | lds | ldc | ldl | ld => cases hi; exact congrArg Host.Outcome.next (State.issueLoad_guardedOff hc ha _ _)
  case stg | stgs | sts | stc | stl | st => cases hi; exact congrArg Host.Outcome.next (State.issueStore_guardedOff hc ha _ _)
  case red => cases hi; exact exec_red_guardedOff hc ha _
  case region | binit | fence | fencelk | shrink | job | exit | rls | strm | mswp | mzero | sift | sifth | mpsh | mpop | enq |
      deq | qwait | atom =>
    cases hi
    exact congrArg Host.Outcome.next (State.issueBoundary_guardedOff hc ha _ _ _ _ _ _)
  case tbegin | tend | tabort | halt =>
    cases hi
    exact congrArg Host.Outcome.next (State.issueBoundaryIn_guardedOff hc ha _ _ _ _ _ _ _)
  case barv | bsync | bwait =>
    cases hi
    exact congrArg Host.Outcome.next (State.wakeCur_guardedOff hc hpark wakeBarrier_looksAtPark
      (State.issueBoundary_guardedOff hc ha _ _ _ _ _ _))
  case cwait =>
    cases hi
    exact congrArg Host.Outcome.next (State.wakeCur_guardedOff hc hpark wakeCounter_looksAtPark
      (State.issueBoundary_guardedOff hc ha _ _ _ _ _ _))
  case awf =>
    cases hi
    exact congrArg Host.Outcome.next (State.wakeCur_guardedOff hc hpark wakeRing_looksAtPark
      (State.issueBoundary_guardedOff hc ha _ _ _ _ _ _))
  case mma | mas | mconv =>
    cases hi
    exact congrArg Host.Outcome.next (State.wakeCur_guardedOff hc hpark wakeLatch_looksAtPark
      (State.issueBoundary_guardedOff hc ha _ _ _ _ _ _))
  case grow o =>
    cases hi
    exact congrArg Host.Outcome.next (State.grantCur_guardedOff hc (hg o rfl)
      (State.issueBoundary_guardedOff hc ha _ _ _ _ _ _))
  case iadd | isub | imul | imulh | imad | imin | imax | iabs | ineg | idiv | irem | and | or | xor | andn | shl | shr | sar |
      rotl | popc | clz | ctz | brev | lea | funsh | bfx | bfi | prmt | isel | mov | fcls | shfl | matchLanes | tslag =>
    cases hi
    exact congrArg Host.Outcome.next (State.issueValue_guardedOff hc ha _ _ _ _ _)
  case fadd | fsub | fmul | ffma | fmin | fmax | frcp | frsq | fsqrt | fdiv | fex2 | flg2 | fsin | fcos | ftanh | frnd =>
    cases hi
    exact congrArg Host.Outcome.next (State.issueA_guardedOff hc ha _ _ _ _ _)
  -- what has no header is left out; every other word is issued as a word with one guard
  all_goals cases hi
  all_goals exact congrArg Host.Outcome.next (State.issueWord_guardedOff hc ha _ _ _)

end

/-- Settles O7. However a word is issued, the test for an active lane comes first; a word that may park
looks at its wave afterwards, which is not parked, and GROW at the waiting requests, of which there are none. -/
theorem guardedOff : Obligations.GuardedOff := by
  refine ⟨fun s c pg pn l => ?lanes, fun s c i h hi hc hpark hg ha => exec_guardedOff hc ha hi hpark hg,
    fun s c settle x y hc hx hy => ?paired, fun s c h o hc hh ha => ?handler, fun s c w hc ha => ⟨?illegal, ?outside⟩⟩
  case lanes =>
    rw [State.activeLanes, List.mem_filter, bne_iff_ne, Bool.eq_not]
    refine and_congr_right fun _ => ?_
    by_cases h7 : pg = 7
    · subst h7; rfl
    · rw [if_neg h7]
  case paired =>
    rw [exec_pairedWord, State.issueOn_idle (lanes := pairLanes x y) hc (by simp [pairLanes, hx, hy]), State.finish_done]
  case handler =>
    rw [exec_emuret_inside h o hc hh]
    exact congrArg Host.Outcome.next (State.issueBoundaryIn_guardedOff hc ha _ _ _ _ _ _ _)
  case illegal => rw [exec_illegalEncoding, State.issueIllegal_idle hc ha]
  case outside =>
    rintro h o rfl hh
    rw [exec_emuret_outside h o hc hh, State.issueIllegal_idle hc ha]

end Sys2Proof.Machine
end

section
/-! SUPPORT. Integer, logical and predicate words that may act (R183 to R189, R203), and VOTE (R201). -/
namespace Sys2Proof.Machine

/-- A bitwise word that may act places the value of its function on A, B and the 32-bit count. -/
theorem State.issueBits_ready {s : State} {c : Ctx} {h : Hdr} {o : OpA} {sh : ShapeA} (r : ReadyA s c h o sh)
    (f : Nat → Nat → Nat → Nat → Nat) :
    s.issueBits h o sh f = resultA s c h o sh o.ty.toNat fun l =>
      f (intWidth o.ty.toNat) (srcA s c.wave o l (intWidth o.ty.toNat)) (srcB s c.wave o l (intWidth o.ty.toNat))
        (srcB s c.wave o l 32) :=
  State.issueValue_ready r false _ _

/-- Settles O11. Each word but LEA is an integer word on its row of Table 7-2; LEA reads A and B at widths of their own. -/
theorem integerResults : Obligations.IntegerResults := by
  refine fun s c h o => ⟨fun r => ?reduced, fun r => ?unreduced, fun r => ?imad, fun r => ?iabs, fun r => ?ineg, fun r => ?lea⟩
  case reduced | unreduced => refine ⟨?_, ?_, ?_⟩ <;> exact congrArg Host.Outcome.next (State.issueInt_ready r false _)
  case imad | iabs | ineg => exact congrArg Host.Outcome.next (State.issueInt_ready r false _)
  case lea => exact congrArg Host.Outcome.next (State.issueValue_ready r false _ _)

/-- Settles O13. The words of Table 7-3 place a value of N-bit patterns; ISETP and PLOP write a predicate; PGET and PSET
write lists of their own. -/
theorem logicalResults : Obligations.LogicalResults := by
  refine ⟨fun s c h o => ⟨fun r => ?bitwise, fun r => ?shifts, fun r => ?funsh, fun r => ?bfx, fun r => ?bfi,
    fun r => ?counts, fun r => ?prmt⟩, fun s c h o => ⟨fun r => ?isetp, fun r => ?isel, fun r => ?mov, fun r => ?plop,
    fun r => ?pget, fun r => ?pset⟩⟩
  case bitwise | shifts | counts =>
    refine ⟨?_, ?_, ?_, ?_⟩ <;> exact congrArg Host.Outcome.next (State.issueBits_ready r _)
  case funsh | bfx | bfi | prmt | mov => exact congrArg Host.Outcome.next (State.issueValue_ready r false _ _)
  case isel =>
    refine (congrArg Host.Outcome.next (State.issueValue_ready r false _ _)).trans ?_
    simp only [Bool.and_eq_true, decide_eq_true_eq]
    rfl
  case isetp | plop => exact congrArg Host.Outcome.next (State.issueA_pred r rfl _)
  case pget | pset => exact congrArg Host.Outcome.next (State.issueA_ready r false _ _ rfl)

/-! ### VOTE -/

/-- q of R201: the predicate that A names, negated when X1 = 1. -/
def voteBit (s : State) (c : Ctx) (o : OpA) (l : Nat) : Bool := s.readP c.wave l (o.a.toNat % 8) != o.x1

/-- What VOTE writes, by X3. -/
def voteWrites (s : State) (c : Ctx) (o : OpA) (act : List Nat) : List RegWrite :=
  match o.x3.toNat with
  | 0 => predWrites o act fun _ => act.all (voteBit s c o)
  | 1 => predWrites o act fun _ => act.any (voteBit s c o)
  | 2 => predWrites o act fun _ => act.all (voteBit s c o) || act.all fun l => !voteBit s c o l
  | _ => destWrites (shapeVote o) o act 6 fun _ => maskOf (act.filter (voteBit s c o))

/-- VOTE leaves its writes as outstanding results (R165). -/
theorem exec_vote_ready {s : State} {c : Ctx} {h : Hdr} {o : OpA} (r : ReadyA s c h o (shapeVote o)) :
    exec (.vote h o) s = .next (retired s c h.s false [] (voteWrites s c o (s.activeLanes c h.pg h.pn))) :=
  congrArg Host.Outcome.next (State.issueA_ready r true _ _ rfl)

/-- A predicate is all true or all false over a list where any two of the list agree. -/
theorem all_or_all_not_eq {α : Type} (l : List α) (q : α → Bool) :
    (l.all q || l.all fun x => !q x) = decide (∀ x ∈ l, ∀ y ∈ l, q x = q y) := by
  rw [Bool.eq_iff_iff]
  simp only [Bool.or_eq_true, List.all_eq_true, Bool.not_eq_true', decide_eq_true_eq]
  constructor
  · rintro (hq | hq) x hx y hy <;> rw [hq x hx, hq y hy]
  · intro agree
    cases l with
    | nil => exact .inl fun x hx => absurd hx List.not_mem_nil
    | cons a l =>
      have same : ∀ x ∈ a :: l, q x = q a := fun x hx => agree x hx a List.mem_cons_self
      cases ha : q a with
      | true => exact .inl fun x hx => (same x hx).trans ha
      | false => exact .inr fun x hx => (same x hx).trans ha

section
variable {s : State} {c : Ctx} {o : OpA} (act : List Nat)

theorem voteWrites_all (hx : o.x3 = 0) :
    voteWrites s c o act = predWrites o act fun _ => decide (∀ j ∈ act, voteBit s c o j = true) := by
  simp [voteWrites, hx, List.all_eq]

theorem voteWrites_any (hx : o.x3 = 1) :
    voteWrites s c o act = predWrites o act fun _ => decide (∃ j ∈ act, voteBit s c o j = true) := by
  simp [voteWrites, hx, List.any_eq]

theorem voteWrites_uniform (hx : o.x3 = 2) :
    voteWrites s c o act =
      predWrites o act fun _ => decide (∀ j ∈ act, ∀ k ∈ act, voteBit s c o j = voteBit s c o k) := by
  simp only [← all_or_all_not_eq, voteWrites, hx]
  rfl

theorem voteWrites_ballot (hx : 3 ≤ o.x3.toNat) :
    voteWrites s c o act = destWrites (shapeVote o) o act 6 fun _ => maskOf (act.filter (voteBit s c o)) := by
  unfold voteWrites
  split
  · omega
  · omega
  · omega
  · rfl

end

/-- Settles O17. VOTE's writes in each of its modes. -/
theorem voteResults : Obligations.VoteResults := by
  intro s c h o act q r
  rw [exec_vote_ready r]
  refine ⟨fun hx => ?all, fun hx => ?any, fun hx => ?uniform, fun hx => ?ballot⟩
  case all => rw [voteWrites_all act hx]; rfl
  case any => rw [voteWrites_any act hx]; rfl
  case uniform => rw [voteWrites_uniform act hx]; rfl
  case ballot => rw [voteWrites_ballot act hx]; rfl

end Sys2Proof.Machine
end

section
/-! SUPPORT. Words with immediates that may act (R204, R205). -/
namespace Sys2Proof.Machine

section
variable {s : State} {c : Ctx} {h : Hdr} {o : OpB}

/-- The two ends of a class B word with a register result are those of its destination (R155). -/
theorem finish_resultB (vec : Nat → Nat) (uni : Word) :
    State.finish c h.s false (if opBUniform o then .done s [.uni (o.d.toNat - 192) uni] []
      else .done s ((s.activeLanes c h.pg h.pn).map fun l => .vec l o.d.toNat (BitVec.ofNat 32 (vec l))) []) =
      resultB s c h o vec uni := by
  by_cases hd : 192 ≤ o.d.toNat <;> simp only [opBUniform, resultB, hd, decide_true, decide_false, Bool.false_eq_true,
    if_true, if_false, State.finish_done]

/-- A class B word that may act places its 32-bit value in each active lane, or its 64-bit value once. -/
theorem State.issueB_ready {readsA : Bool} (r : ReadyB s c h o readsA) (vec : Nat → Nat) (uni : Word → Word) :
    s.issueB h o readsA vec uni = resultB s c h o (fun l => vec (if readsA then bVec s c o l else 0))
      (uni (if readsA then bUni s c o else s.readU c.wave (o.d.toNat - 192))) := by
  rw [State.issueB, State.issueWord_ready r]
  exact finish_resultB _ _

/-- The slag check of a floating-point form passes on an operand and an immediate free of slag (R76). -/
theorem immSlag_none {w : Wave} {uniform : Bool} {act : List Nat}
    (free : NoSlag act [(10, immOperand s w uniform o), (10, fun _ => o.imm.toNat)]) (op : Nat) :
    immSlag s w uniform o op act = none :=
  slagTrap_none _ _ _ _ fun l hl => by simpa using free l hl

/-- FADDI and FMULI that may act on operands free of slag. -/
theorem State.issueImmFp_ready (r : ReadyB s c h o true)
    (free : NoSlag (s.activeLanes c h.pg h.pn)
      [(10, immOperand s c.wave (opBUniform o) o), (10, fun _ => o.imm.toNat)]) (op : Nat) (f : Nat → Nat → Nat) :
    s.issueImmFp h o op f = resultB s c h o (fun l => f (immOperand s c.wave (opBUniform o) o l) o.imm.toNat)
      (BitVec.ofNat 64 (f (immOperand s c.wave (opBUniform o) o 0) o.imm.toNat)) := by
  rw [State.issueImmFp, State.issueWord_ready r]
  dsimp only
  rw [immSlag_none free]
  exact finish_resultB _ _

/-- A comparison with an immediate that may act and whose check passes writes its predicate in each active lane. -/
theorem State.issueSetpi_ready (r : Ready s c h [] (if opBUniform o then [] else [o.a.toNat]))
    {trap : State → Ctx → List Nat → Option Trap} (pass : trap s c (s.activeLanes c h.pg h.pn) = none)
    (cond : State → Wave → Nat → Bool) :
    s.issueSetpi h o trap cond = retired s c h.s false
      ((s.activeLanes c h.pg h.pn).map fun l => .pred l (o.d.toNat % 8) (cond s c.wave l)) [] := by
  rw [State.issueSetpi, State.issueWord_ready r, pass, State.finish_done]

end

/-- Settles O18. The integer forms are class B words; the check of the floating-point forms passes. -/
theorem immediateResults : Obligations.ImmediateResults := by
  refine ⟨fun s c h o => ⟨fun r => ?moves, fun r => ?integer⟩,
    fun s c h o => ⟨fun r free => ?float, fun r => ⟨?isetpi, fun free => ?fsetpi⟩⟩⟩
  case moves => constructor <;> exact congrArg Host.Outcome.next (State.issueB_ready r _ _)
  case integer => refine ⟨?_, ?_, ?_, ?_, ?_⟩ <;> exact congrArg Host.Outcome.next (State.issueB_ready r _ _)
  case float => constructor <;> exact congrArg Host.Outcome.next (State.issueImmFp_ready r free _ _)
  case isetpi => exact congrArg Host.Outcome.next (State.issueSetpi_ready r rfl _)
  case fsetpi => exact congrArg Host.Outcome.next (State.issueSetpi_ready r (immSlag_none free _) _)

end Sys2Proof.Machine
end

section
/-! SUPPORT. Words of the spec's tables, decoded. -/
namespace Sys2Proof

/-- Settles O4. Each word is the word of its instruction, which is well formed, and so decodes to it. -/
theorem decodeWords : Obligations.DecodeWords :=
  ⟨decodeEncodeWord _ _ (by decide) nofun (by decide), decodeEncodeWord _ _ (by decide) nofun (by decide),
   decodeEncodeWord _ _ (by decide) nofun (by decide), decodeEncodeWord _ _ (by decide) nofun (by decide),
   decodeEncodeWord _ _ (by decide) nofun (by decide)⟩

end Sys2Proof
end

section
/-! SUPPORT. WSP (R249), on a table of blocks in which a block stands twice: the whole table is changed, and each of its blocks
by what waits on its own matrix engine. -/
namespace Sys2Proof.Machine

/-- What WSP writes, lane by lane. -/
def wspValue (s : State) (c : Ctx) (o : OpS) (l : Nat) : Word :=
  if 192 ≤ o.a.toNat then s.readU c.wave (o.a.toNat - 192)
  else if spWide o then s.readPair c.wave l o.a.toNat
  else (s.readV c.wave l o.a.toNat).setWidth 64

/-- A WSP that may act writes its special register and no other. -/
theorem exec_wsp_ready {s : State} {c : Ctx} {h : Hdr} {o : OpS} (r : Ready s c h [] (spRegs o o.a)) :
    exec (.wsp h o) s = .next (retired (s.setSpecial c (spIndex o) (s.activeLanes c h.pg h.pn) (wspValue s c o)) c h.s
      false [] []) :=
  congrArg Host.Outcome.next (State.issueWord_ready r _)

/-- Block 0 stands first with an idle matrix engine, then with one that an operation waits on. -/
def twiceIssue : Issue := { wave := 0, lanes := [0], pc := 0, word := 0 }
def twiceOp : MatrixOp := { word := 0, pc := 0, lanes := [0], number := 0, members := [] }
def twiceState : State :=
  { cur := some twiceIssue
    waves := [(0, { threads := [{}] })]
    blocks := [(0, {}), (0, { matrix := { ops := [twiceOp], count := 1 } })] }
def twiceCtx : Ctx := twiceState.ctxFor twiceIssue

/-- A WSP of s0 to sr.abn0. -/
def twiceHdr : Hdr := { s := false, pg := 7, pn := false }
def twiceWsp : OpS := { d := 0, a := 192, imm := 0x40 }

theorem twiceWsp_ready : Ready twiceState twiceCtx twiceHdr [] (spRegs twiceWsp twiceWsp.a) where
  ctx := rfl
  active := by decide
  below := by decide
  clean := by decide

/-- How many operations wait on each matrix engine. -/
def waitingOps (s : State) : List Nat := s.blocks.map fun p => p.2.matrix.ops.length

theorem twiceWsp_waitingOps :
    waitingOps (retired (twiceState.setSpecial twiceCtx (spIndex twiceWsp)
      (twiceState.activeLanes twiceCtx twiceHdr.pg twiceHdr.pn) (wspValue twiceState twiceCtx twiceWsp)) twiceCtx
      twiceHdr.s false [] []) = [0, 2] := by decide

/-- Refutes O25: a counter's write is made in the whole table of blocks, and the statement, which does not ask that a block
stands in it once, looks at the operations of the first alone. -/
theorem not_specialRegisters : ¬ Obligations.SpecialRegisters := by
  intro h
  obtain ⟨-, -, hwsp⟩ := h.1 twiceState twiceCtx twiceHdr twiceWsp
  obtain ⟨-, hcounter, -⟩ := hwsp twiceWsp_ready
  obtain ⟨hidle, -⟩ := hcounter (by decide) (by decide)
  have hstates := Host.Outcome.next.inj ((exec_wsp_ready twiceWsp_ready).symm.trans (hidle (by decide)))
  have hops := twiceWsp_waitingOps.symm.trans (congrArg waitingOps hstates)
  revert hops
  decide

end Sys2Proof.Machine
end

section
/-! SUPPORT. HALT and TLBINV (R251, R335, R408). -/
namespace Sys2Proof

theorem Tab.find_mapVals {α : Type} (t : Tab α) (f : α → α) (k : Nat) : (t.mapVals f).find k = (t.find k).map f := by
  induction t with
  | nil => rfl
  | cons q r ih =>
    simp only [Tab.mapVals, List.map_cons, Tab.find] at ih ⊢
    split
    · rfl
    · exact ih

/-- What is read of an entry follows a change of every value, where the default reads as the change makes it. -/
theorem Tab.getD_mapVals {α β : Type} (t : Tab α) (f : α → α) (k : Nat) (d : α) (read : α → β) (keep : β → β)
    (hf : ∀ x, read (f x) = keep (read x)) (hd : keep (read d) = read d) :
    read ((t.mapVals f).getD k d) = keep (read (t.getD k d)) := by
  rw [Tab.getD, Tab.getD, Tab.find_mapVals]
  cases t.find k with
  | none => exact hd.symm
  | some x => exact hf x

end Sys2Proof

namespace Sys2Proof.Machine

/-! ### Clusters and TLBs -/

theorem State.cluster_onCluster {s : State} {k : Nat} (h : (s.clusters.find k).isSome = true) (f : Cluster → Cluster) :
    (s.onCluster k f).cluster k = f (s.cluster k) := by
  obtain ⟨x, hx⟩ := Option.isSome_iff_exists.1 h
  simp only [State.cluster, State.onCluster, Tab.getD, Tab.find_modify, hx, if_true]
  rfl

theorem State.life_haltCluster {s : State} {c : Ctx} (h : (s.clusters.find c.cl).isSome = true) (code : Nat) :
    ((s.haltCluster c code).cluster c.cl).life =
      .halted ((s.block (s.blockOf c.cl 0)).core + (s.halts + 1).toNat * 2 ^ 8) :=
  congrArg Cluster.life (State.cluster_onCluster (s := { s with halts := s.halts + 1 }) h fun x =>
    { x with life := .halted ((s.block (s.blockOf c.cl 0)).core + (s.halts + 1).toNat * 2 ^ 8) })

/-- The translations that TLBINV leaves in a TLB, by its mode. -/
def tlbLeft (asid : BitVec 14) (va mode : Nat) (l : List Leaf) : List Leaf :=
  if mode = 0 then dropLeaf l asid va else if mode = 1 then l.filter fun x => x.asid != asid else []

theorem tlbLeft_nil (asid : BitVec 14) (va mode : Nat) : tlbLeft asid va mode [] = [] := by
  unfold tlbLeft
  split
  · rfl
  · split <;> rfl

theorem State.invalidateTlbs_eq (s : State) (asid : BitVec 14) (va mode : Nat) :
    s.invalidateTlbs asid va mode = { s with
      cores := s.cores.mapVals fun k => { k with tlb := tlbLeft asid va mode k.tlb }
      dies := s.dies.mapVals fun d => { d with l2tlb := tlbLeft asid va mode d.l2tlb } } := by
  unfold State.invalidateTlbs tlbLeft
  match mode with
  | 0 => rfl
  | 1 => rfl
  | _ + 2 => rfl

theorem State.tlb_invalidateTlbs (s : State) (asid : BitVec 14) (va mode k : Nat) :
    ((s.invalidateTlbs asid va mode).core k).tlb = tlbLeft asid va mode (s.core k).tlb := by
  rw [State.invalidateTlbs_eq]
  exact Tab.getD_mapVals s.cores (fun k => { k with tlb := tlbLeft asid va mode k.tlb }) k {} CoreState.tlb
    (tlbLeft asid va mode) (fun _ => rfl) (tlbLeft_nil ..)

theorem State.l2tlb_invalidateTlbs (s : State) (asid : BitVec 14) (va mode k : Nat) :
    ((s.invalidateTlbs asid va mode).die k).l2tlb = tlbLeft asid va mode (s.die k).l2tlb := by
  rw [State.invalidateTlbs_eq]
  exact Tab.getD_mapVals s.dies (fun d => { d with l2tlb := tlbLeft asid va mode d.l2tlb }) k {} DieState.l2tlb
    (tlbLeft asid va mode) (fun _ => rfl) (tlbLeft_nil ..)

/-! ### The words -/

theorem privTrap_unprivileged {c : Ctx} (hp : c.card.priv = false) (op : Nat) (act : List Nat) :
    privTrap c op act = some (.error 0x0006 op 0 act) := by rw [privTrap, hp]; rfl

theorem privTrap_privileged {c : Ctx} (hp : c.card.priv = true) (op : Nat) (act : List Nat) : privTrap c op act = none := by
  rw [privTrap, hp]; rfl

section
variable {s s1 : State} {c : Ctx} {h : Hdr} {o : OpS}

/-- HALT in an unprivileged job commits nothing (Table 18-4). -/
theorem exec_halt_unprivileged (r : Ready s c h [] []) (hp : c.card.priv = false) :
    exec (.halt h o) s = .next (s.programError c 0x0006 0x30 0 (s.activeLanes c h.pg h.pn)) := by
  have hexec : exec (.halt h o) s = execHalt h o s := rfl
  rw [hexec, execHalt]
  simp only [State.issueBoundaryIn, r.ctx, isEmpty_of_ne r.active, registerTrap_none c _ _ r.below,
    privTrap_unprivileged hp, Bool.false_eq_true, if_false]
  rfl

/-- HALT in a privileged job, of a task that runs once, commits and stops its cluster (R251, R335). -/
theorem exec_halt_privileged (r : Ready s c h [] []) (hp : c.card.priv = true) (settled : (s.wave c.w).results = [])
    (single : (s.cluster c.cl).run = none) (commits : s.commit c (s.activeLanes c h.pg h.pn) = .ok s1)
    (still : (s1.cluster c.cl).run = none) :
    exec (.halt h o) s = .next (retired ((begun s1 c).haltCluster c (o.imm.toNat % 256)) c h.s true [] []) := by
  have hexec : exec (.halt h o) s = execHalt h o s := rfl
  have hgate : ∀ n, s.gate c n = .go := fun n => by simp only [State.gate, single]
  have hfollows : (begun s1 c).follows c = false := by
    rw [State.follows, begun, State.cluster_onWave, still]
    rfl
  rw [begun] at hfollows ⊢
  rw [hexec, execHalt]
  simp only [State.issueBoundaryIn, r.ctx, isEmpty_of_ne r.active, registerTrap_none c _ _ r.below,
    privTrap_privileged hp, settled, List.isEmpty_nil, registerPoison_none c.wave [] _ r.clean, hgate, commits,
    State.noteBoundary_single still, hfollows, State.finish_done, Bool.false_eq_true, if_false, if_true]

theorem exec_tlbinv_unprivileged (r : Ready s c h [] []) (hp : c.card.priv = false) :
    exec (.tlbinv h o) s = .next (s.programError c 0x0006 0x31 0 (s.activeLanes c h.pg h.pn)) := by
  have hexec : exec (.tlbinv h o) s = execTlbinv h o s := rfl
  rw [hexec, execTlbinv, State.issueWord_ready r]
  simp only [privTrap_unprivileged hp]
  rfl

/-- TLBINV in a privileged job removes the translations at once; `on` and `stores` are the stores through them, which it waits
for (R251, R408). -/
theorem exec_tlbinv_privileged (r : Ready s c h [] []) (hp : c.card.priv = true) {asid : BitVec 14} {va : Nat}
    (hasid : (s.readU c.wave (uniField o.d)).setWidth 14 = asid) (hva : (s.readU c.wave (uniField o.a)).toNat = va)
    {on : List Nat} {stores : List (Nat × Nat)} (hon : s.storing (s.invalRange asid va (o.imm.toNat % 4)) = on)
    (hstores : s.sending (s.invalRange asid va (o.imm.toNat % 4)) = stores) :
    let t := s.invalidateTlbs asid va (o.imm.toNat % 4)
    exec (.tlbinv h o) s = .next (if on.isEmpty && stores.isEmpty then retired t c h.s false [] []
      else waiting t c h.s false [] (.inval on stores)) := by
  have hexec : exec (.tlbinv h o) s = execTlbinv h o s := rfl
  rw [hexec, execTlbinv, State.issueWord_ready r]
  simp only [privTrap_privileged hp, hasid, hva, hon, hstores]
  split <;> rfl

end

/-- Settles O26. A halt changes its cluster and the records held for the host; an invalidation filters each TLB; the words are
the trap or these operations. -/
theorem privilegedWords : Obligations.PrivilegedWords := by
  refine ⟨fun s c code hcl => ?halted, fun s asid va mode k => ?removed, fun s s1 c h o => ?words⟩
  case halted =>
    exact ⟨rfl, State.life_haltCluster hcl code, fun _ => rfl, rfl⟩
  case removed =>
    exact ⟨s.tlb_invalidateTlbs asid va mode k, s.l2tlb_invalidateTlbs asid va mode k, fun _ => rfl⟩
  case words =>
    intro act asid va on stores t r
    refine ⟨fun hp => ⟨exec_halt_unprivileged r hp, exec_tlbinv_unprivileged r hp⟩, fun hp => ⟨?halt, ?done, ?wait⟩⟩
    case halt => exact fun settled single commits still => exec_halt_privileged r hp settled single commits still
    case done =>
      rintro ⟨hon, hstores⟩
      exact exec_tlbinv_privileged r hp rfl rfl hon hstores
    case wait =>
      intro hwaits
      have hsome : (on.isEmpty && stores.isEmpty) = false := by
        rw [Bool.and_eq_false_iff]
        exact hwaits.imp isEmpty_of_ne isEmpty_of_ne
      refine (exec_tlbinv_privileged r hp rfl rfl rfl rfl).trans (congrArg Host.Outcome.next (if_neg ?_))
      exact ne_true_of_eq_false hsome

end Sys2Proof.Machine
end

section
/-! SUPPORT. What a store leaves unchanged (R216, R389). -/
namespace Sys2Proof.Machine

/-! ### Scratchpads -/

/-- A store in a scratchpad changes no byte at a place that it does not write. -/
theorem Block.scratch_store_of_forall_ne (x : Block) {bytes : List (Nat × Byte)} {n : Nat} (h : ∀ p ∈ bytes, p.1 ≠ n) :
    (x.store bytes).scratch.getD n 0 = x.scratch.getD n 0 := by
  have hlast : lastOf bytes n = none := by
    rw [lastOf, List.find?_eq_none.2 fun p hp => by simpa using h p (List.mem_reverse.1 hp)]
    rfl
  rw [Block.scratch_store, hlast, Option.getD_none]

theorem Block.scratch_softStore_of_forall_ne (x : Block) {bytes : List (Nat × Byte)} {n : Nat} (h : ∀ p ∈ bytes, p.1 ≠ n) :
    (x.softStore bytes).scratch.getD n 0 = x.scratch.getD n 0 := by
  unfold Block.softStore
  split
  · exact x.scratch_store_of_forall_ne h
  · refine x.scratch_store_of_forall_ne fun p hp => ?_
    obtain ⟨q, hq, rfl⟩ := List.mem_map.1 hp
    exact h q (List.mem_filter.1 hq).1

/-- What a change of a block keeps of it, it keeps in the table. -/
theorem State.block_onBlock_keeps {α : Type} (read : Block → α) {k b : Nat} {f : Block → Block}
    (hf : k = b → ∀ x, read (f x) = read x) (s : State) : read ((s.onBlock k f).block b) = read (s.block b) := by
  simp only [State.block, State.onBlock, Tab.getD, Tab.find_modify]
  cases s.blocks.find b with
  | none => simp
  | some x =>
    by_cases hk : b = k
    · simp [hk, hf hk.symm]
    · simp [hk]

/-- The bytes that a store writes in a scratchpad are at its lanes' places. -/
theorem fst_ne_of_mem_localStores {s : State} {c : Ctx} {o : OpM} {b n : Nat} {spots : List (Nat × Place)}
    (h : ∀ l k offs, (l, Place.local b k offs) ∈ spots → n ∉ offs) : ∀ p ∈ localStores s c o b spots, p.1 ≠ n := by
  intro p hp
  obtain ⟨⟨l, va | ⟨b', k, offs⟩⟩, hspot, hbyte⟩ := List.mem_flatMap.1 hp
  · exact absurd hbyte List.not_mem_nil
  · dsimp only at hbyte
    split at hbyte
    · next hb =>
      rw [hb] at hspot
      rintro rfl
      exact h l k offs hspot (List.of_mem_zip (a := p.1) (b := p.2) hbyte).1
    · exact absurd hbyte List.not_mem_nil

/-- A store changes no byte of a scratchpad outside the places of its lanes. -/
theorem State.scratch_storeLocal {s : State} {c : Ctx} {o : OpM} {b n : Nat} {spots : List (Nat × Place)}
    (h : ∀ l k offs, (l, Place.local b k offs) ∈ spots → n ∉ offs) :
    ((s.storeLocal c o spots).block b).scratch.getD n 0 = (s.block b).scratch.getD n 0 := by
  have hfold : ∀ (bs : List Nat) (t : State),
      ((bs.foldl (fun s' k => s'.onBlock k fun x => x.softStore (localStores s c o k spots)) t).block b).scratch.getD n 0 =
        (t.block b).scratch.getD n 0 := by
    intro bs
    induction bs with
    | nil => exact fun _ => rfl
    | cons k bs ih =>
      intro t
      rw [List.foldl_cons, ih]
      exact State.block_onBlock_keeps (fun x => x.scratch.getD n 0)
        (fun hk x => x.scratch_softStore_of_forall_ne (fst_ne_of_mem_localStores (hk ▸ h))) t
  exact hfold _ s

/-! ### The parts that a store does not write -/

/-- The scratchpad part of a store changes blocks alone. -/
theorem State.storeLocal_frame (s : State) (c : Ctx) (o : OpM) (spots : List (Nat × Place)) :
    ∃ blocks, s.storeLocal c o spots = { s with blocks := blocks } := by
  have hfold : ∀ (bs : List Nat) (t : State), ∃ blocks,
      bs.foldl (fun s' k => s'.onBlock k fun x => x.softStore (localStores s c o k spots)) t = { t with blocks := blocks } := by
    intro bs
    induction bs with
    | nil => exact fun t => ⟨_, rfl⟩
    | cons k bs ih =>
      intro t
      obtain ⟨blocks, h⟩ := ih (t.onBlock k fun x => x.softStore (localStores s c o k spots))
      exact ⟨blocks, by rw [List.foldl_cons, h]; rfl⟩
  exact hfold _ s

/-- Noting the words written changes jobs alone. -/
theorem State.noteWrites_frame (s : State) (c : Ctx) (adds : Bool) (words : List Nat) :
    ∃ jobs, s.noteWrites c adds words = { s with jobs := jobs } := by
  unfold State.noteWrites
  split <;> exact ⟨_, rfl⟩

/-- Counting bank conflicts changes cores alone. -/
theorem State.countConflicts_frame (s : State) (g : Nat) (spots : List (Nat × Place)) :
    ∃ cores, s.countConflicts g spots = { s with cores := cores } := by
  unfold State.countConflicts
  induction placeBlocks spots generalizing s with
  | nil => exact ⟨_, rfl⟩
  | cons b bs ih =>
    rw [List.foldl_cons]
    obtain ⟨cores, h⟩ := ih (s.onCore (s.block b).core _)
    exact ⟨cores, h⟩

/-- Without a lane in a transaction, a store that succeeds puts its global bytes in the region store buffer and its local ones
in the scratchpads, and changes no home. -/
theorem State.performStore_ok {s t : State} {c : Ctx} {o : OpM} {spots : List (Nat × Place)} {pages : Tab Nat} {scope : Nat}
    (plain : ∀ p ∈ spots, (c.wave.thread p.1).txn = none) (h : s.performStore c o spots pages scope = .ok t) :
    ∃ rsb, bufferStore (s.wave c.w).rsb scope (globalStores s c o pages spots) = .ok rsb ∧
      t.waves = s.waves.modify c.w (fun w => { w with rsb := rsb }) ∧
      t.blocks = ((s.onWave c.w fun w => { w with rsb := rsb }).storeLocal c o spots).blocks ∧ SameMemory s t := by
  have hplain : spots.filter (fun p => !c.wave.inTxn p.1) = spots :=
    List.filter_eq_self.2 fun p hp => by simp [Wave.inTxn, plain p hp]
  have htx : spots.filter (fun p => c.wave.inTxn p.1) = [] :=
    List.filter_eq_nil_iff.2 fun p hp => by simp [Wave.inTxn, plain p hp]
  have hthreads : ∀ (w : Wave) (f : Nat → Thread → Thread), w.onLanes [] f = w := fun w f => by
    have hsame : w.threads.mapIdx (fun _ t => t) = w.threads := List.ext_getElem (by simp) (by simp)
    simp [Wave.onLanes, hsame]
  unfold State.performStore at h
  simp only [hplain, htx, List.map_nil, hthreads] at h
  split at h
  · cases h
  · next rsb hrsb =>
    refine ⟨rsb, hrsb, ?_⟩
    rw [← Except.ok.inj h]
    obtain ⟨cores, hcores⟩ := State.countConflicts_frame (((s.onWave c.w fun w => { w with rsb := rsb }).storeLocal c o
      spots).noteWrites c (decide (2 ≤ o.ord.toNat)) (syncWords (widthOf o) pages (nearLanes spots))) (widthOf o) spots
    obtain ⟨jobs, hjobs⟩ := State.noteWrites_frame ((s.onWave c.w fun w => { w with rsb := rsb }).storeLocal c o spots) c
      (decide (2 ≤ o.ord.toNat)) (syncWords (widthOf o) pages (nearLanes spots))
    obtain ⟨blocks, hblocks⟩ := State.storeLocal_frame (s.onWave c.w fun w => { w with rsb := rsb }) c o spots
    rw [hcores, hjobs, hblocks]
    exact ⟨rfl, rfl, fun _ => rfl⟩

/-- Lanes that are not global give the region store buffer no byte. -/
theorem globalStores_nil {s : State} {c : Ctx} {o : OpM} {pages : Tab Nat} {spots : List (Nat × Place)}
    (h : ∀ p ∈ spots, ∀ va, p.2 ≠ .global va) : globalStores s c o pages spots = [] := by
  rw [globalStores, List.flatMap_eq_nil_iff]
  rintro ⟨l, va | ⟨b, k, offs⟩⟩ hp
  · exact absurd rfl (h _ hp va)
  · rfl

/-- Settles O32. A store is a new region store buffer of its wave and the bytes of its lanes in the scratchpads. -/
theorem storeFrame : Obligations.StoreFrame := by
  intro s t c o spots pages scope plain hstore
  obtain ⟨rsb, hrsb, hwaves, hblocks, hmemory⟩ := State.performStore_ok (fun p hp => (plain p hp).2) hstore
  have hwave : ∀ k, t.wave k = (s.onWave c.w fun w => { w with rsb := rsb }).wave k :=
    fun k => congrArg (fun ws : Tab Wave => ws.getD k {}) hwaves
  refine ⟨hmemory, fun k hk => ?others, fun l => ?threads, ?uni, fun b n hn => ?scratch, fun hlocals => ?buffer⟩
  case others => rw [hwave, State.wave_onWave_ne s c.w k _ hk]
  case threads =>
    rw [hwave]
    exact State.wave_onWave_keeps (f := fun w => { w with rsb := rsb }) (fun x => x.thread l) (fun _ => rfl) s c.w c.w
  case uni => rw [hwave]; exact State.wave_onWave_keeps (f := fun w => { w with rsb := rsb }) Wave.uni (fun _ => rfl) s c.w c.w
  case scratch =>
    have hblock : t.block b = ((s.onWave c.w fun w => { w with rsb := rsb }).storeLocal c o spots).block b :=
      congrArg (fun bs : Tab Block => bs.getD b {}) hblocks
    rw [hblock, State.scratch_storeLocal hn, State.block_onWave]
  case buffer =>
    rw [globalStores_nil hlocals] at hrsb
    obtain rfl : (s.wave c.w).rsb = rsb := Except.ok.inj hrsb
    rw [hwave]
    cases hfound : (s.waves.find c.w).isSome with
    | true => rw [State.wave_onWave s c.w c.w _ hfound, if_pos rfl]
    | false =>
      have hnone : s.waves.find c.w = none := by simpa using hfound
      simp [State.wave, Tab.getD, Tab.find_modify, hnone]

end Sys2Proof.Machine
end

section
/-! SUPPORT. The part's free choices (log entry 3) are what they were after a translation that succeeds and after the opening of
a control block (R105, R229): what a word reads early of its wave's registers (R166) is the same before and after. -/
namespace Sys2Proof.Machine

/-- A leaf is put in the TLBs of a die and of a core. -/
theorem State.fillTlb_frame (s : State) (q : Requester) (va : Nat) (l : Leaf) :
    ∃ cores dies, s.fillTlb q va l = { s with cores := cores, dies := dies } := by
  unfold State.fillTlb
  dsimp only
  split <;> exact ⟨_, _, rfl⟩

theorem State.walkAnew_ok_frame {s t : State} {q : Requester} {va pa : Nat} {acc : Access} {l : Leaf}
    (h : s.walkAnew q va acc = (.ok pa l, t)) : ∃ mem dirty poison cores dies,
      t = { s with mem := mem, cxlDirty := dirty, poison := poison, cores := cores, dies := dies } := by
  obtain ⟨m, rfl⟩ := State.walkAnew_ok h
  obtain ⟨_, _, hfill⟩ := (s.touchLeaf m.pte (acc == .write)).fillTlb_frame q va { m with dt := m.dt || acc == .write }
  obtain ⟨_, _, _, htouch⟩ := s.touchLeaf_frame m.pte (acc == .write)
  rw [hfill, htouch]
  exact ⟨_, _, _, _, _, rfl⟩

/-- A translation that succeeds was found in a TLB, and may fill the core's, or comes of a walk: it changes TLBs and the entry of
its leaf (R105), nothing else. -/
theorem State.translateIn_ok_frame {s t : State} {q : Requester} {va pa : Nat} {acc : Access} {l : Leaf}
    (h : s.translateIn q va acc = (.ok pa l, t)) : ∃ mem dirty poison cores dies,
      t = { s with mem := mem, cxlDirty := dirty, poison := poison, cores := cores, dies := dies } := by
  have htranslate : s.translate q va acc = (.ok pa l, t) := by
    unfold State.translateIn at h
    split at h
    · split at h <;> cases h
    · exact h
  unfold State.translate at htranslate
  dsimp only at htranslate
  split at htranslate
  · cases htranslate
  · split at htranslate
    · split at htranslate
      · exact ⟨_, _, _, _, _, (Prod.mk.inj htranslate).2.symm⟩
      · exact State.walkAnew_ok_frame htranslate
    · split at htranslate
      · split at htranslate
        · rw [← (Prod.mk.inj htranslate).2]
          split <;> exact ⟨_, _, _, _, _, rfl⟩
        · exact State.walkAnew_ok_frame htranslate
      · exact State.walkAnew_ok_frame htranslate

theorem State.freeCtr_of_translateAll_one {s t : State} {q : Requester} {va : Nat} {acc : Access} {pages : Tab Nat}
    (h : s.translateAll q [va] acc = (.ok pages, t)) : t.freeCtr = s.freeCtr := by
  have hone : distinct ([va].map (· / 4096)) = [va / 4096] := rfl
  simp only [State.translateAll, hone, List.foldl_cons, List.foldl_nil] at h
  rcases ht : s.translateIn q (va / 4096 * 4096) acc with ⟨r, u⟩
  rw [ht] at h
  cases r with
  | ok pa l =>
    obtain ⟨_, _, _, _, _, hu⟩ := State.translateIn_ok_frame ht
    rw [← (Prod.mk.inj h).2, hu]
  | miss d m => cases h
  | full d => cases h
  | error code i j => cases h

/-- Late writes that land are writes at the home (R134). -/
theorem State.landIf_frame (s : State) (p : LateWrite → Bool) : ∃ mem dirty poison late,
    s.landIf p = { s with mem := mem, cxlDirty := dirty, poison := poison, lateWrites := late } := by
  have hfold : ∀ (l : List LateWrite) (t : State), ∃ mem dirty poison,
      l.foldl (fun s w => s.writeHomes (w.bytes.mapIdx fun i b => (w.pa + i, b))) t =
        { t with mem := mem, cxlDirty := dirty, poison := poison } := by
    intro l
    induction l with
    | nil => exact fun _ => ⟨_, _, _, rfl⟩
    | cons w l ih =>
      intro t
      obtain ⟨_, _, _, hw⟩ := t.writeHomes_frame (w.bytes.mapIdx fun i b => (w.pa + i, b))
      obtain ⟨_, _, _, hl⟩ := ih (t.writeHomes (w.bytes.mapIdx fun i b => (w.pa + i, b)))
      rw [List.foldl_cons, hl, hw]
      exact ⟨_, _, _, rfl⟩
  unfold State.landIf
  split
  · exact ⟨_, _, _, _, rfl⟩
  · obtain ⟨_, _, _, h⟩ := hfold (s.lateWrites.filter p) { s with lateWrites := s.lateWrites.filter fun w => !p w }
    exact ⟨_, _, _, _, h⟩

theorem State.freeCtr_landAll (s : State) : s.landAll.freeCtr = s.freeCtr := by
  obtain ⟨_, _, _, _, h⟩ := s.landIf_frame fun _ => true
  rw [State.landAll, h]

/-- A control block that is found malformed has been translated, and late writes have landed. -/
theorem State.freeCtr_of_openQueue_malformed {s t : State} {q : Requester} {va bits : Nat} {acc : Access}
    (h : s.openQueue (.virtual q) va acc = (.error (.malformed bits), t)) : t.freeCtr = s.freeCtr := by
  unfold State.openQueue at h
  split at h
  · rw [← (Prod.mk.inj h).2]
  · split at h
    · cases h
    · cases h
    · next pages u hreach =>
      have hu : u.freeCtr = s.freeCtr := State.freeCtr_of_translateAll_one hreach
      dsimp only at h
      split at h
      · cases h
      · split at h
        · rw [← (Prod.mk.inj h).2, State.freeCtr_landAll, hu]
        · cases h

/-- An ENQ finds a malformed queue as it opens it. -/
theorem State.openQueue_of_enqueue_malformed {s t : State} {sp : Space} {va bits : Nat} {entries : Nat → Option (List Nat)}
    (h : s.enqueue sp va entries = (.malformed bits, t)) : s.openQueue sp va .write = (.error (.malformed bits), t) := by
  unfold State.enqueue at h
  split at h
  · next e u hopen => rw [hopen, (Prod.mk.inj h).1, (Prod.mk.inj h).2]
  · split at h
    · cases h
    · dsimp only at h
      split at h <;> cases h

/-- What a wave reads of a register whose results are outstanding follows the part's choices alone (R166). -/
theorem State.readU_congr {s t : State} (h : t.freeCtr = s.freeCtr) (w : Wave) (r : Nat) : t.readU w r = s.readU w r := by
  unfold State.readU premature State.choose
  rw [h]

end Sys2Proof.Machine
end

section
/-! SUPPORT. ENQ, DEQ, QWAIT and JOB (R230 to R233, R246). -/
namespace Sys2Proof.Machine

section
variable {s : State} {c : Ctx} {scope : Nat} {objs : List Obj}

/-- A release with nothing left to wait for goes on (R127). -/
theorem State.releaseOn_drained (h : Drained s c scope objs) (k : State → Effect) :
    s.releaseOn c scope objs k = k (s.releaseNow c scope objs) := by
  unfold State.releaseOn
  rcases h with h | h <;> simp [h]

/-- One that has stores to wait for parks its wave. -/
theorem State.releaseOn_waits (h : ¬ Drained s c scope objs) (k : State → Effect) : s.releaseOn c scope objs k =
    .again (s.onWave c.w fun w => { w with drained := true }) (.drain (s.releaseWaits c scope objs)) := by
  obtain ⟨hdrained, hwaits⟩ := not_or.1 h
  unfold State.releaseOn
  simp [hdrained, isEmpty_of_ne hwaits]

end

/-! ### The effects at the home slice -/

/-- ENQ once its release has been made, with the control block at `addr` (R231). -/
def enqEffect (c : Ctx) (o : OpM) (act : List Nat) (addr : Nat) (s : State) : Effect :=
  let s := s.queueHome c addr
  match s.enqueueLanes c o act with
  | (.done k lost, s') =>
    match (s.queuePoison c addr (fun _ => []) act).or (s.entryPoison c o addr act) with
    | some e => e
    | none =>
      let s' := s'.noteRelease c (s.queueScope c o act) (s.queueCodes (.virtual (s.requester c)) addr k true)
      .done ((s'.hideEntries c addr k s.unseen).reportLost (lostOf c.job lost)) [] (statusWrites o act k)
  | (r, s) => (queueStop s c addr o.d.toNat act r).getD (.done s [] [])

/-- DEQ in the state in which the core's older stores to the control block have reached it (R232). -/
def deqEffect (c : Ctx) (o : OpM) (act : List Nat) (addr : Nat) (s : State) : Effect :=
  match s.dequeueLanes c o act with
  | (.done k es, s') =>
    match s.queuePoison c addr (fun q => (List.range k).map fun i => q.entry (q.head + i)) act with
    | some e => e
    | none =>
      let s' := if k = 0 then s' else
        s'.acquire c (s.queueScope c o act) [queueObj addr] (s.queueCodes (.virtual (s.requester c)) addr k false)
      .done s' [] (((act.zip es).flatMap fun p => entryWrites p.1 o.d.toNat (s.queueSize c addr) p.2) ++ statusWrites o act k)
  | (r, s) => (queueStop s c addr o.d.toNat act r).getD (.done s [] [])

/-- QWAIT as it reads its queue (R233). -/
def qwaitEffect (c : Ctx) (act : List Nat) (addr : Nat) (s : State) : Effect :=
  match s.readQueue c addr act with
  | (.error e, _) => e
  | (.ok n, s) => if n = 0 then .again s .retry else .done s [] []

/-- The address of the queue that JOB names. -/
def jobQueueAddr (s : State) (c : Ctx) (p : OpS) : Nat := (s.readU c.wave (uniField p.d)).toNat

/-- JOB in the state in which the core's older stores to the control block have reached it (R246). -/
def jobEffect (c : Ctx) (p : OpS) (act : List Nat) (s : State) : Effect :=
  match s.enqueueJob c p with
  | (.done k lost, s') =>
    (s.queuePoison c (jobQueueAddr s c p) (fun _ => []) act).getD
      (.done ((s'.noteRelease c 5 []).reportLost (lostOf c.job lost)) (act.map fun l => .pred l (p.imm.toNat % 8) (k != 0)) [])
  | (r, s) => (queueStop s c (jobQueueAddr s c p) 0 act r).getD (.done s [] [])

section
variable {s u : State} {c : Ctx} {o : OpM} {act : List Nat} {addr k bits : Nat} {es : List Nat}

theorem enqEffect_done (hdone : (s.queueHome c addr).enqueueLanes c o act = (.done k es, u))
    (hblock : (s.queueHome c addr).queuePoison c addr (fun _ => []) act = none)
    (hentry : (s.queueHome c addr).entryPoison c o addr act = none) :
    enqEffect c o act addr s =
      let r := s.queueHome c addr
      .done (((u.noteRelease c (r.queueScope c o act) (r.queueCodes (.virtual (r.requester c)) addr k true)).hideEntries c addr
        k r.unseen).reportLost (lostOf c.job es)) [] (statusWrites o act k) := by
  simp only [enqEffect, hdone, hblock, hentry, Option.or_none]

theorem enqEffect_malformed (h : (s.queueHome c addr).enqueueLanes c o act = (.malformed bits, u)) :
    enqEffect c o act addr s = .trap u (.error 0x0107 addr bits act) := by
  simp only [enqEffect, h]
  rfl

theorem deqEffect_done (hdone : s.dequeueLanes c o act = (.done k es, u))
    (hsound : s.queuePoison c addr (fun q => (List.range k).map fun i => q.entry (q.head + i)) act = none) :
    deqEffect c o act addr s =
      .done (if k = 0 then u else
        u.acquire c (s.queueScope c o act) [queueObj addr] (s.queueCodes (.virtual (s.requester c)) addr k false)) []
        (((act.zip es).flatMap fun p => entryWrites p.1 o.d.toNat (s.queueSize c addr) p.2) ++ statusWrites o act k) := by
  simp only [deqEffect, hdone, hsound]

theorem deqEffect_malformed (h : s.dequeueLanes c o act = (.malformed bits, u)) :
    deqEffect c o act addr s = .trap u (.error 0x0107 addr bits act) := by
  simp only [deqEffect, h]
  rfl

theorem qwaitEffect_ok (h : s.readQueue c addr act = (.ok k, u)) :
    qwaitEffect c act addr s = if k = 0 then .again u .retry else .done u [] [] := by
  simp only [qwaitEffect, h]

/-- A fresh read of a control block that is not well formed traps (R230, R233). -/
theorem qwaitEffect_malformed {pages : Tab Nat} {n : Nat}
    (htranslated : s.translateAll (s.requester c) [addr] .read = (.ok pages, u))
    (hread : natOfBytes ((List.range 64).map fun i =>
      u.loadByte { core := c.core, skip := true, fill := false } [] (pageAddr pages addr + i)) = n)
    (hblock : parseQcb n = none) :
    qwaitEffect c act addr s = .trap u (.error 0x0107 addr (slice n 64 64) act) := by
  simp only [qwaitEffect, State.readQueue, htranslated, hread, hblock]

theorem jobEffect_done {p : OpS} (hdone : s.enqueueJob c p = (.done k es, u))
    (hsound : s.queuePoison c (jobQueueAddr s c p) (fun _ => []) act = none) :
    jobEffect c p act s = .done ((u.noteRelease c 5 []).reportLost (lostOf c.job es))
      (act.map fun l => .pred l (p.imm.toNat % 8) (k != 0)) [] := by
  simp only [jobEffect, hdone, hsound, Option.getD_none]

/-- The trap names the queue by the address at which it was opened. -/
theorem jobEffect_malformed {p : OpS} (h : s.enqueueJob c p = (.malformed bits, u)) :
    jobEffect c p act s = .trap u (.error 0x0107 (jobQueueAddr s c p) bits act) := by
  have hopen := h
  unfold State.enqueueJob at hopen
  have hfree := State.freeCtr_of_openQueue_malformed (State.openQueue_of_enqueue_malformed hopen)
  have haddr : jobQueueAddr u c p = jobQueueAddr s c p := congrArg BitVec.toNat (State.readU_congr hfree c.wave _)
  simp only [jobEffect, h, haddr]
  rfl

end

/-! ### The words -/

section
variable {s s1 : State} {c : Ctx} {h : Hdr} {o : OpM}

/-- ENQ releases, then is performed at the home slice (R231). -/
theorem exec_enq_ready (b : Boundary s c h [] (o.d.toNat :: baseRegs o true) s1)
    (pass : s.queuePlace c 0x12 (queueAddr s c o (s.activeLanes c h.pg h.pn)) (s.activeLanes c h.pg h.pn) = none) :
    let act := s.activeLanes c h.pg h.pn
    let t := begun s1 c
    exec (.enq h o) s = .next (State.finish c h.s true (t.releaseOn c (t.queueScope c o act) [queueObj (queueAddr t c o act)]
      (enqEffect c o act (queueAddr t c o act)))) :=
  congrArg Host.Outcome.next (State.issueBoundary_reaching b _ _ (by rw [pass]; rfl) _ _)

/-- DEQ is performed at the home slice (R232). -/
theorem exec_deq_ready (b : Boundary s c h [o.d.toNat] (baseRegs o true) s1)
    (pass : s.queuePlace c 0x13 (queueAddr s c o (s.activeLanes c h.pg h.pn)) (s.activeLanes c h.pg h.pn) = none) :
    let act := s.activeLanes c h.pg h.pn
    let addr := queueAddr (begun s1 c) c o act
    exec (.deq h o) s = .next (State.finish c h.s true (deqEffect c o act addr ((begun s1 c).queueHome c addr))) :=
  congrArg Host.Outcome.next (State.issueBoundary_reaching b _ _ (by rw [pass]; rfl) _ _)

/-- QWAIT reads its queue afresh (R233). -/
theorem exec_qwait_ready (b : Boundary s c h [] (baseRegs o true) s1)
    (pass : s.queuePlace c 0x14 (queueAddr s c o (s.activeLanes c h.pg h.pn)) (s.activeLanes c h.pg h.pn) = none) :
    let act := s.activeLanes c h.pg h.pn
    let t := begun s1 c
    exec (.qwait h o) s = .next (State.finish c h.s true (qwaitEffect c act (queueAddr t c o act) t)) :=
  congrArg Host.Outcome.next (State.issueBoundary_reaching b _ _ (by rw [pass]; rfl) _ _)

/-- JOB releases at device scope, then is performed at the home slice (R246). -/
theorem exec_job_ready {p : OpS} (b : Boundary s c h [] [] s1) (pass : jobAddrs s c p (s.activeLanes c h.pg h.pn) = none) :
    exec (.job h p) s = .next (State.finish c h.s true ((begun s1 c).releaseThen c 5 [noObj] fun r =>
      jobEffect c p (s.activeLanes c h.pg h.pn) (r.queueHome c (jobQueueAddr r c p)))) :=
  congrArg Host.Outcome.next (State.issueBoundary_reaching b _ _ (by rw [pass]) _ _)

end

/-- Settles O37. Each word is issued as a region boundary whose effect is that of its operation at the home slice. -/
theorem queuesComplete : Obligations.QueuesComplete := by
  intro s s1 u c h o k es act t src addr obj sc r d status jobQueue
  refine ⟨fun b pass => ⟨fun hdrained => ⟨fun hdone hblock hentry => ?enqDone, fun bits hmal => ?enqMalformed⟩,
    fun hwaits => ?enqWaits⟩, fun b pass hdone hsound => ?deqDone, fun bits b pass hmal => ?deqMalformed,
    fun b pass hread => ?qwait, fun pages b pass hpages hblock => ?qwaitMalformed,
    fun p b pass hdrained => ⟨fun hdone hsound => ?jobDone, fun bits hmal => ?jobMalformed⟩⟩
  case enqDone =>
    rw [exec_enq_ready b pass, State.releaseOn_drained hdrained, enqEffect_done hdone hblock hentry]
    rfl
  case enqMalformed =>
    rw [exec_enq_ready b pass, State.releaseOn_drained hdrained, enqEffect_malformed hmal]
    rfl
  case enqWaits =>
    rw [exec_enq_ready b pass, State.releaseOn_waits hwaits]
    rfl
  case deqDone =>
    rw [exec_deq_ready b pass, deqEffect_done hdone hsound]
    rfl
  case deqMalformed =>
    rw [exec_deq_ready b pass, deqEffect_malformed hmal]
    rfl
  case qwait =>
    rw [exec_qwait_ready b pass, qwaitEffect_ok hread]
    split <;> rfl
  case qwaitMalformed =>
    rw [exec_qwait_ready b pass, qwaitEffect_malformed hpages rfl hblock]
    rfl
  case jobDone =>
    rw [exec_job_ready b pass, State.releaseThen_drained hdrained]
    exact congrArg (fun e => Host.Outcome.next (State.finish c h.s true e)) (jobEffect_done hdone hsound)
  case jobMalformed =>
    rw [exec_job_ready b pass, State.releaseThen_drained hdrained]
    exact congrArg (fun e => Host.Outcome.next (State.finish c h.s true e)) (jobEffect_malformed hmal)

end Sys2Proof.Machine
end

section
/-! SUPPORT. Engine commands (Tables 9-2, 9-3, 9-9): the 32 bytes of a command name it. -/
namespace Sys2Proof

/-- The bytes of a command have its CMD, its KIND and its fields where the decoder reads them: each field is found at its place in
the concatenation that `commandBits` writes. -/
theorem commandCandidate_of_commandBits {i : Instr} {b : BitVec 256} (h : commandBits i = some b) :
    commandCandidate b = some (.ok i) := by
  cases i
  case ccopy | ctile | cgath | cscat | cfill | swalk | spush | sloop | ssigRed | ssigBarrier | ssigEnq | smark | shalt =>
    cases h
    simp [commandCandidate, extractLsb'_append_left, extractLsb'_append_right, getLsbD_append_left, getLsbD_append_right,
      -BitVec.getLsbD_eq_getElem]
  case sendl => cases h; rfl
  -- words and events have no bytes of a command
  all_goals cases h

/-- A command decodes when its CMD and KIND name it, its reserved fields are 0 and its fields in range (R255). -/
theorem decodeCommand_iff {b : BitVec 256} {i : Instr} :
    decodeCommand b = .ok i ↔ commandCandidate b = some (.ok i) ∧ commandBits i = some b ∧ WellFormed i = true := by
  constructor
  · intro h
    unfold decodeCommand at h
    split at h
    · cases h
    · cases h
    · next j hc =>
      split at h
      · next hb =>
        split at h
        · next hj => cases h; exact ⟨hc, hb, by rw [WellFormed, hj]; rfl⟩
        · cases h
      · cases h
  · rintro ⟨hc, hb, hwf⟩
    simp only [decodeCommand, hc, if_pos hb, Option.isNone_iff_eq_none.1 hwf]

/-- Settles O3. The fields and the CMD of a command's bytes are those of the command, so that they name it; the decoder checks the
reserved fields by encoding the command again. -/
theorem commandCodec : Obligations.CommandCodec := fun _ _ =>
  decodeCommand_iff.trans ⟨And.right, fun h => ⟨commandCandidate_of_commandBits h.1, h⟩⟩

end Sys2Proof
end

section
/-! SUPPORT. Copy commands (R256 to R260, R428): each command's plan, from which its bytes are moved. -/
namespace Sys2Proof.Machine

/-- Parts of a plan that is made in order: each goes on from the one before it. -/
theorem gotThen_ok {α β : Type} {g : Got α × State} {x : α} {s : State} (h : g = (.ok x, s)) (f : α → State → Got β × State) :
    gotThen g f = f x s := by
  rw [h]; rfl

theorem gotOf_ok {α : Type} {r : Except EngineError α} {x : α} (h : r = .ok x) (s : State) : gotOf s r = (.ok x, s) := by
  rw [h]; rfl

/-- An address outside its aperture fails a copy command before anything is read or written (R256, R428). -/
theorem State.runCopy_outside {s : State} {i : Instr} {b n : Nat} {y : CopyEntry} {x : EngineError}
    (command : s.command = some (.copy b n)) (entry : s.copyEntry b n = some y) (awake : y.misses.any s.missHeld = false)
    (fresh : y.begun = false) (claimed : (ringOf i).isSome = true → y.claim.isSome = true)
    (outside : s.copyPrints b y i = .error x) (perf : Perform) : s.runCopy i perf = s.failCopy b n x := by
  have hclaim : ¬ ((ringOf i).isSome && y.claim.isNone) = true := by
    rw [Bool.and_eq_true, Option.isNone_iff_eq_none]
    rintro ⟨hring, hnone⟩
    simpa [hnone] using claimed hring
  unfold State.runCopy
  simp only [command, entry, awake, fresh, Bool.false_eq_true, if_false, if_neg hclaim, outside]

section
variable {s u v w : State} {b n : Nat} {y : CopyEntry} {bytes : List Byte} {m : Moved} {d : Option Loc}

theorem exec_ccopy_moves {c : CmdCopy} {src : Loc} (begins : CopyBegins s (.ccopy c) b n y u)
    (hsrc : u.locate b c.src.toNat c.len.toNat true = .ok src)
    (hdst : u.target b c.rng c.dst.toNat c.len.toNat true y.claim = .ok d)
    (reads : CopyReads u b [(src, c.len.toNat)] bytes m w) (hput : deliver y.claim d bytes = .ok m) :
    exec (.ccopy c) s = .next (moved w b n y.claim m) := by
  refine congrArg Host.Outcome.next (State.runCopy_moves begins _
    { runs := [(src, c.len.toNat)], put := deliver y.claim d } bytes m ?_ reads hput)
  rw [gotThen_ok (gotOf_ok hsrc u), gotThen_ok (gotOf_ok hdst u)]

/-- Where CFILL begins to write: in the slot that it has claimed, or at its destination. -/
def fillStart (claim : Option Claim) (c : CmdFill) : Nat :=
  match claim with
  | some k => k.base
  | none => c.dst.toNat

/-- CFILL reads nothing (R257). -/
theorem exec_cfill_moves {c : CmdFill} (begins : CopyBegins s (.cfill c) b n y u)
    (hdst : u.target b c.rng c.dst.toNat c.len.toNat true y.claim = .ok d) (reads : CopyReads u b [] [] m w)
    (hput : deliver y.claim d (fillBytes c.pat (fillStart y.claim c) c.len.toNat) = .ok m) :
    exec (.cfill c) s = .next (moved w b n y.claim m) := by
  refine congrArg Host.Outcome.next (State.runCopy_moves begins _
    { runs := [], put := fun _ => deliver y.claim d (fillBytes c.pat (fillStart y.claim c) c.len.toNat) } [] m ?_ reads hput)
  rw [gotThen_ok (gotOf_ok hdst u)]
  rfl

theorem exec_cgath_moves {c : CmdGather} {l : List Nat} (begins : CopyBegins s (.cgath c) b n y u)
    (hdst : u.target b c.rng c.dst.toNat (c.nidx.toNat * c.rowb.toNat) false y.claim = .ok d)
    (hrows : u.rowsOf b y c.idx.toNat c.nidx.toNat c.trows.toNat = (.ok l, v))
    (reads : CopyReads v b (l.map fun i => (.global ((c.tbase.toNat + i * c.tstr.toNat) % 2 ^ 64), c.rowb.toNat)) bytes m w)
    (hput : deliver y.claim d bytes = .ok m) : exec (.cgath c) s = .next (moved w b n y.claim m) := by
  refine congrArg Host.Outcome.next (State.runCopy_moves begins _
    { runs := l.map fun i => (.global ((c.tbase.toNat + i * c.tstr.toNat) % 2 ^ 64), c.rowb.toNat),
      put := deliver y.claim d } bytes m ?_ reads hput)
  rw [gotThen_ok (gotOf_ok hdst u), gotThen_ok hrows]

theorem exec_cscat_moves {c : CmdScatter} {l : List Nat} {src : Loc} (begins : CopyBegins s (.cscat c) b n y u)
    (hsrc : u.locate b c.src.toNat (c.nidx.toNat * c.rowb.toNat) false = .ok src)
    (hrows : u.rowsOf b y c.idx.toNat c.nidx.toNat c.trows.toNat = (.ok l, v))
    (reads : CopyReads v b [(src, c.nidx.toNat * c.rowb.toNat)] bytes m w) (hput : m = { global := scatterRows c l bytes }) :
    exec (.cscat c) s = .next (moved w b n y.claim m) := by
  refine congrArg Host.Outcome.next (State.runCopy_moves begins _
    { runs := [(src, c.nidx.toNat * c.rowb.toNat)], put := fun bytes => .ok { global := scatterRows c l bytes } } bytes m ?_
    reads (congrArg Got.ok hput.symm))
  rw [gotThen_ok (gotOf_ok hsrc u), gotThen_ok hrows]

end

/-- The bytes of a tile at their places in the tensor (R260). -/
def tileWrites (segs : List Seg) (bytes : List Byte) : List (Nat × Byte) :=
  segs.flatMap fun g => match g.va with
    | some a => ((bytes.drop g.off).take g.len).mapIdx fun i x => ((a + i) % 2 ^ 64, x)
    | none => []

section
variable {s u v w : State} {b n : Nat} {y : CopyEntry} {bytes : List Byte} {m : Moved} {c : CmdTile} {t : Tsr} {fmt : Nat}
  {tx : List Nat} {segs : List Seg} (htx : [c.tx0, c.tx1, c.tx2, c.tx3, c.tx4].map BitVec.toNat = tx)
  (hsegs : t.segs fmt tx [0, 1, 2, 3, 4] c.tidx.toNat = segs) (begins : CopyBegins s (.ctile c) b n y u)
  (hrecord : u.tsrOf b y c.tsr.toNat = (.ok (t, fmt), v)) (htile : t.tileOk fmt tx = true)
include htx hsegs begins hrecord htile

/-- CTILE towards the scratchpad. -/
theorem exec_ctile_loads {d : Option Loc} (hdir : c.dir = false)
    (hdst : v.target b c.rng c.spa.toNat (tileSize fmt tx) false y.claim = .ok d)
    (reads : CopyReads v b (tileRuns segs) bytes m w)
    (hput : deliver y.claim d (tileBytes segs (tileSize fmt tx) bytes) = .ok m) :
    exec (.ctile c) s = .next (moved w b n y.claim m) := by
  refine congrArg Host.Outcome.next (State.runCopy_moves begins _
    { runs := tileRuns segs, put := fun bytes => deliver y.claim d (tileBytes segs (tileSize fmt tx) bytes) } bytes m ?_
    reads hput)
  rw [gotThen_ok hrecord]
  dsimp only
  rw [htx, hsegs, htile, if_neg (by decide), if_neg (by rw [hdir]; decide), gotThen_ok (gotOf_ok hdst v)]

/-- CTILE towards the tensor. -/
theorem exec_ctile_stores {src : Loc} (hdir : c.dir = true)
    (hsrc : v.locate b c.spa.toNat (tileSize fmt tx) false = .ok src)
    (reads : CopyReads v b [(src, tileSize fmt tx)] bytes m w) (hput : m = { global := tileWrites segs bytes }) :
    exec (.ctile c) s = .next (moved w b n y.claim m) := by
  refine congrArg Host.Outcome.next (State.runCopy_moves begins _
    { runs := [(src, tileSize fmt tx)], put := fun bytes => .ok { global := tileWrites segs bytes } } bytes m ?_ reads
    (congrArg Got.ok hput.symm))
  rw [gotThen_ok hrecord]
  dsimp only
  rw [htx, hsegs, htile, if_neg (by decide), if_pos hdir, gotThen_ok (gotOf_ok hsrc v)]
  rfl

end

/-- A delivery into a slot fits it, or fails the command (R428). -/
theorem deliver_claimed (k : Claim) (l : Loc) (bytes : List Byte) : deliver (some k) (some l) bytes =
    if k.size < bytes.length then .fail { code := 0x0204, info0 := bytes.length, info1 := k.size } else .ok (l.put bytes) := rfl

/-- Settles O50: each command by the lemma about it above. -/
theorem copyCommands : Obligations.CopyCommands := by
  intro s u v w b n y bytes m d lands
  refine ⟨fun c src => exec_ccopy_moves, fun c => exec_cfill_moves, fun c l => exec_cgath_moves, fun c l src => exec_cscat_moves,
    fun c t fmt begins hrecord htile =>
      ⟨exec_ctile_loads rfl rfl begins hrecord htile, fun src => exec_ctile_stores rfl rfl begins hrecord htile⟩,
    fun i x c1 c2 c3 c4 c5 hi hcommand hentry hawake hfresh hclaimed hout => ?outside, fun k l hk => ?slot⟩
  case outside =>
    rcases hi with rfl | rfl | rfl | rfl | rfl <;>
      exact congrArg Host.Outcome.next (State.runCopy_outside hcommand hentry hawake hfresh hclaimed hout _)
  case slot =>
    rw [hk, deliver_claimed]
    exact ⟨fun h => if_neg (Nat.not_lt.2 h), fun h => if_pos h⟩

end Sys2Proof.Machine
end

section
/-! SUPPORT. Numbers in a block's scratchpad: what a number written there reads back as (R3, R7). -/
namespace Sys2Proof

theorem natOfBytes_append (l m : List Byte) : natOfBytes (l ++ m) = natOfBytes l + 256 ^ l.length * natOfBytes m := by
  induction l with
  | nil => simp [natOfBytes]
  | cons x l ih =>
    rw [List.cons_append, natOfBytes, natOfBytes, ih, List.length_cons, Nat.pow_succ', Nat.mul_add, Nat.mul_assoc, Nat.add_assoc]

theorem natOfBytes_lt (l : List Byte) : natOfBytes l < 256 ^ l.length := by
  induction l with
  | nil => simp [natOfBytes]
  | cons x l ih =>
    have hx : x.toNat < 256 := x.isLt
    rw [natOfBytes, List.length_cons, Nat.pow_succ]
    omega

/-- A slice of a number's low bits, and of the bits above them. -/
theorem slice_add_low {x k p n : Nat} (hx : x < 2 ^ k) (y : Nat) (h : p + n ≤ k) : slice (x + 2 ^ k * y) p n = slice x p n := by
  refine Nat.eq_of_testBit_eq fun i => ?_
  rw [Nat.add_comm, slice, slice, Nat.testBit_mod_two_pow, Nat.testBit_mod_two_pow, Nat.testBit_div_two_pow,
    Nat.testBit_div_two_pow, Nat.testBit_two_pow_mul_add _ hx]
  by_cases hi : i < n
  · rw [if_pos (by omega)]
  · simp [hi]

theorem slice_add_high {x k : Nat} (hx : x < 2 ^ k) (y p n : Nat) : slice (x + 2 ^ k * y) (k + p) n = slice y p n := by
  rw [slice, slice, Nat.pow_add, ← Nat.div_div_eq_div_mul, Nat.add_mul_div_left _ _ (Nat.two_pow_pos k), Nat.div_eq_of_lt hx,
    Nat.zero_add]

theorem slice_zero_of_lt {x n : Nat} (hx : x < 2 ^ n) : slice x 0 n = x := by
  rw [slice, Nat.pow_zero, Nat.div_one, Nat.mod_eq_of_lt hx]

end Sys2Proof

namespace Sys2Proof.Machine

theorem State.scratchNat_lt (s : State) (b off n : Nat) : s.scratchNat b off n < 2 ^ (8 * n) := by
  simpa [State.scratchNat, Block.bytesAt, Nat.pow_mul] using
    natOfBytes_lt ((s.block b).bytesAt ((List.range n).map fun i => off + i))

/-- A number's low bytes and the bytes above them. -/
theorem State.scratchNat_add (s : State) (b off m n : Nat) :
    s.scratchNat b off (m + n) = s.scratchNat b off m + 2 ^ (8 * m) * s.scratchNat b (off + m) n := by
  have hbytes : (s.block b).bytesAt ((List.range (m + n)).map fun i => off + i) =
      (s.block b).bytesAt ((List.range m).map fun i => off + i) ++
        (s.block b).bytesAt ((List.range n).map fun i => off + m + i) := by
    simp only [Block.bytesAt, List.range_add, List.map_append, List.map_map, Function.comp_def, Nat.add_assoc]
  have hlength : ((s.block b).bytesAt ((List.range m).map fun i => off + i)).length = m := by
    simp only [Block.bytesAt, List.length_map, List.length_range]
  rw [State.scratchNat, hbytes, natOfBytes_append, hlength, Nat.pow_mul]
  rfl

section
variable {s : State} {b : Nat} (hb : (s.blocks.find b).isSome = true) (off n v : Nat)
include hb

/-- A byte of the scratchpad after a number is written there. -/
theorem State.scratch_putScratch (a : Nat) : ((s.putScratch b off n v).block b).scratch.getD a 0 =
    (if off ≤ a then (bytesOfNat n v)[a - off]? else none).getD ((s.block b).scratch.getD a 0) := by
  rw [State.putScratch, State.block_onBlock hb, Block.scratch_store, lastOf_mapIdx]

theorem State.scratchNat_putScratch_same : (s.putScratch b off n v).scratchNat b off n = v % 2 ^ (8 * n) := by
  rw [State.scratchNat, ← natOfBytes_bytesOfNat, Block.bytesAt]
  refine congrArg natOfBytes (List.ext_getElem (by simp) fun i _ hi => ?_)
  simp only [List.getElem_map, List.getElem_range]
  rw [State.scratch_putScratch hb, if_pos (Nat.le_add_right off i), Nat.add_sub_cancel_left, List.getElem?_eq_getElem hi]
  rfl

theorem State.scratchNat_putScratch_apart {a m : Nat} (apart : a + m ≤ off ∨ off + n ≤ a) :
    (s.putScratch b off n v).scratchNat b a m = s.scratchNat b a m := by
  refine congrArg natOfBytes (List.ext_getElem (by simp [Block.bytesAt]) fun i hi _ => ?_)
  have hi : i < m := by simpa [Block.bytesAt] using hi
  simp only [Block.bytesAt, List.getElem_map, List.getElem_range]
  rw [State.scratch_putScratch hb]
  split
  · rw [List.getElem?_eq_none (by rw [length_bytesOfNat]; omega)]
    rfl
  · rfl

end

/-- The fields of a ring object below CLM, CLM, and those above it (Table 9-6). -/
theorem State.ring_eq (s : State) (b off : Nat) :
    let low := s.scratchNat b off 16
    let high := s.scratchNat b (off + 20) 12
    s.ring b off =
      { base := slice low 0 32, ssize := slice low 32 32, win := slice low 64 11, poison := low.testBit 80
        clm := BitVec.ofNat 32 (s.scratchNat b (off + 16) 4)
        wp := BitVec.ofNat 32 (slice high 0 32), rp := BitVec.ofNat 32 (slice high 32 32) } := by
  intro low high
  have hlow : low < 2 ^ 128 := s.scratchNat_lt b off 16
  have hclm : s.scratchNat b (off + 16) 4 < 2 ^ 32 := s.scratchNat_lt b (off + 16) 4
  have hparts : s.scratchNat b off 32 = low + 2 ^ 128 * (s.scratchNat b (off + 16) 4 + 2 ^ 32 * high) := by
    rw [s.scratchNat_add b off 16 16, s.scratchNat_add b (off + 16) 4 12]
  have hfield (p n : Nat) (h : p + n ≤ 128) : slice (s.scratchNat b off 32) p n = slice low p n := by
    rw [hparts, slice_add_low hlow _ h]
  have hcount : slice (s.scratchNat b off 32) 128 32 = s.scratchNat b (off + 16) 4 := by
    rw [hparts, slice_add_high hlow _ 0, slice_add_low hclm _ (by decide), slice_zero_of_lt hclm]
  have habove (p n : Nat) : slice (s.scratchNat b off 32) (128 + (32 + p)) n = slice high p n := by
    rw [hparts, slice_add_high hlow, slice_add_high hclm]
  have hpoison : (s.scratchNat b off 32).testBit 80 = low.testBit 80 := by
    rw [hparts, Nat.add_comm, Nat.testBit_two_pow_mul_add _ hlow, if_pos (by decide)]
  rw [State.ring]
  simp only [hfield 0 32 (by decide), hfield 32 32 (by decide), hfield 64 11 (by decide), hpoison, hcount, habove 0 32,
    habove 32 32]

/-- A claim numbers the slot with CLM and counts CLM up (R262). -/
theorem State.ring_claimSlot {s : State} {b : Nat} (hb : (s.blocks.find b).isSome = true) (off : Nat) :
    (s.claimSlot b off).2.ring b off = { s.ring b off with clm := (s.ring b off).clm + 1 } := by
  have hput : (s.claimSlot b off).2 = s.putScratch b (off + 16) 4 ((s.ring b off).clm + 1).toNat := rfl
  rw [hput, State.ring_eq, State.ring_eq, State.scratchNat_putScratch_same hb,
    State.scratchNat_putScratch_apart hb _ _ _ (by omega), State.scratchNat_putScratch_apart hb _ _ _ (by omega),
    Nat.mod_eq_of_lt (BitVec.isLt _), BitVec.ofNat_toNat, BitVec.setWidth_eq]

end Sys2Proof.Machine
end

section
/-! SUPPORT. Arrival rings and stream programs (R262, R264, R266). -/
namespace Sys2Proof.Machine

section
variable {s s1 : State} {c : Ctx} {h : Hdr} {o : OpM} {b off : Nat}

/-! ### RING -/

/-- RING on an object that its wave can name: it writes the object, or traps where its operands break Table 19-2. -/
theorem exec_ring_placed {sb win : Nat} (hsb : (s.readU c.wave (uniField o.d)).toNat = sb) (hwin : offFrom o 0 % 2 ^ 11 = win)
    (r : Ready s c h [] []) (hplace : s.ringPlace c o (s.activeLanes c h.pg h.pn) = .ok (b, off)) :
    exec (.ring h o) s = .next (State.finish c h.s false (
      if !ringFits c (sb % 2 ^ 32) (sb / 2 ^ 32) win then .trap s (s.ringError b off (s.activeLanes c h.pg h.pn))
      else .done ((s.putScratch b off 32 (sb + win * 2 ^ 64)).onBlock b fun x =>
        { x with inits := x.inits.put off (x.inits.getD off 0 + 1) 0 }) [] [])) := by
  subst hsb hwin
  refine congrArg Host.Outcome.next ((State.issueWord_ready r _).trans ?_)
  rw [hplace]

/-! ### AWF and RLS -/

/-- What stops an RLS on an object, and what stops an AWF (Table 19-2, R399). -/
def rlsTrap (s : State) (b off : Nat) (act : List Nat) : Option Trap :=
  if (s.ring b off).win = 0 then some (s.ringError b off act) else s.ringPoison b off act

def awfTrap (s : State) (c : Ctx) (o : OpM) (b off : Nat) (act : List Nat) : Option Trap :=
  if (s.ring b off).win = 0 then some (s.ringError b off act)
  else if (s.ring b off).poison then some (.error 0x0108 off (ringSeq s c o) act)
  else s.ringPoison b off act

theorem rlsTrap_effect (s : State) (b off : Nat) (act : List Nat) : (rlsTrap s b off act).map (Effect.trap s) =
    if (s.ring b off).win = 0 then some (.trap s (s.ringError b off act))
    else (s.ringPoison b off act).map fun t => .trap s t := by
  unfold rlsTrap
  split <;> rfl

theorem awfTrap_effect (s : State) (c : Ctx) (o : OpM) (b off : Nat) (act : List Nat) :
    (awfTrap s c o b off act).map (Effect.trap s) =
      if (s.ring b off).win = 0 then some (.trap s (s.ringError b off act))
      else if (s.ring b off).poison then some (.trap s (.error 0x0108 off (ringSeq s c o) act))
      else (s.ringPoison b off act).map fun t => .trap s t := by
  unfold awfTrap
  split
  · rfl
  · split <;> rfl

theorem exec_awf_stopped {t : Trap} (bd : Boundary s c h (awfRegs o) [] s1)
    (hplace : s.ringPlace c o (s.activeLanes c h.pg h.pn) = .ok (b, off))
    (stop : awfTrap s c o b off (s.activeLanes c h.pg h.pn) = some t) :
    exec (.awf h o) s = .next ((s.takeTrap c t).wakeCur State.wakeRing) := by
  refine congrArg (fun u : State => Host.Outcome.next (u.wakeCur State.wakeRing))
    (State.issueBoundary_stopped bd.ready bd.plain _ _ (.trap s t) ?_)
  rw [hplace]
  exact (awfTrap_effect ..).symm.trans (congrArg (Option.map (Effect.trap s)) stop)

theorem exec_awf_waits (bd : Boundary s c h (awfRegs o) [] s1)
    (hplace : s.ringPlace c o (s.activeLanes c h.pg h.pn) = .ok (b, off))
    (pass : awfTrap s c o b off (s.activeLanes c h.pg h.pn) = none)
    (hbegun : (begun s1 c).ringPlace c o (s.activeLanes c h.pg h.pn) = .ok (b, off)) :
    exec (.awf h o) s = .next ((waiting (begun s1 c) c h.s true []
      (.ring b off (ringSeq (begun s1 c) c o) o.d.toNat c.pc (s.activeLanes c h.pg h.pn))).wakeCur State.wakeRing) := by
  refine congrArg (fun u : State => Host.Outcome.next (u.wakeCur State.wakeRing))
    ((State.issueBoundary_ready bd _ _ ?_).trans ?_)
  · rw [hplace]
    exact (awfTrap_effect ..).symm.trans (congrArg (Option.map (Effect.trap s)) pass)
  · rw [hbegun]
    rfl

theorem exec_rls_stopped {t : Trap} (bd : Boundary s c h [] [] s1)
    (hplace : s.ringPlace c o (s.activeLanes c h.pg h.pn) = .ok (b, off))
    (stop : rlsTrap s b off (s.activeLanes c h.pg h.pn) = some t) : exec (.rls h o) s = .next (s.takeTrap c t) := by
  refine congrArg Host.Outcome.next (State.issueBoundary_stopped bd.ready bd.plain _ _ (.trap s t) ?_)
  rw [hplace]
  exact (rlsTrap_effect ..).symm.trans (congrArg (Option.map (Effect.trap s)) stop)

theorem exec_rls_ready {t : State} {ring : RingObj} {n : Nat} (ht : begun s1 c = t) (hring : t.ring b off = ring)
    (hn : ringSeq t c o = n) (bd : Boundary s c h [] [] s1)
    (hplace : s.ringPlace c o (s.activeLanes c h.pg h.pn) = .ok (b, off))
    (pass : rlsTrap s b off (s.activeLanes c h.pg h.pn) = none)
    (hbegun : t.ringPlace c o (s.activeLanes c h.pg h.pn) = .ok (b, off)) :
    exec (.rls h o) s = .next (State.finish c h.s true (
      if (BitVec.ofNat 32 n - ring.rp).toNat < (ring.wp - ring.rp).toNat then
        t.releaseThen c (t.widen c 2 (s.activeLanes c h.pg h.pn)) [t.ringObj c b off] fun s =>
          .done ((s.noteRelease c 2 [freeCode b off (n % ring.win)]).putScratch b (off + 24) 4 (BitVec.ofNat 32 n + 1).toNat)
            [] []
      else .done t [] [])) := by
  have hmod : (BitVec.ofNat 32 n).toNat = n := by rw [BitVec.toNat_ofNat, ← hn, ringSeq, Nat.mod_mod]
  refine congrArg Host.Outcome.next ((State.issueBoundary_ready bd _ _ ?_).trans ?_)
  · rw [hplace]
    exact (rlsTrap_effect ..).symm.trans (congrArg (Option.map (Effect.trap s)) pass)
  · rw [ht, hbegun]
    dsimp only
    rw [hring, hn, hmod]

/-! ### STRM and STRQ -/

/-- STRM once its release has been made: it starts a program in a free slot, or waits for one (R266). -/
def strmEffect (c : Ctx) (o : OpM) (r : State) : Effect :=
  match r.findSlot (offFrom o 0 % 64) (dieOfCore c.core) with
  | none => .again r .retry
  | some (e, k) =>
    let x := r.startProgram e k (r.readU c.wave (uniField o.a)) (r.readU c.wave (uniField o.a + 1)) c.cl c.job
    let v := x.2.noteRelease c 5 []
    let w := v.tellProgram c e k
    .done (if c.det then w.onProgram e k fun p => { p with known := (v.job c.job).det.knows c.task } else w)
      [.uni (uniField o.d) x.1] []

/-- STRM passes its checks on an address of a program in global memory and an engine that there is (R266). -/
theorem exec_strm_ready {p : Place} (bd : Boundary s c h [] [] s1)
    (haddr : s.waveAddr c [0] 32 (s.readU c.wave (uniField o.a)).toNat (s.activeLanes c h.pg h.pn) = .ok p)
    (heng : offFrom o 0 % 64 < 32 ∨ offFrom o 0 % 64 = 63) (hdrained : Drained (begun s1 c) c 5 [noObj]) :
    exec (.strm h o) s = .next (State.finish c h.s true (strmEffect c o (released (begun s1 c) c 5 [noObj]))) := by
  refine congrArg Host.Outcome.next ((State.issueBoundary_reaching bd _ _ ?_ _ _).trans
    (congrArg (State.finish c h.s true) (State.releaseThen_drained hdrained (strmEffect c o))))
  rw [haddr]
  exact if_neg (by omega)

theorem exec_strq_ready (r : Ready s c h [] []) : exec (.strq h o) s = .next (retired s c h.s false
    [.uni (uniField o.d) (s.snapshot (s.readU c.wave (uniField o.a)))] []) :=
  congrArg Host.Outcome.next (State.issueWord_ready r _)

end

/-! ### A wave that waits on a ring -/

section
variable {s : State} {c : Ctx} {b off n d : Nat} {pc : Word} {lanes : List Nat}
  (hpark : c.wave.park = some (.ring b off n d pc lanes))
include hpark

theorem State.wakeRing_absent
    (absent : s.someAbsent [(0, .local b false ((List.range 32).map fun i => off + i))] = true) : s.wakeRing c = s := by
  rw [State.wakeRing, hpark]
  exact if_pos absent

variable (sound : (s.ring b off).poison = false) (whole : s.ringPoison b off lanes = none)
include sound whole

theorem State.wakeRing_unfilled (unfilled : (s.ring b off).filled n = false) : s.wakeRing c = s := by
  simp only [State.wakeRing, hpark, sound, whole, unfilled, Bool.false_eq_true, if_false, ite_self]

/-- A filled slot is acquired, and its offset written. -/
theorem State.wakeRing_filled {x : Nat} {out : List RegWrite}
    (hx : (s.ring b off).base + n % (s.ring b off).win * (s.ring b off).ssize = x)
    (hout : (if 192 ≤ d then [.uni (d - 192) (BitVec.ofNat 64 x)] else lanes.map fun l => .vec l d (BitVec.ofNat 32 x)) = out)
    (present : s.someAbsent [(0, .local b false ((List.range 32).map fun i => off + i))] = false)
    (filled : (s.ring b off).filled n = true) :
    let t := s.acquire c (s.widen c 2 lanes) [s.ringObj c b off] [slotCode b off n]
    s.wakeRing c = t.onWave c.w fun w => { (t.overtake w out).writeLate c.det out with park := none } := by
  subst hx hout
  simp only [State.wakeRing, hpark, sound, whole, present, filled, Bool.false_eq_true, if_false, if_true]

end

/-- Settles O42. Each word is issued as a word or a region boundary whose check is what its ring object calls for; a claim
changes the bytes of CLM alone; a wave that waits reads its object anew. -/
theorem ringsAndStreams : Obligations.RingsAndStreams := by
  unfold Obligations.RingsAndStreams
  refine ⟨fun s s1 c h o b off => ?words, fun r n => decide_eq_true_iff, fun r => decide_eq_true_iff,
    fun s b off hb => ⟨rfl, State.ring_claimSlot hb off⟩, fun s c b off n d pc lanes hpark => ?wake⟩
  case words =>
    refine ⟨fun r hplace => ?ring, fun bd hplace hbegun => ⟨fun hwin hsound hwhole => ?awf, fun hwin => ?awfNone,
      fun hwin hpoison => ?awfPoisoned⟩, fun bd hplace hwin => ?rlsNone, fun bd hplace hbegun hwin hwhole => ?rls,
      fun p e k bd haddr heng hdrained => ?strm, exec_strq_ready⟩
    case ring =>
      rw [exec_ring_placed rfl rfl r hplace]
      exact ⟨fun fits => by rw [fits]; rfl, fun breaks => by rw [breaks]; rfl⟩
    case awf => exact exec_awf_waits bd hplace (by rw [awfTrap, if_neg hwin, hsound, hwhole]; rfl) hbegun
    case awfNone => exact exec_awf_stopped bd hplace (if_pos hwin)
    case awfPoisoned => exact exec_awf_stopped bd hplace ((if_neg hwin).trans (if_pos hpoison))
    case rlsNone => exact exec_rls_stopped bd hplace (if_pos hwin)
    case rls =>
      rw [exec_rls_ready rfl rfl rfl bd hplace ((if_neg hwin).trans hwhole) hbegun]
      exact ⟨fun frees hdrained => by rw [if_pos frees, State.releaseThen_drained hdrained]; rfl,
        fun keeps => by rw [if_neg keeps]; rfl⟩
    case strm =>
      rw [exec_strm_ready bd haddr heng hdrained, strmEffect]
      exact ⟨fun hslot => by rw [hslot]; rfl, fun hfull => by rw [hfull]; rfl⟩
  case wake =>
    exact ⟨State.wakeRing_absent hpark, State.wakeRing_unfilled hpark, fun present sound whole filled =>
      ⟨_, State.wakeRing_filled hpark sound whole rfl rfl present filled⟩⟩

end Sys2Proof.Machine
end

section
/-! SUPPORT. Threshold cells (R287) and the verdict codes of slag (R289). -/
namespace Sys2Proof.Machine

/-- Where no byte is read at its home, only the poison of scratchpads counts, and so no page does. -/
theorem State.poisonTrap_unread (s : State) (g : Nat) (pages pages' : Tab Nat) (spots : List (Nat × Place)) :
    s.poisonTrap g pages (fun _ _ => false) spots = s.poisonTrap g pages' (fun _ _ => false) spots := by
  have hlane : ∀ p, s.lanePoison g pages (fun _ => false) p = s.lanePoison g pages' (fun _ => false) p := by
    rintro (va | ⟨b, stack, offs⟩)
    · exact (firstSome_none fun _ _ => rfl).trans (firstSome_none fun _ _ => rfl).symm
    · rfl
  simp only [State.poisonTrap, hlane]

/-- One lane's threshold cell raised to at least `value`: a NaN leaves it (R287). -/
def State.raiseCell (t : State) (value : Nat) : Place → State
  | .local b _ offs =>
    let old := natOfBytes ((t.block b).bytesAt offs)
    t.onBlock b fun y => y.softStore (offs.zip (bytesOfNat 4
      (if (f32.decode value).isNan then old else f32.minMax true old value)))
  | .global _ => t

theorem State.sameMemory_raiseCell (t : State) (value : Nat) (p : Place) : SameMemory t (t.raiseCell value p) :=
  fun _ => by cases p <;> rfl

theorem State.sameMemory_countConflicts (s : State) (g : Nat) (spots : List (Nat × Place)) :
    SameMemory s (s.countConflicts g spots) := fun _ => by
  obtain ⟨cores, h⟩ := s.countConflicts_frame g spots
  rw [h]
  rfl

/-- An f32 operand is examined for slag as a whole (R76). -/
theorem slagOf_f32 (x : Nat) : slagOf 10 x = slagCode 10 x := if_neg (by decide)

theorem exec_asthr_eq (h : Hdr) (o : OpM) (s : State) : exec (.asthr h o) s = execAsthr h o s := rfl

section
variable {s : State} {c : Ctx} {h : Hdr} {o : OpM} {spots : List (Nat × Place)}
  (r : Ready s c h [] (o.d.toNat :: baseRegs o false))
  (placed : s.placeAll c [3] 4 .free (windowAddrs s c o blockBase (s.activeLanes c h.pg h.pn)) = .ok spots)
include r placed

/-- ASTHR on values free of slag raises the lanes' cells in turn, once they are present and sound. -/
theorem exec_asthr_ready
    (free : ∀ l ∈ s.activeLanes c h.pg h.pn, slagCode 10 (s.readV c.wave l o.d.toNat).toNat = none)
    (present : s.someAbsent spots = false) (sound : s.poisonTrap 4 [] (fun _ _ => false) spots = none) :
    exec (.asthr h o) s = .next (retired ((spots.foldl (fun t p =>
      t.raiseCell (s.readV c.wave p.1 o.d.toNat).toNat p.2) s).countConflicts 4 spots) c h.s false [] []) := by
  have pass : slagTrap 0x15 2 (s.activeLanes c h.pg h.pn) [⟨3, 10, fun l => (s.readV c.wave l o.d.toNat).toNat⟩] = none :=
    slagTrap_none _ _ _ _ fun l hl e he => by
      rw [List.mem_singleton.1 he]
      exact (slagOf_f32 _).trans (free l hl)
  rw [exec_asthr_eq, execAsthr, State.issueWord_ready r]
  simp only [placed, pass, present, sound, Bool.false_eq_true, if_false]
  refine congrArg (fun f => Host.Outcome.next (retired ((spots.foldl f s).countConflicts 4 spots) c h.s false [] [])) ?_
  funext t p
  obtain ⟨l, va | ⟨b, stack, offs⟩⟩ := p <;> rfl

/-- ASTHR rejects slag (R76), in whatever lanes it stands. -/
theorem exec_asthr_slag {l : Nat} {rest : List Nat}
    (slag : ((s.activeLanes c h.pg h.pn).filter fun l => (slagCode 10 (s.readV c.wave l o.d.toNat).toNat).isSome) = l :: rest) :
    ∃ x, exec (.asthr h o) s = .next (s.takeTrap c (.slag 0x15 2 x 3 (l :: rest))) := by
  have hl : l ∈ (s.activeLanes c h.pg h.pn).filter fun l => (slagCode 10 (s.readV c.wave l o.d.toNat).toNat).isSome :=
    slag ▸ List.mem_cons_self
  obtain ⟨v, hv⟩ := Option.isSome_iff_exists.1 (List.mem_filter.1 hl).2
  have stop : slagTrap 0x15 2 (s.activeLanes c h.pg h.pn) [⟨3, 10, fun l => (s.readV c.wave l o.d.toNat).toNat⟩] =
      some (.slag 0x15 2 (slagBits 10 v) 3 (l :: rest)) := by
    simp only [slagTrap, List.any_cons, List.any_nil, Bool.or_false, slagOf_f32, slag, firstSome, hv, Option.map_some]
  refine ⟨slagBits 10 v, ?_⟩
  rw [exec_asthr_eq, execAsthr, State.issueWord_ready r]
  simp only [placed, stop, State.finish_trap]

end

/-- The verdict code of a value by its type and bits, 0 where it holds no slag (Table 3-11). -/
theorem slagCode_getD (ty x : Nat) : (slagCode ty x).getD 0 =
    if ty = 10 then (if 0xFF805A01 ≤ x % 2 ^ 32 ∧ x % 2 ^ 32 ≤ 0xFF805A03 then x % 2 ^ 32 - 0xFF805A00 else 0)
    else if ty = 9 ∨ ty = 13 then (if 0xFFA5 ≤ x % 2 ^ 16 ∧ x % 2 ^ 16 ≤ 0xFFA7 then x % 2 ^ 16 - 0xFFA4 else 0)
    else 0 := by
  have hgetD : ∀ (p q : Prop) [Decidable p] [Decidable q] (a : Nat) (e : Option Nat),
      (if p then (if q then some a else none) else e).getD 0 = if p then (if q then a else 0) else e.getD 0 := by
    intro p q _ _ a e
    by_cases hp : p
    · rw [if_pos hp, if_pos hp]
      by_cases hq : q
      · rw [if_pos hq, if_pos hq, Option.getD_some]
      · rw [if_neg hq, if_neg hq, Option.getD_none]
    · rw [if_neg hp, if_neg hp]
  rw [slagCode, hgetD, hgetD, Option.getD_none]

/-- Settles O43. Clear cells are placed, present and sound; slag stops ASTHR before it raises any cell; TSLAG's value is that of
the conversions (O15), its code written out. -/
theorem cellsAndVerdicts : Obligations.CellsAndVerdicts := by
  refine fun s c h => ⟨fun o r clear free => ?clear, fun o spots r placed => ⟨fun free present sound => ?cells, fun l rest slag =>
    exec_asthr_slag r placed slag⟩, fun o r => ?verdict⟩
  case clear =>
    obtain ⟨spots, pages, placed, _, _, _, _, present, sound, _⟩ := clear_ok s c [3] 4 .free .read _ ⟨2, by decide, rfl⟩ clear
    refine ⟨_, exec_asthr_ready r placed free present (s.poisonTrap_unread 4 [] pages spots ▸ sound _), ?_⟩
    exact (SameMemory.foldl (fun (t : State) (p : Nat × Place) =>
      t.sameMemory_raiseCell (s.readV c.wave p.1 o.d.toNat).toNat p.2) spots s).trans (State.sameMemory_countConflicts _ 4 spots)
  case cells =>
    refine (exec_asthr_ready r placed free present sound).trans
      (congrArg (fun f => Host.Outcome.next (retired ((spots.foldl f s).countConflicts 4 spots) c h.s false [] [])) ?_)
    funext t p
    obtain ⟨l, va | ⟨b, stack, offs⟩⟩ := p <;> rfl
  case verdict =>
    obtain ⟨-, -, -, -, -, -, htslag⟩ := conversionResults s c h o
    rw [htslag r]
    simp only [slagCode_getD]

end Sys2Proof.Machine
end

section
/-! SUPPORT. The matrix words (R271 to R283): ownership, conditions that are met, acceptance. -/
namespace Sys2Proof.Machine

/-! ### Ownership and conditions -/

/-- The owner of an engine keeps it (R271). -/
theorem State.claimMatrix_owner {z : State} {k : Nat} (h : (z.core (z.block k).core).owner = some k) :
    z.claimMatrix k = (true, z) := if_pos h

section
variable {s v : State} {c : Ctx}

theorem State.withMatrix_owned (h : s.claimMatrix (s.hostBlock c) = (true, v)) (k : State → Nat → Effect) :
    s.withMatrix c k = k v (v.hostBlock c) := by
  rw [State.withMatrix, h]

/-- A matrix word of a block that does not own the engine waits for it (R271). -/
theorem State.withMatrix_waits (h : s.claimMatrix (s.hostBlock c) = (false, v)) (k : State → Nat → Effect) :
    s.withMatrix c k = .again v .retry := by
  rw [State.withMatrix, h]

theorem State.owned_owned (h : s.claimMatrix (s.hostBlock c) = (true, v)) (k : State → Option Effect) :
    s.owned c k = k v := by
  rw [State.owned, h]

end

theorem formatTrap_none {ok : Bool} (h : ok = true) (plane a op : Nat) (act : List Nat) :
    formatTrap ok plane a op act = none := if_pos h

theorem rowTrap_none {w : Word} {n : Nat} (h : mRowg w + n ≤ 6) (act : List Nat) : rowTrap w n act = none :=
  if_neg (by omega)

theorem offsetTrap_none {c : Ctx} {off n align : Nat} (aligned : off % align = 0) (inside : off + n ≤ c.card.shared)
    (act : List Nat) : offsetTrap c off n align act = none := if_neg (by omega)

theorem columnTrap_none {col : Column} {act : List Nat} (h : ∀ l ∈ act, l ∉ col.poison) : columnTrap col act = none := by
  have hnone : act.filter (fun l => col.poison.contains l) = [] := List.filter_eq_nil_iff.2 fun l hl => by simpa using h l hl
  rw [columnTrap, hnone]

/-- A first column, where there is one, that is sound in the active lanes stops nothing. -/
theorem columnTraps_none {q : List Column} {act : List Nat} (h : ∀ x ∈ q.head?, ∀ l ∈ act, l ∉ x.poison) (s : State) :
    ((q.head?.bind fun col => columnTrap col act).map fun t => Effect.trap s t) = none := by
  rw [Option.bind_eq_none_iff.2 fun x hx => columnTrap_none (h x hx)]
  rfl

/-! ### GANG -/

/-- A mask that GANG admits (R275). -/
def gangMask (c : Ctx) (mask : Word) : Prop :=
  mask = 0 ∨ (2 ≤ popCount 64 mask.toNat ∧ popCount 64 mask.toNat ≤ 6 ∧ mask.toNat / 2 ^ c.card.waves = 0 ∧
    mask.getLsbD c.wave.wid = true)

theorem gangMask_iff (c : Ctx) (mask : Word) : gangMask c mask ↔
    ¬(mask ≠ 0 ∧ (popCount 64 mask.toNat < 2 ∨ popCount 64 mask.toNat > 6 ∨ mask.toNat / 2 ^ c.card.waves ≠ 0 ∨
      (!mask.getLsbD c.wave.wid) = true)) := by
  rw [gangMask]
  by_cases hzero : mask = 0
  · exact iff_of_true (.inl hzero) fun bad => bad.1 hzero
  · simp only [hzero, false_or, ne_eq, not_false_eq_true, true_and, not_or, gt_iff_lt, Nat.not_lt, Decidable.not_not,
      Bool.not_eq_true', Bool.not_eq_false]

section
variable {s : State} {c : Ctx} {h : Hdr} {o : OpM} (r : Ready s c h [] [])
include r

theorem exec_gang_good (good : gangMask c (s.readU c.wave (o.a.toNat % 64))) : exec (.gang h o) s =
    .next (retired (s.onWave c.w fun w => { w with gang := s.readU c.wave (o.a.toNat % 64) }) c h.s false [] []) :=
  congrArg Host.Outcome.next ((State.issueWord_ready r _).trans
    (congrArg (State.finish c h.s false) (if_neg ((gangMask_iff c _).1 good))))

theorem exec_gang_bad {mask : Word} (hmask : s.readU c.wave (o.a.toNat % 64) = mask) (bad : ¬ gangMask c mask) :
    exec (.gang h o) s = .next (s.programError c 0x000A mask.toNat c.card.waves (s.activeLanes c h.pg h.pn)) := by
  subst hmask
  exact congrArg Host.Outcome.next ((State.issueWord_ready r _).trans
    (congrArg (State.finish c h.s false) (if_pos (Decidable.not_not.1 (mt (gangMask_iff c _).2 bad)))))

/-! ### MLD and MSTA -/

/-- A matrix word that may act, of a block that owns the engine. -/
theorem State.issueWord_owned {v : State} (hclaim : s.claimMatrix (s.hostBlock c) = (true, v))
    (k : Ctx → List Nat → State → Nat → Effect) : s.issueWord h [] [] (fun s c act => s.withMatrix c (k c act)) =
      State.finish c h.s false (k c (s.activeLanes c h.pg h.pn) v (v.hostBlock c)) :=
  (State.issueWord_ready r _).trans (congrArg (State.finish c h.s false) (State.withMatrix_owned hclaim _))

/-- One of a block that does not own it parks its wave (R271). -/
theorem State.issueWord_unowned {v : State} (hclaim : s.claimMatrix (s.hostBlock c) = (false, v))
    (k : Ctx → List Nat → State → Nat → Effect) :
    s.issueWord h [] [] (fun s c act => s.withMatrix c (k c act)) = parked v c .retry :=
  (State.issueWord_ready r _).trans (congrArg (State.finish c h.s false) (State.withMatrix_waits hclaim _))

/-- MLD is accepted once its operand is aligned, inside the scratchpad and present (R278, R91). -/
theorem exec_mld_accepted {v : State} {a0 : Word} {fmt : Nat} (ha0 : v.readU c.wave (o.a.toNat % 64) = a0)
    (hfmt : (c.card.slot (o.d.toNat % 8)).fmt = fmt) (hclaim : s.claimMatrix (s.hostBlock c) = (true, v)) (shaped : fmt ≠ 0)
    (aligned : a0.toNat % 2 ^ 32 % 128 = 0) (inside : a0.toNat % 2 ^ 32 + operandBytes fmt 64 ≤ c.card.shared)
    (present : v.operandAbsent (v.hostBlock c) c.card (soloOp c a0 (s.activeLanes c h.pg h.pn)) = false) :
    exec (.mld h o) s = .next (retired (v.acceptOp (v.hostBlock c) c.card (soloOp c a0 (s.activeLanes c h.pg h.pn)))
      c h.s false [] []) := by
  subst ha0 hfmt
  refine congrArg Host.Outcome.next ((State.issueWord_owned r hclaim _).trans
    ((congrArg (State.finish c h.s false) ?_).trans (State.finish_done c h.s false _ [] [])))
  dsimp only
  rw [formatTrap_none (bne_iff_ne.2 shaped), offsetTrap_none aligned inside, Option.none_or]
  exact if_neg (by rw [present]; exact Bool.false_ne_true)

/-- What an MSTA of `size` bytes at `off`, by a block that owns the engine, leaves when it is accepted: the lines that it will
write are absent until its delivery lands (R283). -/
def State.acceptStore (v : State) (c : Ctx) (act : List Nat) (a0 : Word) (off size : Nat) : State :=
  (v.onBlock (v.hostBlock c) fun x => { x with
    deliveries := x.deliveries ++
      [{ kind := 2, owner := v.hostBlock c, number := (v.block (v.hostBlock c)).matrix.count, accepted := false }]
    absent := x.absent ++ rangeLines [(off, size)] }).acceptOp (v.hostBlock c) c.card (soloOp c a0 act)

theorem exec_msta_accepted {v : State} {m : Matrix} {a0 : Word} {fmt size : Nat} (hm : (v.block (v.hostBlock c)).matrix = m)
    (ha0 : v.readU c.wave (o.a.toNat % 64) = a0) (hfmt : (c.card.slot (mSlot c.word)).fmt = fmt)
    (hsize : 32 * mRows c.word * 64 * (if fmt = 0 then 4 else 2) = size)
    (hclaim : s.claimMatrix (s.hostBlock c) = (true, v)) (shaped : fmt ≤ 2) (rows : mRowg c.word + mRows c.word ≤ 6)
    (aligned : a0.toNat % 2 ^ 32 % 128 = 0) (inside : a0.toNat % 2 ^ 32 + size ≤ c.card.shared)
    (performed : fmt = 1 → m.ops = [] ∧ ∀ k ∈ storeKeys c.word, slagCode 10 (m.elem (mTile c.word) k).toNat = none)
    (sound : m.ops = [] → m.poisoned c.word = none) (room : v.poolTakes c.core 1 = true) :
    exec (.msta h o) s = .next (retired (v.acceptStore c (s.activeLanes c h.pg h.pn) a0 (a0.toNat % 2 ^ 32) size)
      c h.s false [] []) := by
  subst hm ha0 hfmt hsize
  have hgo : ¬(((c.card.slot (mSlot c.word)).fmt = 1 ∧ (!(v.block (v.hostBlock c)).matrix.ops.isEmpty) = true) ∨
      (!v.poolTakes c.core 1) = true) := by
    rintro (⟨hf, hops⟩ | hpool)
    · rw [(performed hf).1] at hops
      exact absurd hops (by decide)
    · rw [room] at hpool
      exact absurd hpool (by decide)
  have hslag : (if (c.card.slot (mSlot c.word)).fmt = 1 then firstSome (storeKeys c.word) fun k =>
      slagCode 10 ((v.block (v.hostBlock c)).matrix.elem (mTile c.word) k).toNat else none) = none := by
    split
    · next hf => exact firstSome_none (performed hf).2
    · rfl
  have hpoison : (if (v.block (v.hostBlock c)).matrix.ops.isEmpty = true then
      (v.block (v.hostBlock c)).matrix.poisoned c.word else none) = none := by
    split
    · next hops => exact sound (List.isEmpty_iff.1 hops)
    · rfl
  refine congrArg Host.Outcome.next ((State.issueWord_owned r hclaim _).trans
    ((congrArg (State.finish c h.s false) ?_).trans (State.finish_done c h.s false _ [] [])))
  dsimp only
  rw [formatTrap_none (decide_eq_true shaped), rowTrap_none rows, offsetTrap_none aligned inside, Option.none_or, Option.none_or]
  dsimp only
  rw [if_neg hgo, hslag]
  dsimp only
  rw [hpoison]
  rfl

end

/-! ### Region boundaries -/

section
variable {s s1 u v : State} {c : Ctx} {h : Hdr} {o : OpM} {dst src : List Nat} (bd : Boundary s c h dst src s1)
  (hu : s.claimMatrix (s.hostBlock c) = (true, u))
include bd hu

/-- A matrix word that is a region boundary, of a block that owns the engine before the commit and after it. -/
theorem State.issueBoundary_owned (hv : (begun s1 c).claimMatrix ((begun s1 c).hostBlock c) = (true, v))
    {check : Ctx → List Nat → State → Option Effect} (pass : check c (s.activeLanes c h.pg h.pn) u = none)
    (eff : Ctx → List Nat → State → Nat → Effect) :
    s.issueBoundary h dst src (fun s c act => s.owned c (check c act)) (fun s c act => s.withMatrix c (eff c act)) =
      State.finish c h.s true (eff c (s.activeLanes c h.pg h.pn) v (v.hostBlock c)) :=
  (State.issueBoundary_ready bd _ _ ((State.owned_owned hu _).trans pass)).trans
    (congrArg (State.finish c h.s true) (State.withMatrix_owned hv _))

/-- One whose conditions fail has no other effect. -/
theorem State.issueBoundary_refused {check : Ctx → List Nat → State → Option Effect} {e : Effect}
    (stop : check c (s.activeLanes c h.pg h.pn) u = some e) (eff : Ctx → List Nat → State → Nat → Effect) :
    s.issueBoundary h dst src (fun s c act => s.owned c (check c act)) (fun s c act => s.withMatrix c (eff c act)) =
      State.finish c h.s false e :=
  State.issueBoundary_stopped bd.ready bd.plain _ _ e ((State.owned_owned hu _).trans stop)

end

section
variable {s s1 u v : State} {c : Ctx} {h : Hdr} {o : OpM} (hu : s.claimMatrix (s.hostBlock c) = (true, u))
  (hv : (begun s1 c).claimMatrix ((begun s1 c).hostBlock c) = (true, v))
include hu hv

/-- MSWP and MZERO are accepted behind the operations before them (R272). -/
theorem State.issuePlain_accepted (bd : Boundary s c h [] [] s1) : s.issuePlain h =
    retired (v.acceptOp (v.hostBlock c) c.card (soloOp c 0 (s.activeLanes c h.pg h.pn))) c h.s true [] [] :=
  State.issueBoundary_owned bd hu hv rfl _

/-- MPSH pushes a word of every lane, 0 in those that are not active (R280). -/
theorem exec_mpsh_room (bd : Boundary s c h [] [o.d.toNat] s1) (hroom : c.wave.q1.length < v.q1Room c)
    (pool : v.poolTakes c.core 1 = true) : exec (.mpsh h o) s =
      .next (retired (v.onWave c.w fun w => { w with q1 := w.q1 ++ [(List.range 32).map fun l =>
        if (s.activeLanes c h.pg h.pn).contains l then v.readV c.wave l o.d.toNat else 0] }) c h.s true [] []) := by
  refine congrArg Host.Outcome.next ((State.issueBoundary_owned bd hu hv rfl _).trans
    ((congrArg (State.finish c h.s true) (if_neg ?_)).trans (State.finish_done c h.s true _ [] [])))
  simp [pool, hroom]

theorem exec_mpsh_full (bd : Boundary s c h [] [o.d.toNat] s1)
    (full : v.q1Room c ≤ c.wave.q1.length ∨ v.poolTakes c.core 1 = false) :
    exec (.mpsh h o) s = .next (parked v c .retry) := by
  refine congrArg Host.Outcome.next ((State.issueBoundary_owned bd hu hv rfl _).trans
    (congrArg (State.finish c h.s true) (if_pos ?_)))
  simpa using full

/-- MPOP takes the first column (R281). -/
theorem exec_mpop_column {col : Column} {rest : List Column} (bd : Boundary s c h [o.d.toNat] [] s1)
    (clean : ∀ x ∈ c.wave.q0.head?, ∀ l ∈ s.activeLanes c h.pg h.pn, l ∉ x.poison) (hq : (v.wave c.w).q0 = col :: rest)
    (sound : ∀ l ∈ s.activeLanes c h.pg h.pn, l ∉ col.poison) : exec (.mpop h o) s =
      .next (retired (v.onWave c.w fun w => { w with q0 := rest }) c h.s true []
        ((s.activeLanes c h.pg h.pn).map fun l => .vec l o.d.toNat (col.vals.getD l 0))) := by
  refine congrArg Host.Outcome.next ((State.issueBoundary_owned bd hu hv (columnTraps_none clean u) _).trans ?_)
  rw [hq]
  dsimp only
  rw [columnTrap_none sound]
  rfl

theorem exec_mpop_empty (bd : Boundary s c h [o.d.toNat] [] s1)
    (clean : ∀ x ∈ c.wave.q0.head?, ∀ l ∈ s.activeLanes c h.pg h.pn, l ∉ x.poison) (hq : (v.wave c.w).q0 = []) :
    exec (.mpop h o) s = .next (parked v c .retry) := by
  refine congrArg Host.Outcome.next ((State.issueBoundary_owned bd hu hv (columnTraps_none clean u) _).trans ?_)
  rw [hq]
  rfl

/-! ### MMA, MAS and MCONV -/

/-- The word that is issued, with its uniform operands as they are in a state: a match of its own wave alone. -/
def ownMatch (c : Ctx) (o : OpM) (act : List Nat) (z : State) : Matched :=
  { c, a0 := z.readU c.wave (o.a.toNat % 64), a1 := z.readU c.wave (o.a.toNat % 64 + 1), act }

/-- With SOLO an operation whose conditions hold is accepted at once (R276). -/
theorem State.issueMatrixOp_solo {x y : State} (bd : Boundary s c h [] [] s1) (solo : mSolo c.word = true)
    (hx : u.examine (u.hostBlock c) [ownMatch c o (s.activeLanes c h.pg h.pn) u] = .accepted x)
    (hy : v.examine (v.hostBlock c) [ownMatch c o (s.activeLanes c h.pg h.pn) v] = .accepted y) :
    s.issueMatrixOp h o = (retired y c h.s true [] []).wakeCur State.wakeLatch := by
  unfold ownMatch at hx hy
  refine congrArg (fun z : State => z.wakeCur State.wakeLatch) ((State.issueBoundary_owned bd hu hv ?_ _).trans ?_)
  · dsimp only
    rw [if_pos solo, hx]
  · dsimp only
    rw [if_pos solo, hy]
    rfl

/-- Without SOLO the wave of a gang whose waves are there waits in the latch (R276). -/
theorem State.issueMatrixOp_latch (bd : Boundary s c h [] [] s1) (solo : mSolo c.word = false) (gang : c.wave.gang ≠ 0)
    (there : u.gangGone (u.hostBlock c) c.wave.gang = none) :
    s.issueMatrixOp h o = (waiting v c h.s true [] (.latch c.word c.pc (v.readU c.wave (o.a.toNat % 64))
      (v.readU c.wave (o.a.toNat % 64 + 1)) (s.activeLanes c h.pg h.pn))).wakeCur State.wakeLatch := by
  refine congrArg (fun z : State => z.wakeCur State.wakeLatch) ((State.issueBoundary_owned bd hu hv ?_ _).trans ?_)
  · dsimp only
    rw [if_neg (ne_true_of_eq_false solo), if_neg gang, there]
    rfl
  · dsimp only
    rw [if_neg (ne_true_of_eq_false solo)]
    rfl

omit hv in
/-- A wave without a gang register traps (R276). -/
theorem State.issueMatrixOp_gangless (bd : Boundary s c h [] [] s1) (solo : mSolo c.word = false) (gang : c.wave.gang = 0) :
    s.issueMatrixOp h o =
      (u.programError c 0x000A 0 c.card.waves (s.activeLanes c h.pg h.pn)).wakeCur State.wakeLatch := by
  refine congrArg (fun z : State => z.wakeCur State.wakeLatch)
    (State.issueBoundary_refused (e := .trap u (.error 0x000A 0 c.card.waves (s.activeLanes c h.pg h.pn))) bd hu ?_ _)
  dsimp only
  rw [if_neg (ne_true_of_eq_false solo), if_pos gang]

end

theorem exec_issueMatrixOp {i : Instr} {h : Hdr} {o : OpM} (hi : i = .mma h o ∨ i = .mas h o ∨ i = .mconv h o) (s : State) :
    exec i s = .next (s.issueMatrixOp h o) := by
  rcases hi with rfl | rfl | rfl <;> rfl

/-- Settles O44. A word within a region meets its conditions in the state that its block's claim leaves; a region boundary
meets them before its commit, and acts after it. -/
theorem matrixWords : Obligations.MatrixWords := by
  refine fun s s1 u v c h o => ⟨fun z k howner => State.claimMatrix_owner howner, fun r => ⟨exec_gang_good r, exec_gang_bad r rfl,
    fun hclaim => ?waits, fun hclaim shaped aligned inside present => ?mld,
    fun hclaim shaped rows aligned inside performed sound room => ?msta⟩, fun bd hu hv => ?plain,
    fun bd hu hv => ⟨exec_mpsh_room hu hv bd, exec_mpsh_full hu hv bd⟩,
    fun bd hu hv clean => ⟨fun col rest hq sound => exec_mpop_column hu hv bd clean hq sound, exec_mpop_empty hu hv bd clean⟩,
    fun i x y hi bd hu hv => ?op⟩
  case waits => exact ⟨congrArg _ (State.issueWord_unowned r hclaim _), congrArg _ (State.issueWord_unowned r hclaim _)⟩
  case mld => exact exec_mld_accepted r rfl rfl hclaim shaped aligned inside present
  case msta => exact exec_msta_accepted r rfl rfl rfl rfl hclaim shaped rows aligned inside performed sound room
  case plain => exact ⟨congrArg _ (State.issuePlain_accepted hu hv bd), congrArg _ (State.issuePlain_accepted hu hv bd)⟩
  case op =>
    rw [exec_issueMatrixOp hi]
    exact ⟨fun solo hx hy => congrArg _ (State.issueMatrixOp_solo hu hv bd solo hx hy),
      fun solo gang there => congrArg _ (State.issueMatrixOp_latch hu hv bd solo gang there),
      fun solo gang => congrArg _ (State.issueMatrixOp_gangless hu bd solo gang)⟩

end Sys2Proof.Machine
end

section
/-! SUPPORT. Tables by ranges of keys: tables put together, and listed from the values of given keys. -/
namespace Sys2Proof

theorem Tab.find_append {α : Type} (t u : Tab α) (k : Nat) : Tab.find (t ++ u) k = (Tab.find t k).or (Tab.find u k) := by
  induction t with
  | nil => rfl
  | cons p r ih =>
    by_cases h : p.1 = k
    · simp [Tab.find, h]
    · simpa [Tab.find, h] using ih

/-- A table of the values of given keys, without those that have the default. -/
theorem Tab.getD_listed {α : Type} {ks : List Nat} {p : Nat → Prop} [DecidablePred p] {v : Nat → α} {d : α}
    (hp : ∀ k, p k → v k = d) (j : Nat) :
    Tab.getD (ks.filterMap fun k => if p k then none else some (k, v k)) j d = if j ∈ ks then v j else d := by
  induction ks with
  | nil => rfl
  | cons k ks ih =>
    by_cases hk : p k
    · rw [List.filterMap_cons, if_pos hk]
      refine ih.trans ?_
      by_cases hj : j = k
      · subst hj; simp [hp j hk]
      · simp [hj]
    · rw [List.filterMap_cons, if_neg hk]
      by_cases hj : k = j
      · subst hj; simp [Tab.getD, Tab.find]
      · simpa [Tab.getD, Tab.find, hj, Ne.symm hj] using ih

/-- A table whose keys from `lo` to below `hi` are those of another. -/
def Tab.splice {α : Type} (t : Tab α) (lo hi : Nat) (u : Tab α) : Tab α :=
  (t.filter fun p => decide (p.1 < lo)) ++ u ++ (t.filter fun p => decide (hi ≤ p.1))

theorem Tab.find_of_forall_ne {α : Type} {t : Tab α} {k : Nat} (h : ∀ p ∈ t, p.1 ≠ k) : t.find k = none := by
  induction t with
  | nil => rfl
  | cons p r ih =>
    rw [Tab.find, if_neg (h p List.mem_cons_self)]
    exact ih fun q hq => h q (List.mem_cons_of_mem p hq)

theorem Tab.getD_splice {α : Type} (t : Tab α) {lo hi : Nat} {u : Tab α} (hu : ∀ p ∈ u, lo ≤ p.1 ∧ p.1 < hi) (hle : lo ≤ hi)
    (k : Nat) (d : α) : (t.splice lo hi u).getD k d = if lo ≤ k ∧ k < hi then u.getD k d else t.getD k d := by
  have hlow : Tab.find (t.filter fun p => decide (p.1 < lo)) k = if k < lo then t.find k else none := by
    simpa using Tab.find_filter t (fun n => decide (n < lo)) k
  have hhigh : Tab.find (t.filter fun p => decide (hi ≤ p.1)) k = if hi ≤ k then t.find k else none := by
    simpa using Tab.find_filter t (fun n => decide (hi ≤ n)) k
  rw [Tab.splice, Tab.getD, Tab.find_append, Tab.find_append, hlow, hhigh]
  by_cases hin : lo ≤ k ∧ k < hi
  · rw [if_neg (by omega), if_neg (by omega), if_pos hin, Option.none_or, Option.or_none, Tab.getD]
  · have hnone : u.find k = none := Tab.find_of_forall_ne fun p hp => by
      have := hu p hp
      omega
    rw [hnone, if_neg hin, Option.or_none]
    by_cases hk : k < lo
    · rw [if_pos hk, if_neg (by omega), Option.or_none, Tab.getD]
    · rw [if_neg hk, if_pos (by omega), Option.none_or, Tab.getD]

end Sys2Proof
end

section
/-! SUPPORT. What landing deliveries and rings leave of a block's matrix state. -/
namespace Sys2Proof.Machine

/-- Block `b` has the same matrix state, and is in the table in both states or in neither. -/
def SameMatrix (b : Nat) (s t : State) : Prop := (t.blocks.find b).map Block.matrix = (s.blocks.find b).map Block.matrix

theorem SameMatrix.refl (b : Nat) (s : State) : SameMatrix b s s := rfl

theorem SameMatrix.trans {b : Nat} {s t u : State} (h : SameMatrix b s t) (k : SameMatrix b t u) : SameMatrix b s u :=
  Eq.trans k h

theorem SameMatrix.foldl {α : Type} {b : Nat} {f : State → α → State} (h : ∀ s a, SameMatrix b s (f s a)) (l : List α)
    (s : State) : SameMatrix b s (l.foldl f s) := by
  induction l generalizing s with
  | nil => exact SameMatrix.refl b s
  | cons a l ih => exact (h s a).trans (ih _)

theorem SameMatrix.isSome_find {b : Nat} {s t : State} (h : SameMatrix b s t) (hb : (s.blocks.find b).isSome = true) :
    (t.blocks.find b).isSome = true := by
  rw [← Option.isSome_map (f := Block.matrix), h, Option.isSome_map, hb]

theorem SameMatrix.matrix_eq {b : Nat} {s t : State} (h : SameMatrix b s t) : (t.block b).matrix = (s.block b).matrix := by
  have hmatrix : ∀ x : Option Block, (x.getD {}).matrix = (x.map Block.matrix).getD {} := fun x => by cases x <;> rfl
  rw [State.block, State.block, Tab.getD, Tab.getD, hmatrix, hmatrix, h]

/-- A change of a block that leaves its matrix state. -/
theorem State.sameMatrix_onBlock (s : State) (k b : Nat) {f : Block → Block}
    (hf : ∀ x, (f x).matrix = x.matrix := by exact fun _ => rfl) : SameMatrix b s (s.onBlock k f) := by
  unfold SameMatrix
  rw [State.onBlock_blocks, Tab.find_modify]
  split
  · rw [Option.map_map]
    exact congrArg (fun g => (s.blocks.find b).map g) (funext hf)
  · rfl

theorem State.sameMatrix_onBlock_if (p : Prop) [Decidable p] (s : State) (k b : Nat) {f : Block → Block}
    (hf : ∀ x, (f x).matrix = x.matrix := by exact fun _ => rfl) : SameMatrix b s (if p then s.onBlock k f else s) := by
  split
  · exact s.sameMatrix_onBlock k b hf
  · exact SameMatrix.refl b s

theorem Block.matrix_store (x : Block) (bytes : List (Nat × Byte)) : (x.store bytes).matrix = x.matrix := by
  obtain ⟨_, h⟩ := x.store_frame bytes
  rw [h]

theorem State.sameMatrix_publishSlot (s : State) (k : Nat) (x : Claim) (told : Tab Nat) (b : Nat) :
    SameMatrix b s (s.publishSlot k x told) := by
  unfold State.publishSlot
  split <;> rfl

theorem State.sameMatrix_advanceOne {s t : State} {k : Nat} (h : s.advanceOne k = some t) (b : Nat) : SameMatrix b s t := by
  unfold State.advanceOne at h
  obtain ⟨d, -, hd⟩ := Option.map_eq_some_iff.1 h
  cases hc : d.claim with
  | none =>
    rw [hc] at hd
    exact hd ▸ SameMatrix.refl b s
  | some x =>
    rw [hc] at hd
    rw [← hd]
    dsimp only
    refine SameMatrix.trans ?_ (State.sameMatrix_onBlock_if _ _ d.owner b)
    refine SameMatrix.trans ?_ (State.sameMatrix_publishSlot _ k x _ b)
    refine SameMatrix.trans ?_ (State.sameMatrix_onBlock _ k b)
    exact s.sameMatrix_onBlock k b fun y => y.matrix_store _

theorem State.sameMatrix_advances (b k n : Nat) (s : State) : SameMatrix b s (s.advances k n) := by
  induction n generalizing s with
  | zero => exact SameMatrix.refl b s
  | succ n ih =>
    unfold State.advances
    split
    · next t ht => exact (State.sameMatrix_advanceOne ht b).trans (ih t)
    · exact SameMatrix.refl b s

theorem State.sameMatrix_tellPush (s : State) (k : Nat) (d : Delivery) (b : Nat) : SameMatrix b s (s.tellPush k d) := by
  unfold State.tellPush
  split
  · split <;> rfl
  · rfl

theorem State.sameMatrix_advanceRings (s : State) (k b : Nat) : SameMatrix b s (s.advanceRings k) := by
  refine SameMatrix.trans ?_ (State.sameMatrix_advances b k _ _)
  refine SameMatrix.trans ?_ (State.sameMatrix_onBlock _ k b)
  exact SameMatrix.foldl (fun t d => t.sameMatrix_tellPush k d b) _ s

/-- A delivery that is no stream program's leaves every matrix state when it lands. -/
theorem State.sameMatrix_land {s : State} {k n : Nat} (hkind : ∀ d, (s.block k).deliveries[n]? = some d → d.kind ≠ 1)
    (b : Nat) : SameMatrix b s (s.land k n) := by
  unfold State.land
  split
  · exact SameMatrix.refl b s
  · next d hd =>
    split
    · exact SameMatrix.refl b s
    · dsimp only
      rw [if_neg fun h => hkind d hd h.1]
      refine SameMatrix.trans ?_ (State.sameMatrix_advanceRings _ k b)
      exact s.sameMatrix_onBlock k b fun x => x.matrix_store d.bytes

end Sys2Proof.Machine
end

section
/-! SUPPORT. The matrix engine's operations as they are performed (R272, R278, R279, R281, R283). -/
namespace Sys2Proof.Machine

/-! ### MSTA and MLD -/

/-- MSTA of sound elements leaves the matrix state: it lands a delivery of the engine's own. -/
theorem State.sameMatrix_storeTile {s : State} {b : Nat} {card : Card} {m : MatrixOp} (hb : (s.blocks.find b).isSome = true)
    (sound : (s.block b).matrix.poisoned m.word = none) : SameMatrix b s (s.storeTile b card m) := by
  unfold State.storeTile
  dsimp only
  rw [sound]
  dsimp only
  refine SameMatrix.trans ?_ (State.sameMatrix_land (fun d hd => ?_) b)
  · exact s.sameMatrix_onBlock b b
  · rw [State.block_onBlock hb] at hd
    dsimp only at hd
    rw [List.getElem?_modify_eq] at hd
    obtain ⟨d', hd', rfl⟩ := Option.map_eq_some_iff.1 hd
    obtain ⟨hlt, rfl⟩ := List.getElem?_eq_some_iff.1 hd'
    have hfound := List.findIdx_getElem (w := hlt)
    simp only [Bool.and_eq_true, beq_iff_eq] at hfound
    dsimp only
    omega

/-- MLD fills the shadow plane with its operand's bytes (R278). -/
theorem State.matrix_performLoadPlane {s : State} {b : Nat} (hb : (s.blocks.find b).isSome = true) (card : Card) (m : MatrixOp) :
    ∃ bytes poison, ((s.performLoadPlane b card m).block b).matrix = { (s.block b).matrix with
        shadow := { slot := card.formats.getD (mSlot m.word) 0, loaded := true, bytes := bytes, poison := poison } } ∧
      ∀ k, k < operandBytes (card.slot (mSlot m.word)).fmt 64 →
        bytes.getD k 0 = s.opByte b card.det m (m.a0.toNat % 2 ^ 32 + k) := by
  unfold State.performLoadPlane State.onMatrix
  rw [State.block_onBlock hb]
  refine ⟨_, _, rfl, fun k hk => ?_⟩
  exact (Tab.getD_listed (p := fun k => s.opByte b card.det m (m.a0.toNat % 2 ^ 32 + k) = 0) (fun _ => id) k).trans
    (if_pos (List.mem_range.2 hk))

/-! ### MMA, MAS and MCONV -/

theorem Plane.length_columns (p : Plane) : p.columns.length = 64 := by simp [Plane.columns]

/-- Rows of 64 elements, one after another. -/
theorem flatten_rows {α : Type} (f : Nat → Nat → α) (n : Nat) :
    ((List.range n).map fun r => (List.range 64).map (f r)).flatten =
      (List.range (64 * n)).map fun i => f (i / 64) (i % 64) := by
  induction n with
  | zero => rfl
  | succ n ih =>
    rw [List.range_succ (n := n), List.map_append, List.flatten_append, ih, Nat.mul_succ, List.range_add, List.map_append]
    refine congrArg _ ?_
    rw [List.map_singleton, List.flatten_singleton, List.map_map]
    refine List.map_congr_left fun i hi => ?_
    have hi := List.mem_range.1 hi
    have hrow : (64 * n + i) / 64 = n := by omega
    have hcol : (64 * n + i) % 64 = i := by omega
    rw [Function.comp, hrow, hcol]

theorem mapIdx_map_range {α β : Type} (f : Nat → α) (g : Nat → α → β) (n : Nat) :
    ((List.range n).map f).mapIdx g = (List.range n).map fun i => g i (f i) :=
  List.ext_getElem (by simp) fun i _ _ => by simp

theorem mapIdx_eq_map_range {α β : Type} {l : List α} {n : Nat} (h : l.length = n) (g : Nat → α → β) (d : α) :
    l.mapIdx g = (List.range n).map fun i => g i (l.getD i d) :=
  List.ext_getElem (by simp [h]) fun i hi _ => by
    have hi : i < l.length := by simpa using hi
    simp [List.getElem?_eq_getElem hi]

/-- The first key of the rows that an operation writes (R279). -/
def MatrixOp.firstKey (m : MatrixOp) : Nat := 32 * mRowg m.word * 64

/-- What element `n` of row `r` of an operation comes to, its tile and its column being those of the block. -/
def State.rowElem (s : State) (b : Nat) (card : Card) (m : MatrixOp) (r n : Nat) : Nat × Bool × Option MasResult :=
  let x := (s.block b).matrix
  let key := m.firstKey + 64 * r + n
  s.opElement b card m (slotOf x.active.slot) r n (x.elem (mTile m.word) key) (x.poison.contains (mTile m.word, key))
    (s.opRow b card m (r / 32) (r % 32)) (x.active.columns.getD n (tileLine (slotOf x.active.slot) 64 (fun _ => 0) 0))

/-- The elements of an operation's rows by their keys. -/
def State.rowElems (s : State) (b : Nat) (card : Card) (m : MatrixOp) : Tab (Nat × Bool × Option MasResult) :=
  (List.range (64 * (32 * m.members.length))).map fun i => (m.firstKey + i, s.rowElem b card m (i / 64) (i % 64))

/-- The keys and new values of an operation's rows, as its tile lists them. -/
def State.rowValues (s : State) (b : Nat) (card : Card) (m : MatrixOp) : Tab Reg :=
  (s.rowElems b card m).filterMap fun p => if p.2.1 % 2 ^ 32 = 0 then none else some (p.1, BitVec.ofNat 32 p.2.1)

theorem State.rowElems_eq (s : State) (b : Nat) (card : Card) (m : MatrixOp) :
    (((List.range (32 * m.members.length)).map fun r =>
      (s.block b).matrix.active.columns.mapIdx fun n cb =>
        s.opElement b card m (slotOf (s.block b).matrix.active.slot) r n
          ((s.block b).matrix.elem (mTile m.word) (m.firstKey + 64 * r + n))
          ((s.block b).matrix.poison.contains (mTile m.word, m.firstKey + 64 * r + n))
          (s.opRow b card m (r / 32) (r % 32)) cb).flatten.mapIdx fun i e => (m.firstKey + i, e)) = s.rowElems b card m := by
  have hrow : ∀ r, ((s.block b).matrix.active.columns.mapIdx fun n cb =>
      s.opElement b card m (slotOf (s.block b).matrix.active.slot) r n
        ((s.block b).matrix.elem (mTile m.word) (m.firstKey + 64 * r + n))
        ((s.block b).matrix.poison.contains (mTile m.word, m.firstKey + 64 * r + n))
        (s.opRow b card m (r / 32) (r % 32)) cb) = (List.range 64).map (s.rowElem b card m r) := fun r =>
    mapIdx_eq_map_range (Plane.length_columns _) _ _
  simp only [hrow]
  rw [flatten_rows, mapIdx_map_range]
  rfl

/-- The rows performed: the tile takes their elements, and no other tile changes. -/
theorem State.performRows_tiles (s : State) (b : Nat) (card : Card) (m : MatrixOp) : ∃ abn poison,
    (s.performRows b card m).1 = s.onBlock b fun y => { y with
      abn := abn
      matrix := { y.matrix with
        tiles := y.matrix.tiles.put (mTile m.word) (((s.block b).matrix.tiles.getD (mTile m.word) []).splice m.firstKey
          (m.firstKey + 32 * m.members.length * 64) (s.rowValues b card m)) []
        poison := poison } } := by
  unfold State.performRows State.rowValues
  rw [← s.rowElems_eq b card m]
  exact ⟨_, _, rfl⟩

/-- An element's new value by its key. -/
def State.valueAt (s : State) (b : Nat) (card : Card) (m : MatrixOp) (k : Nat) : Nat :=
  (s.rowElem b card m ((k - m.firstKey) / 64) ((k - m.firstKey) % 64)).1

theorem State.rowValues_eq (s : State) (b : Nat) (card : Card) (m : MatrixOp) : s.rowValues b card m =
    ((List.range (64 * (32 * m.members.length))).map fun i => m.firstKey + i).filterMap fun k =>
      if s.valueAt b card m k % 2 ^ 32 = 0 then none else some (k, BitVec.ofNat 32 (s.valueAt b card m k)) := by
  rw [State.rowValues, State.rowElems, List.filterMap_map, List.filterMap_map]
  refine congrArg (fun f => List.filterMap f _) (funext fun i => ?_)
  simp only [Function.comp, State.valueAt, Nat.add_sub_cancel_left]

/-- A key of an operation's rows holds its element's new value. -/
theorem State.getD_rowValues (s : State) (b : Nat) (card : Card) (m : MatrixOp) {r n : Nat} (hr : r < 32 * m.members.length)
    (hn : n < 64) : (s.rowValues b card m).getD (m.firstKey + 64 * r + n) 0 = BitVec.ofNat 32 (s.rowElem b card m r n).1 := by
  have hzero : ∀ k, s.valueAt b card m k % 2 ^ 32 = 0 → BitVec.ofNat 32 (s.valueAt b card m k) = 0 := fun k hk =>
    BitVec.eq_of_toNat_eq (by rw [BitVec.toNat_ofNat, hk]; rfl)
  have hkey : m.firstKey + 64 * r + n ∈ (List.range (64 * (32 * m.members.length))).map fun i => m.firstKey + i :=
    List.mem_map.2 ⟨64 * r + n, List.mem_range.2 (by omega), by omega⟩
  have hrow : (m.firstKey + 64 * r + n - m.firstKey) / 64 = r := by omega
  have hcol : (m.firstKey + 64 * r + n - m.firstKey) % 64 = n := by omega
  rw [State.rowValues_eq, Tab.getD_listed hzero, if_pos hkey, State.valueAt, hrow, hcol]

theorem State.mem_rowValues {s : State} {b : Nat} {card : Card} {m : MatrixOp} {p : Nat × Reg} (h : p ∈ s.rowValues b card m) :
    m.firstKey ≤ p.1 ∧ p.1 < m.firstKey + 32 * m.members.length * 64 := by
  obtain ⟨q, hq, hp⟩ := List.mem_filterMap.1 h
  obtain ⟨i, hi, rfl⟩ := List.mem_map.1 hq
  have hi := List.mem_range.1 hi
  split at hp
  · cases hp
  · cases hp
    dsimp only
    omega

section
variable {s : State} {b : Nat} (hb : (s.blocks.find b).isSome = true) (card : Card) (m : MatrixOp)
include hb

/-- MMA, MAS and MCONV leave every other tile (R279). -/
theorem State.elem_performRows_ne {j : Nat} (hj : j ≠ mTile m.word) (k : Nat) :
    (((s.performRows b card m).1).block b).matrix.elem j k = (s.block b).matrix.elem j k := by
  obtain ⟨abn, poison, h⟩ := s.performRows_tiles b card m
  rw [h, State.block_onBlock hb]
  dsimp only [Matrix.elem]
  rw [Tab.getD_put, if_neg hj]

/-- The tile of an operation, after it. -/
theorem State.elem_performRows (k : Nat) : (((s.performRows b card m).1).block b).matrix.elem (mTile m.word) k =
    if m.firstKey ≤ k ∧ k < m.firstKey + 32 * m.members.length * 64 then (s.rowValues b card m).getD k 0
    else (s.block b).matrix.elem (mTile m.word) k := by
  obtain ⟨abn, poison, h⟩ := s.performRows_tiles b card m
  rw [h, State.block_onBlock hb]
  dsimp only [Matrix.elem]
  rw [Tab.getD_put, if_pos rfl, Tab.getD_splice _ (fun p => State.mem_rowValues) (Nat.le_add_right _ _)]

end

/-! ### The completion -/

/-- Two states differ in their waves alone. -/
def SameButWaves (s t : State) : Prop := ∃ waves, t = { s with waves := waves }

theorem SameButWaves.refl (s : State) : SameButWaves s s := ⟨_, rfl⟩

theorem SameButWaves.trans {s t u : State} (h : SameButWaves s t) (k : SameButWaves t u) : SameButWaves s u := by
  obtain ⟨_, rfl⟩ := h
  obtain ⟨waves, rfl⟩ := k
  exact ⟨waves, rfl⟩

theorem SameButWaves.foldl_fst {α β : Type} {f : State × β → α → State × β} (h : ∀ r a, SameButWaves r.1 (f r a).1)
    (l : List α) (r : State × β) : SameButWaves r.1 (l.foldl f r).1 := by
  induction l generalizing r with
  | nil => exact SameButWaves.refl r.1
  | cons a l ih => exact (h r a).trans (ih _)

theorem SameButWaves.blocks_eq {s t : State} (h : SameButWaves s t) : t.blocks = s.blocks := by
  obtain ⟨_, rfl⟩ := h
  rfl

theorem SameButWaves.sameMemory {s t : State} (h : SameButWaves s t) : SameMemory s t := by
  obtain ⟨_, rfl⟩ := h
  exact fun _ => rfl

theorem State.sameButWaves_onWave (s : State) (w : Nat) (f : Wave → Wave) : SameButWaves s (s.onWave w f) := ⟨_, rfl⟩

/-- Columns move into queues of waves alone (R281). -/
theorem State.sameButWaves_pushSome (w : Nat) (l : List Column) (s : State) : SameButWaves s (s.pushSome w l).2 := by
  induction l generalizing s with
  | nil => exact SameButWaves.refl s
  | cons x rest ih =>
    unfold State.pushSome
    dsimp only
    split
    · exact (s.sameButWaves_onWave w _).trans (ih _)
    · exact SameButWaves.refl s

theorem State.sameButWaves_pushColumns (s : State) (out : Tab (List Column)) : SameButWaves s (s.pushColumns out).1 := by
  refine SameButWaves.foldl_fst (fun r p => ?_) out (s, [])
  dsimp only
  split
  · exact SameButWaves.refl r.1
  · exact State.sameButWaves_pushSome p.1 p.2 r.1

/-- The columns of an operation that has been performed move as far as there is room; the operation goes with the last (R281). -/
def State.pushFirst (s : State) (b : Nat) (out : Tab (List Column)) : State :=
  (s.pushColumns out).1.onMatrix b fun x => { x with
    ops := if (s.pushColumns out).2.isEmpty then x.ops.drop 1
      else x.ops.modify 0 fun y => { y with out := some (s.pushColumns out).2 } }

theorem exec_matrixOpComplete_first {s : State} {b : Nat} {m : MatrixOp} {rest : List MatrixOp}
    (hops : (s.block b).matrix.ops = m :: rest) (hout : m.out = none) : exec (.matrixOpComplete b) s =
      .next ((s.performOp b (s.job (s.cluster (s.block b).cluster).job).card m).1.pushFirst b
        (s.performOp b (s.job (s.cluster (s.block b).cluster).job).card m).2) := by
  have hexec : exec (.matrixOpComplete b) s = execMatrixOpComplete b s := rfl
  rw [hexec, execMatrixOpComplete, State.matrixStep, hops]
  dsimp only
  rw [hout]
  rfl

theorem State.sameMemory_pushFirst (s : State) (b : Nat) (out : Tab (List Column)) : SameMemory s (s.pushFirst b out) :=
  (s.sameButWaves_pushColumns out).sameMemory.trans fun _ => rfl

/-- The columns' moves leave the matrix state but for the list of operations. -/
theorem State.matrix_pushFirst {s : State} {b : Nat} (hb : (s.blocks.find b).isSome = true) (out : Tab (List Column)) :
    ∃ ops, ((s.pushFirst b out).block b).matrix = { (s.block b).matrix with ops := ops } ∧
      (out = [] → ops = (s.block b).matrix.ops.drop 1) := by
  have hblocks := (s.sameButWaves_pushColumns out).blocks_eq
  have hblock : (s.pushColumns out).1.block b = s.block b := by rw [State.block, State.block, hblocks]
  rw [State.pushFirst, State.onMatrix, State.block_onBlock (by rw [hblocks]; exact hb), hblock]
  exact ⟨_, rfl, fun hout => by subst hout; rfl⟩

section
variable {s : State} {b : Nat} (card : Card) {m : MatrixOp}

/-- All but MSTA leave the homes of memory (R283). -/
theorem State.sameMemory_performOp (hop : mOp m.word ≠ 0x39) : SameMemory s (s.performOp b card m).1 := by
  intro a
  unfold State.performOp
  split
  case h_5 h => exact absurd h hop
  case h_6 =>
    obtain ⟨abn, poison, h⟩ := s.performRows_tiles b card m
    rw [h]
    rfl
  all_goals rfl

/-- An operation without OUT has no columns to push (R281). -/
theorem State.performOp_columns (hout : mOut m.word = false) : (s.performOp b card m).2 = [] := by
  unfold State.performOp
  split
  case h_6 => exact if_neg (ne_true_of_eq_false hout)
  all_goals rfl

variable (hb : (s.blocks.find b).isSome = true)
include hb

theorem State.onBlock_keeps_ops {f : Block → Block} (hf : (f (s.block b)).matrix.ops = (s.block b).matrix.ops) :
    ((s.onBlock b f).blocks.find b).isSome = true ∧ ((s.onBlock b f).block b).matrix.ops = (s.block b).matrix.ops := by
  rw [State.onBlock_blocks, Tab.find_modify, if_pos rfl, Option.isSome_map, State.block_onBlock hb]
  exact ⟨hb, hf⟩

/-- Performing an operation keeps its block and the list of operations. -/
theorem State.performOp_keeps_ops (sound : mOp m.word = 0x39 → (s.block b).matrix.poisoned m.word = none) :
    ((s.performOp b card m).1.blocks.find b).isSome = true ∧
      (((s.performOp b card m).1).block b).matrix.ops = (s.block b).matrix.ops := by
  unfold State.performOp
  split
  case h_5 h =>
    have hsame := State.sameMatrix_storeTile (card := card) hb (sound h)
    exact ⟨hsame.isSome_find hb, congrArg Matrix.ops hsame.matrix_eq⟩
  case h_6 =>
    obtain ⟨abn, poison, h⟩ := s.performRows_tiles b card m
    rw [h]
    exact State.onBlock_keeps_ops hb rfl
  all_goals exact State.onBlock_keeps_ops hb rfl

end

/-- Settles O45. The operation is performed on its block, and leaves the list once its columns have moved: what it has written of
the matrix state stands. -/
theorem matrixPerforms : Obligations.MatrixPerforms := by
  intro s b m rest x card hb hops hout sound
  obtain ⟨hfound, hkept⟩ := State.performOp_keeps_ops card hb sound
  obtain ⟨ops, hmatrix, hnil⟩ := State.matrix_pushFirst hfound (s.performOp b card m).2
  refine ⟨_, exec_matrixOpComplete_first hops hout, fun hcolumns => ?ops, fun hop => ?memory, fun hop => ?mld, fun hop => ?mswp,
    fun hop => ?mzero, fun hop _ => ?rows⟩
  case ops => rw [hmatrix, hnil (State.performOp_columns card hcolumns), hkept, hops]; rfl
  case memory => exact (State.sameMemory_performOp card hop).trans (State.sameMemory_pushFirst _ b _)
  case mld =>
    have hperform : s.performOp b card m = (s.performLoadPlane b card m, []) := by rw [State.performOp, hop]; rfl
    rw [hmatrix, hperform]
    obtain ⟨bytes, poison, hplane, hbytes⟩ := State.matrix_performLoadPlane hb card m
    dsimp only
    rw [hplane]
    exact ⟨rfl, rfl, rfl, fun k hk => hbytes k hk⟩
  case mswp =>
    have hperform : s.performOp b card m =
        (s.onMatrix b fun x => { x with active := x.shadow, shadow := x.active }, []) := by rw [State.performOp, hop]; rfl
    rw [hmatrix, hperform]
    dsimp only
    rw [State.onMatrix, State.block_onBlock hb]
    exact ⟨rfl, rfl, rfl⟩
  case mzero =>
    have hperform : s.performOp b card m = (s.onMatrix b fun x => { x with
        tiles := x.tiles.remove (mTile m.word), poison := x.poison.filter fun p => p.1 != mTile m.word }, []) := by
      rw [State.performOp, hop]; rfl
    rw [hmatrix, hperform]
    dsimp only [Matrix.elem]
    rw [State.onMatrix, State.block_onBlock hb]
    dsimp only [Tab.getD]
    refine ⟨fun k => ?_, fun j k hj => ?_⟩
    · rw [Tab.find_remove, if_pos rfl]; rfl
    · rw [Tab.find_remove, if_neg hj]
  case rows =>
    have hperform : s.performOp b card m = s.performRows b card m := by
      rcases hop with hop | hop | hop <;> (rw [State.performOp, hop]; rfl)
    rw [hmatrix, hperform]
    refine ⟨fun r n hr hn => ?_, fun k hk => ?_, fun j k hj => State.elem_performRows_ne hb card m hj k⟩
    · refine (State.elem_performRows hb card m _).trans ((if_pos ?_).trans (s.getD_rowValues b card m hr hn))
      unfold MatrixOp.firstKey
      omega
    · exact (State.elem_performRows hb card m k).trans (if_neg (by unfold MatrixOp.firstKey; omega))

end Sys2Proof.Machine
end

section
/-! SUPPORT. Lists in the order of a measure (R295), lists without repeats, and a list put together from its elements of each
value. -/
namespace Sys2Proof
open scoped List

/-- An element goes in where Mathlib's insertion by the strict order of the measure puts it. -/
theorem insertBy_eq_orderedInsert {α : Type} (f : α → Nat) (a : α) (l : List α) :
    insertBy f a l = l.orderedInsert (fun x y => f x < f y) a := by
  induction l with
  | nil => rfl
  | cons b r ih => rw [insertBy, List.orderedInsert, ih]

theorem sortBy_concat {α : Type} (f : α → Nat) (l : List α) (a : α) :
    sortBy f (l ++ [a]) = insertBy f a (sortBy f l) := by
  rw [sortBy, List.foldl_append]
  rfl

theorem sortBy_perm {α : Type} (f : α → Nat) (l : List α) : (sortBy f l).Perm l := by
  induction l using List.reverseRecOn with
  | nil => exact .refl _
  | append_singleton l a ih =>
    rw [sortBy_concat, insertBy_eq_orderedInsert]
    calc (sortBy f l).orderedInsert (fun x y => f x < f y) a
      _ ~ a :: sortBy f l := List.perm_orderedInsert _ a _
      _ ~ a :: l := ih.cons a
      _ ~ l ++ [a] := (List.perm_append_singleton a l).symm

theorem distinct_nodup {α : Type} [DecidableEq α] (l : List α) : (distinct l).Nodup := by
  induction l using List.reverseRecOn with
  | nil => exact List.nodup_nil
  | append_singleton l a ih =>
    have hstep : distinct (l ++ [a]) = if a ∈ distinct l then distinct l else distinct l ++ [a] := by
      rw [distinct, List.foldl_append]
      rfl
    rw [hstep]
    split
    · exact ih
    · next ha => exact List.nodup_append_comm.1 (List.nodup_cons.2 ⟨ha, ih⟩)

/-- The elements of each value of a measure, value by value. -/
theorem flatMap_filter_perm {α : Type} {f : α → Nat} {keys : List Nat} (hkeys : keys.Nodup) (l : List α) :
    (keys.flatMap fun x => l.filter fun a => f a == x).Perm (l.filter fun a => decide (f a ∈ keys)) := by
  induction keys with
  | nil => simp
  | cons x xs ih =>
    obtain ⟨hx, hxs⟩ := List.nodup_cons.1 hkeys
    have hsame : (l.filter fun a => decide (f a ∈ x :: xs)).filter (fun a => f a == x) = l.filter fun a => f a == x := by
      rw [List.filter_filter]
      exact List.filter_congr fun a _ => by cases h : f a == x <;> simp_all
    have hother : (l.filter fun a => decide (f a ∈ x :: xs)).filter (fun a => !(f a == x)) =
        l.filter fun a => decide (f a ∈ xs) := by
      rw [List.filter_filter]
      refine List.filter_congr fun a _ => ?_
      cases h : f a == x <;> simp_all
    calc ((x :: xs).flatMap fun x => l.filter fun a => f a == x)
      _ = (l.filter fun a => f a == x) ++ xs.flatMap fun x => l.filter fun a => f a == x := List.flatMap_cons
      _ ~ (l.filter fun a => f a == x) ++ l.filter fun a => decide (f a ∈ xs) := (ih hxs).append_left _
      _ ~ l.filter fun a => decide (f a ∈ x :: xs) := by
        rw [← hsame, ← hother]
        exact List.filter_append_perm _ _

/-- Of all its values, it is the whole list. -/
theorem flatMap_filter_perm_self {α : Type} {f : α → Nat} {keys : List Nat} {l : List α} (hkeys : keys.Nodup)
    (hall : ∀ a ∈ l, f a ∈ keys) : (keys.flatMap fun x => l.filter fun a => f a == x).Perm l := by
  refine (flatMap_filter_perm hkeys l).trans (.of_eq (List.filter_eq_self.2 fun a ha => ?_))
  exact decide_eq_true (hall a ha)

end Sys2Proof
end

section
/-! SUPPORT. The waves that a sift builds (R295, R298). -/
namespace Sys2Proof.Machine
open scoped List

/-! ### SIFT -/

/-- Groups that have enough fuel put the list together again. -/
theorem flatten_groupsOf {α : Type} {n : Nat} {l : List α} (h : l.length ≤ n) : (groupsOf n l).flatten = l := by
  induction n generalizing l with
  | zero => rw [List.eq_nil_of_length_eq_zero (Nat.le_zero.1 h)]; rfl
  | succ n ih =>
    rw [groupsOf]
    split
    · next hl => rw [List.isEmpty_iff.1 hl]; rfl
    · next hl =>
      have hpos : 0 < l.length := List.length_pos_iff.2 fun h => hl (List.isEmpty_iff.2 h)
      rw [List.flatten_cons, ih (by rw [List.length_drop]; omega), List.take_append_drop]

/-- Each group is a part of the list, of 1 to 32 elements. -/
theorem mem_groupsOf {α : Type} {n : Nat} {l g : List α} (h : g ∈ groupsOf n l) :
    g ≠ [] ∧ g.length ≤ 32 ∧ ∀ a ∈ g, a ∈ l := by
  induction n generalizing l with
  | zero => cases h
  | succ n ih =>
    rw [groupsOf] at h
    split at h
    · cases h
    · next hl =>
      rcases List.mem_cons.1 h with rfl | h
      · refine ⟨fun hg => hl ?_, by rw [List.length_take]; omega, fun a => List.mem_of_mem_take⟩
        rcases List.take_eq_nil_iff.1 hg with h0 | rfl
        · cases h0
        · rfl
      · obtain ⟨hne, hlen, hmem⟩ := ih h
        exact ⟨hne, hlen, fun a ha => List.mem_of_mem_drop (hmem a ha)⟩

/-- The arrived threads by key, then by sr.tid (R295). -/
def siftList (arrived : List Thread) : List Thread :=
  sortBy (fun t => t.key.toNat) (sortBy (fun t => t.tid) arrived)

theorem siftList_perm (arrived : List Thread) : siftList arrived ~ arrived :=
  (sortBy_perm _ _).trans (sortBy_perm _ _)

/-- The groups of a SIFT, tray after tray (R295). -/
def siftGroups (arrived : List Thread) : List (List Thread) :=
  (distinct ((siftList arrived).map fun t => t.key.toNat)).flatMap fun x =>
    groupsOf arrived.length ((siftList arrived).filter fun t => t.key.toNat == x)

/-- The blocks that hold a wave of the SIFT (R295). -/
def siftHosts (arrived : List Thread) : List Nat := sortBy id (distinct (arrived.map fun t => t.bid))

theorem siftWaves_eq (arrived : List Thread) : siftWaves arrived = (siftGroups arrived).mapIdx fun j g =>
    { host := (siftHosts arrived).getD (j % (siftHosts arrived).length) 0, wid := j / (siftHosts arrived).length,
      threads := g.mapIdx fun l t => (l, t) } := rfl

theorem flatten_siftGroups (arrived : List Thread) : (siftGroups arrived).flatten ~ arrived := by
  have hgroups : (siftGroups arrived).flatten = (distinct ((siftList arrived).map fun t => t.key.toNat)).flatMap
      fun x => (siftList arrived).filter fun t => t.key.toNat == x := by
    rw [siftGroups, ← List.flatMap_id', List.flatMap_assoc]
    refine List.flatMap_congr fun x _ => ?_
    rw [List.flatMap_id']
    exact flatten_groupsOf ((List.length_filter_le _ _).trans (siftList_perm arrived).length_eq.le)
  rw [hgroups]
  refine (flatMap_filter_perm_self (distinct_nodup _) fun t ht => ?_).trans (siftList_perm arrived)
  exact (distinct_mem _ _).2 (List.mem_map.2 ⟨t, ht, rfl⟩)

/-- A group has from 1 to 32 threads, all of one key. -/
theorem mem_siftGroups {arrived g : List Thread} (h : g ∈ siftGroups arrived) :
    g ≠ [] ∧ g.length ≤ 32 ∧ ∀ t ∈ g, ∀ u ∈ g, t.key = u.key := by
  obtain ⟨x, -, hx⟩ := List.mem_flatMap.1 h
  obtain ⟨hne, hlen, hmem⟩ := mem_groupsOf hx
  have hkey : ∀ t ∈ g, t.key.toNat = x := fun t ht => by simpa using (List.mem_filter.1 (hmem t ht)).2
  exact ⟨hne, hlen, fun t ht u hu => BitVec.eq_of_toNat_eq ((hkey t ht).trans (hkey u hu).symm)⟩

/-- Each of the blocks is the home block of an arrived thread. -/
theorem siftHosts_getD {arrived : List Thread} (h : arrived ≠ []) (j : Nat) :
    ∃ t ∈ arrived, t.bid = (siftHosts arrived).getD (j % (siftHosts arrived).length) 0 := by
  have hmem : ∀ b, b ∈ siftHosts arrived ↔ ∃ t ∈ arrived, t.bid = b := fun b => by
    rw [siftHosts, (sortBy_perm _ _).mem_iff, distinct_mem, List.mem_map]
  obtain ⟨t, ht⟩ := List.exists_mem_of_ne_nil arrived h
  have hpos : 0 < (siftHosts arrived).length := List.length_pos_of_mem ((hmem t.bid).2 ⟨t, ht, rfl⟩)
  rw [← hmem, List.getD_eq_getElem _ _ (Nat.mod_lt j hpos)]
  exact List.getElem_mem _

/-- A list whose elements are found again in what they were made into. -/
theorem map_mapIdx_of_inverse {α β : Type} {f : Nat → α → β} {g : β → α} (hg : ∀ i a, g (f i a) = a)
    (l : List α) : (l.mapIdx f).map g = l := List.ext_getElem (by simp) (by simp [hg])

theorem siftWaves_perm (arrived : List Thread) :
    ((siftWaves arrived).flatMap fun r => r.threads.map Prod.snd) ~ arrived := by
  have hthreads : (siftWaves arrived).map (fun r => r.threads.map Prod.snd) = siftGroups arrived := by
    rw [siftWaves_eq]
    refine map_mapIdx_of_inverse (fun _ g => ?_) _
    exact map_mapIdx_of_inverse (fun _ _ => rfl) g
  rw [List.flatMap_def, hthreads]
  exact flatten_siftGroups arrived

/-- A wave that a SIFT builds (R295). -/
theorem mem_siftWaves {arrived : List Thread} {r : Rebuilt} (h : r ∈ siftWaves arrived) :
    r.threads.length ≤ 32 ∧ r.threads ≠ [] ∧ r.threads.map Prod.fst = List.range r.threads.length ∧
      (∀ p ∈ r.threads, ∀ q ∈ r.threads, p.2.key = q.2.key) ∧ ∃ t ∈ arrived, t.bid = r.host := by
  have harrived : arrived ≠ [] := by rintro rfl; cases h
  rw [siftWaves_eq] at h
  obtain ⟨j, hj, rfl⟩ := List.mem_mapIdx.1 h
  obtain ⟨hne, hlen, hkey⟩ := mem_siftGroups (List.getElem_mem hj)
  have hsnd : ∀ p ∈ (siftGroups arrived)[j].mapIdx (fun l t => (l, t)), p.2 ∈ (siftGroups arrived)[j] := fun p hp => by
    have hmap := List.mem_map_of_mem (f := Prod.snd) hp
    rwa [map_mapIdx_of_inverse fun _ _ => rfl] at hmap
  exact ⟨by simpa using hlen, by simpa using hne, List.ext_getElem (by simp) (by simp),
    fun p hp q hq => hkey _ (hsnd p hp) _ (hsnd q hq), siftHosts_getD harrived j⟩

/-! ### SIFTH -/

/-- The place of a thread's dispatch-time wave: its block and the wave's number there, below 64 (R298). -/
def dispatchPlace (card : Card) (t : Thread) : Nat := t.bid * 64 + dispatchWid card t

theorem sifthWaves_eq (card : Card) (arrived : List Thread) : sifthWaves card arrived =
    (sortBy id (distinct (arrived.map (dispatchPlace card)))).map fun p =>
      { host := p / 64, wid := p % 64,
        threads := (arrived.filter fun t => dispatchPlace card t == p).map fun t => (t.tid % 32, t) } := rfl

theorem sifthWaves_perm (card : Card) (arrived : List Thread) :
    ((sifthWaves card arrived).flatMap fun r => r.threads.map Prod.snd) ~ arrived := by
  rw [sifthWaves_eq, List.flatMap_map]
  simp only [List.map_map, Function.comp_def, List.map_id']
  refine flatMap_filter_perm_self ((sortBy_perm _ _).nodup_iff.2 (distinct_nodup _)) fun t ht => ?_
  exact (sortBy_perm _ _).mem_iff.2 ((distinct_mem _ _).2 (List.mem_map.2 ⟨t, ht, rfl⟩))

/-- A wave that a SIFTH builds (R298). -/
theorem mem_sifthWaves {card : Card} {arrived : List Thread} (hwid : ∀ t ∈ arrived, dispatchWid card t < 64) {r : Rebuilt}
    (h : r ∈ sifthWaves card arrived) {p : Nat × Thread} (hp : p ∈ r.threads) :
    p.1 = p.2.tid % 32 ∧ r.host = p.2.bid ∧ r.wid = dispatchWid card p.2 := by
  rw [sifthWaves_eq] at h
  obtain ⟨x, -, rfl⟩ := List.mem_map.1 h
  obtain ⟨t, ht, rfl⟩ := List.mem_map.1 hp
  obtain ⟨harr, hx⟩ := List.mem_filter.1 ht
  have hplace : t.bid * 64 + dispatchWid card t = x := by simpa [dispatchPlace] using hx
  have := hwid t harr
  refine ⟨rfl, ?_, ?_⟩
  · show x / 64 = t.bid
    omega
  · show x % 64 = dispatchWid card t
    omega

end Sys2Proof.Machine
end

section
/-! SUPPORT. SIFT and SIFTH (R293, R294): the issue of the words, and the arrival of their threads. -/
namespace Sys2Proof.Machine

section
variable {s s1 : State} {c : Ctx} {h : Hdr} {o : OpA} {sift : Bool}

/-- The state after the arrival of the active lanes' threads. -/
def siftWent (s s1 : State) (c : Ctx) (h : Hdr) (o : OpA) (sift : Bool) : State :=
  jumped (((released (begun s1 c) c 3 [noObj]).noteRelease c 3 [siftCode c.cl]).arrive c o sift
    (s.activeLanes c h.pg h.pn)) c h.s true []

/-- A SIFT or SIFTH that nothing stops comes to its release (R294). -/
theorem State.issueSift_passes (b : Boundary s c h [] [] s1) (settled : (s.wave c.w).results = [])
    (pushed : (begun s1 c).pushesTo c = false) (sound : siftTrap s c o sift (s.activeLanes c h.pg h.pn) = none) :
    s.issueSift h o sift = State.finish c h.s true ((begun s1 c).releaseThen c 3 [noObj] fun s' =>
      .moved ((s'.noteRelease c 3 [siftCode c.cl]).arrive c o sift (s.activeLanes c h.pg h.pn)) []) := by
  rw [State.issueSift, State.issueBoundary_ready b _ _ (by simp [settled, sound])]
  simp only [pushed, Bool.false_eq_true, if_false]

theorem State.issueSift_drained (b : Boundary s c h [] [] s1) (settled : (s.wave c.w).results = [])
    (pushed : (begun s1 c).pushesTo c = false) (sound : siftTrap s c o sift (s.activeLanes c h.pg h.pn) = none)
    (drained : Drained (begun s1 c) c 3 [noObj]) : s.issueSift h o sift = siftWent s s1 c h o sift := by
  rw [State.issueSift_passes b settled pushed sound, State.releaseThen_drained drained, State.finish_moved, siftWent]

theorem State.issueSift_undrained (b : Boundary s c h [] [] s1) (settled : (s.wave c.w).results = [])
    (pushed : (begun s1 c).pushesTo c = false) (sound : siftTrap s c o sift (s.activeLanes c h.pg h.pn) = none)
    (undrained : ¬ Drained (begun s1 c) c 3 [noObj]) : s.issueSift h o sift =
      parked ((begun s1 c).onWave c.w fun w => { w with drained := true }) c
        (.drain ((begun s1 c).releaseWaits c 3 [noObj])) := by
  rw [State.issueSift_passes b settled pushed sound, State.releaseThen_waits undrained, State.finish_again]

end

/-- A lane outside a list is not changed with the list's lanes. -/
theorem Wave.thread_onLanes_not_mem {w : Wave} {lanes : List Nat} {l : Nat} (hl : l ∉ lanes) (f : Nat → Thread → Thread) :
    (w.onLanes lanes f).thread l = w.thread l := by
  simp only [Wave.thread, Wave.onLanes, List.getD_eq_getElem?_getD, List.getElem?_mapIdx]
  cases w.threads[l]? <;> simp [hl]

/-- What an arrival does to each thread of its wave: those that arrive are no longer live (R293). -/
theorem State.thread_arrive {s : State} {c : Ctx} (hw : (s.waves.find c.w).isSome = true) (o : OpA) (sift : Bool)
    (act : List Nat) (l : Nat) : ((s.arrive c o sift act).wave c.w).thread l =
      ((s.wave c.w).onLanes act fun _ t => { t with live := false }).thread l :=
  congrArg (fun w => w.thread l) ((State.wave_onWave (s.onCluster c.cl _) c.w c.w _ hw).trans (if_pos rfl))

theorem State.sameMemory_arrive (s : State) (c : Ctx) (o : OpA) (sift : Bool) (act : List Nat) :
    SameMemory s (s.arrive c o sift act) := fun _ => rfl

end Sys2Proof.Machine
end

section
/-! SUPPORT. The completion of a sift (R293 to R298). -/
namespace Sys2Proof.Machine

/-- Two states have the same clusters, and the same bytes at the homes of all addresses. -/
def SameClusters (s t : State) : Prop := t.clusters = s.clusters ∧ SameMemory s t

theorem SameClusters.refl (s : State) : SameClusters s s := ⟨rfl, SameMemory.refl s⟩

theorem SameClusters.trans {s t u : State} (h : SameClusters s t) (k : SameClusters t u) : SameClusters s u :=
  ⟨k.1.trans h.1, h.2.trans k.2⟩

theorem SameClusters.foldl {α : Type} {f : State → α → State} (h : ∀ s a, SameClusters s (f s a)) (l : List α)
    (s : State) : SameClusters s (l.foldl f s) := by
  induction l generalizing s with
  | nil => exact SameClusters.refl s
  | cons a l ih => exact (h s a).trans (ih _)

theorem State.sameClusters_placeWave (s : State) (k slot : Nat) : SameClusters s (s.placeWave k slot) :=
  ⟨rfl, fun _ => rfl⟩

/-- A rebuilt wave is put among the waves alone. -/
theorem State.sameClusters_rebuild (s : State) (cl : Nat) (card : Card) (f : Sift) (r : Rebuilt) :
    SameClusters s (s.rebuild cl card f r) := by
  rw [State.rebuild]
  dsimp only
  split
  · exact State.sameClusters_placeWave _ _ _
  · exact ⟨rfl, fun _ => rfl⟩

theorem State.sameClusters_siftAcquired (s : State) (cl : Nat) (f : Sift) : SameClusters s (s.siftAcquired cl f) :=
  ⟨rfl, fun _ => rfl⟩

/-- An acquire at cluster scope invalidates lines of a core's L1 alone (R94). -/
theorem State.sameClusters_acquireAt_cluster (s : State) (core : Nat) (v : Views) (objs : List Obj)
    (reach : Nat → Option Nat) : SameClusters s (s.acquireAt core 3 v objs reach) := ⟨rfl, fun _ => rfl⟩

theorem exec_siftComplete (s : State) (cl : Nat) : exec (.siftComplete cl) s = .next ((s.siftStep cl).getD s) := rfl

/-- A sift whose threads have not all arrived waits (R293). -/
theorem State.siftStep_waits {s : State} {cl : Nat} (h : ∀ f, (s.cluster cl).sift = some f → s.siftReady cl f = false) :
    s.siftStep cl = none := by
  rw [State.siftStep]
  cases hf : (s.cluster cl).sift with
  | none => rfl
  | some f => simp [h f hf]

/-- One whose threads have is over; beside that it changes neither clusters nor memory. -/
theorem State.siftStep_completes {s : State} {cl : Nat} {f : Sift} (hf : (s.cluster cl).sift = some f)
    (ready : s.siftReady cl f = true) (resident : (s.cluster cl).life.resident = true) (place : f.place = true)
    (sound : f.poison = false) : ∃ t waves, s.siftStep cl = some t ∧
      SameClusters ({ s with waves }.onCluster cl fun x => { x with sift := none, trays := true }) t := by
  rw [State.siftStep]
  simp only [hf, ready, resident, place, sound, Bool.not_true, Bool.or_self, Bool.false_eq_true, if_false]
  refine ⟨_, _, rfl, (SameClusters.foldl (fun s r => ?_) _ _).trans ((State.sameClusters_siftAcquired _ cl f).trans
    (SameClusters.foldl (fun s k => ?_) _ _))⟩
  · exact State.sameClusters_rebuild s cl _ f r
  · exact State.sameClusters_acquireAt_cluster s k _ _ _

theorem exec_siftComplete_completes {s : State} {cl : Nat} {f : Sift} (hf : (s.cluster cl).sift = some f)
    (ready : s.siftReady cl f = true) (resident : (s.cluster cl).life.resident = true) (place : f.place = true)
    (sound : f.poison = false) (hcl : (s.clusters.find cl).isSome = true) :
    ∃ t, exec (.siftComplete cl) s = .next t ∧ (t.cluster cl).sift = none ∧ SameMemory s t := by
  obtain ⟨t, waves, hstep, hclusters, hmemory⟩ := State.siftStep_completes hf ready resident place sound
  have hover := State.cluster_onCluster (s := { s with waves }) hcl fun x => { x with sift := none, trays := true }
  refine ⟨t, by rw [exec_siftComplete, hstep]; rfl, ?_, hmemory⟩
  rw [State.cluster, hclusters]
  exact congrArg Cluster.sift hover

/-- Settles O46. A word that nothing stops comes to its release, then to the arrival; the completion ends the sift and changes
no memory; the waves of a SIFT are its trays' groups of 32, those of a SIFTH the threads of one dispatch-time place. -/
theorem siftResults : Obligations.SiftResults := by
  refine ⟨⟨fun s s1 c h o b settled pushed => ⟨?sift, ?sifth, ?waits⟩,
    fun s c o sift act hw hlen => ⟨?arrived, ?others, ?memory⟩, fun s cl unready => ?unready,
    fun s cl f hf ready resident place sound hcl => ?completes⟩,
    fun arrived => ⟨siftWaves_perm arrived, fun r => mem_siftWaves⟩,
    fun card arrived hwid => ⟨sifthWaves_perm card arrived, fun r hr p => mem_sifthWaves hwid hr⟩⟩
  case sift => exact fun sound drained => congrArg _ (State.issueSift_drained b settled pushed sound drained)
  case sifth => exact fun sound drained => congrArg _ (State.issueSift_drained b settled pushed sound drained)
  case waits => exact fun sound undrained => congrArg _ (State.issueSift_undrained b settled pushed sound undrained)
  case arrived =>
    intro l hl
    rw [State.thread_arrive hw, Wave.thread_onLanes_mem hl (hlen l hl)]
  case others =>
    intro l hl
    rw [State.thread_arrive hw, Wave.thread_onLanes_not_mem hl]
  case memory => exact State.sameMemory_arrive s c o sift act
  case unready =>
    rw [exec_siftComplete, State.siftStep_waits unready]
    rfl
  case completes => exact exec_siftComplete_completes hf ready resident place sound hcl

end Sys2Proof.Machine
end

section
/-! SUPPORT. Magnitudes of a floating-point format compare as their bits do (R59, R66). -/
namespace Sys2Proof

/-- Two values that are not negative, over one least exponent. -/
theorem Fl.lt_fin_iff (m n a b : Nat) (k : Int) :
    (Fl.fin false m (a + k)).lt (.fin false n (b + k)) = true ↔ m * 2 ^ a < n * 2 ^ b := by
  have hscaled : ∀ p c : Nat, Fl.scaled (.fin false p (c + k)) (min (a + k) (b + k)) =
      ((p * 2 ^ (c - min a b) : Nat) : Int) := fun p c => by
    have hexp : ((c : Int) + k - min (a + k) (b + k)).toNat = c - min a b := by omega
    simp only [Fl.scaled, hexp, Bool.false_eq_true, if_false]
  have hpow : ∀ p c : Nat, min a b ≤ c → p * 2 ^ c = p * 2 ^ (c - min a b) * 2 ^ min a b := fun p c hc => by
    rw [Nat.mul_assoc, ← Nat.pow_add, Nat.sub_add_cancel hc]
  have hcompare : (Fl.fin false m (a + k)).lt (.fin false n (b + k)) = true ↔
      m * 2 ^ (a - min a b) < n * 2 ^ (b - min a b) := by
    simp only [Fl.lt, Fl.compare, hscaled, beq_iff_eq, Option.some.injEq, compare_lt_iff_lt, Nat.cast_lt]
  rw [hcompare, hpow m a (Nat.min_le_left a b), hpow n b (Nat.min_le_right a b),
    Nat.mul_lt_mul_right (Nat.two_pow_pos _)]

theorem Fl.isNan_of_isFinite {v : Fl} (h : v.isFinite = true) : v.isNan = false := by
  cases v with
  | fin _ _ _ => rfl
  | nan | inf _ => cases h

theorem Fl.isFinite_of_isZero {v : Fl} (h : v.isZero = true) : v.isFinite = true := by
  cases v with
  | fin _ _ _ => rfl
  | nan | inf _ => cases h

namespace Fmt
variable (f : Fmt)

/-- The significand of a magnitude's bits. -/
def significand (x : Nat) : Nat := if x / 2 ^ f.fbits = 0 then x % 2 ^ f.fbits else 2 ^ f.fbits + x % 2 ^ f.fbits

/-- Its exponent over the least one. -/
def place (x : Nat) : Nat := x / 2 ^ f.fbits - 1

theorem decode_magnitude {x : Nat} (hx : x < 2 ^ (f.ebits + f.fbits)) (finite : (f.decode x).isFinite = true) :
    f.decode x = .fin false (f.significand x) (f.place x + (1 - (f.bias : Int) - f.fbits)) := by
  have hneg : x.testBit (f.ebits + f.fbits) = false := Nat.testBit_lt_two_pow hx
  have hexp : slice x f.fbits f.ebits = x / 2 ^ f.fbits := by
    rw [slice, Nat.mod_eq_of_lt]
    rwa [Nat.div_lt_iff_lt_mul (Nat.two_pow_pos _), ← Nat.pow_add]
  unfold decode at finite ⊢
  simp only [hneg, hexp] at finite ⊢
  split at finite
  · cases finite
  · split at finite
    · split at finite <;> cases finite
    · rw [if_neg ‹_›, if_neg ‹_›, significand, place]
      split
      · next h => simp [h]
      · next h =>
        congr 1
        omega

/-- Each magnitude is below the next one. -/
theorem significand_mul_strictMono : StrictMono fun x => f.significand x * 2 ^ f.place x := by
  refine strictMono_nat_of_lt_succ fun x => ?_
  have hpos : 0 < 2 ^ f.fbits := Nat.two_pow_pos _
  have hx := Nat.div_add_mod x (2 ^ f.fbits)
  have hlt := Nat.mod_lt x hpos
  unfold significand place
  generalize 2 ^ f.fbits = B at *
  generalize x / B = q at *
  generalize x % B = r at *
  by_cases hcarry : r + 1 < B
  · obtain ⟨hq', hr'⟩ := (Nat.div_mod_unique (a := x + 1) (d := q) (c := r + 1) hpos).2 ⟨by omega, hcarry⟩
    rw [hq', hr']
    gcongr
    split <;> omega
  · have hsucc : 0 + B * (q + 1) = x + 1 := by
      rw [Nat.mul_succ]
      omega
    obtain ⟨hq', hr'⟩ := (Nat.div_mod_unique (a := x + 1) (d := q + 1) (c := 0) hpos).2 ⟨hsucc, hpos⟩
    rw [hq', hr', if_neg (Nat.succ_ne_zero q)]
    cases q with
    | zero => simpa using hlt
    | succ p =>
      rw [if_neg (Nat.succ_ne_zero p)]
      calc (B + r) * 2 ^ p
        _ < (B + B) * 2 ^ p := by gcongr
        _ = (B + 0) * 2 ^ (p + 1) := by ring

/-- Finite magnitudes compare as their bits. -/
theorem lt_decode_iff {x y : Nat} (hx : x < 2 ^ (f.ebits + f.fbits)) (hy : y < 2 ^ (f.ebits + f.fbits))
    (fx : (f.decode x).isFinite = true) (fy : (f.decode y).isFinite = true) :
    (f.decode x).lt (f.decode y) = true ↔ x < y := by
  rw [f.decode_magnitude hx fx, f.decode_magnitude hy fy, Fl.lt_fin_iff]
  exact f.significand_mul_strictMono.lt_iff_lt

/-- The sign changes nothing of what kind a value is. -/
theorem isFinite_decode_mod (x : Nat) : (f.decode (x % 2 ^ (f.ebits + f.fbits))).isFinite = (f.decode x).isFinite := by
  have hexp : slice (x % 2 ^ (f.ebits + f.fbits)) f.fbits f.ebits = slice x f.fbits f.ebits := by
    rw [slice, slice, Nat.add_comm, Nat.pow_add, Nat.mod_mul_right_div_self, Nat.mod_mod]
  have hfrac : x % 2 ^ (f.ebits + f.fbits) % 2 ^ f.fbits = x % 2 ^ f.fbits :=
    Nat.mod_mod_of_dvd _ (Nat.pow_dvd_pow 2 (Nat.le_add_left _ _))
  simp only [decode, hexp, hfrac]
  split
  · rfl
  · split
    · split <;> rfl
    · split <;> rfl

/-- A finite value's sign is its first bit. -/
theorem isNeg_decode {x : Nat} (finite : (f.decode x).isFinite = true) :
    (f.decode x).isNeg = x.testBit (f.ebits + f.fbits) := by
  unfold decode at finite ⊢
  dsimp only at finite ⊢
  split
  · next h => rw [if_pos h] at finite; cases finite
  · next h =>
    rw [if_neg h] at finite
    split
    · next h => rw [if_pos h] at finite; split at finite <;> cases finite
    · split <;> rfl

end Fmt

end Sys2Proof
end

section
/-! SUPPORT. What PRUNE gives for the generator's u, x and T (R302). -/
namespace Sys2Proof.Machine

section
variable (unb : Bool) (u : Nat) {x t : Nat}

theorem pruneBits_of_nan (hx : (f32.decode x).isNan = true) : pruneBits unb u x t = 0x7FC00000 := by
  simp only [pruneBits, hx, if_true]
  rfl

theorem pruneBits_of_zero (hx : (f32.decode x).isZero = true) : pruneBits unb u x t = x := by
  simp only [pruneBits, Fl.isNan_of_isFinite (Fl.isFinite_of_isZero hx), hx, if_true, Bool.false_eq_true, if_false]

/-- An infinite x, and any x under a T that is NaN or at most 0, are kept. -/
theorem pruneBits_of_unpruned (hnan : (f32.decode x).isNan = false) (hzero : (f32.decode x).isZero = false)
    (h : (f32.decode x).isFinite = false ∨ (f32.decode t).isNan = true ∨ (f32.decode t).isZero = true ∨
      (f32.decode t).isNeg = true) : pruneBits unb u x t = x := by
  have hkeep : (!(f32.decode x).isFinite || (f32.decode t).isNan || (f32.decode t).isZero || (f32.decode t).isNeg) =
      true := by
    simpa [or_assoc] using h
  simp only [pruneBits, hnan, hzero, hkeep, if_true, Bool.false_eq_true, if_false]

variable (finite : (f32.decode x).isFinite = true) (nonzero : (f32.decode x).isZero = false)
include finite nonzero

/-- T = +inf drops. -/
theorem pruneBits_of_infinite : pruneBits unb u x 0x7F800000 = 0 := by
  have hkinds : (f32.decode 0x7F800000).isNan = false ∧ (f32.decode 0x7F800000).isZero = false ∧
      (f32.decode 0x7F800000).isNeg = false ∧ (f32.decode 0x7F800000).isFinite = false := by decide
  obtain ⟨tnan, tzero, tneg, tfin⟩ := hkinds
  simp only [pruneBits, Fl.isNan_of_isFinite finite, nonzero, finite, tnan, tzero, tneg, tfin, Bool.not_true, Bool.or_self,
    Bool.not_false, if_true, Bool.false_eq_true, if_false]

/-- The exact comparison of u * T with |x| * 2^24. -/
def pruneKeeps (u x t : Nat) : Bool :=
  (Fl.mul (.fin false u 0) (f32.decode t)).lt ((f32.decode (x % 2 ^ 31)).scale 24)

theorem pruneBits_of_finite (tfin : (f32.decode t).isFinite = true) (tpos : (f32.decode t).isZero = false)
    (tneg : (f32.decode t).isNeg = false) : pruneBits unb u x t = if pruneKeeps u x t = true then
      if unb then x / 2 ^ 31 * 2 ^ 31 +
        (if (f32.decode (x % 2 ^ 31)).lt (f32.decode t) then t % 2 ^ 31 else x % 2 ^ 31) else x
      else 0 := by
  simp only [pruneBits, Fl.isNan_of_isFinite finite, Fl.isNan_of_isFinite tfin, nonzero, finite, tfin, tpos, tneg,
    Bool.not_true, Bool.or_self, Bool.false_eq_true, if_false]
  rfl

end

/-- A magnitude is raised to a threshold above it (R302). -/
theorem ite_lt_decode_eq_max {x t : Nat} (ht : t < 2 ^ 32) (finite : (f32.decode x).isFinite = true)
    (tfin : (f32.decode t).isFinite = true) (tneg : (f32.decode t).isNeg = false) :
    (if (f32.decode (x % 2 ^ 31)).lt (f32.decode t) then t % 2 ^ 31 else x % 2 ^ 31) = max (x % 2 ^ 31) (t % 2 ^ 31) := by
  have htlt : t < 2 ^ 31 := by
    have hbit : t.testBit 31 = false := (f32.isNeg_decode tfin).symm.trans tneg
    rw [Nat.testBit_eq_decide_div_mod_eq, decide_eq_false_iff_not] at hbit
    omega
  have hlt := f32.lt_decode_iff (x := x % 2 ^ 31) (Nat.mod_lt _ (Nat.two_pow_pos 31)) htlt
    ((f32.isFinite_decode_mod x).trans finite) tfin
  rw [Nat.mod_eq_of_lt htlt]
  split
  · next h => exact (max_eq_right (hlt.1 h).le).symm
  · next h => exact (max_eq_left (not_lt.1 fun h' => h (hlt.2 h'))).symm

/-- With .unb the kept element has x's sign and the greater magnitude. -/
theorem pruneBits_unb {u x t : Nat} (ht : t < 2 ^ 32) (finite : (f32.decode x).isFinite = true)
    (nonzero : (f32.decode x).isZero = false) (tfin : (f32.decode t).isFinite = true)
    (tpos : (f32.decode t).isZero = false) (tneg : (f32.decode t).isNeg = false) (kept : pruneKeeps u x t = true) :
    pruneBits true u x t % 2 ^ 31 = max (x % 2 ^ 31) (t % 2 ^ 31) ∧ pruneBits true u x t / 2 ^ 31 = x / 2 ^ 31 := by
  rw [pruneBits_of_finite true u finite nonzero tfin tpos tneg, if_pos kept, if_pos rfl,
    ite_lt_decode_eq_max ht finite tfin tneg]
  omega

end Sys2Proof.Machine
end

section
/-! SUPPORT. RSEED, RAND and PRUNE (R300 to R302). -/
namespace Sys2Proof.Machine

/-- The trap of the first lane that holds slag (R385): operand A's where A holds it, else B's. -/
theorem slagTrap_two {op cls tyA tyB l : Nat} {act rest : List Nat} {a b : Nat → Nat}
    (hlanes : (act.filter fun l => (slagOf tyA (a l)).isSome || (slagOf tyB (b l)).isSome) = l :: rest) :
    ∃ e, slagTrap op cls act [⟨0, tyA, a⟩, ⟨1, tyB, b⟩] =
      some (.slag op cls e (if (slagOf tyA (a l)).isSome then 0 else 1) (l :: rest)) := by
  have hmem : l ∈ act.filter fun l => (slagOf tyA (a l)).isSome || (slagOf tyB (b l)).isSome := by
    rw [hlanes]
    exact List.mem_cons_self
  have hl := (List.mem_filter.1 hmem).2
  simp only [slagTrap, List.any_cons, List.any_nil, Bool.or_false, hlanes, firstSome]
  cases ha : slagOf tyA (a l) with
  | some v => exact ⟨_, rfl⟩
  | none =>
    rw [ha] at hl
    obtain ⟨v, hv⟩ := Option.isSome_iff_exists.1 hl
    rw [hv]
    exact ⟨_, rfl⟩

section
variable {s : State} {c : Ctx} {h : Hdr} {o : OpA}

theorem exec_rseed_ready (r : Ready s c h [] (seedRegs o true)) : exec (.rseed h o) s = .next (retired
    (s.onWave c.w fun w => w.onLanes (s.activeLanes c h.pg h.pn) fun l t =>
      { t with seed := BitVec.ofNat 64 (srcA s c.wave o l 64) ^^^ (BitVec.ofNat 64 t.tid * 0xD6E8FEB86659FD93) })
    c h.s false [] []) :=
  congrArg Host.Outcome.next (State.issueWord_ready r _)

/-- The result of RAND for the step's z. -/
def randWrites (ty d l z : Nat) : List RegWrite :=
  if ty = 7 then vecWrites 7 l d z
  else if ty = 6 then vecWrites 6 l d (z / 2 ^ 32)
  else vecWrites 10 l d (f32.round 0 false (.fin false (z / 2 ^ 40) (-24)))

theorem exec_rand_ready (r : Ready s c h (if o.ty.toNat = 7 then [o.d.toNat, o.d.toNat + 1] else [o.d.toNat]) []) :
    exec (.rand h o) s = .next (retired (s.setSeeds c (s.activeLanes c h.pg h.pn) fun t => (seedStep t.seed).1) c h.s false
      ((s.activeLanes c h.pg h.pn).flatMap fun l =>
        randWrites o.ty.toNat o.d.toNat l (seedStep (c.wave.thread l).seed).2.toNat) []) :=
  congrArg Host.Outcome.next (State.issueWord_ready r _)

/-- The operands that PRUNE examines for slag (R76; log entry 63). -/
def pruneExamined (s : State) (c : Ctx) (o : OpA) : List Examined :=
  [⟨0, 10, fun l => srcA s c.wave o l 32⟩, ⟨1, 10, fun _ => (s.readU c.wave (o.b.toNat % 64)).toNat % 2 ^ 32⟩]

/-- PRUNE's result in a lane: the slag of x or T, else what R302 gives. -/
def pruneValue (s : State) (c : Ctx) (o : OpA) (l : Nat) : Nat :=
  let x := srcA s c.wave o l 32
  let t := (s.readU c.wave (o.b.toNat % 64)).toNat % 2 ^ 32
  orSlag 10 [(10, x), (10, t)] (pruneBits o.x1 ((seedStep (c.wave.thread l).seed).2.toNat / 2 ^ 40) x t)

theorem exec_prune_ready (r : Ready s c h [o.d.toNat] (seedRegs o false))
    (pass : (if o.sp then none else slagTrap 0x64 0 (s.activeLanes c h.pg h.pn) (pruneExamined s c o)) = none) :
    exec (.prune h o) s = .next (retired (s.setSeeds c (s.activeLanes c h.pg h.pn) fun t => (seedStep t.seed).1) c h.s false
      ((s.activeLanes c h.pg h.pn).flatMap fun l => vecWrites 10 l o.d.toNat (pruneValue s c o l)) []) := by
  have hexec : exec (.prune h o) s = execPrune h o s := rfl
  rw [hexec, execPrune, State.issueWord_ready r]
  rw [pruneExamined] at pass
  simp only [pass]
  rfl

theorem exec_prune_slag (r : Ready s c h [o.d.toNat] (seedRegs o false)) (strict : o.sp = false) {t : Trap}
    (stop : slagTrap 0x64 0 (s.activeLanes c h.pg h.pn) (pruneExamined s c o) = some t) :
    exec (.prune h o) s = .next (s.takeTrap c t) := by
  have hexec : exec (.prune h o) s = execPrune h o s := rfl
  rw [hexec, execPrune, State.issueWord_ready r]
  rw [pruneExamined] at stop
  simp only [strict, Bool.false_eq_true, if_false, stop]
  rfl

end

/-- Settles O47. Each word is issued with its writes and its lanes' seeds; slag stops PRUNE before either; what PRUNE gives is
decided by the kinds of x and T, and by the exact comparison where both are finite. -/
theorem generatorResults : Obligations.GeneratorResults := by
  refine ⟨fun s c h o => ⟨fun r => exec_rseed_ready r, fun r => exec_rand_ready r, fun r free => ?prunes,
      fun r strict l rest hlanes => ?slag⟩,
    fun unb u x t hx ht => ⟨fun nan => pruneBits_of_nan unb u nan, fun zero => pruneBits_of_zero unb u ?zero,
      fun nan zero => pruneBits_of_unpruned unb u nan zero,
      fun finite nonzero hinf => hinf ▸ pruneBits_of_infinite unb u finite nonzero,
      fun finite nonzero tfin tpos tneg => ⟨fun dropped => ?dropped, fun kept plain => ?kept, fun kept hunb => ?unb⟩⟩⟩
  case prunes =>
    refine exec_prune_ready r ?_
    rcases free with hsp | ⟨hfree, htfree⟩
    · exact if_pos hsp
    · have hnone : slagTrap 0x64 0 (s.activeLanes c h.pg h.pn) (pruneExamined s c o) = none :=
        slagTrap_none _ _ _ _ fun l hl => List.forall_mem_cons.2
          ⟨(slagOf_f32 _).trans (hfree l hl), List.forall_mem_singleton.2 ((slagOf_f32 _).trans htfree)⟩
      rw [hnone, ite_self]
  case slag =>
    simp only [← slagOf_f32] at hlanes ⊢
    obtain ⟨e, he⟩ := slagTrap_two (op := 0x64) (cls := 0) hlanes
    exact ⟨e, _, rfl, exec_prune_slag r strict he⟩
  case zero => rcases zero with rfl | rfl <;> decide
  case dropped =>
    rw [pruneBits_of_finite unb u finite nonzero tfin tpos tneg]
    exact if_neg (ne_true_of_eq_false dropped)
  case kept =>
    rw [pruneBits_of_finite unb u finite nonzero tfin tpos tneg, plain]
    exact if_pos kept
  case unb =>
    rw [hunb]
    exact pruneBits_unb ht finite nonzero tfin tpos tneg kept

end Sys2Proof.Machine
end

section
/-! SUPPORT. The compact form of a row (R303, R305): its registers, read back. -/
namespace Sys2Proof.Machine

theorem sumOf_range_four (f : Nat → Nat) : sumOf (List.range 4) f = f 0 + f 1 + f 2 + f 3 := by
  simp [sumOf, List.range_succ]

/-- Four bytes of a register. -/
theorem slice_sumOf_bytes {f : Nat → Nat} (hf : ∀ j, f j < 256) {q : Nat} (hq : q < 4) :
    slice (sumOf (List.range 4) fun j => f j * 2 ^ (8 * j)) (8 * q) 8 = f q := by
  have h0 := hf 0
  have h1 := hf 1
  have h2 := hf 2
  have h3 := hf 3
  rw [sumOf_range_four, slice]
  interval_cases q <;> norm_num <;> omega

section
variable (k cbase off : Nat) (ovf : Bool) (row cols : List Nat)

/-- The indices of the form: those of the columns, from CBASE on, 255 at most. -/
def compactIdx : List Nat := cols.map fun x => min (cbase + x) 255

theorem compactLane_value {p : Nat} (hp : p < k) :
    (compactLane k cbase off ovf row cols).getD p 0 = (cols[p]?.map fun x => row.getD x 0).getD 0 := by
  rw [compactLane, List.append_assoc, List.getD_append _ _ _ _ (by simpa using hp),
    List.getD_eq_getElem _ _ (by simpa using hp)]
  cases h : cols[p]? <;> simp [h]

theorem compactLane_index {j : Nat} (hj : j < (k + 3) / 4) : (compactLane k cbase off ovf row cols).getD (k + j) 0 =
    sumOf (List.range 4) fun b => (compactIdx cbase cols).getD (4 * j + b) 0 * 2 ^ (8 * b) := by
  rw [compactLane, List.append_assoc, List.getD_append_right _ _ _ _ (by simp)]
  have hlen : j < (indexWords k (compactIdx cbase cols)).length := by simpa [indexWords] using hj
  rw [← compactIdx, List.length_map, List.length_range, Nat.add_sub_cancel_left, List.getD_append _ _ _ _ hlen,
    List.getD_eq_getElem _ _ hlen]
  simp [indexWords]

theorem compactLane_header : (compactLane k cbase off ovf row cols).getD (k + (k + 3) / 4) 0 =
    if ovf then 0xFFFF else off * 16 + cols.length := by
  rw [compactLane, List.getD_append_right _ _ _ _ (by simp [indexWords])]
  simp [indexWords]

/-- Index byte `p` (R303). -/
theorem compactLane_indexByte {p : Nat} (hp : p < k) :
    slice ((compactLane k cbase off ovf row cols).getD (k + p / 4) 0) (8 * (p % 4)) 8 = (compactIdx cbase cols).getD p 0 := by
  have hbyte : ∀ j, (compactIdx cbase cols).getD j 0 < 256 := fun j => by
    rw [compactIdx, List.getD_eq_getElem?_getD, List.getElem?_map]
    cases cols[j]? with
    | none => exact Nat.succ_pos _
    | some x => exact Nat.lt_succ_of_le (Nat.min_le_right _ _)
  rw [compactLane_index k cbase off ovf row cols (by omega),
    slice_sumOf_bytes (fun _ => hbyte _) (Nat.mod_lt p (by decide)), Nat.div_add_mod]

end

/-! ### Its expansion -/

/-- The row that SPEXP builds from the first `n` values and indices of a form (R306). -/
def expandedRow (k cbase : Nat) (val idx : Nat → Nat) (n : Nat) : Tab Nat :=
  (List.range n).foldl (fun t p => if cbase ≤ idx p ∧ idx p - cbase < k then t.put (idx p - cbase) (val p) 0 else t) []

/-- A column of the first `n` has its value, the others 0. -/
theorem getD_expandedRow {k cbase : Nat} {val idx : Nat → Nat} {row cols : List Nat} (hidx : ∀ p x, cols[p]? = some x →
    idx p = cbase + x ∧ x < k ∧ val p = row.getD x 0) {n : Nat} (hn : n ≤ cols.length) (i : Nat) :
    (expandedRow k cbase val idx n).getD i 0 = if i ∈ cols.take n then row.getD i 0 else 0 := by
  induction n with
  | zero => rfl
  | succ n ih =>
    obtain ⟨hi, hlt, hval⟩ := hidx n _ (List.getElem?_eq_getElem hn)
    have hput : expandedRow k cbase val idx (n + 1) =
        (expandedRow k cbase val idx n).put cols[n] (row.getD cols[n] 0) 0 := by
      rw [expandedRow, List.range_succ, List.foldl_append, List.foldl_cons, List.foldl_nil, ← expandedRow,
        if_pos (by omega), hval, hi, Nat.add_sub_cancel_left]
    have htake : i ∈ cols.take (n + 1) ↔ i = cols[n] ∨ i ∈ cols.take n := by
      rw [List.take_succ_eq_append_getElem hn, List.mem_append, List.mem_singleton, or_comm]
    rw [hput, Tab.getD_put, ih (Nat.le_of_succ_le hn)]
    by_cases hcol : i = cols[n]
    · rw [if_pos hcol, if_pos (htake.2 (.inl hcol)), hcol]
    · rw [if_neg hcol]
      simp only [htake, hcol, false_or]

theorem expandLane_eq (k cbase : Nat) (reg : Nat → Nat) : expandLane k cbase reg = (List.range k).map fun i =>
    Tab.getD (if badHeader k (reg (k + (k + 3) / 4) % 2 ^ 16) then [] else expandedRow k cbase reg
      (fun p => slice (reg (k + p / 4)) (8 * (p % 4)) 8) (reg (k + (k + 3) / 4) % 2 ^ 16 % 16)) i 0 := rfl

/-- A form whose header is bad expands to zeros. -/
theorem expandLane_of_badHeader {k cbase : Nat} {reg : Nat → Nat} (h : badHeader k (reg (k + (k + 3) / 4) % 2 ^ 16) = true) :
    expandLane k cbase reg = List.replicate k 0 := by
  rw [expandLane_eq, if_pos h]
  exact List.ext_getElem (by simp) (by simp [Tab.getD, Tab.find])

/-- The columns of a row with a nonzero raw element (R305). -/
def rawCols (k : Nat) (row : List Nat) : List Nat := (List.range k).filter fun i => decide (row.getD i 0 ≠ 0)

/-- SPEXP gives back the row that SPCMP compacted where nothing overflows (R306). -/
theorem expandLane_compactLane {k cbase off : Nat} {row : List Nat} (hrow : row.length = k)
    (hcnt : (rawCols k row).length ≤ 14) (hoff : off < 4095) (hcols : ∀ x ∈ rawCols k row, cbase + x < 255) :
    let reg := fun i => (compactLane k cbase off false row (rawCols k row)).getD i 0
    expandLane k cbase reg = row ∧ badHeader k (reg (k + (k + 3) / 4) % 2 ^ 16) = false := by
  intro reg
  have hcntk : (rawCols k row).length ≤ k := by simpa [rawCols] using List.length_filter_le _ (List.range k)
  have hheader : reg (k + (k + 3) / 4) % 2 ^ 16 = off * 16 + (rawCols k row).length := by
    rw [show reg (k + (k + 3) / 4) = off * 16 + (rawCols k row).length from compactLane_header ..]
    omega
  have hgood : badHeader k (reg (k + (k + 3) / 4) % 2 ^ 16) = false := by
    rw [hheader, badHeader, decide_eq_false_iff_not]
    omega
  have hcount : (off * 16 + (rawCols k row).length) % 16 = (rawCols k row).length := by omega
  refine ⟨?_, hgood⟩
  rw [expandLane_eq, hgood, hheader, hcount, if_neg Bool.false_ne_true]
  refine List.ext_getElem (by simp [hrow]) fun i hi hi' => ?_
  rw [List.getElem_map, List.getElem_range, getD_expandedRow (row := row) (cols := rawCols k row) ?_ le_rfl,
    List.take_length, List.getD_eq_getElem _ _ hi']
  · split
    · rfl
    · next hnot =>
      have hzero : row.getD i 0 = 0 := by
        by_contra hne
        exact hnot (List.mem_filter.2 ⟨List.mem_range.2 (hrow ▸ hi'), decide_eq_true hne⟩)
      rw [← hzero, List.getD_eq_getElem _ _ hi']
  · intro p x hx
    have hp : p < k := (List.getElem?_eq_some_iff.1 hx).1.trans_le hcntk
    have hmem : x ∈ rawCols k row := List.mem_of_getElem? hx
    refine ⟨?_, List.mem_range.1 (List.mem_filter.1 hmem).1, ?_⟩
    · rw [compactLane_indexByte k cbase off false row _ hp, compactIdx, List.getD_eq_getElem?_getD, List.getElem?_map, hx]
      exact Nat.min_eq_left (hcols x hmem).le
    · exact (compactLane_value k cbase off false row _ hp).trans (by rw [hx]; rfl)

/-- Of an overflowed form it gives a zero row. -/
theorem expandLane_overflowed (k cbase off : Nat) (row cols : List Nat) :
    let reg := fun i => (compactLane k cbase off true row cols).getD i 0
    expandLane k cbase reg = List.replicate k 0 ∧ badHeader k (reg (k + (k + 3) / 4) % 2 ^ 16) = true := by
  intro reg
  have hbad : badHeader k (reg (k + (k + 3) / 4) % 2 ^ 16) = true := by
    rw [show reg (k + (k + 3) / 4) = 0xFFFF from compactLane_header ..]
    exact decide_eq_true (.inl rfl)
  exact ⟨expandLane_of_badHeader hbad, hbad⟩

end Sys2Proof.Machine
end

section
/-! SUPPORT. SPCMP and SPEXP that may act (R305, R306). -/
namespace Sys2Proof.Machine

/-- A row's nonzero columns by the numbers that its registers hold. -/
theorem nonzeroCols_eq (ty : Nat) (row : List Reg) : nonzeroCols ty row = (List.range row.length).filter fun i =>
    decide ((if ty = 10 then (row.map BitVec.toNat).getD i 0 % 2 ^ 31 else (row.map BitVec.toNat).getD i 0) ≠ 0) := by
  refine List.filter_congr fun i _ => ?_
  have hget : (row.map BitVec.toNat).getD i 0 = (row.getD i 0).toNat := List.getD_map row (0 : Reg) BitVec.toNat
  dsimp only
  rw [hget]
  split <;> exact Bool.eq_iff_iff.2 (by simp)

/-- The last element of a list, `n` added, reaches a bound. -/
def reachesLast (l : List Nat) (n m : Nat) : Bool :=
  match l.getLast? with
  | some x => decide (n + x ≥ m)
  | none => false

/-- In an ascending list some element reaches a bound where its last one does. -/
theorem reachesLast_iff {l : List Nat} (hl : l.Pairwise (· < ·)) (n m : Nat) :
    reachesLast l n m = true ↔ ∃ x ∈ l, m ≤ n + x := by
  unfold reachesLast
  cases hlast : l.getLast? with
  | none => simp [List.getLast?_eq_none_iff.1 hlast]
  | some x =>
    obtain ⟨ys, rfl⟩ := List.getLast?_eq_some_iff.1 hlast
    have hle : ∀ y ∈ ys ++ [x], y ≤ x := fun y hy => by
      rcases List.mem_append.1 hy with hy | hy
      · exact ((List.pairwise_append.1 hl).2.2 y hy x (List.mem_singleton_self x)).le
      · exact (List.mem_singleton.1 hy).le
    rw [decide_eq_true_iff]
    exact ⟨fun h => ⟨x, by simp, h⟩, fun ⟨y, hy, h⟩ => h.trans (Nat.add_le_add_left (hle y hy) n)⟩

/-! ### The words -/

section
variable (s : State) (c : Ctx) (o : OpA)

/-- OBASE and CBASE's register (R304). -/
def sparseBase : Nat := (s.readU c.wave (o.b.toNat % 64)).toNat

/-- The row of a lane, and its columns with a nonzero element. -/
def compactRow (l : Nat) : List Nat := (List.range o.c.toNat).map fun i => (s.readV c.wave l (o.a.toNat + i)).toNat
def compactCols (l : Nat) : List Nat := (List.range o.c.toNat).filter fun i =>
  decide ((if o.ty.toNat = 10 then (compactRow s c o l).getD i 0 % 2 ^ 31 else (compactRow s c o l).getD i 0) ≠ 0)

/-- They are those of the lane's registers. -/
theorem compactRow_eq : (fun l => ((List.range o.c.toNat).map fun i => s.readV c.wave l (o.a.toNat + i)).map
    fun x => x.toNat) = compactRow s c o := funext fun _ => List.map_map

theorem compactCols_eq : (fun l => nonzeroCols o.ty.toNat
    ((List.range o.c.toNat).map fun i => s.readV c.wave l (o.a.toNat + i))) = compactCols s c o := funext fun l => by
  rw [nonzeroCols_eq, List.map_map, List.length_map, List.length_range]
  rfl

variable (row cols : Nat → List Nat) (act : List Nat)

/-- The offset of a lane's row (R305). -/
def compactOff (l : Nat) : Nat :=
  sparseBase s c o % 2 ^ 12 + sumOf (act.filter fun j => decide (j < l)) fun j => (cols j).length

/-- A lane overflows (R305). -/
def Overflows (l : Nat) : Prop :=
  15 ≤ (cols l).length ∨ 4095 ≤ compactOff s c o cols act l ∨ ∃ x ∈ cols l, 255 ≤ slice (sparseBase s c o) 16 8 + x

/-- What SPCMP writes in a lane. -/
def compactWrites (ovf : Bool) (l : Nat) : List RegWrite :=
  ((compactLane o.c.toNat (slice (sparseBase s c o) 16 8) (compactOff s c o cols act l) ovf (row l) (cols l)).mapIdx
    fun i x => .vec l (o.d.toNat + i) (BitVec.ofNat 32 x)) ++ [.pred l o.x3.toNat ovf]

/-- The status of the tile (R305, R307). -/
def anyOverflow : Bool :=
  (act.any fun l => decide ((cols l).length ≥ 15 ∨ compactOff s c o cols act l ≥ 4095) ||
    reachesLast (cols l) (slice (sparseBase s c o) 16 8) 255) &&
  act.any fun l => !(cols l).isEmpty

theorem anyOverflow_iff : anyOverflow s c o (compactCols s c o) act = true ↔
    (∃ l ∈ act, Overflows s c o (compactCols s c o) act l) ∧ ∃ l ∈ act, compactCols s c o l ≠ [] := by
  have hascending : ∀ l, (compactCols s c o l).Pairwise (· < ·) := fun l => List.pairwise_lt_range.filter _
  simp only [anyOverflow, Bool.and_eq_true, List.any_eq_true, Bool.or_eq_true, decide_eq_true_iff,
    reachesLast_iff (hascending _), Bool.not_eq_true', List.isEmpty_eq_false_iff, Overflows, or_assoc, ge_iff_le]

end

section
variable {s : State} {c : Ctx} {h : Hdr} {o : OpA}

theorem exec_spcmp_ready (r : Ready s c h (regRange o.d.toNat (compactRegs o.c.toNat)) (regRange o.a.toNat o.c.toNat)) :
    exec (.spcmp h o) s = .next (retired s c h.s false ((s.activeLanes c h.pg h.pn).flatMap
      (compactWrites s c o (compactRow s c o) (compactCols s c o) (s.activeLanes c h.pg h.pn)
        (anyOverflow s c o (compactCols s c o) (s.activeLanes c h.pg h.pn)))) []) := by
  rw [← compactRow_eq, ← compactCols_eq]
  exact congrArg Host.Outcome.next (State.issueWord_ready r _)

theorem exec_spexp_ready (r : Ready s c h (regRange o.d.toNat o.c.toNat) (regRange o.a.toNat (compactRegs o.c.toNat))) :
    exec (.spexp h o) s = .next (retired s c h.s false ((s.activeLanes c h.pg h.pn).flatMap fun l =>
      let reg (i : Nat) : Nat := (s.readV c.wave l (o.a.toNat + i)).toNat
      ((expandLane o.c.toNat (slice (sparseBase s c o) 16 8) reg).mapIdx fun i x =>
        .vec l (o.d.toNat + i) (BitVec.ofNat 32 x)) ++
        [.pred l o.x3.toNat (badHeader o.c.toNat (reg (o.c.toNat + (o.c.toNat + 3) / 4) % 2 ^ 16))]) []) :=
  congrArg Host.Outcome.next (State.issueWord_ready r _)

end

/-- Settles O48. Both words write lists made from the state in which they are issued; the form's values and index bytes are read
back column by column. -/
theorem sparseResults : Obligations.SparseResults := by
  refine ⟨fun s c h o => ⟨fun ovf hovf r => ?compacts, fun r => exec_spexp_ready r⟩,
    fun k cbase off row _ _ hrow _ => ⟨fun hcnt hoff hcols => expandLane_compactLane hrow hcnt hoff hcols,
      expandLane_overflowed k cbase off row _⟩⟩
  case compacts =>
    have hstatus : ovf = anyOverflow s c o (compactCols s c o) (s.activeLanes c h.pg h.pn) :=
      Bool.eq_iff_iff.2 (hovf.trans (anyOverflow_iff s c o _).symm)
    rw [exec_spcmp_ready r, hstatus]
    rfl

end Sys2Proof.Machine
end

section
/-! SUPPORT. Words that a deterministic job forbids (R393): each traps before it is performed. -/
namespace Sys2Proof.Machine

section
variable {s : State} {c : Ctx} {h : Hdr} {dst src : List Nat}

/-- A region boundary whose check traps takes that trap and does nothing else. -/
theorem State.issueBoundary_trap (r : Ready s c h dst src) (plain : ∀ l ∈ s.activeLanes c h.pg h.pn, (c.wave.thread l).txn = none)
    {check : State → Ctx → List Nat → Option Effect} {t : Trap}
    (stop : check s c (s.activeLanes c h.pg h.pn) = some (.trap s t)) (eff : State → Ctx → List Nat → Effect)
    (uni : List Nat) (out : Reach) : s.issueBoundary h dst src check eff uni out = s.takeTrap c t := by
  simp only [State.issueBoundary, State.issueBoundaryIn, r.ctx, isEmpty_of_ne r.active, registerTrap_none c _ _ r.below,
    State.boundaryAbort_plain plain, stop, Bool.false_eq_true, if_false, State.finish_trap]

/-- The same where the lanes keep their transactions, as the transaction words do. -/
theorem State.issueBoundaryIn_trap (r : Ready s c h dst src) {txn : State → Ctx → List Nat → List Nat × State}
    (keep : txn s c (s.activeLanes c h.pg h.pn) = (s.activeLanes c h.pg h.pn, s))
    {check : State → Ctx → List Nat → Option Effect} {t : Trap}
    (stop : check s c (s.activeLanes c h.pg h.pn) = some (.trap s t)) (eff : State → Ctx → List Nat → Effect)
    (uni : List Nat) (out : Reach) : s.issueBoundaryIn h dst src txn check eff uni out = s.takeTrap c t := by
  simp only [State.issueBoundaryIn, r.ctx, isEmpty_of_ne r.active, registerTrap_none c _ _ r.below, keep, stop,
    Bool.false_eq_true, if_false, State.finish_trap]

end

section
variable {s : State} {c : Ctx} {h : Hdr} {o : OpM} (hdet : c.det = true)
include hdet

/-- ATOM, and RED with OPN 8 to 12, are forbidden (R393). -/
theorem State.prepareAtomic_forbidden {op : Nat} {returns : Bool} (hop : returns = true ∨ (8 ≤ opnOf o ∧ opnOf o ≤ 12))
    (act : List Nat) : s.prepareAtomic c o op returns act = (.error (.trap s (forbidden op 2 act)), s) := by
  have hforbidden : (c.det && (returns || (8 ≤ opnOf o && opnOf o ≤ 12))) = true := by
    simpa [hdet] using hop
  simp only [State.prepareAtomic, hforbidden, if_true]

theorem State.queuePlace_forbidden (op addr : Nat) (act : List Nat) : s.queuePlace c op addr act = some (forbidden op 2 act) := by
  simp only [State.queuePlace, hdet, if_true]

theorem txnForbidden_det (op : Nat) (act : List Nat) : txnForbidden op s c act = some (.trap s (forbidden op 4 act)) := by
  simp only [txnForbidden, hdet, if_true]

section
variable (plain : ∀ l ∈ s.activeLanes c h.pg h.pn, (c.wave.thread l).txn = none)
include plain

theorem exec_atom_forbidden (r : Ready s c h (groupRegs o) (atomRegs o ++ baseRegs o true)) :
    exec (.atom h o) s = .next (s.takeTrap c (forbidden 0x10 2 (s.activeLanes c h.pg h.pn))) :=
  congrArg Host.Outcome.next
    (State.issueBoundary_trap r plain (by rw [State.prepareAtomic_forbidden hdet (.inl rfl)]) _ _ _)

theorem exec_enq_forbidden (r : Ready s c h [] (o.d.toNat :: baseRegs o true)) :
    exec (.enq h o) s = .next (s.takeTrap c (forbidden 0x12 2 (s.activeLanes c h.pg h.pn))) :=
  congrArg Host.Outcome.next
    (State.issueBoundary_trap r plain (by rw [State.queuePlace_forbidden hdet]; rfl) _ _ _)

theorem exec_deq_forbidden (r : Ready s c h [o.d.toNat] (baseRegs o true)) :
    exec (.deq h o) s = .next (s.takeTrap c (forbidden 0x13 2 (s.activeLanes c h.pg h.pn))) :=
  congrArg Host.Outcome.next
    (State.issueBoundary_trap r plain (by rw [State.queuePlace_forbidden hdet]; rfl) _ _ _)

theorem exec_qwait_forbidden (r : Ready s c h [] (baseRegs o true)) :
    exec (.qwait h o) s = .next (s.takeTrap c (forbidden 0x14 2 (s.activeLanes c h.pg h.pn))) :=
  congrArg Host.Outcome.next
    (State.issueBoundary_trap r plain (by rw [State.queuePlace_forbidden hdet]; rfl) _ _ _)

/-- A RED of a forbidden operation traps whether or not it releases. -/
theorem exec_red_forbidden (r : Ready s c h [] (atomRegs o ++ baseRegs o true)) (hop : 8 ≤ opnOf o ∧ opnOf o ≤ 12) :
    exec (.red h o) s = .next (s.takeTrap c (forbidden 0x11 2 (s.activeLanes c h.pg h.pn))) := by
  have hp := State.prepareAtomic_forbidden (s := s) (op := 0x11) (returns := false) hdet (.inr hop)
    (s.activeLanes c h.pg h.pn)
  have hexec : exec (.red h o) s = execRed h o s := rfl
  rw [hexec, execRed]
  dsimp only
  split
  · rw [State.issueWord_ready r, hp]
    rfl
  · exact congrArg Host.Outcome.next (State.issueBoundary_trap r plain (by rw [hp]) _ _ _)

end

end

/-- Settles O38. The check of each word stops it; JOB has no such check. -/
theorem deterministicTraps : Obligations.DeterministicTraps := by
  intro s s1 u c h o p k es act trap hdet
  refine ⟨fun plain => ⟨fun r => ?atom, fun r hlow hhigh => exec_red_forbidden hdet plain r ⟨hlow, hhigh⟩, fun r => ?enq,
    fun r => ?deq, fun r => ?qwait⟩, fun r => ⟨?tbegin, ?tend, ?tabort⟩, fun b pass hdrained hdone hsound => ?job⟩
  case atom => exact exec_atom_forbidden hdet plain r
  case enq => exact exec_enq_forbidden hdet plain r
  case deq => exact exec_deq_forbidden hdet plain r
  case qwait => exact exec_qwait_forbidden hdet plain r
  case tbegin =>
    exact congrArg Host.Outcome.next (State.issueBoundaryIn_trap r (by rw [if_pos hdet]) (txnForbidden_det hdet _ _) _ _ _)
  case tend =>
    exact congrArg Host.Outcome.next (State.issueBoundaryIn_trap r rfl (txnForbidden_det hdet _ _) _ _ _)
  case tabort =>
    exact congrArg Host.Outcome.next (State.issueBoundaryIn_trap r rfl (txnForbidden_det hdet _ _) _ _ _)
  case job =>
    rw [exec_job_ready b pass, State.releaseThen_drained hdrained]
    exact congrArg (fun e => Host.Outcome.next (State.finish c h.s true e)) (jobEffect_done hdone hsound)

end Sys2Proof.Machine
end

section
/-! SUPPORT. The order of the tests of an access's addresses (R399, step 3; R400). -/
namespace Sys2Proof.Machine

section
variable {s : State} {c : Ctx} {windows : List Nat} {g : Nat} {cg : Contig} {addrs : List (Nat × Nat)}

/-- The address of a lane lies in no window that the word can address. -/
def State.outside (s : State) (c : Ctx) (windows : List Nat) (g : Nat) (p : Nat × Nat) : Bool :=
  !(windows.contains (windowOf p.2) && (s.place c p.1 p.2 g).isSome)

/-- The lanes for which the first test finds no place are those that lie outside. -/
theorem State.filter_unplaced (s : State) (c : Ctx) (windows : List Nat) (g : Nat) (addrs : List (Nat × Nat)) :
    (addrs.map fun p => (p, if windows.contains (windowOf p.2) then s.place c p.1 p.2 g else none)).filter
        (fun p => p.2.isNone) =
      (addrs.filter (s.outside c windows g)).map fun p =>
        (p, if windows.contains (windowOf p.2) then s.place c p.1 p.2 g else none) := by
  rw [List.filter_map]
  refine congrArg (List.map _) (List.filter_congr fun p _ => ?_)
  simp only [Function.comp_apply, State.outside]
  cases windows.contains (windowOf p.2) with
  | true => cases s.place c p.1 p.2 g <;> rfl
  | false => rfl

theorem State.placeAll_outside {p : Nat × Nat} {rest : List (Nat × Nat)}
    (h : addrs.filter (s.outside c windows g) = p :: rest) :
    s.placeAll c windows g cg addrs = .error (.error 0x0103 p.2 (windowOf p.2) ((p :: rest).map Prod.fst)) := by
  simp only [State.placeAll, State.filter_unplaced, h, List.map_cons, List.map_map]
  rfl

variable (inside : addrs.filter (s.outside c windows g) = [])
include inside

theorem State.placeAll_uneven {p : Nat × Nat} {rest : List (Nat × Nat)}
    (h : addrs.filter (fun p => p.2 % g != 0) = p :: rest) :
    s.placeAll c windows g cg addrs = .error (.error 0x0102 p.2 g ((p :: rest).map Prod.fst)) := by
  simp only [State.placeAll, State.filter_unplaced, inside, h, List.map_nil]

theorem State.placeAll_scattered {k : Int} {first p : Nat × Nat} {others rest : List (Nat × Nat)}
    (even : addrs.filter (fun p => p.2 % g != 0) = []) (hglobal : addrs.filter (fun p => windowOf p.2 == 0) = first :: others)
    (h : (first :: others).filter (fun p => p.2 != requiredAddr first k p.1) = p :: rest) :
    s.placeAll c windows g (.step k) addrs =
      .error (.error 0x0101 p.2 (requiredAddr first k p.1) ((p :: rest).map Prod.fst)) := by
  simp only [State.placeAll, State.filter_unplaced, inside, even, hglobal, h, List.map_nil]

end

/-! ### Clear accesses -/

section
variable {s : State} {c : Ctx} {f : Form} {o : OpM} {act : List Nat}

/-- The places and pages of an access are those of its lanes' addresses: what its checks find. -/
def PlacedAt (s : State) (c : Ctx) (g : Nat) (acc : Access) (addrs : List (Nat × Nat)) (spots : List (Nat × Place))
    (pages : Tab Nat) : Prop :=
  spots.map Prod.fst = addrs.map Prod.fst ∧ spots.map (fun p => some p.2) = addrs.map (fun p => s.place c p.1 p.2 g) ∧
    ∀ p ∈ addrs, windowOf p.2 = 0 → ∀ pa, Mapped s c acc p.2 pa → pageAddr pages p.2 = pa

/-- The widths of a memory word are those for which a clear access passes. -/
theorem widthOf_eq_pow (o : OpM) : ∃ w ≤ 7, widthOf o = 2 ^ w := ⟨o.w.toNat, Nat.le_of_lt_succ o.w.isLt, rfl⟩

theorem State.prepareLoad_clear_placed (h : Clear s c f.windows (widthOf o) (f.contig s c o) .read (f.addrs s c o act)) :
    ∃ spots pages, s.prepareLoad c f o act = (.ok (spots, pages), s) ∧
      PlacedAt s c (widthOf o) .read (f.addrs s c o act) spots pages := by
  obtain ⟨spots, pages, hplace, hpages, hlanes, hspots, haddr, habsent, hpoison, -, hfit⟩ :=
    clear_ok s c f.windows (widthOf o) _ .read _ (widthOf_eq_pow o) h
  refine ⟨spots, pages, ?_, hlanes, hspots, fun p hp hw pa hm => (haddr p hp hw pa hm).1⟩
  simp only [State.prepareLoad, hplace, hfit, hpages, habsent, hpoison, Bool.false_eq_true, if_false]

theorem State.prepareStore_clear_placed (h : Clear s c f.windows (widthOf o) (f.contig s c o) .write (f.addrs s c o act)) :
    ∃ spots pages, s.prepareStore c f o act = (.ok (spots, pages), s) ∧
      PlacedAt s c (widthOf o) .write (f.addrs s c o act) spots pages := by
  obtain ⟨spots, pages, hplace, hpages, hlanes, hspots, haddr, habsent, -, hfit, -⟩ :=
    clear_ok s c f.windows (widthOf o) _ .write _ (widthOf_eq_pow o) h
  refine ⟨spots, pages, ?_, hlanes, hspots, fun p hp hw pa hm => (haddr p hp hw pa hm).1⟩
  simp only [State.prepareStore, hplace, hfit, hpages, habsent, Bool.false_eq_true, if_false]

/-- An atomic that is allowed in its job meets no trap of R393. -/
theorem atomic_allowed {returns : Bool} (hallowed : c.det = true → returns = false ∧ (opnOf o < 8 ∨ 12 < opnOf o)) :
    (c.det && (returns || (8 ≤ opnOf o && opnOf o ≤ 12))) = false := by
  cases hdet : c.det with
  | false => rfl
  | true =>
    obtain ⟨rfl, hopn⟩ := hallowed hdet
    simp only [Bool.true_and, Bool.false_or, Bool.and_eq_false_iff, decide_eq_false_iff_not]
    omega

theorem State.prepareAtomic_clear_placed {op : Nat} {returns : Bool}
    (h : Clear s c [0, 1, 2, 3] (widthOf o) (.oneOr (widthOf o)) .write (genericAddrs s c o 16 act))
    (hslag : atomSlag s c.wave o op act = none)
    (hallowed : c.det = true → returns = false ∧ (opnOf o < 8 ∨ 12 < opnOf o)) :
    ∃ spots pages, s.prepareAtomic c o op returns act = (.ok (spots, pages), s) ∧
      PlacedAt s c (widthOf o) .write (genericAddrs s c o 16 act) spots pages := by
  obtain ⟨spots, pages, hplace, hpages, hlanes, hspots, haddr, habsent, hpoison, -⟩ :=
    clear_ok s c _ (widthOf o) _ .write _ (widthOf_eq_pow o) h
  refine ⟨spots, pages, ?_, hlanes, hspots, fun p hp hw pa hm => (haddr p hp hw pa hm).1⟩
  simp only [State.prepareAtomic, atomic_allowed hallowed, hplace, hslag, hpages, habsent, hpoison, Bool.false_eq_true, if_false]

end

/-- Settles O28. A clear access passes each test in turn; the tests of step 3 stand in the order of `placeAll`. -/
theorem accessChecks : Obligations.AccessChecks := by
  refine ⟨fun s c f o act => ⟨State.prepareLoad_clear_placed, State.prepareStore_clear_placed, fun op returns h hslag hallowed =>
    State.prepareAtomic_clear_placed h hslag hallowed⟩, fun s c windows g cg addrs => ⟨fun p rest h => State.placeAll_outside h,
    fun p rest inside h => State.placeAll_uneven inside h, ?step⟩⟩
  case step =>
    rintro k first others p rest inside even rfl hglobal h
    exact State.placeAll_scattered inside even hglobal h

end Sys2Proof.Machine
end

section
/-! SUPPORT. The region store buffer (R34, R389): what a buffered byte reads as, and the entries that stores and REDs need. -/
namespace Sys2Proof.Machine

/-- The buffer has an entry for the stores of a line. -/
def hasLine (rsb : List Buffered) (n : Nat) : Bool :=
  rsb.any fun e => match e with | .store l .. => l == n | .red .. => false

/-- One byte put into an entry: into the entries of its line alone. -/
def Buffered.put (line scope off : Nat) (b : Byte) : Buffered → Buffered
  | .store l va sc bs => if l = line then .store l va (max sc scope) (bs.insert off b) else .store l va sc bs
  | .red l va sc ops => .red l va sc ops

/-- One byte put into the buffer. -/
def bufferByte (rsb : List Buffered) (scope : Nat) (b : Nat × Nat × Byte) : Except Nat (List Buffered) :=
  if hasLine rsb (b.1 / 128) then .ok (rsb.map (Buffered.put (b.1 / 128) scope (b.1 % 128) b.2.2))
  else if rsb.length < 64 then .ok (rsb ++ [.store (b.1 / 128) (b.2.1 / 128 * 128) scope [(b.1 % 128, b.2.2)]])
  else .error (b.2.1 / 128 * 128)

theorem bufferStore_nil (rsb : List Buffered) (scope : Nat) : bufferStore rsb scope [] = .ok rsb := rfl

theorem bufferStore_foldl_error (e : Nat) (scope : Nat) (bytes : List (Nat × Nat × Byte)) :
    bytes.foldl (fun (r : Except Nat (List Buffered)) b => r.bind fun rsb => bufferByte rsb scope b) (.error e) = .error e := by
  induction bytes with
  | nil => rfl
  | cons b r ih => exact ih

theorem bufferStore_eq_foldl (rsb : List Buffered) (scope : Nat) (bytes : List (Nat × Nat × Byte)) :
    bufferStore rsb scope bytes =
      bytes.foldl (fun (r : Except Nat (List Buffered)) b => r.bind fun rsb => bufferByte rsb scope b) (.ok rsb) := by
  unfold bufferStore
  congr 1
  funext r b
  cases r with
  | error e => rfl
  | ok rsb =>
    simp only [Except.bind, bufferByte, hasLine, lineOf]
    congr 1
    refine congrArg Except.ok (List.map_congr_left fun e _ => ?_)
    cases e <;> rfl

/-- The bytes of a store are put into the buffer one after the other. -/
theorem bufferStore_cons (rsb : List Buffered) (scope : Nat) (b : Nat × Nat × Byte) (r : List (Nat × Nat × Byte)) :
    bufferStore rsb scope (b :: r) = (bufferByte rsb scope b).bind fun rsb' => bufferStore rsb' scope r := by
  rw [bufferStore_eq_foldl, List.foldl_cons]
  cases h : bufferByte rsb scope b with
  | error e => simp only [Except.bind, h]; exact bufferStore_foldl_error e scope r
  | ok rsb' => simp only [Except.bind, h, bufferStore_eq_foldl]

/-! ### What the bytes read as -/

/-- An entry's byte at an address. -/
def Buffered.at (pa : Nat) : Buffered → Option Byte
  | .store line _ _ bytes => if line = pa / 128 then bytes.find (pa % 128) else none
  | .red .. => none

theorem bufferedByte_eq (rsb : List Buffered) (pa : Nat) : bufferedByte rsb pa = firstSome rsb.reverse (Buffered.at pa) := by
  unfold bufferedByte
  refine congrArg (firstSome rsb.reverse) (funext fun e => ?_)
  cases e <;> rfl

theorem bufferedByte_concat (rsb : List Buffered) (e : Buffered) (pa : Nat) :
    bufferedByte (rsb ++ [e]) pa = (e.at pa).or (bufferedByte rsb pa) := by
  rw [bufferedByte_eq, bufferedByte_eq, List.reverse_concat, firstSome]
  cases e.at pa <;> rfl

/-- A byte put into the entries of its line is what its address reads there. -/
theorem Buffered.at_put (pa scope : Nat) (b : Byte) (qa : Nat) (e : Buffered) :
    (e.put (pa / 128) scope (pa % 128) b).at qa =
      if qa = pa then (if hasLine [e] (pa / 128) then some b else none) else e.at qa := by
  cases e with
  | red l va sc ops => simp [Buffered.put, Buffered.at, hasLine]
  | store l va sc bs =>
    by_cases hl : l = pa / 128
    · by_cases hq : qa = pa
      · simp [Buffered.put, Buffered.at, hasLine, hl, hq, Tab.find_insert]
      · have hoff : qa / 128 = pa / 128 → qa % 128 ≠ pa % 128 := fun h h' => hq (by omega)
        by_cases hd : pa / 128 = qa / 128
        · simp [Buffered.put, Buffered.at, hl, hq, hd, Tab.find_insert, hoff hd.symm]
        · simp [Buffered.put, Buffered.at, hl, hq, hd]
    · by_cases hq : qa = pa
      · simp [Buffered.put, Buffered.at, hasLine, hl, hq]
      · simp [Buffered.put, Buffered.at, hl, hq]

theorem hasLine_concat (rsb : List Buffered) (e : Buffered) (n : Nat) :
    hasLine (rsb ++ [e]) n = (hasLine rsb n || hasLine [e] n) := List.any_append

theorem bufferedByte_map_put (rsb : List Buffered) (pa scope : Nat) (b : Byte) (qa : Nat) :
    bufferedByte (rsb.map (Buffered.put (pa / 128) scope (pa % 128) b)) qa =
      if qa = pa then (if hasLine rsb (pa / 128) then some b else none) else bufferedByte rsb qa := by
  induction rsb using List.reverseRecOn with
  | nil => simp [bufferedByte, firstSome, hasLine]
  | append_singleton rsb e ih =>
    rw [List.map_append, List.map_singleton, bufferedByte_concat, ih, Buffered.at_put, bufferedByte_concat, hasLine_concat]
    by_cases hq : qa = pa
    · simp only [if_pos hq]
      cases hasLine [e] (pa / 128) <;> simp
    · simp only [if_neg hq]

/-- After one byte its address reads it, and every other as before (R34). -/
theorem bufferedByte_bufferByte {rsb rsb' : List Buffered} {scope : Nat} {b : Nat × Nat × Byte}
    (h : bufferByte rsb scope b = .ok rsb') (qa : Nat) :
    bufferedByte rsb' qa = if b.1 = qa then some b.2.2 else bufferedByte rsb qa := by
  unfold bufferByte at h
  split at h
  · next hline =>
    cases h
    rw [bufferedByte_map_put, if_pos hline]
    simp only [eq_comm]
  · split at h
    · cases h
      rw [bufferedByte_concat]
      by_cases hq : b.1 = qa
      · simp [Buffered.at, Tab.find, hq]
      · have hoff : b.1 / 128 = qa / 128 → b.1 % 128 ≠ qa % 128 := fun h h' => hq (by omega)
        by_cases hd : b.1 / 128 = qa / 128
        · simp [Buffered.at, Tab.find, hq, hd, hoff hd]
        · simp [Buffered.at, hq, hd]
    · cases h

/-- After a store each byte that it writes reads as the last of its list, and every other as before (R216). -/
theorem bufferedByte_bufferStore {rsb rsb' : List Buffered} {scope : Nat} {bytes : List (Nat × Nat × Byte)}
    (h : bufferStore rsb scope bytes = .ok rsb') (qa : Nat) :
    bufferedByte rsb' qa = ((bytes.reverse.find? fun b => b.1 == qa).map fun b => b.2.2).or (bufferedByte rsb qa) := by
  induction bytes generalizing rsb with
  | nil => cases h; rfl
  | cons b r ih =>
    rw [bufferStore_cons] at h
    cases hb : bufferByte rsb scope b with
    | error e => rw [hb] at h; cases h
    | ok rsb1 =>
      rw [hb] at h
      rw [ih h, bufferedByte_bufferByte hb, List.reverse_cons, List.find?_append]
      cases hr : r.reverse.find? fun b => b.1 == qa with
      | some x => rfl
      | none => by_cases hq : b.1 = qa <;> simp [hq]

/-! ### The entries that a store needs -/

theorem hasLine_map_put (rsb : List Buffered) (line scope off : Nat) (b : Byte) (n : Nat) :
    hasLine (rsb.map (Buffered.put line scope off b)) n = hasLine rsb n := by
  simp only [hasLine, List.any_map]
  congr 1
  funext e
  cases e with
  | red => rfl
  | store l va sc bs => by_cases hl : l = line <;> simp [Buffered.put, hl]

/-- The lines of a list for which the buffer has no entry. -/
def newLines (rsb : List Buffered) (ls : List Nat) : Finset Nat := ls.toFinset.filter fun n => hasLine rsb n = false

theorem length_filter_distinct {α : Type} [DecidableEq α] (l : List α) (p : α → Bool) :
    ((distinct l).filter p).length = (l.toFinset.filter fun a => p a = true).card := by
  rw [← List.toFinset_card_of_nodup ((distinct_nodup l).filter p), List.toFinset_filter]
  congr 2
  ext a
  simp only [List.mem_toFinset, distinct_mem]

theorem newLines_congr {rsb rsb' : List Buffered} (h : ∀ n, hasLine rsb' n = hasLine rsb n) (ls : List Nat) :
    newLines rsb' ls = newLines rsb ls := by
  simp only [newLines, h]

theorem newLines_cons_of_has {rsb : List Buffered} {n : Nat} (h : hasLine rsb n = true) (ls : List Nat) :
    newLines rsb (n :: ls) = newLines rsb ls := by
  ext m
  simp only [newLines, Finset.mem_filter, List.mem_toFinset, List.mem_cons]
  refine and_congr_left fun hm => or_iff_right ?_
  rintro rfl
  simp [h] at hm

theorem newLines_cons_of_new {rsb : List Buffered} {n va scope : Nat} {bs : Tab Byte} (h : hasLine rsb n = false)
    (ls : List Nat) : (newLines rsb (n :: ls)).card = (newLines (rsb ++ [.store n va scope bs]) ls).card + 1 := by
  have hnot : n ∉ newLines (rsb ++ [.store n va scope bs]) ls := by
    simp [newLines, hasLine]
  rw [← Finset.card_insert_of_notMem hnot]
  congr 1
  ext m
  simp only [newLines, Finset.mem_filter, List.mem_toFinset, List.mem_cons, Finset.mem_insert, hasLine_concat]
  by_cases hm : m = n
  · simp [hm, h]
  · simp [hasLine, hm, Ne.symm hm]

/-- A store succeeds exactly when the buffer has an entry for each of its new lines, and then stays within 64 (R389). -/
theorem bufferStore_fits (bytes : List (Nat × Nat × Byte)) (rsb : List Buffered) (scope : Nat) (hlen : rsb.length ≤ 64) :
    (∃ rsb', bufferStore rsb scope bytes = .ok rsb' ∧ rsb'.length ≤ 64) ↔
      rsb.length + (newLines rsb (bytes.map fun b => b.1 / 128)).card ≤ 64 := by
  induction bytes generalizing rsb with
  | nil => simp [bufferStore_nil, newLines, hlen]
  | cons b r ih =>
    rw [bufferStore_cons, List.map_cons]
    cases hline : hasLine rsb (b.1 / 128) with
    | true =>
      rw [bufferByte, if_pos hline, newLines_cons_of_has hline]
      refine (ih _ (by simpa using hlen)).trans ?_
      rw [List.length_map, newLines_congr (hasLine_map_put rsb _ _ _ _)]
    | false =>
      rw [newLines_cons_of_new (va := b.2.1 / 128 * 128) (scope := scope) (bs := [(b.1 % 128, b.2.2)]) hline]
      by_cases hroom : rsb.length < 64
      · rw [bufferByte, if_neg (by simp [hline]), if_pos hroom]
        refine (ih _ (by simpa using hroom)).trans ?_
        rw [List.length_append, List.length_singleton]
        omega
      · rw [bufferByte, if_neg (by simp [hline]), if_neg hroom]
        simp only [Except.bind, reduceCtorEq, false_and, exists_false, false_iff]
        omega

/-- A relaxed RED succeeds exactly when the buffer has an entry for each of its lines (R389). -/
theorem bufferRed_fits (rsb : List Buffered) (scope : Nat) (ops : List (Nat × RedOp)) :
    (∃ rsb', bufferRed rsb scope ops = .ok rsb') ↔ rsb.length + (distinct (ops.map fun p => p.2.pa / 128)).length ≤ 64 := by
  unfold bufferRed
  dsimp only
  rw [List.length_map]
  split
  · next h => exact ⟨fun _ => h, fun _ => ⟨_, rfl⟩⟩
  · next h => exact ⟨fun ⟨_, hx⟩ => (nomatch hx), fun h' => absurd h' h⟩

/-! ### The words -/

/-- What refuses a store is the buffer (R389). -/
theorem State.performStore_error {s : State} {c : Ctx} {o : OpM} {spots : List (Nat × Place)} {pages : Tab Nat} {scope : Nat}
    {t : Trap} (h : s.performStore c o spots pages scope = .error t) : ∃ va, t = .error 0x0008 va 0 (spots.map Prod.fst) := by
  unfold State.performStore at h
  dsimp only at h
  split at h
  · next va _ => exact ⟨va, (Except.error.inj h).symm⟩
  · cases h

/-- A relaxed store that the buffer refuses traps. -/
theorem State.issueStore_refused {s s1 : State} {c : Ctx} {h : Hdr} {o : OpM} {f : Form} {spots : List (Nat × Place)}
    {pages : Tab Nat} {t : Trap} (ho : o.ord = 0) (r : Ready s c h [] (groupRegs o ++ baseRegs o f.pair))
    (hp : s.prepareStore c f o (s.activeLanes c h.pg h.pn) = (.ok (spots, pages), s1))
    (refused : s1.performStore c o spots pages (s1.scopeFor c o.sc.toNat spots) = .error t) :
    s.issueStore h o f = s1.takeTrap c t := by
  rw [State.issueStore, if_pos (by rw [ho]; rfl), State.issueWord_ready r]
  simp only [hp, refused, State.finish_trap]

/-- Settles O31. A store is put into the buffer byte by byte; each byte decides its own address, and takes an entry where its
line has none. -/
theorem bufferedStores : Obligations.BufferedStores := by
  refine ⟨fun rsb rsb' scope bytes pa h => ?reads, fun rsb scope bytes hlen => ?fits,
    fun i h o f s s1 c spots pages t hi ho r hp refused => ⟨State.performStore_error refused, ?store⟩,
    fun rsb scope ops => bufferRed_fits rsb scope ops, fun h o s s1 c spots pages va ho r hp refused => ?red⟩
  case reads =>
    rw [bufferedByte_bufferStore h]
    cases bytes.reverse.find? fun b => b.1 == pa <;> rfl
  case fits =>
    refine (bufferStore_fits bytes rsb scope hlen).trans ?_
    rw [length_filter_distinct]
    simp only [newLines, hasLine, Bool.not_eq_true']
    exact Iff.rfl
  case store =>
    exact ((exec_of_storeForm hi).1 s).trans (congrArg _ (State.issueStore_refused ho r hp refused))
  case red =>
    rw [exec_red_ready (by rw [ho]; decide) r hp, if_pos (by rw [ho]; rfl), State.redRelaxed_error refused]
    exact congrArg Host.Outcome.next (State.finish_trap _ _ _ _ _)

end Sys2Proof.Machine
end

section
/-! SUPPORT. Taking a trap (R376, R377, R380, R383): the wave that enters the emulation handler. Tables that list
their values by position, as its emulation registers are. -/
namespace Sys2Proof

/-- A list's elements under rising keys, some left out by their values: the key finds its element if it stayed. -/
theorem Tab.find_filter_mapIdx {α : Type} (l : List α) (p : α → Bool) (a k : Nat) :
    Tab.find ((l.mapIdx fun i x => (a + i, x)).filter fun q => p q.2) k =
      if a ≤ k then l[k - a]?.filter p else none := by
  induction l generalizing a with
  | nil => simp [Tab.find]
  | cons x r ih =>
    have hr : (r.mapIdx fun i x => (a + (i + 1), x)) = r.mapIdx fun i x => (a + 1 + i, x) := by
      simp only [Nat.add_assoc, Nat.add_comm 1]
    rw [List.mapIdx_cons, hr, List.filter_cons]
    rcases Nat.lt_trichotomy k a with h | rfl | h
    · cases hp : p x <;> simp [Tab.find, ih, show ¬ a + 1 ≤ k by omega, show ¬ a ≤ k by omega, show a ≠ k by omega]
    · cases hp : p x <;> simp [Tab.find, ih, Option.filter, hp]
    · obtain ⟨d, rfl⟩ := Nat.exists_eq_add_of_lt h
      cases hp : p x <;> simp [Tab.find, ih, show a + 1 ≤ a + d + 1 by omega, show a + d + 1 - (a + 1) = d by omega,
        show a + d + 1 - a = d + 1 by omega, show a ≤ a + d + 1 by omega, show a ≠ a + d + 1 by omega]

/-- A list's elements by their positions. -/
theorem Tab.find_mapIdx {α : Type} (l : List α) (k : Nat) : Tab.find (l.mapIdx fun i x => (i, x)) k = l[k]? := by
  have h := Tab.find_filter_mapIdx l (fun _ => true) 0 k
  have htrue : ∀ x : Option α, x.filter (fun _ => true) = x := fun x => by cases x <;> rfl
  simpa [htrue] using h

/-- The elements by their positions, the default left out. -/
theorem Tab.getD_filter_mapIdx {α : Type} [DecidableEq α] (l : List α) (d : α) (k : Nat) :
    Tab.getD ((l.mapIdx fun i x => (i, x)).filter fun q => q.2 != d) k d = l.getD k d := by
  have h := Tab.find_filter_mapIdx l (fun x => x != d) 0 k
  simp only [Nat.zero_add, Nat.zero_le, if_true, Nat.sub_zero] at h
  rw [Tab.getD, h, List.getD_eq_getElem?_getD]
  cases l[k]? with
  | none => rfl
  | some x => by_cases hx : x = d <;> simp [Option.filter, hx]

end Sys2Proof

namespace Sys2Proof.Machine

/-! ### What settling leaves of a thread -/

section
variable {α : Type} {read : Thread → α} (hv : ∀ t v, read { t with v := v } = read t) (hp : ∀ t p, read { t with p := p } = read t)
include hv hp

/-- A register write keeps what is neither a register nor a predicate of a thread. -/
theorem Wave.read_thread_apply (w : Wave) (x : RegWrite) (l : Nat) : read ((w.apply x).thread l) = read (w.thread l) := by
  have hon : ∀ (w : Wave) (k : Nat) (f : Thread → Thread), (∀ t, read (f t) = read t) →
      read ((w.onThread k f).thread l) = read (w.thread l) := fun w k f hf => by
    simp only [Wave.thread, Wave.onThread, List.getD_eq_getElem?_getD, List.getElem?_modify]
    cases w.threads[l]? with
    | none => rfl
    | some t => by_cases hk : k = l <;> simp [hk, hf]
  cases x with
  | vec k r v => simp only [Wave.apply]; split <;> exact hon _ _ _ fun t => hv t _
  | uni r v => rfl
  | pred k r v =>
    simp only [Wave.apply]
    split
    · rfl
    · exact hon _ _ _ fun t => hp t _

theorem Wave.read_thread_applyAll (w : Wave) (xs : List RegWrite) (l : Nat) :
    read ((w.applyAll xs).thread l) = read (w.thread l) := by
  unfold Wave.applyAll
  induction xs generalizing w with
  | nil => rfl
  | cons x xs ih => rw [List.foldl_cons, ih, Wave.read_thread_apply hv hp]

/-- A settle writes registers and predicates alone. -/
theorem State.read_thread_settleAll (s : State) (w : Wave) (l : Nat) :
    read ((s.settleAll w).thread l) = read (w.thread l) := Wave.read_thread_applyAll hv hp w _ l

end

theorem State.length_settleAll (s : State) (w : Wave) : (s.settleAll w).threads.length = w.threads.length :=
  Wave.length_applyAll w _

/-! ### Entry to the handler -/

section
variable {s : State} {c : Ctx} {t : Trap} (hcause : t.cause ≠ 0)
include hcause

theorem State.takeTrap_handler (hh : c.wave.handlerMode = true) :
    s.takeTrap c t = s.programError c 0x0015 t.cause c.card.emu.toNat t.lanes := by
  cases t with
  | error => exact absurd rfl hcause
  | illegal | slag | call => simp only [State.takeTrap, hh, if_true]

variable (hh : c.wave.handlerMode = false)
include hh

theorem State.takeTrap_noEmu (hemu : c.card.emu = 0) :
    s.takeTrap c t = s.programError c (t.code c.word).1 (t.code c.word).2.1 (t.code c.word).2.2 t.lanes := by
  cases t with
  | error => exact absurd rfl hcause
  | illegal | slag | call => simp only [State.takeTrap, hh, hemu, Bool.false_eq_true, if_false, if_true]

theorem State.takeTrap_emu (hemu : c.card.emu ≠ 0) : s.takeTrap c t = s.enterHandler c (t.emu c.word) := by
  cases t with
  | error => exact absurd rfl hcause
  | illegal | slag | call => simp only [State.takeTrap, hh, hemu, Bool.false_eq_true, if_false]

end

/-- The wave as it enters the handler. -/
def State.handled (s : State) (c : Ctx) (lanes : List Nat) (emu : List Nat) (w : Wave) : Wave :=
  { (s.settleAll w).onLanes lanes fun _ t => { t with pc := c.card.emu, handler := true } with
    emu := (((emu.map fun x => BitVec.ofNat 64 x) ++ [c.pc]).mapIdx fun i x => (i, x)).filter fun p => p.2 != 0 }

theorem State.enterHandler_eq {s : State} {c : Ctx} {i : Issue} (hcur : s.cur = some i) (emu : List Nat) :
    s.enterHandler c emu = s.onWave c.w (s.handled c i.lanes emu) := by
  simp only [State.enterHandler, hcur]
  rfl

section
variable {s : State} {c : Ctx} {lanes emu : List Nat} {w : Wave} {l : Nat}

theorem State.thread_handled_mem (hl : l ∈ lanes) (hlt : l < w.threads.length) :
    ((s.handled c lanes emu w).thread l).pc = c.card.emu ∧ ((s.handled c lanes emu w).thread l).handler = true ∧
      ((s.handled c lanes emu w).thread l).mt = (w.thread l).mt := by
  have hthread : (s.handled c lanes emu w).thread l =
      { (s.settleAll w).thread l with pc := c.card.emu, handler := true } :=
    Wave.thread_onLanes_mem hl ((s.length_settleAll w).symm ▸ hlt) _
  rw [hthread]
  exact ⟨rfl, rfl, State.read_thread_settleAll (read := Thread.mt) (fun _ _ => rfl) (fun _ _ => rfl) s w l⟩

theorem State.thread_handled_not_mem (hl : l ∉ lanes) :
    ((s.handled c lanes emu w).thread l).pc = (w.thread l).pc ∧
      ((s.handled c lanes emu w).thread l).handler = (w.thread l).handler := by
  have hthread : (s.handled c lanes emu w).thread l = (s.settleAll w).thread l := Wave.thread_onLanes_not_mem hl _
  rw [hthread]
  exact ⟨State.read_thread_settleAll (read := Thread.pc) (fun _ _ => rfl) (fun _ _ => rfl) s w l,
    State.read_thread_settleAll (read := Thread.handler) (fun _ _ => rfl) (fun _ _ => rfl) s w l⟩

/-- The first seven emulation registers hold the cause's values, the eighth the PC. -/
theorem State.emu_handled (hemu : emu.length = 7) :
    (∀ k, k < 7 → (s.handled c lanes emu w).emu.getD k 0 = BitVec.ofNat 64 (emu.getD k 0)) ∧
      (s.handled c lanes emu w).emu.getD 7 0 = c.pc := by
  have hread : ∀ k, (s.handled c lanes emu w).emu.getD k 0 = ((emu.map fun x => BitVec.ofNat 64 x) ++ [c.pc]).getD k 0 :=
    fun k => Tab.getD_filter_mapIdx _ 0 k
  refine ⟨fun k hk => ?_, ?_⟩
  · rw [hread, List.getD_append _ _ _ _ (by simpa [hemu] using hk)]
    simp [List.getD_eq_getElem?_getD, hemu, hk]
  · rw [hread, List.getD_append_right _ _ _ _ (by simp [hemu])]
    simp [hemu]

end

/-- Settles O20. Outside the handler and with an EMU the wave is that of `handled`; else a trap is a program error. -/
theorem takingTraps : Obligations.TakingTraps := by
  refine ⟨fun s c i t hcur hwave hcause hh hemu hlen => ?enters, fun s c t => State.takeTrap_noEmu,
    fun s c t => State.takeTrap_handler, fun s c code a b lanes => ⟨rfl, rfl⟩⟩
  case enters =>
    have htrap : s.takeTrap c t = s.onWave c.w (s.handled c i.lanes (t.emu c.word)) :=
      (State.takeTrap_emu hcause hh hemu).trans (State.enterHandler_eq hcur _)
    have hx : (s.takeTrap c t).wave c.w = s.handled c i.lanes (t.emu c.word) (s.wave c.w) := by
      rw [htrap, State.wave_onWave s c.w c.w _ hwave, if_pos rfl]
    dsimp only
    rw [hx]
    obtain ⟨hregs, hpc⟩ := State.emu_handled (s := s) (c := c) (lanes := i.lanes) (w := s.wave c.w) hlen
    exact ⟨hregs, hpc, rfl, fun l hl hlt => State.thread_handled_mem hl hlt, fun l hl => State.thread_handled_not_mem hl,
      fun a => by rw [htrap]; rfl⟩

end Sys2Proof.Machine
end

section
/-! SUPPORT. REGION, GROW and SHRINK (R245, R246, R46, R47, R390). -/
namespace Sys2Proof.Machine

/-! ### The words -/

/-- The grants that a core makes after a GROW (R246). -/
def State.granted (s : State) : State := s.wakeCur fun u c => u.grant c.core

/-- The allocation that GROW asks for, and what its cluster would then hold on its core. -/
def growNew (c : Ctx) (o : OpS) : Nat := c.wave.alloc + 8 * (o.imm.toNat % 32)
def State.growHeld (s : State) (c : Ctx) (o : OpS) : Nat := s.clusterRegs c.cl c.core + 256 * (o.imm.toNat % 32)

/-- What GROW examines first: results outstanding, then the limits of R390. -/
def growCheck (o : OpS) (s : State) (c : Ctx) (act : List Nat) : Option Effect :=
  if (s.wave c.w).results.isEmpty then
    if o.imm.toNat % 32 ≠ 0 ∧ (growNew c o > 256 ∨ s.growHeld c o > 65536) then
      some (.trap s (.error 0x0009 (growNew c o) (s.growHeld c o) act))
    else none
  else some (.settle s)

/-- What GROW does after its commit: it waits for its registers, or has none to wait for. -/
def growEffect (o : OpS) (s : State) (c : Ctx) (_ : List Nat) : Effect :=
  if o.imm.toNat % 32 = 0 then .done s [] [] else .wait s [] (.grow (growNew c o))

theorem exec_grow (h : Hdr) (o : OpS) (s : State) :
    exec (.grow h o) s = .next (s.issueBoundary h [] [] (growCheck o) (growEffect o)).granted := rfl

section
variable {s s1 : State} {c : Ctx} {h : Hdr} {o : OpS}

theorem exec_region_ready (b : Boundary s c h [] [] s1) :
    exec (.region h o) s = .next (retired (begun s1 c) c h.s true [] []) :=
  congrArg Host.Outcome.next (State.issueBoundary_ready b _ _ rfl)

variable (settled : (s.wave c.w).results = [])
include settled

/-- SHRINK gives registers back, once no result is outstanding (R47). -/
theorem exec_shrink_ready (b : Boundary s c h [] [] s1) :
    exec (.shrink h o) s = .next (retired ((begun s1 c).onWave c.w fun w =>
      w.shrinkTo (max (min 8 w.alloc) (w.alloc - 8 * (o.imm.toNat % 32)))) c h.s true [] []) :=
  congrArg Host.Outcome.next (State.issueBoundary_ready b _ _ (by rw [settled]; rfl))

theorem growCheck_within (act : List Nat) (fits : o.imm.toNat % 32 = 0 ∨ (growNew c o ≤ 256 ∧ s.growHeld c o ≤ 65536)) :
    growCheck o s c act = none := by
  rw [growCheck, settled, List.isEmpty_nil, if_pos rfl, if_neg]
  omega

theorem growCheck_beyond (act : List Nat) (hn : o.imm.toNat % 32 ≠ 0)
    (beyond : 256 < growNew c o ∨ 65536 < s.growHeld c o) :
    growCheck o s c act = some (.trap s (.error 0x0009 (growNew c o) (s.growHeld c o) act)) := by
  rw [growCheck, settled, List.isEmpty_nil, if_pos rfl, if_pos ⟨hn, beyond⟩]

/-- GROW by nothing is a region boundary. -/
theorem exec_grow_none (b : Boundary s c h [] [] s1) (hn : o.imm.toNat % 32 = 0) :
    exec (.grow h o) s = .next (retired (begun s1 c) c h.s true [] []).granted := by
  rw [exec_grow, State.issueBoundary_ready b _ _ (growCheck_within settled _ (.inl hn)), growEffect, if_pos hn,
    State.finish_done]

/-- GROW within the limits waits for its registers (R46). -/
theorem exec_grow_waits (b : Boundary s c h [] [] s1) (hn : o.imm.toNat % 32 ≠ 0) (hnew : growNew c o ≤ 256)
    (hheld : s.growHeld c o ≤ 65536) :
    exec (.grow h o) s = .next (waiting (begun s1 c) c h.s true [] (.grow (growNew c o))).granted := by
  rw [exec_grow, State.issueBoundary_ready b _ _ (growCheck_within settled _ (.inr ⟨hnew, hheld⟩)), growEffect, if_neg hn,
    State.finish_wait]

/-- GROW beyond them traps, and commits nothing (R390). -/
theorem exec_grow_beyond (r : Ready s c h [] []) (plain : ∀ l ∈ s.activeLanes c h.pg h.pn, (c.wave.thread l).txn = none)
    (hn : o.imm.toNat % 32 ≠ 0) (beyond : 256 < growNew c o ∨ 65536 < s.growHeld c o) :
    exec (.grow h o) s = .next (s.programError c 0x0009 (growNew c o) (s.growHeld c o) (s.activeLanes c h.pg h.pn)).granted := by
  rw [exec_grow, State.issueBoundary_stopped r plain _ _ _ (growCheck_beyond settled _ hn beyond), State.finish_trap]
  rfl

end

/-! ### Grants and allocations -/

/-- The oldest request of a core is granted where its registers hold it (R46). -/
theorem State.grantOne_oldest {s : State} {core k a : Nat} {w : Wave} {rest : List (Nat × Wave)}
    (oldest : s.growers core = (k, w) :: rest) (hpark : w.park = some (.grow a)) :
    s.grantOne core = if s.coreRegs core + 32 * (a - w.alloc) ≤ 65536 then
      some (s.onWave k fun w => { w with alloc := a, park := none }) else none := by
  simp only [State.grantOne, oldest, hpark]

/-- Registers at or above a smaller allocation read 0 (R47). -/
theorem Wave.v_shrinkTo {w : Wave} {l : Nat} (a r : Nat) (hl : l < w.threads.length) :
    ((w.shrinkTo a).thread l).v.getD r 0 = if a ≤ r then 0 else (w.thread l).v.getD r 0 := by
  have hthread : ((w.shrinkTo a).thread l).v = (w.thread l).v.dropIf fun r _ => decide (a ≤ r) := by
    simp [Wave.thread, Wave.shrinkTo, List.getD_eq_getElem?_getD, List.getElem?_eq_getElem hl]
  rw [hthread, Tab.getD, Tab.dropIf, Tab.find_filter _ (fun r => !decide (a ≤ r)) r]
  by_cases hr : a ≤ r <;> simp [hr, Tab.getD]

/-- Settles O24. Each word is a region boundary, GROW behind its check; the rest are the equations of commits, grants and
allocations. -/
theorem regionAndRegisters : Obligations.RegionAndRegisters := by
  refine ⟨fun s s1 c h o => ⟨fun b => ⟨exec_region_ready b, fun settled hn => exec_grow_none settled b hn,
      fun settled hn hnew hheld => exec_grow_waits settled b hn hnew hheld, fun settled => exec_shrink_ready settled b⟩,
      fun r plain settled hn beyond => exec_grow_beyond settled r plain hn beyond⟩,
    fun s c act => ⟨s.commit_free c act, s.commit_empty c act⟩, fun s core k a w rest => State.grantOne_oldest,
    fun s core => State.grant_none, fun w a l r hl => Wave.v_shrinkTo a r hl⟩

end Sys2Proof.Machine
end

section
/-! SUPPORT. Links (R337, R438, R439, R446) and the time counter with its PTP follower (R341, R342). -/
namespace Sys2Proof.Machine

/-! ### Links -/

/-- The CRC errors of a link's last millisecond with one more, and how often the flit has then failed (R438). -/
def State.crcErrors (s : State) (l : Link) : List Nat :=
  ((s.link l).errors.filter fun t => decide (s.poweredOn < t + 1000000)) ++ [s.poweredOn]
def State.flitFailures (s : State) (l : Link) (flit : Nat) : Nat := Tab.getD (α := Nat) (s.link l).flits flit 0 + 1

section
variable {s : State} {l : Link}

theorem exec_flitCrcError_idle (h : (s.link l).up = false ∨ (s.link l).training = true) (flit : Nat) :
    exec (.flitCrcError l flit) s = .next s :=
  congrArg Host.Outcome.next (if_pos (by simpa using h))

theorem exec_flitCrcError_up (hup : (s.link l).up = true) (htraining : (s.link l).training = false) (flit : Nat) :
    exec (.flitCrcError l flit) s = .next (
      if 16 ≤ (s.crcErrors l).length ∨ 4 ≤ s.flitFailures l flit then
        s.setLink l { s.link l with errors := [], flits := [], training := true }
      else s.setLink l { s.link l with errors := s.crcErrors l
                                       flits := Tab.insert (α := Nat) (s.link l).flits flit (s.flitFailures l flit) }) :=
  congrArg Host.Outcome.next (if_neg (by simp [hup, htraining]))

/-- A retrain that ends is counted; what follows depends on its outcome and on the failures before it (R438). -/
theorem exec_retrainDone_training (ok : Bool) : (s.link l).training = true →
    exec (.retrainDone l ok) s = .next (
      let t := s.count (linkNumber l).2 1
      if ok then (t.setLink l { s.link l with training := false, failed := 0 }).linkEvent l 0
      else if (s.link l).failed < 2 then t.setLink l { s.link l with failed := (s.link l).failed + 1 }
      else
        let d := (t.setLink l { s.link l with training := false, up := false, failed := 3 }).linkEvent l 1
        match l with
        | .port _ => d
        | .edge e => d.machineError 2 ([0, 0, 1, 2].getD e 0)) := by
  refine fun htraining => congrArg Host.Outcome.next (if_neg ?_)
  rw [htraining]
  exact Bool.false_ne_true

end

/-- The link of an enabled port comes up (R337). -/
theorem exec_portLinkUp_comesUp {s : State} {p : Nat} (hp : p < 8) (hdown : (s.links.getD p {}).up = false)
    (hmode : s.pmodes.getD p 0 ≠ 0) (hfailed : (s.links.getD p {}).failed < 3) :
    exec (.portLinkUp p) s = .next { s with links := s.links.put p { up := true } {} } := by
  refine congrArg Host.Outcome.next (if_neg ?_)
  rintro (h | h | h | h)
  · omega
  · rw [hdown] at h
    exact Bool.false_ne_true h
  · exact hmode h
  · omega

/-! ### The time counter -/

theorem laterTime_of_lt {t : Word} {n : Nat} (h : t.toNat + n < 2 ^ 64) : laterTime t n = t + BitVec.ofNat 64 n := by
  refine BitVec.eq_of_toNat_eq ?_
  rw [laterTime, BitVec.toNat_ofNat, BitVec.toNat_add, BitVec.toNat_ofNat, Nat.min_eq_right (by omega)]
  omega

theorem le_laterTime (t : Word) (n : Nat) : t ≤ laterTime t n := by
  have ht := t.isLt
  rw [BitVec.le_def, laterTime, BitVec.toNat_ofNat, Nat.mod_eq_of_lt (by omega)]
  omega

/-- Counting seconds and flushing the counts leave the clocks and the slew. -/
theorem State.countSeconds_frame (s : State) (n : Nat) :
    (s.countSeconds n).time = s.time ∧ (s.countSeconds n).clk = s.clk ∧ (s.countSeconds n).offset = s.offset := by
  unfold State.countSeconds
  split <;> exact ⟨rfl, rfl, rfl⟩

/-- As time passes the clock counts, and the time counter goes on with what it slews (R22, R342). -/
theorem State.advance_clocks (s : State) (p : Pace) :
    ∃ step, (s.offset = 0 → step = 0) ∧ (s.advance p).clk = s.clk + p.arith ∧
      (s.advance p).time = laterTime s.time (if s.offset < 0 then p.ns - step else p.ns + step) := by
  obtain ⟨htime, hclk, hoffset⟩ := s.countSeconds_frame ((s.poweredOn + p.ns) / 1000000000 - s.poweredOn / 1000000000)
  refine ⟨min s.offset.natAbs ((s.slewRest + 200 * p.ns) / 1000000), fun h => by simp [h], ?_⟩
  unfold State.advance
  dsimp only
  split
  · exact ⟨congrArg (· + p.arith) hclk, by simp only [State.flushCounts, htime, hoffset]⟩
  · exact ⟨congrArg (· + p.arith) hclk, by rw [htime, hoffset]⟩

/-! ### The PTP follower -/

/-- A message comes in at an Ethernet port in operation, in the device's domain (R340, R341). -/
def PtpLive (s : State) (m : PtpMessage) : Prop :=
  (s.links.getD m.port {}).up = true ∧ s.pmodes.getD m.port 0 = 2 ∧ m.domain = s.domain

theorem exec_ptpMessage_live {s : State} {m : PtpMessage} (h : PtpLive s m) :
    exec (.ptpMessage m) s = .next (s.follow m.source m.body) := by
  obtain ⟨hup, hmode, hdomain⟩ := h
  exact congrArg Host.Outcome.next (if_pos (by rw [hup, hmode, hdomain]; simp))

theorem exec_ptpMessage_other {s : State} {m : PtpMessage} (h : ¬ PtpLive s m) : exec (.ptpMessage m) s = .next s :=
  congrArg Host.Outcome.next (if_neg (by simpa [PtpLive, and_assoc] using h))

section
variable {s : State} {source rank : Nat}

/-- The first announcement names the master. -/
theorem State.follow_announce_first (h : s.ptp.best = none) :
    s.follow source (.announce rank) = { s with ptp := { best := some (rank, source) } } := by
  simp [State.follow, h]

section
variable {r n : Nat} (h : s.ptp.best = some (r, n)) (hn : n ≠ source)
include h hn

theorem State.follow_announce_better (hr : rank < r) :
    s.follow source (.announce rank) = { s with ptp := { best := some (rank, source) } } := by
  simp [State.follow, h, hn, Nat.not_le.2 hr]

theorem State.follow_announce_worse (hr : r ≤ rank) : s.follow source (.announce rank) = s := by
  simp [State.follow, h, hn, hr]

end

section
variable {origin receipt : Word} {delay d : Int} (hdelay : s.ptp.delay = some delay)
  (hd : (origin.toNat : Int) + delay - receipt.toNat = d)
include hdelay hd

/-- The counter steps forward at first lock, or for more than 1 ms; the times of the Sync are useless then (R342). -/
theorem State.synced_steps (hpos : 0 < d) (far : s.lockedOnce = false ∨ 1000000 < d) (room : s.time.toNat + d.toNat < 2 ^ 64) :
    s.synced origin receipt = { s with
      time := s.time + BitVec.ofNat 64 d.toNat, locked := true, lockedOnce := true, offset := 0, slewRest := 0
      ptp := { s.ptp with sync := none, sent := none } } := by
  have hdisc : s.discipline d = { s with
      time := s.time + BitVec.ofNat 64 d.toNat, locked := true, lockedOnce := true, offset := 0, slewRest := 0 } := by
    rw [State.discipline, if_pos ⟨hpos, far.imp (fun h => by rw [h]; rfl) id⟩, laterTime_of_lt room]
  have hmoved : s.time + BitVec.ofNat 64 d.toNat ≠ s.time := by
    intro heq
    have := congrArg BitVec.toNat heq
    rw [BitVec.toNat_add, BitVec.toNat_ofNat] at this
    omega
  simp only [State.synced, hdelay, hd, hdisc, if_neg hmoved]

/-- Else it slews, and never goes back (R342). -/
theorem State.synced_slews (near : d ≤ 0 ∨ (s.lockedOnce = true ∧ d ≤ 1000000)) :
    s.synced origin receipt = { s with locked := true, lockedOnce := true, offset := d } := by
  have hdisc : s.discipline d = { s with locked := true, lockedOnce := true, offset := d } := by
    refine if_neg fun ⟨hpos, far⟩ => ?_
    rcases near with h | ⟨hlocked, h⟩
    · omega
    · rw [hlocked] at far
      exact far.elim (fun h => nomatch h) (fun h' => by omega)
  simp only [State.synced, hdelay, hd, hdisc, if_pos]

end

section
variable (master : s.ptp.best.map Prod.snd = some source)
include master

/-- A Sync of the master is kept with the time of its receipt; with its time of sending it gives the offset (R341). -/
theorem State.follow_sync (seq : BitVec 16) (origin : Option Word) :
    s.follow source (.sync seq origin) =
      let u : State := { s with ptp := { s.ptp with sync := some (seq, origin, s.time) } }
      match origin with
      | some t1 => u.synced t1 s.time
      | none => u := by
  refine if_neg ?_
  rw [master, BEq.rfl]
  exact Bool.false_ne_true

/-- The answer to a delay request gives the mean path delay (R341, log entry 9). -/
theorem State.follow_delayResp {n seq : BitVec 16} {t1 t2 t3 : Word} (hsync : s.ptp.sync = some (n, some t1, t2))
    (hsent : s.ptp.sent = some (seq, t3)) (locked : s.locked = true) (t4 : Word) :
    s.follow source (.delayResp seq t4) = { s with ptp := { s.ptp with
      sent := none, delay := some ((((t2.toNat : Int) - t1.toNat) + ((t4.toNat : Int) - t3.toNat)) / 2) } } := by
  simp [State.follow, master, hsync, hsent, locked]

end

end

theorem exec_ptpDelayRequest_live {s : State} {p : Nat} (hup : (s.links.getD p {}).up = true) (hmode : s.pmodes.getD p 0 = 2) :
    exec (.ptpDelayRequest p) s =
      .next { s with dreqs := s.dreqs + 1, ptp := { s.ptp with sent := some (BitVec.ofNat 16 s.dreqs, s.time) } } :=
  congrArg Host.Outcome.next (if_pos (by rw [hup, hmode]; rfl))

theorem exec_ptpDelayRequest_other {s : State} {p : Nat} (h : (s.links.getD p {}).up = false ∨ s.pmodes.getD p 0 ≠ 2) :
    exec (.ptpDelayRequest p) s = .next s :=
  congrArg Host.Outcome.next (if_neg (by
    rcases h with h | h
    · rw [h]; simp
    · rw [beq_false_of_ne h]; simp))

/-! ### Accesses of peers -/

section
variable {s : State} {peer : BitVec 10}

theorem exec_peerAccess_down (h : s.portUp 1 = false) (a : PeerAccess) : exec (.peerAccess peer a) s = .next s :=
  congrArg Host.Outcome.next (if_pos (by rw [h]; rfl))

variable (hup : s.portUp 1 = true)
include hup

theorem exec_peerAccess_load (off : BitVec 39) (n : Nat) :
    exec (.peerAccess peer (.load off n)) s = .next (s.send peer 0 (s.homeNat off.toNat n)) :=
  congrArg Host.Outcome.next (if_neg (by rw [hup]; exact Bool.false_ne_true))

theorem exec_peerAccess_store (off : BitVec 39) (data : List Byte) :
    exec (.peerAccess peer (.store off data)) s =
      .next (s.writeHomes (data.mapIdx fun i b => ((off.toNat + i) % 2 ^ 39, b))) :=
  congrArg Host.Outcome.next (if_neg (by rw [hup]; exact Bool.false_ne_true))

theorem exec_peerAccess_atomic (off : BitVec 39) (opn : BitVec 4) (wide : Bool) (v c : Word) :
    let o : RedOp := { lane := 0, pa := off.toNat, ty := if wide then 8 else 4, opn := opn.toNat, v, c }
    exec (.peerAccess peer (.atomic off opn wide v c)) s = .next ((s.atomicHome o).2.send peer 0 (s.atomicHome o).1) :=
  congrArg Host.Outcome.next (if_neg (by rw [hup]; exact Bool.false_ne_true))

end

/-- A peer's store of bytes that are served where they stand: each address reads as the byte at its offset (R338). -/
theorem State.home_peerStore {s : State} {off : Nat} {data : List Byte} (hroom : off + data.length ≤ 2 ^ 39)
    (hserved : ∀ i, i < data.length → s.served (off + i) = off + i) (a : Nat) :
    (s.writeHomes (data.mapIdx fun i b => ((off + i) % 2 ^ 39, b))).home a =
      (if off ≤ s.served a then data[s.served a - off]? else none).getD (s.home a) := by
  have hplaces : ((data.mapIdx fun i b => ((off + i) % 2 ^ 39, b)).map fun p => (s.served p.1, p.2)) =
      data.mapIdx fun i b => (off + i, b) := by
    refine List.ext_getElem (by simp) fun i h _ => ?_
    have hi : i < data.length := by simpa using h
    rw [List.getElem_map, List.getElem_mapIdx, List.getElem_mapIdx, Nat.mod_eq_of_lt (by omega), hserved i hi]
  rw [State.home_writeHomes, hplaces, lastOf_mapIdx]

/-! ### Packets -/

/-- A packet comes in at an Ethernet port in operation (R340). -/
def State.packetPort (s : State) (die port : Nat) : Bool :=
  decide (die < 4 ∧ port < 2) && (s.links.getD (2 * die + port) {}).up && s.pmodes.getD (2 * die + port) 0 == 2

/-- The streams of a die that take a packet, in the order of the descriptors (R345). -/
def State.admitting (s : State) (die port : Nat) (p : Packet) : List Nat :=
  ((s.die die).ingest.filter fun x => admits x.2.desc port p).map Prod.fst

section
variable {s : State} {die port : Nat} {p : Packet}

theorem State.packetPort_iff : s.packetPort die port = true ↔
    ¬ (4 ≤ die ∨ 2 ≤ port ∨ !((s.links.getD (2 * die + port) {}).up && s.pmodes.getD (2 * die + port) 0 == 2)) := by
  simp only [State.packetPort, Bool.and_eq_true, decide_eq_true_eq, not_or, Nat.not_le, Bool.not_eq_true, Bool.not_eq_false',
    and_assoc]

theorem exec_ingestPacket_otherPort (h : s.packetPort die port = false) : exec (.ingestPacket die port p) s = .next s :=
  congrArg Host.Outcome.next (if_pos (by
    by_contra hport
    exact Bool.false_ne_true (h.symm.trans (State.packetPort_iff.2 hport))))

variable (live : s.packetPort die port = true)
include live

theorem exec_ingestPacket_live : exec (.ingestPacket die port p) s = .next (
    if !p.good ∨ (s.admitting die port p).isEmpty then s.dropPacket die
    else s.each (s.admitting die port p) fun u k => u.streamPacket die k p) :=
  congrArg Host.Outcome.next (if_neg (State.packetPort_iff.1 live))

theorem exec_ingestPacket_dropped (h : p.good = false ∨ s.admitting die port p = []) :
    exec (.ingestPacket die port p) s = .next (s.dropPacket die) := by
  rw [exec_ingestPacket_live live, if_pos (by simpa using h)]

theorem exec_ingestPacket_admitted (good : p.good = true) (h : s.admitting die port p ≠ []) :
    exec (.ingestPacket die port p) s = .next (s.each (s.admitting die port p) fun u k => u.streamPacket die k p) := by
  rw [exec_ingestPacket_live live, if_neg (by simpa [good] using h)]

theorem exec_ingestPacket_single (good : p.good = true) {k : Nat} (h : s.admitting die port p = [k]) :
    exec (.ingestPacket die port p) s = .next (s.streamPacket die k p) := by
  rw [exec_ingestPacket_admitted live good (by rw [h]; simp), h]
  rfl

end

section
variable {s : State} {die k : Nat} {p : Packet} {x : Stream} (hx : s.stream die k = some x)
include hx

theorem State.streamPacket_seek (seek : x.seek = true) : s.streamPacket die k p =
    (s.dropPacket die).onStreamOf die k fun y => { y with seek := !p.marker, resumed := p.marker } := by
  simp only [State.streamPacket, hx, seek, if_true]

variable (seek : x.seek = false)
include seek

theorem State.streamPacket_field (video : dKind x.desc = 0) (field : p.field = true) :
    s.streamPacket die k p = s.dropPacket die := by
  simp [State.streamPacket, hx, seek, video, field]

theorem State.streamPacket_media (began : x.began = true) (hkind : dKind x.desc = 2 ∨ (dKind x.desc = 0 ∧ p.field = false)) :
    s.streamPacket die k p = (s.onStreamOf die k fun y => { y with began := true }).mediaPacket die k x p := by
  rcases hkind with hk | ⟨hk, field⟩
  · simp [State.streamPacket, State.beginsStream, hx, seek, began, hk]
  · simp [State.streamPacket, State.beginsStream, hx, seek, began, hk, field]

theorem State.streamPacket_audio (audio : dKind x.desc = 1) :
    s.streamPacket die k p = (s.onStreamOf die k fun y => { y with began := true }).audioPacket die k x p := by
  simp [State.streamPacket, State.beginsStream, hx, seek, audio]

end

/-! ### Deadlines -/

section
variable {s : State} {die k : Nat} {x : Stream} {f : Frame} (hx : s.stream die k = some x) (hf : x.frame = some f)
include hx hf

theorem exec_frameDeadline_open : exec (.frameDeadline die k) s = .next (
    if f.deadline < s.time.toNat then (s.closeFrame die k 2).onStreamOf die k fun y =>
      { y with seek := true, base := y.base.map fun b => (b + dHeight y.desc) % 65536 } else s) := by
  have hframe : ((s.stream die k).bind fun x => x.frame) = some f := by rw [hx]; exact hf
  refine congrArg Host.Outcome.next ?_
  simp only [State.passDeadline, hframe, Int.natCast_zero, Int.add_zero]

end

/-- The deadline of a frame is the time of the greatest number of RTP clocks that its timestamp can name, and the descriptor's
slack (R348). -/
theorem frameDeadline_spec (d : BitVec 512) (ts : BitVec 32) (first : Word) :
    ∃ n : Int, n % 2 ^ 32 = ts.toNat ∧ n ≤ (first.toNat * rtpRate d / 1000000000 : Nat) ∧
      ((first.toNat * rtpRate d / 1000000000 : Nat) : Int) < n + 2 ^ 32 ∧
      frameDeadline d ts first = n * 1000000000 / rtpRate d + dfield d 416 32 := by
  refine ⟨((first.toNat * rtpRate d / 1000000000 : Nat) : Int) -
    (((first.toNat * rtpRate d / 1000000000 : Nat) : Int) - ts.toNat) % 2 ^ 32, ?_, ?_, ?_, rfl⟩
  all_goals
    have hts := ts.isLt
    generalize ((first.toNat * rtpRate d / 1000000000 : Nat) : Int) = top
    omega

/-- Settles O57: each message, access and packet by the branch of its action that its premises choose. -/
theorem linksTimePeers : Obligations.LinksTimePeers := by
  unfold Obligations.LinksTimePeers
  refine ⟨⟨fun s l flit => ⟨fun h => exec_flitCrcError_idle h flit, fun hup htr => ⟨fun h => ?_, fun he hn => ?_⟩⟩,
      fun s l htr => ⟨?_, fun h => ?_, fun h => ⟨?_, ?_⟩⟩, fun s p hp hdown hmode hfailed => exec_portLinkUp_comesUp hp hdown hmode hfailed,
      fun s m => ⟨exec_ptpMessage_other, ?_, ?_, ?_, ?_⟩, fun s => rfl,
      fun s p hup hmode => exec_ptpDelayRequest_live hup hmode, fun s p h => exec_ptpDelayRequest_other h, fun s p => ?_⟩,
    fun s peer a h => exec_peerAccess_down h a, fun s peer off n h => exec_peerAccess_load h off n, ?_,
    fun s peer off opn wide v c h => exec_peerAccess_atomic h off opn wide v c, ?_, ?_, frameDeadline_spec⟩
  · exact (exec_flitCrcError_up hup htr flit).trans (congrArg _ (if_pos h))
  · exact (exec_flitCrcError_up hup htr flit).trans (congrArg _ (if_neg (not_or.2 ⟨Nat.not_le.2 he, Nat.not_le.2 hn⟩)))
  · exact (exec_retrainDone_training true htr).trans rfl
  · exact (exec_retrainDone_training false htr).trans (congrArg _ (if_pos h))
  · rintro p rfl
    exact (exec_retrainDone_training false htr).trans (congrArg _ (if_neg (Nat.not_lt.2 h)))
  · rintro e rfl
    exact (exec_retrainDone_training false htr).trans (congrArg _ (if_neg (Nat.not_lt.2 h)))
  · intro rank live hbody
    have hexec := exec_ptpMessage_live live
    rw [hbody] at hexec
    exact ⟨fun h => by rw [hexec, State.follow_announce_first h],
      fun r n h hn => ⟨fun hr => by rw [hexec, State.follow_announce_better h hn hr],
        fun hr => by rw [hexec, State.follow_announce_worse h hn hr]⟩⟩
  · intro seq t1 delay live master hbody hdelay
    have hexec : exec (.ptpMessage m) s =
        .next ({ s with ptp := { s.ptp with sync := some (seq, some t1, s.time) } }.synced t1 s.time) := by
      rw [exec_ptpMessage_live live, hbody, State.follow_sync master]
    exact ⟨fun hpos far room => hexec.trans (congrArg _ (State.synced_steps hdelay rfl hpos far room)),
      fun near => hexec.trans (congrArg _ (State.synced_slews hdelay rfl near))⟩
  · intro seq live master hbody
    rw [exec_ptpMessage_live live, hbody, State.follow_sync master]
  · intro seq t1 t2 n t3 t4 live master hsync hsent locked hbody
    rw [exec_ptpMessage_live live, hbody, State.follow_delayResp master hsync hsent locked]
  · obtain ⟨step, hstep, hclk, htime⟩ := s.advance_clocks p
    refine ⟨htime ▸ le_laterTime _ _, hclk, fun h0 room => ?_⟩
    rw [htime, hstep h0, h0, if_neg (lt_irrefl _), Nat.add_zero, laterTime_of_lt room]
  · intro s peer off data hup hroom hserved
    refine ⟨_, exec_peerAccess_store hup off data, fun i hi => ?_, fun a ha => ?_⟩
    · rw [State.home_peerStore hroom hserved, hserved i hi, if_pos (Nat.le_add_right _ _), Nat.add_sub_cancel_left,
        List.getD_eq_getElem?_getD, List.getElem?_eq_getElem hi]
      rfl
    · rw [State.home_peerStore hroom hserved]
      split
      · rename_i hle
        rw [List.getElem?_eq_none (Nat.not_lt.1 fun hi => ha _ hi (by omega))]
        rfl
      · rfl
  · intro s die port p
    exact ⟨exec_ingestPacket_otherPort, exec_ingestPacket_dropped, exec_ingestPacket_admitted,
      fun k x live good hks hx seek => (exec_ingestPacket_single live good hks).trans
        (congrArg _ (State.streamPacket_seek hx seek)),
      fun k x live good hks hx seek => by
        have hexec := exec_ingestPacket_single live good hks
        exact ⟨fun video field => hexec.trans (congrArg _ (State.streamPacket_field hx seek video field)),
          fun video field began => hexec.trans (congrArg _ (State.streamPacket_media hx seek began (.inr ⟨video, field⟩))),
          fun ancillary began => hexec.trans (congrArg _ (State.streamPacket_media hx seek began (.inl ancillary))),
          fun audio => hexec.trans (congrArg _ (State.streamPacket_audio hx seek audio))⟩⟩
  · intro s die k x f hx hf
    rw [exec_frameDeadline_open hx hf]
    exact ⟨fun h => congrArg _ (if_neg (Int.not_lt.2 h)), fun h => congrArg _ (if_pos h)⟩

end Sys2Proof.Machine
end

section
/-! SUPPORT. The steps of a steal (R320, R321), replicated tasks (R323, R436) and the steps of a replica group (R349, R437). -/
namespace Sys2Proof.Machine

/-! ### What a victim lends -/

/-- The tasks of an entry with which its queue goes on. -/
def Chunk.held (c : Chunk) : Nat := if c.lent then 0 else c.count

/-- A queue whose entry of `e`'s job and first task is changed by `f`. -/
def mapEntry (f : Chunk → Chunk) (e : Chunk) (queue : List Chunk) : List Chunk :=
  queue.map fun x => if x.job = e.job ∧ x.first = e.first then f x else x

theorem mapEntry_of_absent (f : Chunk → Chunk) {e : Chunk} {queue : List Chunk}
    (h : (e.job, e.first) ∉ queue.map fun c => (c.job, c.first)) : mapEntry f e queue = queue := by
  refine (List.map_congr_left fun c hc => if_neg ?_).trans (List.map_id queue)
  rintro ⟨hjob, hfirst⟩
  exact h (List.mem_map.2 ⟨c, hc, by rw [hjob, hfirst]⟩)

/-- Where no two entries are of the same tasks, a change of one entry changes the queue's tasks by those of that entry. -/
theorem sum_held_mapEntry {f : Chunk → Chunk} {e : Chunk} {n : Nat} (he : e.held = (f e).held + n) {queue : List Chunk}
    (hmem : e ∈ queue) (hnodup : (queue.map fun c => (c.job, c.first)).Nodup) :
    (queue.map Chunk.held).sum = ((mapEntry f e queue).map Chunk.held).sum + n := by
  induction queue with
  | nil => cases hmem
  | cons c r ih =>
    obtain ⟨hfresh, hrest⟩ := List.nodup_cons.1 hnodup
    have hcons : mapEntry f e (c :: r) = (if c.job = e.job ∧ c.first = e.first then f c else c) :: mapEntry f e r := rfl
    rcases List.mem_cons.1 hmem with rfl | hr
    · rw [hcons, if_pos ⟨rfl, rfl⟩, mapEntry_of_absent f hfresh, List.map_cons, List.map_cons, List.sum_cons, List.sum_cons, he]
      omega
    · have hother : ¬ (c.job = e.job ∧ c.first = e.first) := fun ⟨hjob, hfirst⟩ =>
        hfresh (List.mem_map.2 ⟨e, hr, Prod.ext hjob.symm hfirst.symm⟩)
      rw [hcons, if_neg hother, List.map_cons, List.map_cons, List.sum_cons, List.sum_cons, ih hr hrest]
      omega

/-- A victim lends its last entry whole, marked as lent, or the upper half of its only started one (R320). -/
theorem lend_cases {queue rest : List Chunk} {e : Chunk} (h : lend queue = some (e, rest)) :
    ∃ last ∈ queue, last.lent = false ∧
      ((e = last ∧ rest = mapEntry (fun x => { x with lent := true }) last queue) ∨
       (e.count = last.count / 2 ∧
        rest = mapEntry (fun x => { x with count := x.count - last.count / 2 }) last queue ++ [{ e with lent := true }])) := by
  unfold lend at h
  dsimp only at h
  split at h
  · cases h
  · rename_i last hlast
    have hfree := List.mem_filter.1 (List.mem_of_getLast? hlast)
    refine ⟨last, hfree.1, by simpa using hfree.2, ?_⟩
    split at h
    · cases h
      exact .inl ⟨rfl, rfl⟩
    · split at h
      · cases h
        exact .inr ⟨rfl, rfl⟩
      · cases h

/-- The entry lent and those with which the victim's queue goes on are the tasks that it held: none is lost or doubled (R320). -/
theorem sum_held_lend {queue rest : List Chunk} {e : Chunk} (h : lend queue = some (e, rest))
    (hnodup : (queue.map fun c => (c.job, c.first)).Nodup) :
    (queue.map Chunk.held).sum = (rest.map Chunk.held).sum + e.count := by
  obtain ⟨last, hmem, hlent, ⟨rfl, rfl⟩ | ⟨hcount, rfl⟩⟩ := lend_cases h
  · exact sum_held_mapEntry (by simp [Chunk.held, hlent]) hmem hnodup
  · rw [List.map_append, List.sum_append, List.map_singleton, List.sum_singleton,
      show Chunk.held { e with lent := true } = 0 from rfl, Nat.add_zero, hcount]
    refine sum_held_mapEntry ?_ hmem hnodup
    simp only [Chunk.held, hlent, Bool.false_eq_true, if_false]
    omega

/-! ### The steps of a steal -/

/-- A change of a core that leaves its power leaves every core powered as it was. -/
theorem State.gated_onCore {f : CoreState → CoreState} (hf : ∀ x, (f x).gated = x.gated) (s : State) (c d : Nat) :
    ((s.onCore c f).core d).gated = (s.core d).gated := by
  unfold State.onCore State.setCore State.core
  dsimp only
  rw [Tab.getD_put]
  split
  · next h => rw [hf, h]
  · rfl

section
variable {s : State} {k : Nat} {x : Steal} (hx : s.steals.find k = some x)
include hx

section
variable (hstep : x.step = 1)
  (holdest : (s.steals.any fun p => decide (p.1 < k) && p.2.victim == x.victim && p.2.step == 1) = false)
include hstep holdest

theorem exec_stealLend_lends {e : Chunk} {queue : List Chunk} (h : lend (s.core x.victim).queue = some (e, queue)) :
    exec (.stealLend k) s = .next { (s.onCore x.victim fun c => { c with queue }) with
      steals := s.steals.insert k { x with chunk := some e, step := 3, since := s.fabric } } := by
  refine congrArg Host.Outcome.next ?_
  simp only [hx, hstep, holdest, h]
  rfl

theorem exec_stealLend_refuses {v : Nat} (h : lend (s.core x.victim).queue = none)
    (hv : (victimOrder x.thief)[x.place + 1]? = some v) :
    exec (.stealLend k) s = .next { s with
      nextId := s.nextId + 1
      steals := (s.steals.remove k).insert s.nextId { thief := x.thief, victim := v, place := x.place + 1 } } := by
  refine congrArg Host.Outcome.next ?_
  simp only [hx, hstep, holdest, h, hv]
  rfl

end

variable {e : Chunk} (he : x.chunk = some e)
include he

theorem exec_stealAccept_lent (hstep : x.step = 3) : exec (.stealAccept k) s = .next (
    if (s.core x.thief).gated then s
    else if (s.job e.job).phase.active then
      { (s.onCore x.thief fun c => { c with queue := c.queue ++ [{ e with lent := true }] }) with
        steals := s.steals.insert k { x with step := 4 } }
    else { s with steals := s.steals.remove k }) := by
  refine congrArg Host.Outcome.next ?_
  simp only [hx, he, hstep, ne_eq, not_true_eq_false, false_or]
  rfl

theorem exec_stealAck_accepted (hstep : x.step = 4) : exec (.stealAck k) s = .next (
    let t : State := { s with steals := s.steals.remove k }
    if x.reclaimed then t.onCore x.thief fun c => { c with queue := dropChunk c.queue e }
    else (t.onCore x.victim fun c => { c with queue := dropChunk c.queue e }).onCore x.thief
      fun c => { c with queue := unlend c.queue e }) := by
  refine congrArg Host.Outcome.next ?_
  simp only [hx, he, hstep, ne_eq, not_true_eq_false, if_false]

theorem exec_stealWatchdog_lent (hstep : 3 ≤ x.step) (hkept : x.reclaimed = false) : exec (.stealWatchdog k) s = .next (
    if s.fabric < x.since + 4096 then s
    else { (s.onCore x.victim fun c => { c with queue := unlend c.queue e }) with
      steals := if (s.core x.thief).gated then s.steals.remove k else s.steals.insert k { x with reclaimed := true } }) := by
  refine congrArg Host.Outcome.next ?_
  simp only [State.reclaim, hx, he, Nat.not_lt.2 hstep, hkept, Bool.false_eq_true, false_or]
  rw [State.gated_onCore (f := fun c => { c with queue := unlend c.queue e }) fun _ => rfl]
  split
  · rfl
  · split <;> rfl

end

/-! ### Replicated tasks -/

theorem Wave.twinHash_of_park {w : Wave} {a : Nat} (h : w.park = some (.twin a)) : w.twinHash = some a := by
  rw [Wave.twinHash, h]

/-- Twin waves at one boundary: hashes that agree let the primary go on; else the task's third run decides, and the first
divergence starts it (R323, R436). -/
theorem State.replicaCommit_twins {s : State} {wave twin a b : Nat} {r : Run} (ha : (s.wave wave).park = some (.twin a))
    (hb : (s.wave twin).park = some (.twin b)) (hr : (s.cluster (s.wave wave).cluster).run = some r) (hrole : r.role = 0)
    (htwin : r.twin = some (s.wave twin).cluster) (hkey : (s.wave wave).runKey = (s.wave twin).runKey)
    (hbounds : (s.wave wave).bounds = (s.wave twin).bounds) :
    (a = b → s.replicaCommit wave twin = s.letGo wave) ∧
    (a ≠ b → r.third = none → s.replicaCommit wave twin = s.startThird (s.wave wave).cluster (s.wave twin).cluster) := by
  have hmeet : ¬ (r.role ≠ 0 ∨ r.twin ≠ some (s.wave twin).cluster ∨ (s.wave wave).runKey ≠ (s.wave twin).runKey ∨
      (s.wave wave).bounds ≠ (s.wave twin).bounds) := by
    rintro (h | h | h | h)
    exacts [h hrole, h htwin, h hkey, h hbounds]
  unfold State.replicaCommit
  simp only [Wave.twinHash_of_park ha, Wave.twinHash_of_park hb, hr, if_neg hmeet]
  exact ⟨fun h => if_pos h, fun h hthird => by rw [if_neg h, hthird]⟩

/-! ### Replica groups -/

/-- The pending step of a group is settled: its job is completed, and digests of it and of earlier steps are dropped (R349). -/
def State.settleStep (s : State) (asid : Nat) (g : Group) (step j : Nat) : State :=
  ({ s with groups := s.groups.insert asid { g with
      pending := none, decided := step, arrived := g.arrived.filter fun a => decide (step < a.1) } } : State).onJob j
    fun x => { x with phase := .completed }

section
variable {s : State} {asid : Nat} {g : Group} {n j t : Nat} (hg : s.groups.find asid = some g)
  (hpending : g.pending = some (n, j, t))
include hg hpending

theorem State.decideStep_pending (digest : Nat) : s.decideStep asid digest =
    let u := s.settleStep asid g n j
    if digest = stepDigest (u.job j) then u.completionRecord j 1 (u.job j).tasksDone
    else
      let v := ((u.completionRecord j 7 n).peerRecord g asid n 5).count 65 1
      { v with groups := v.groups.modify asid fun g => { g with stopped := true } } := by
  simp only [State.decideStep, hg, hpending]
  rfl

theorem State.expireStep_pending (limit : Nat) : s.expireStep asid limit =
    if s.time.toNat < t + limit then s
    else ((({ s with groups := s.groups.insert asid { g with pending := none, decided := n, stopped := true } } : State).onJob j
      fun x => { x with phase := .completed }).completionRecord j 8 n).peerRecord g asid n 6 := by
  simp only [State.expireStep, hg, hpending]

end

theorem exec_replicaDigest_down {s : State} (h : s.portUp 1 = false) (asid : BitVec 14) (step : Nat) (x : BitVec 384) :
    exec (.replicaDigest asid step x) s = .next s :=
  congrArg Host.Outcome.next (if_pos (by rw [h]; rfl))

/-- A digest that comes for a group with a pending step decides it, is kept for a later step, or comes too late (R349). -/
theorem exec_replicaDigest_pending {s : State} {asid : BitVec 14} {g : Group} {n j t : Nat} (hup : s.portUp 1 = true)
    (hg : s.groups.find asid.toNat = some g) (henabled : g.enabled = true) (hpending : g.pending = some (n, j, t)) (step : Nat)
    (x : BitVec 384) : exec (.replicaDigest asid step x) s = .next (
      if n = step then s.decideStep asid.toNat x.toNat
      else if n < step then
        { s with groups := s.groups.insert asid.toNat { g with arrived := g.arrived ++ [(step, x.toNat)] } }
      else s) := by
  refine congrArg Host.Outcome.next ?_
  simp only [hup, hg, henabled, hpending, Bool.not_true, Bool.false_eq_true, if_false]

/-- After a digest that differs, no more steps of the group are accepted (R437). -/
theorem Tab.stopped_of_find_modify {t : Tab Group} {k : Nat} {y : Group}
    (h : (t.modify k fun g => { g with stopped := true }).find k = some y) : y.stopped = true := by
  rw [Tab.find_modify, if_pos rfl] at h
  obtain ⟨g, -, rfl⟩ := Option.map_eq_some_iff.1 h
  rfl

/-- Settles O54: a steal's steps and a group's steps by the branch that each step's premises choose; that a steal loses and
doubles no task by the entries that a victim lends. -/
theorem stealsAndReplicas : Obligations.StealsAndReplicas := by
  unfold Obligations.StealsAndReplicas
  refine ⟨⟨fun s thief => ⟨fun h => ?_, fun h => ?_⟩,
      fun s k x hx hstep holdest => ⟨fun e queue => exec_stealLend_lends hx hstep holdest,
        fun v => exec_stealLend_refuses hx hstep holdest⟩,
      fun queue rest e => sum_held_lend,
      fun s k x e hx he => ⟨fun hstep hgated => ?_, fun hstep hgated hactive => ?_, fun hstep hgated hactive => ?_,
        fun hstep hkept => ?_, fun hstep hback => ?_, fun hstep hkept => ⟨fun h => ?_, fun h => ?_⟩⟩⟩,
    fun s wave twin a b r ha hb hr hrole htwin hkey hbounds => ?_,
    fun s asid step x h => exec_replicaDigest_down h asid step x,
    fun s asid g step n j t x hup hg henabled hpending => ?_⟩
  · exact congrArg Host.Outcome.next (if_neg (by rw [h]; exact Bool.false_ne_true))
  · exact congrArg Host.Outcome.next (if_pos h)
  · rw [exec_stealAccept_lent hx he hstep, if_pos hgated]
  · rw [exec_stealAccept_lent hx he hstep, hgated, hactive]
    rfl
  · rw [exec_stealAccept_lent hx he hstep, hgated, hactive]
    rfl
  · rw [exec_stealAck_accepted hx he hstep, hkept]
    rfl
  · rw [exec_stealAck_accepted hx he hstep, hback]
    rfl
  · rw [exec_stealWatchdog_lent hx he hstep hkept, if_neg (Nat.not_lt.2 h)]
  · rw [exec_stealWatchdog_lent hx he hstep hkept, if_pos h]
  · obtain ⟨hagree, hdiffer⟩ := State.replicaCommit_twins ha hb hr hrole htwin hkey hbounds
    exact ⟨fun h => congrArg Host.Outcome.next (hagree h), fun h hthird => congrArg Host.Outcome.next (hdiffer h hthird)⟩
  · have hexec := exec_replicaDigest_pending hup hg henabled hpending step x
    have hexpire : exec (.replicaDigestTimeout asid) s = .next _ :=
      congrArg Host.Outcome.next (State.expireStep_pending hg hpending 100000000)
    refine ⟨fun hn hsame => ?_, fun hn hdiff => ?_, fun hlater => ?_, fun hearlier => ?_, fun h => ?_, fun h => ?_⟩
    · rw [hexec, if_pos hn, State.decideStep_pending hg hpending]
      exact congrArg _ (if_pos hsame)
    · rw [if_pos hn, State.decideStep_pending hg hpending] at hexec
      exact ⟨_, hexec.trans (congrArg _ (if_neg hdiff)), rfl, fun y hy => Tab.stopped_of_find_modify hy⟩
    · rw [hexec, if_neg (by omega), if_pos hlater]
    · rw [hexec, if_neg (by omega), if_neg (by omega)]
    · rw [hexpire, if_pos h]
    · rw [hexpire, if_neg (Nat.not_lt.2 h)]

end Sys2Proof.Machine
end

section
/-! SUPPORT. Tables whose entries change, for the host's port. -/
namespace Sys2Proof

/-- A key that a table lists is found. -/
theorem Tab.find_isSome_of_mem {α : Type} {t : Tab α} {p : Nat × α} (h : p ∈ t) : (t.find p.1).isSome = true := by
  induction t with
  | nil => cases h
  | cons q r ih =>
    simp only [Tab.find]
    split
    · rfl
    · next hq =>
      rcases List.mem_cons.1 h with rfl | hr
      · exact absurd rfl hq
      · exact ih hr

end Sys2Proof

namespace Sys2Proof.Machine

/-! ### Host commands -/

/-- A host command runs while its OP stands in the busy register (R334). -/
theorem State.onCommand_runs {s : State} {n : Nat} (hbusy : s.busy = true) (hop : s.op.toNat = n) (f : State → State) :
    s.onCommand n f = f s := if_pos ⟨hbusy, hop⟩

theorem State.hostDone_eq (s : State) (r : Nat) : s.hostDone r =
    { s with busy := false, result := BitVec.ofNat 64 r, hostWait := none, vectors := s.vectors ++ [0] } := rfl

section
variable {s : State}

/-! ### INVALIDATE -/

section
variable (hbusy : s.busy = true) (hop : s.op = 1)
include hbusy hop

theorem exec_invalidate_range (h : s.arg0.toNat ≠ s.arg0.toNat % 2 ^ 14 + slice s.arg0.toNat 16 2 * 2 ^ 16) :
    exec .invalidate s = .next (s.hostDone 1) :=
  congrArg Host.Outcome.next ((State.onCommand_runs hbusy (by rw [hop]; rfl) _).trans (if_pos h))

/-- INVALIDATE removes the translations; it is done unless a store that used one has still to reach its home (R251). -/
theorem exec_invalidate_first (hwait : s.hostWait = none)
    (h : s.arg0.toNat = s.arg0.toNat % 2 ^ 14 + slice s.arg0.toNat 16 2 * 2 ^ 16) :
    exec .invalidate s = .next (
      let mode := slice s.arg0.toNat 16 2
      let range := s.invalRange (s.arg0.setWidth 14) s.arg1.toNat mode
      let t := s.invalidateTlbs (s.arg0.setWidth 14) s.arg1.toNat mode
      let p := t.pursue (s.storing range) (s.sending range)
      if p.1.isEmpty && p.2.isEmpty then t.hostDone 0 else { t with hostWait := some p }) := by
  refine congrArg Host.Outcome.next ((State.onCommand_runs hbusy (by rw [hop]; rfl) _).trans
    ((if_neg (not_not_intro h)).trans ?_))
  simp only [hwait]

end

/-! ### RESUME -/

/-- A cluster after the resume command: one halted under the handle goes on (R335). -/
def Cluster.resumedAs (h : Nat) (c : Cluster) : Cluster :=
  if c.life.haltedAs h then { c with life := c.life.resumed } else c

section
variable (hbusy : s.busy = true) (hop : s.op = 2)
include hbusy hop

theorem exec_resume_range (h : 2 ^ 32 ≤ s.arg0.toNat ∨ s.arg1 ≠ 0) : exec .resume s = .next (s.hostDone 1) :=
  congrArg Host.Outcome.next ((State.onCommand_runs hbusy (by rw [hop]; rfl) _).trans (if_pos h))

theorem exec_resume_handle (ha : s.arg0.toNat < 2 ^ 32) (hb : s.arg1 = 0) : exec .resume s = .next (
    if s.clusters.any fun p => p.2.life.haltedAs s.arg0.toNat then
      { s with clusters := s.clusters.mapVals (Cluster.resumedAs s.arg0.toNat) }.hostDone 0
    else s.hostDone 2) :=
  congrArg Host.Outcome.next ((State.onCommand_runs hbusy (by rw [hop]; rfl) _).trans
    (if_neg (not_or.2 ⟨Nat.not_le.2 ha, not_not_intro hb⟩)))

end

theorem State.cluster_resumed (h k : Nat) :
    ({ s with clusters := s.clusters.mapVals (Cluster.resumedAs h) } : State).cluster k = (s.cluster k).resumedAs h :=
  Tab.getD_mapVals s.clusters (Cluster.resumedAs h) k {} id (Cluster.resumedAs h) (fun _ => rfl) rfl

theorem Cluster.resumedAs_other {h : Nat} {c : Cluster} (hc : c.life.haltedAs h = false) : c.resumedAs h = c :=
  if_neg (by rw [hc]; exact Bool.false_ne_true)

theorem Cluster.resumedAs_halted {h : Nat} {c : Cluster} (hc : c.life = .halted h) :
    c.resumedAs h = { c with life := .running } := by
  simp [Cluster.resumedAs, Life.haltedAs, Life.resumed, hc]

theorem Cluster.resumedAs_preempted {h : Nat} {c : Cluster} (hc : c.life = .preempted (some h)) :
    c.resumedAs h = { c with life := .preempted none } := by
  simp [Cluster.resumedAs, Life.haltedAs, Life.resumed, hc]

/-! ### CANCEL -/

/-- The jobs of a card in an address space that have not ended. -/
def State.openJobs (s : State) (addr : Word) (asid : BitVec 14) : List (Nat × Job) :=
  s.jobs.filter fun p => p.2.card.addr == addr && p.2.asid == asid && p.2.phase.active

section
variable (hbusy : s.busy = true) (hop : s.op = 3)
include hbusy hop

theorem exec_cancel_range (h : s.arg0.toNat % 256 ≠ 0 ∨ 2 ^ 14 ≤ s.arg1.toNat) : exec .cancel s = .next (s.hostDone 1) :=
  congrArg Host.Outcome.next ((State.onCommand_runs hbusy (by rw [hop]; rfl) _).trans (if_pos h))

section
variable (ha : s.arg0.toNat % 256 = 0) (hb : s.arg1.toNat < 2 ^ 14)
include ha hb

theorem exec_cancel_absent (h : s.openJobs s.arg0 (s.arg1.setWidth 14) = []) : exec .cancel s = .next (s.hostDone 2) := by
  refine congrArg Host.Outcome.next ((State.onCommand_runs hbusy (by rw [hop]; rfl) _).trans
    ((if_neg (not_or.2 ⟨not_not_intro ha, Nat.not_le.2 hb⟩)).trans ?_))
  rw [← State.openJobs, h, minBy_nil]

theorem exec_cancel_oldest {j : Nat} {x : Job}
    (h : minBy (s.openJobs s.arg0 (s.arg1.setWidth 14)) (fun p => p.2.order) = some (j, x)) :
    exec .cancel s = .next
      (((s.endJob j .cancelled 0).jobRecord x.asid x.card.addr x.card.cq 4 x.tasksDone 0 (s.storesOf j)).hostDone 0) := by
  refine congrArg Host.Outcome.next ((State.onCommand_runs hbusy (by rw [hop]; rfl) _).trans
    ((if_neg (not_or.2 ⟨not_not_intro ha, Nat.not_le.2 hb⟩)).trans ?_))
  rw [← State.openJobs, h]

end
end

/-! ### REPLAY_ALL -/

theorem State.misses_releaseMisses (s : State) (d e : Nat) (p : Miss → Bool) : ((s.releaseMisses d p).die e).misses =
    if e = d then (s.die d).misses.filter fun m => !p m.2 else (s.die e).misses := by
  unfold State.releaseMisses State.onDie State.setDie State.die
  dsimp only
  rw [Tab.getD_put]
  split <;> rfl

/-- The misses of all four dies for which the test holds are released (R415). -/
def State.releaseAll (s : State) (p : Miss → Bool) (ds : List Nat := [0, 1, 2, 3]) : State :=
  ds.foldl (fun s d => s.releaseMisses d p) s

theorem State.releaseAll_frame (s : State) (p : Miss → Bool) (ds : List Nat) :
    s.releaseAll p ds = { s with dies := (s.releaseAll p ds).dies } := by
  induction ds generalizing s with
  | nil => rfl
  | cons d r ih => exact ih (s.releaseMisses d p)

theorem State.misses_releaseAll (s : State) (p : Miss → Bool) {d : Nat} (hd : d < 4) :
    ((s.releaseAll p).die d).misses = (s.die d).misses.filter fun m => !p m.2 := by
  simp only [State.releaseAll, List.foldl_cons, List.foldl_nil, State.misses_releaseMisses]
  interval_cases d <;> rfl

/-- A fault miss of the address space that REPLAY_ALL names, or of any (R415). -/
def State.replays (s : State) (m : Miss) : Bool :=
  !m.regen && (s.arg0.toNat.testBit 32 || m.asid == s.arg0.setWidth 14)

theorem exec_replayAll_releases (hbusy : s.busy = true) (hop : s.op = 4)
    (ha : s.arg0.toNat = s.arg0.toNat % 2 ^ 14 + slice s.arg0.toNat 32 1 * 2 ^ 32)
    (hb : s.arg1 = 0) : exec .replayAll s = .next ((s.releaseAll s.replays).hostDone 0) :=
  congrArg Host.Outcome.next ((State.onCommand_runs hbusy (by rw [hop]; rfl) _).trans
    (if_neg (not_or.2 ⟨not_not_intro ha, not_not_intro hb⟩)))

/-! ### REPLICA_GROUP -/

/-- A held step's job is one of the device's jobs. -/
theorem State.find_of_mem_heldSteps {asid j : Nat} (h : j ∈ s.heldSteps asid) : (s.jobs.find j).isSome = true := by
  obtain ⟨p, hp, rfl⟩ := List.mem_map.1 h
  exact Tab.find_isSome_of_mem (List.mem_filter.1 ((sortBy_perm _ _).mem_iff.1 hp)).1

/-- Jobs that become the steps from `first` on, in order (R437). -/
def State.numberSteps (s : State) (first : Nat) (js : List Nat) (k : Nat := 0) : State :=
  (js.zipIdx k).foldl (fun s p => s.onJob p.1 fun x => { x with step := first + p.2 }) s

theorem State.numberSteps_cons (s : State) (first j : Nat) (r : List Nat) (k : Nat) :
    s.numberSteps first (j :: r) k = (s.onJob j fun x => { x with step := first + k }).numberSteps first r (k + 1) := rfl

theorem State.numberSteps_frame (s : State) (first : Nat) (js : List Nat) (k : Nat) :
    s.numberSteps first js k = { s with jobs := (s.numberSteps first js k).jobs } := by
  induction js generalizing s k with
  | nil => rfl
  | cons j r ih =>
    rw [State.numberSteps_cons]
    exact ih _ _

theorem State.find_numberSteps_of_notMem (s : State) (first : Nat) {js : List Nat} {j : Nat} (h : j ∉ js) (k : Nat) :
    (s.numberSteps first js k).jobs.find j = s.jobs.find j := by
  induction js generalizing s k with
  | nil => rfl
  | cons i r ih =>
    obtain ⟨hne, hr⟩ := not_or.1 (mt List.mem_cons.2 h)
    rw [State.numberSteps_cons, ih _ hr, State.onJob_jobs, Tab.find_modify, if_neg hne]

theorem State.find_numberSteps (s : State) (first : Nat) {js : List Nat} (hnodup : js.Nodup) (k : Nat) {i : Nat}
    (hi : i < js.length) :
    (s.numberSteps first js k).jobs.find js[i] = (s.jobs.find js[i]).map fun x => { x with step := first + (k + i) } := by
  induction js generalizing s k i with
  | nil => exact absurd hi (Nat.not_lt_zero i)
  | cons j r ih =>
    obtain ⟨hj, hr⟩ := List.nodup_cons.1 hnodup
    rw [State.numberSteps_cons]
    cases i with
    | zero =>
      rw [List.getElem_cons_zero, State.find_numberSteps_of_notMem _ first hj, State.onJob_jobs, Tab.find_modify, if_pos rfl]
      rfl
    | succ i =>
      have hi' : i < r.length := Nat.lt_of_succ_lt_succ hi
      have hne : r[i] ≠ j := fun h => hj (h ▸ List.getElem_mem hi')
      rw [List.getElem_cons_succ, ih _ hr _ hi', State.onJob_jobs, Tab.find_modify, if_neg hne, Nat.add_right_comm k 1 i,
        Nat.add_assoc k i 1]

theorem State.renumberSteps_running {g : Group} (h : g.stopped = false) (asid : Nat) : s.renumberSteps asid g = (g, s) :=
  if_pos (by rw [h]; rfl)

/-- A group that had stopped goes on: its held jobs are the steps behind the one decided (R437). -/
theorem State.renumberSteps_stopped {g : Group} (h : g.stopped = true) (asid : Nat) : s.renumberSteps asid g =
    ({ g with stopped := false, steps := g.decided + (s.heldSteps asid).length },
      { s with jobs := (s.numberSteps (g.decided + 1) (s.heldSteps asid)).jobs }) := by
  rw [← State.numberSteps_frame]
  exact if_neg (by rw [h]; exact Bool.false_ne_true)

section
variable (hbusy : s.busy = true) (hop : s.op = 5)
include hbusy hop

theorem exec_replicaGroup_range (h : s.arg0.toNat ≠ s.arg0.toNat % 2 ^ 10 + slice s.arg0.toNat 16 1 * 2 ^ 16 ∨
    2 ^ 14 ≤ s.arg1.toNat ∨ s.arg0.toNat % 2 ^ 10 = s.devid.toNat) : exec .replicaGroup s = .next (s.hostDone 1) :=
  congrArg Host.Outcome.next ((State.onCommand_runs hbusy (by rw [hop]; rfl) _).trans (if_pos h))

section
variable (ha : s.arg0.toNat = s.arg0.toNat % 2 ^ 10 + slice s.arg0.toNat 16 1 * 2 ^ 16) (hb : s.arg1.toNat < 2 ^ 14)
  (hself : s.arg0.toNat % 2 ^ 10 ≠ s.devid.toNat)
include ha hb hself

/-- With EN a group is paired, or paired again (R349, R437). -/
theorem exec_replicaGroup_pairs (hen : s.arg0.toNat.testBit 16 = true) : exec .replicaGroup s = .next (
    let r := match s.groups.find s.arg1.toNat with
      | some g => s.renumberSteps s.arg1.toNat { g with peer := s.arg0.setWidth 10, enabled := true }
      | none => ({ peer := s.arg0.setWidth 10, enabled := true }, s)
    { r.2 with groups := r.2.groups.insert s.arg1.toNat r.1 }.hostDone 0) := by
  refine congrArg Host.Outcome.next ((State.onCommand_runs hbusy (by rw [hop]; rfl) _).trans
    ((if_neg (not_or.2 ⟨not_not_intro ha, not_or.2 ⟨Nat.not_le.2 hb, hself⟩⟩)).trans ((if_pos hen).trans ?_)))
  cases s.groups.find s.arg1.toNat <;> rfl

/-- Without EN the pairing ends: its jobs run unpaired, and a pending step completes (log entries 44, 82). -/
theorem exec_replicaGroup_unpairs (hen : s.arg0.toNat.testBit 16 = false) : exec .replicaGroup s = .next (
    let u : State := { s with
      groups := s.groups.remove s.arg1.toNat
      jobs := s.jobs.mapVals fun (j : Job) => if j.asid.toNat = s.arg1.toNat then { j with step := 0 } else j }
    (match (s.groups.find s.arg1.toNat).bind fun g => g.pending with
      | some (_, j, _) => (u.onJob j fun x => { x with phase := .completed }).completionRecord j 1 (u.job j).tasksDone
      | none => u).hostDone 0) :=
  congrArg Host.Outcome.next ((State.onCommand_runs hbusy (by rw [hop]; rfl) _).trans
    ((if_neg (not_or.2 ⟨not_not_intro ha, not_or.2 ⟨Nat.not_le.2 hb, hself⟩⟩)).trans
      (if_neg (by rw [hen]; exact Bool.false_ne_true))))

end
end

/-! ### SET_TIME and unknown commands -/

section
variable (hbusy : s.busy = true) (hop : s.op = 6)
include hbusy hop

theorem exec_setTime_range (h : s.arg1 ≠ 0 ∨ s.locked = true ∨ s.arg0 < s.time) : exec .setTime s = .next (s.hostDone 1) :=
  congrArg Host.Outcome.next ((State.onCommand_runs hbusy (by rw [hop]; rfl) _).trans (if_pos h))

theorem exec_setTime_forward (hb : s.arg1 = 0) (hlocked : s.locked = false) (h : s.time ≤ s.arg0) : exec .setTime s =
    .next ({ s with time := s.arg0, ptp := { s.ptp with sync := none, sent := none } }.hostDone 0) := by
  refine congrArg Host.Outcome.next ((State.onCommand_runs hbusy (by rw [hop]; rfl) _).trans (if_neg ?_))
  rintro (h1 | h1 | h1)
  · exact h1 hb
  · rw [hlocked] at h1
    exact Bool.false_ne_true h1
  · exact absurd h1 (BitVec.not_lt.2 h)

end

theorem exec_hostCommandInvalid_unknown (hbusy : s.busy = true) (h : s.op.toNat = 0 ∨ 6 < s.op.toNat) :
    exec (.hostCommandInvalid s.op) s = .next (s.hostDone 1) :=
  congrArg Host.Outcome.next ((if_neg (by omega)).trans (State.onCommand_runs hbusy rfl _))

end

/-! ### Enqueue slots -/

/-- A slot with a GO behind the enqueues that it waits for (R333). -/
def State.slotGo (s : State) (k : Nat) : State :=
  let x := s.slots.getD k {}
  { s with slots := s.slots.insert k { x with status := 0, waiting := x.waiting ++ [x.entry] } }

section
variable {s : State} {k : Nat} (hk : k < 64)
include hk

theorem exec_enqueueGo_behind (h : (s.slots.getD k {}).waiting ≠ []) : exec (.enqueueGo k) s = .next (s.slotGo k) :=
  congrArg Host.Outcome.next ((if_neg (by omega)).trans (if_neg (by rwa [List.isEmpty_iff])))

variable (h : (s.slots.getD k {}).waiting = [])
include h

/-- A GO of a slot without an enqueue under way performs its own at once (R333). -/
theorem exec_enqueueGo_first : exec (.enqueueGo k) s = .next ((s.slotGo k).advanceSlot k) :=
  congrArg Host.Outcome.next ((if_neg (by omega)).trans (if_pos (by rw [h]; rfl)))

omit hk in
theorem State.slot_slotGo : (s.slotGo k).slots.getD k {} =
    { s.slots.getD k {} with status := 0, waiting := [(s.slots.getD k {}).entry] } := by
  rw [State.slotGo, Tab.getD, Tab.find_insert, if_pos rfl, h]
  rfl

theorem exec_enqueueGo_ends {n : Nat} {t : State} (henq : (s.slotGo k).slotEnq k (s.slots.getD k {}).entry = (.ok n, t)) :
    exec (.enqueueGo k) s =
      .next { t with slots := t.slots.insert k { s.slots.getD k {} with status := n, waiting := [], on := [] } } := by
  rw [exec_enqueueGo_first hk h, State.advanceSlot, State.slot_slotGo h]
  dsimp only
  rw [henq]
  rfl

/-- An enqueue that meets a miss waits for it (R449). -/
theorem exec_enqueueGo_waits {on : List (Nat × Nat)} {t : State}
    (henq : (s.slotGo k).slotEnq k (s.slots.getD k {}).entry = (.error on, t)) :
    exec (.enqueueGo k) s = .next { t with
      slots := t.slots.insert k { s.slots.getD k {} with status := 0, waiting := [(s.slots.getD k {}).entry], on } } := by
  rw [exec_enqueueGo_first hk h, State.advanceSlot, State.slot_slotGo h]
  dsimp only
  rw [henq]

end

section
variable {s : State} {k : Nat} (entry : BitVec 128)

theorem State.slotEnq_absent (h : s.queueCount ≤ k ∨ (s.queueEntry k).testBit 78 = false) :
    s.slotEnq k entry = (.ok 2, s) :=
  if_pos (h.imp id fun hbit => by rw [hbit]; rfl)

variable (hk : k < s.queueCount) (hbit : (s.queueEntry k).testBit 78 = true)
include hk hbit

/-- The slot's job-queue entry names a queue (R311, R333). -/
theorem State.queueEntry_enabled : ¬ (s.queueCount ≤ k ∨ (!(s.queueEntry k).testBit 78) = true) :=
  not_or.2 ⟨Nat.not_le.2 hk, by rw [hbit]; exact Bool.false_ne_true⟩

theorem State.slotEnq_noRoot (hq : s.scheduler (BitVec.ofNat 14 (slice (s.queueEntry k) 64 14)) = none) :
    s.slotEnq k entry = (.ok 3, s) := by
  simp only [State.slotEnq, if_neg (State.queueEntry_enabled hk hbit), hq]

section
variable {q : Requester} (hq : s.scheduler (BitVec.ofNat 14 (slice (s.queueEntry k) 64 14)) = some q) {u : State}
include hq

theorem State.slotEnq_done {n : Nat} {es : List Nat} (hr : s.enqueue (.virtual q) (slice (s.queueEntry k) 0 64)
    (fun lgsz => if lgsz = 4 then some [entry.toNat] else none) = (.done n es, u)) :
    s.slotEnq k entry = (.ok (if n = 0 then 2 else 1), u) := by
  simp only [State.slotEnq, if_neg (State.queueEntry_enabled hk hbit), hq, hr]
  cases n <;> rfl

theorem State.slotEnq_malformed {bits : Nat} (hr : s.enqueue (.virtual q) (slice (s.queueEntry k) 0 64)
    (fun lgsz => if lgsz = 4 then some [entry.toNat] else none) = (.malformed bits, u)) :
    s.slotEnq k entry = (.ok 3, u) := by
  simp only [State.slotEnq, if_neg (State.queueEntry_enabled hk hbit), hq, hr]

theorem State.slotEnq_park {on : List (Nat × Nat)} (hr : s.enqueue (.virtual q) (slice (s.queueEntry k) 0 64)
    (fun lgsz => if lgsz = 4 then some [entry.toNat] else none) = (.park on, u)) :
    s.slotEnq k entry = (.error on, u) := by
  simp only [State.slotEnq, if_neg (State.queueEntry_enabled hk hbit), hq, hr]

end
end

/-! ### The mailbox -/

/-- An attestation report begins with the nonce and the image's hash (R353). -/
theorem State.report_begins (s : State) (image : Nat) (nonce : List Byte) :
    ∃ rest, s.report image nonce = nonce ++ (bigBytes 48 image ++ rest) := by
  unfold State.report
  dsimp only
  simp only [List.append_assoc]
  exact ⟨_, rfl⟩

theorem length_bigBytes (n v : Nat) : (bigBytes n v).length = n := by
  rw [bigBytes, List.length_reverse, length_bytesOfNat]

theorem State.report_nonce (s : State) (image : Nat) {nonce : List Byte} (h : nonce.length = 48) :
    (s.report image nonce).take 48 = nonce ∧ ((s.report image nonce).drop 48).take 48 = bigBytes 48 image := by
  obtain ⟨rest, hrest⟩ := s.report_begins image nonce
  rw [hrest, ← h, List.take_left, List.drop_left, h]
  exact ⟨rfl, List.take_left' (length_bigBytes 48 image)⟩

/-- A window filled from its start reads as the bytes that fill it. -/
theorem Tab.getD_mapIdx (l : List Byte) (i : Nat) : Tab.getD (l.mapIdx fun i b => (i, b)) i 0 = l.getD i 0 := by
  rw [Tab.getD, Tab.find_mapIdx, List.getD_eq_getElem?_getD]

theorem exec_mailboxRequest_silent {s : State} (h : s.firmware = none) (len : BitVec 13) :
    exec (.mailboxRequest len) s = .next { s with mbtx := len } := by
  refine congrArg Host.Outcome.next ?_
  simp only [State.ringMailbox, h]

theorem State.report_mbtx (s : State) (len : BitVec 13) (image : Nat) (nonce : List Byte) :
    ({ s with mbtx := len } : State).report image nonce = s.report image nonce := rfl

/-- A request that brings a nonce is answered with the report (R353). -/
theorem exec_mailboxRequest_nonce {s : State} {len : BitVec 13} {image : Nat} (hlen : 48 ≤ len.toNat)
    (h : s.firmware = some image) : exec (.mailboxRequest len) s = .next (
      let reply := s.report image ((List.range 48).map fun i => s.mailIn.getD i 0)
      { s with mbtx := len, mailOut := reply.mapIdx (fun i b => (i, b)), mbrx := BitVec.ofNat 32 (2 ^ 31 + reply.length),
               vectors := s.vectors ++ [2] }) := by
  refine congrArg Host.Outcome.next ?_
  simp only [State.ringMailbox, State.report_mbtx, if_pos hlen, State.signal]
  rw [h]

/-- Settles O55: each host command, GO and mailbox access by the branch of its action that its premises choose. -/
theorem hostPort : Obligations.HostPort := by
  unfold Obligations.HostPort
  refine ⟨fun s hbusy => ⟨fun hop hwait ha => ⟨fun hon hst => ?_, fun hleft => ?_⟩,
      fun hop h => exec_invalidate_range hbusy hop h,
      fun hop ha hb => ?_, fun hop h => exec_resume_range hbusy hop h,
      fun hop ha hb => ⟨exec_cancel_absent hbusy hop ha hb,
        fun j x h => (exec_cancel_oldest hbusy hop ha hb h).trans (congrArg _ (State.hostDone_eq _ _))⟩,
      fun hop h => exec_cancel_range hbusy hop h, fun hop ha hb => ?_, fun hop ha hb hself hen hg => ?_,
      fun g hop ha hb hself hen hg => ?_, fun hop ha hb hself hen => ⟨fun hg => ?_, fun n j t hg => ?_⟩,
      fun hop h => exec_replicaGroup_range hbusy hop h,
      fun hop => ⟨fun hb hlocked h => exec_setTime_forward hbusy hop hb hlocked h, fun h => exec_setTime_range hbusy hop h⟩,
      fun h => exec_hostCommandInvalid_unknown hbusy h⟩,
    fun s u k q hk => ⟨fun h => exec_enqueueGo_behind hk h, fun h hoff => ?_,
      fun h hcount hbit => ⟨fun hq => ?_, fun hq => ?_⟩⟩,
    fun s len h => exec_mailboxRequest_silent h len, fun s len image hlen h => ?_, fun s => ?_⟩
  · refine (exec_invalidate_first hbusy hop hwait ha).trans (congrArg _ (if_pos ?_))
    rw [hon, hst]
    rfl
  · refine (exec_invalidate_first hbusy hop hwait ha).trans (congrArg _ (if_neg ?_))
    rw [Bool.and_eq_true, List.isEmpty_iff, List.isEmpty_iff]
    exact fun ⟨hon, hst⟩ => hleft.elim (· hon) (· hst)
  · have hexec := exec_resume_handle hbusy hop ha hb
    refine ⟨fun hnone => hexec.trans (congrArg _ (if_neg ?_)), fun p hp hnamed =>
      ⟨{ s with clusters := s.clusters.mapVals (Cluster.resumedAs s.arg0.toNat) }, hexec.trans (congrArg _ (if_pos ?_)), rfl,
      fun k => ⟨fun hother => ?_, fun h hlife hh => ?_, fun h hlife hh => ?_⟩⟩⟩
    · rw [List.any_eq_true]
      exact fun ⟨p, hp, hnamed⟩ => Bool.false_ne_true ((hnone p hp).symm.trans hnamed)
    · exact List.any_eq_true.2 ⟨p, hp, hnamed⟩
    · exact (State.cluster_resumed _ k).trans (Cluster.resumedAs_other hother)
    · exact (State.cluster_resumed _ k).trans (Cluster.resumedAs_halted (hh ▸ hlife))
    · exact (State.cluster_resumed _ k).trans (Cluster.resumedAs_preempted (hh ▸ hlife))
  · refine ⟨s.releaseAll s.replays, (exec_replayAll_releases hbusy hop ha hb).trans (congrArg _ (State.hostDone_eq _ _)),
      s.releaseAll_frame _ _, fun d hd => ?_⟩
    rw [State.misses_releaseAll s _ hd]
    simp [State.replays]
  · rw [exec_replicaGroup_pairs hbusy hop ha hb hself hen, hg]
    rfl
  · have hexec := exec_replicaGroup_pairs hbusy hop ha hb hself hen
    rw [hg] at hexec
    refine ⟨fun hrun => ?_, fun hstop => ?_⟩
    · dsimp only at hexec
      rw [hexec, State.renumberSteps_running (g := { g with peer := s.arg0.setWidth 10, enabled := true }) hrun]
      rfl
    · dsimp only at hexec
      rw [State.renumberSteps_stopped (g := { g with peer := s.arg0.setWidth 10, enabled := true }) hstop] at hexec
      refine ⟨{ s with
        groups := s.groups.insert s.arg1.toNat { g with
          peer := s.arg0.setWidth 10, enabled := true, stopped := false
          steps := g.decided + (s.heldSteps s.arg1.toNat).length }
        jobs := (s.numberSteps (g.decided + 1) (s.heldSteps s.arg1.toNat)).jobs }, hexec, rfl, rfl, ?_, ?_⟩
      · intro i hi hnodup
        obtain ⟨x, hx⟩ := Option.isSome_iff_exists.1 (State.find_of_mem_heldSteps (List.getElem_mem hi))
        rw [List.getD_eq_getElem?_getD, List.getElem?_eq_getElem hi]
        simp only [Option.getD_some, State.job, Tab.getD, State.find_numberSteps s _ hnodup 0 hi, hx, Option.map_some,
          Nat.zero_add]
      · intro j hj
        simp only [State.job, Tab.getD, State.find_numberSteps_of_notMem s _ hj 0]
  · rw [exec_replicaGroup_unpairs hbusy hop ha hb hself hen, hg]
    exact congrArg _ (State.hostDone_eq _ _)
  · rw [exec_replicaGroup_unpairs hbusy hop ha hb hself hen, hg]
    exact congrArg _ (State.hostDone_eq _ _)
  · exact exec_enqueueGo_ends hk h (State.slotEnq_absent _ hoff)
  · exact exec_enqueueGo_ends hk h (State.slotEnq_noRoot _ hcount hbit hq)
  · exact ⟨fun n es hr => exec_enqueueGo_ends hk h (State.slotEnq_done (s := s.slotGo k) _ hcount hbit hq hr),
      fun bits hr => exec_enqueueGo_ends hk h (State.slotEnq_malformed (s := s.slotGo k) _ hcount hbit hq hr),
      fun on hr => exec_enqueueGo_waits hk h (State.slotEnq_park (s := s.slotGo k) _ hcount hbit hq hr)⟩
  · obtain ⟨htake, hdrop⟩ := s.report_nonce image (nonce := (List.range 48).map fun i => s.mailIn.getD i 0) (by simp)
    refine ⟨_, exec_mailboxRequest_nonce hlen h, rfl, rfl, fun i => ?_, rfl, htake, hdrop⟩
    dsimp only
    rw [Tab.getD_mapIdx]
  · have hmask : ∀ i, i < 31 → (0x7FFFFFFF#32).getLsbD i = true := by decide
    refine ⟨_, rfl, rfl, ?_, fun i hi => ?_⟩
    · rw [BitVec.getLsbD_and]
      exact Bool.and_false _
    · rw [BitVec.getLsbD_and, hmask i hi, Bool.and_true]

end Sys2Proof.Machine
end

section
/-! SUPPORT. The end of a step (R335, R24, R25): it delivers the host records that can go, and only then drops the waves whose
cluster or job has left the state, on which the host record queue does not depend. -/
namespace Sys2Proof.Machine

/-! ### The host record queue does not depend on the waves -/

/-- The state with other waves. -/
def State.withWaves (s : State) (ws : Tab Wave) : State := { s with waves := ws }

theorem State.dropStrays_eq (s : State) : s.dropStrays = s.withWaves (s.waves.filter fun p => s.anchored p.2) := rfl

theorem State.writeHome_withWaves (s : State) (ws : Tab Wave) (pa : Nat) (b : Byte) :
    (s.withWaves ws).writeHome pa b = (s.writeHome pa b).withWaves ws := by
  have hserved : (s.withWaves ws).served pa = s.served pa := rfl
  unfold State.writeHome
  dsimp only
  rw [hserved]
  split <;> rfl

theorem State.writeHomes_withWaves (ws : Tab Wave) (l : List (Nat × Byte)) (s : State) :
    (s.withWaves ws).writeHomes l = (s.writeHomes l).withWaves ws := by
  have hfold : l.foldl (fun s p => s.writeHome p.1 p.2) (s.withWaves ws) =
      (l.foldl (fun s p => s.writeHome p.1 p.2) s).withWaves ws := by
    induction l generalizing s with
    | nil => rfl
    | cons p l ih => rw [List.foldl_cons, List.foldl_cons, State.writeHome_withWaves, ih]
  have hpoison : (s.withWaves ws).poison = s.poison := rfl
  unfold State.writeHomes
  dsimp only
  rw [hfold, hpoison]
  split <;> rfl

theorem State.landAll_withWaves (s : State) (ws : Tab Wave) : (s.withWaves ws).landAll = s.landAll.withWaves ws := by
  have hfold : ∀ (l : List LateWrite) (t : State),
      l.foldl (fun s w => s.writeHomes (w.bytes.mapIdx fun i b => (w.pa + i, b))) (t.withWaves ws) =
        (l.foldl (fun s w => s.writeHomes (w.bytes.mapIdx fun i b => (w.pa + i, b))) t).withWaves ws := fun l => by
    induction l with
    | nil => exact fun _ => rfl
    | cons w l ih => intro t; rw [List.foldl_cons, List.foldl_cons, State.writeHomes_withWaves, ih]
  have hlate : (s.withWaves ws).lateWrites = s.lateWrites := rfl
  unfold State.landAll State.landIf
  rw [hlate]
  split
  · rfl
  · exact hfold _ { s with lateWrites := s.lateWrites.filter fun _ => !true }

theorem State.openPhysical_withWaves (s : State) (ws : Tab Wave) (va : Nat) (acc : Access) :
    ((s.withWaves ws).openQueue .physical va acc).1 = (s.openQueue .physical va acc).1 := by
  have hdown : ∀ (t : State) (pa : Nat), (t.withWaves ws).routeDown pa = t.routeDown pa := fun _ _ => rfl
  have hhome : ∀ (t : State) (pa n : Nat), (t.withWaves ws).homeNat pa n = t.homeNat pa n := fun _ _ _ => rfl
  unfold State.openQueue State.reach
  dsimp only
  split
  · rfl
  · by_cases hhost : ([va].all fun a => regionOf a == some .host) = true
    · simp only [hhost, if_true, State.landAll_withWaves, hdown, hhome]
      split
      · rfl
      · split <;> rfl
    · simp only [hhost]; rfl

theorem State.hostQueue_withWaves (s : State) (ws : Tab Wave) : (s.withWaves ws).hostQueue = s.hostQueue := by
  have hhrq : (s.withWaves ws).hrq = s.hrq := rfl
  unfold State.hostQueue
  rw [hhrq, State.openPhysical_withWaves]

/-! ### Deliveries to the host -/

/-- A full queue takes no record (R335). -/
theorem State.deliverHost_waits {s : State} (hne : s.hostHeld ≠ []) (h : s.HostRecordsWait) : s.deliverHost = s := by
  obtain ⟨q, hq, hfull⟩ := h hne
  unfold State.deliverHost
  split
  · rfl
  · simp only [hq, if_pos hfull]

/-- As many deliveries as records wait leave none that could go (R335). -/
theorem State.hostRecordsWait_foldl_deliverHost (l : List (BitVec 256)) :
    ∀ s : State, s.hostHeld = l ∨ s.HostRecordsWait → (l.foldl (fun s _ => s.deliverHost) s).HostRecordsWait := by
  induction l with
  | nil => exact fun s h => h.elim (fun hnil hne => absurd hnil hne) id
  | cons r l ih =>
    intro s h
    refine ih s.deliverHost ?_
    rcases s.deliverHost_cases with ⟨hsame, hwait⟩ | ⟨q, rest, hheld, hrest⟩
    · rw [hsame]; exact .inr hwait
    · rcases h with hl | hwait
      · exact .inl (hrest.trans (List.cons.inj (hheld.symm.trans hl)).2)
      · rw [State.deliverHost_waits (by rw [hheld]; exact List.cons_ne_nil _ _) hwait]; exact .inr hwait

theorem State.hostRecordsWait_deliverHosts (s : State) : s.deliverHosts.HostRecordsWait :=
  State.hostRecordsWait_foldl_deliverHost _ s (.inl rfl)

/-! ### The end of a step -/

theorem State.hostRecordsWait_dropStrays {s : State} (h : s.HostRecordsWait) : s.dropStrays.HostRecordsWait := fun hne => by
  rw [State.dropStrays_eq, State.hostQueue_withWaves]
  exact h hne

/-- The end of a step drops stray waves last: in a device with power after its host records are delivered. -/
theorem State.close_cases (s : State) : (∃ t : State, s.close = t.deliverHosts.dropStrays) ∨ s.close.power = false := by
  unfold State.close
  dsimp only
  cases hp : s.power with
  | true => exact .inl ⟨_, rfl⟩
  | false => exact .inr rfl

theorem State.hostInv_close (s : State) : s.close.HostInv := by
  intro hpower
  rcases s.close_cases with ⟨t, ht⟩ | hoff
  · rw [ht]; exact State.hostRecordsWait_dropStrays t.hostRecordsWait_deliverHosts
  · rw [hoff] at hpower; cases hpower

theorem State.anchored_dropStrays (s : State) : s.dropStrays.Anchored := fun _ hp => (List.mem_filter.1 hp).2

theorem State.anchored_close (s : State) : s.close.Anchored := State.anchored_dropStrays _

theorem closeStep_next {o : Out} {t : State} (h : closeStep o = .next t) : ∃ s : State, t = s.close := by
  cases o with
  | next s => exact ⟨s, (Host.Outcome.next.inj h).symm⟩
  | fault f => cases h
  | refused r => cases h

/-- Every step ends with the end of a step. -/
theorem step_next {s t : State} (h : step s = .next t) : ∃ u : State, t = u.close := by
  unfold step at h
  split at h
  · exact closeStep_next h
  · split at h <;> exact closeStep_next h

/-- Settles O59. A step ends with `State.close`, after which both invariants hold, whatever was before. -/
theorem hostInvariant : Obligations.HostInvariant := by
  intro s s' h
  obtain ⟨u, rfl⟩ := step_next h
  exact ⟨fun _ => u.hostInv_close, fun _ => u.anchored_close⟩

end Sys2Proof.Machine
end

section
/-! SUPPORT. The frame of register writes (R28, R160, R206): what a wave keeps of its threads, and of itself, after a word. -/
namespace Sys2Proof.Machine

/-! ### What register writes keep -/

/-- A register write changes threads, uniform registers and the marks of poison alone. -/
theorem Wave.apply_frame (w : Wave) (x : RegWrite) : ∃ threads uni rpoison,
    w.apply x = { w with threads := threads, uni := uni, rpoison := rpoison } := by
  cases x with
  | vec l r v => simp only [Wave.apply, Wave.onThread]; split <;> exact ⟨_, _, _, rfl⟩
  | uni r v => exact ⟨_, _, _, rfl⟩
  | pred l r v => simp only [Wave.apply, Wave.onThread]; split <;> exact ⟨_, _, _, rfl⟩

theorem Wave.applyAll_frame (w : Wave) (xs : List RegWrite) : ∃ threads uni rpoison,
    w.applyAll xs = { w with threads := threads, uni := uni, rpoison := rpoison } := by
  unfold Wave.applyAll
  induction xs generalizing w with
  | nil => exact ⟨_, _, _, rfl⟩
  | cons x xs ih =>
    obtain ⟨_, _, _, hx⟩ := w.apply_frame x
    obtain ⟨_, _, _, hxs⟩ := ih (w.apply x)
    rw [List.foldl_cons, hxs, hx]
    exact ⟨_, _, _, rfl⟩

theorem Wave.thread_of_le {w : Wave} {l : Nat} (h : w.threads.length ≤ l) : w.thread l = {} := by
  rw [Wave.thread, List.getD_eq_getElem?_getD, List.getElem?_eq_none h, Option.getD_none]

theorem Wave.thread_applyAll_of_le {w : Wave} {l : Nat} (h : w.threads.length ≤ l) (xs : List RegWrite) :
    (w.applyAll xs).thread l = w.thread l := by
  rw [Wave.thread_of_le h, Wave.thread_of_le (by rwa [Wave.length_applyAll])]

/-- A register that no write of a list names keeps its value. -/
theorem Wave.v_applyAll_unwritten (w : Wave) {xs : List RegWrite} {l r : Nat} (h : ∀ v, RegWrite.vec l r v ∉ xs) :
    ((w.applyAll xs).thread l).v.getD r 0 = (w.thread l).v.getD r 0 := by
  rcases Nat.lt_or_ge l w.threads.length with hl | hl
  · refine Wave.read_applyAll (fun w => (w.thread l).v.getD r 0) _ _ (fun _ x hn => Wave.v_apply (hn ▸ hl) r x)
      (fun x hx u hu => ?_) rfl (.inl rfl)
    cases x with
    | vec k q v =>
      obtain ⟨⟨rfl, rfl⟩, -⟩ := Option.ite_none_right_eq_some.1 hu
      exact absurd hx (h v)
    | uni q v => cases hu
    | pred k q v => cases hu
  · rw [Wave.thread_applyAll_of_le hl]

theorem Wave.u_applyAll_unwritten (w : Wave) {xs : List RegWrite} {r : Nat} (h : ∀ v, RegWrite.uni r v ∉ xs) :
    (w.applyAll xs).u r = w.u r := by
  refine Wave.read_applyAll (fun w => w.u r) _ _ (fun w x _ => Wave.u_apply w r x) (fun x hx u hu => ?_) rfl (.inl rfl)
  cases x with
  | vec k q v => cases hu
  | uni q v =>
    obtain ⟨rfl, -⟩ := Option.ite_none_right_eq_some.1 hu
    exact absurd hx (h v)
  | pred k q v => cases hu

theorem Wave.p_applyAll_unwritten (w : Wave) {xs : List RegWrite} {l k : Nat} (h : ∀ v, RegWrite.pred l k v ∉ xs) :
    ((w.applyAll xs).thread l).p.getLsbD k = (w.thread l).p.getLsbD k := by
  rcases Nat.lt_or_ge l w.threads.length with hl | hl
  · rcases Nat.lt_or_ge k 7 with hk | hk
    · refine Wave.read_applyAll (fun w => (w.thread l).p.getLsbD k) _ _ (fun _ x hn => Wave.p_apply (hn ▸ hl) hk x)
        (fun x hx u hu => ?_) rfl (.inl rfl)
      cases x with
      | vec j q v => cases hu
      | uni q v => cases hu
      | pred j q v =>
        obtain ⟨⟨rfl, rfl⟩, -⟩ := Option.ite_none_right_eq_some.1 hu
        exact absurd hx (h v)
    · rw [BitVec.getLsbD_of_ge _ _ hk, BitVec.getLsbD_of_ge _ _ hk]
  · rw [Wave.thread_applyAll_of_le hl]

/-- Writes of vector registers alone keep what is no vector register. -/
theorem Wave.applyAll_vectors {xs : List RegWrite} (vectors : ∀ x ∈ xs, ∃ l r v, x = RegWrite.vec l r v) (w : Wave) :
    (w.applyAll xs).uni = w.uni ∧ ∀ l, ((w.applyAll xs).thread l).p = (w.thread l).p := by
  unfold Wave.applyAll
  induction xs generalizing w with
  | nil => exact ⟨rfl, fun _ => rfl⟩
  | cons x xs ih =>
    obtain ⟨k, r, v, rfl⟩ := vectors x List.mem_cons_self
    obtain ⟨huni, hp⟩ := ih (fun y hy => vectors y (List.mem_cons_of_mem _ hy)) (w.apply (.vec k r v))
    refine ⟨huni.trans ?_, fun l => (hp l).trans ?_⟩
    · simp only [Wave.apply]; split <;> rfl
    · rcases Nat.lt_or_ge l w.threads.length with hl | hl
      · rw [Wave.thread_apply_vec hl]; split <;> rfl
      · rw [Wave.thread_of_le hl, Wave.thread_of_le (by rwa [Wave.length_apply])]

/-! ### The advance -/

theorem Wave.thread_onLanes (w : Wave) (lanes : List Nat) (f : Nat → Thread → Thread) (l : Nat) :
    (w.onLanes lanes f).thread l = if l ∈ lanes ∧ l < w.threads.length then f l (w.thread l) else w.thread l := by
  by_cases hl : l ∈ lanes
  · rcases Nat.lt_or_ge l w.threads.length with hlt | hge
    · rw [Wave.thread_onLanes_mem hl hlt, if_pos ⟨hl, hlt⟩]
    · rw [if_neg fun h => absurd h.2 (Nat.not_lt.2 hge), Wave.thread_of_le hge,
        Wave.thread_of_le (by simpa [Wave.onLanes] using hge)]
  · rw [Wave.thread_onLanes_not_mem hl, if_neg fun h => hl h.1]

/-- What a word writes in a wave without outstanding results: at once some of its writes, the others becoming outstanding. -/
theorem State.written_cases (s : State) {w : Wave} (hr : w.results = []) (det : Bool) (now late : List RegWrite) :
    ∃ xs results, (∀ x ∈ xs, x ∈ now ++ late) ∧
      (s.writeNow w now).writeLate det late = { w.applyAll xs with results := results } := by
  have hnow : s.writeNow w now = w.applyAll now := by simp [State.writeNow, State.overtake, hr]
  have hself : ∀ x : Wave, x = { x with results := x.results } := fun _ => rfl
  rw [hnow]
  unfold Wave.writeLate
  split
  · exact ⟨now, _, fun _ hx => List.mem_append_left _ hx, hself _⟩
  · split
    · have happ : (w.applyAll now).applyAll late = w.applyAll (now ++ late) := (List.foldl_append ..).symm
      exact ⟨now ++ late, _, fun _ hx => hx, happ.trans (hself _)⟩
    · exact ⟨now, _, fun _ hx => List.mem_append_left _ hx, rfl⟩

/-- Settles O8. The word's wave is its old one with some of the writes applied and its issued threads advanced; nothing else
of the state is touched. -/
theorem retiredFrame : Obligations.RetiredFrame := by
  intro s c settle now late hw hr
  obtain ⟨xs, results, hxs, hwritten⟩ := s.written_cases hr c.det now late
  obtain ⟨threads, uni, rpoison, hframe⟩ := (s.wave c.w).applyAll_frame xs
  have hx : (retired s c settle false now late).wave c.w =
      closed settle false ({ (s.wave c.w).applyAll xs with results := results }.advance (s.curLanes c)) := by
    rw [retired, State.wave_onWave s c.w c.w _ hw, if_pos rfl, hwritten]
  have hthread : ∀ l, ((retired s c settle false now late).wave c.w).thread l =
      if l ∈ s.curLanes c ∧ l < (s.wave c.w).threads.length then
        { ((s.wave c.w).applyAll xs).thread l with pc := (((s.wave c.w).applyAll xs).thread l).pc + 8 }
      else ((s.wave c.w).applyAll xs).thread l := fun l => by
    rw [hx, ← Wave.length_applyAll (s.wave c.w) xs]
    exact Wave.thread_onLanes { (s.wave c.w).applyAll xs with results := results } (s.curLanes c) _ l
  have hkeep : ∀ {α : Type} (read : Thread → α), (∀ t pc, read { t with pc := pc } = read t) → ∀ l,
      read (((retired s c settle false now late).wave c.w).thread l) = read (((s.wave c.w).applyAll xs).thread l) :=
    fun read hpc l => by rw [hthread]; split <;> [exact hpc _ _; rfl]
  dsimp only
  refine ⟨rfl, fun _ => rfl, fun k hk => State.wave_onWave_ne s c.w k _ hk, fun l r h => ?vector, fun r h => ?uniform,
    fun l k h => ?predicate, fun l => ?pc, fun l => ?rest, ?_, ?_, ?_, ?_, ?_, ?_, ?_⟩
  case vector =>
    exact (hkeep (fun t => t.v.getD r 0) (fun _ _ => rfl) l).trans
      (Wave.v_applyAll_unwritten _ fun v hv => h v (hxs _ hv))
  case uniform =>
    rw [hx]
    exact Wave.u_applyAll_unwritten _ fun v hv => h v (hxs _ hv)
  case predicate =>
    exact (hkeep (fun t => t.p.getLsbD k) (fun _ _ => rfl) l).trans
      (Wave.p_applyAll_unwritten _ fun v hv => h v (hxs _ hv))
  case pc =>
    have hpc : (((s.wave c.w).applyAll xs).thread l).pc = ((s.wave c.w).thread l).pc :=
      Wave.read_thread_applyAll (read := Thread.pc) (fun _ _ => rfl) (fun _ _ => rfl) _ xs l
    rw [hthread, ← hpc]
    split <;> rfl
  case rest =>
    exact (hkeep (fun t => { t with v := [], p := 0, pc := 0 }) (fun _ _ => rfl) l).trans
      (Wave.read_thread_applyAll (read := fun t => { t with v := [], p := 0, pc := 0 }) (fun _ _ => rfl) (fun _ _ => rfl) _ xs l)
  all_goals rw [hx, hframe]; rfl

/-! ### Branches -/

/-- CALL's return address as its pair of registers holds it (R56, R206). -/
theorem vecWrites_word (l r : Nat) (x : Word) : vecWrites 7 l r x.toNat =
    [.vec l r (x.setWidth 32), .vec l (r + 1) (x.extractLsb' 32 32)] := by
  have hlow : BitVec.ofNat 32 x.toNat = x.setWidth 32 := BitVec.eq_of_toNat_eq (by simp)
  have hhigh : BitVec.ofNat 32 (x.toNat / 2 ^ 32) = x.extractLsb' 32 32 :=
    BitVec.eq_of_toNat_eq (by simp [Nat.shiftRight_eq_div_pow])
  have hwide : tyWide (BitVec.ofNat 4 7) = true := by decide
  rw [← hlow, ← hhigh]
  simp only [vecWrites, hwide, if_true]

section
variable {s : State} {c : Ctx} {h : Hdr} {o : OpJ}

theorem exec_bra_ready (r : Ready s c h [] []) : exec (.bra h o) s = .next (jumped
    (s.branch c (s.activeLanes c h.pg h.pn) fun _ => c.pc + 8 + 8 * o.tgt.signExtend 64) c h.s false []) :=
  congrArg Host.Outcome.next (State.issueWord_ready r _)

theorem exec_call_ready (r : Ready s c h [o.modc.toNat, o.modc.toNat + 1] []) : exec (.call h o) s = .next (jumped
    (s.branch c (s.activeLanes c h.pg h.pn) fun _ => c.pc + 8 + 8 * o.tgt.signExtend 64) c h.s false
    ((s.activeLanes c h.pg h.pn).flatMap fun l => [.vec l o.modc.toNat ((c.pc + 8).setWidth 32),
      .vec l (o.modc.toNat + 1) ((c.pc + 8).extractLsb' 32 32)])) := by
  simp only [← vecWrites_word]
  exact congrArg Host.Outcome.next (State.issueWord_ready r _)

/-- Where a lane of a BRX or RET goes (R206): a uniform register, or a pair of its own. -/
def State.indirectTarget (s : State) (c : Ctx) (o : OpJ) (l : Nat) : Word :=
  if o.tgt.getLsbD 0 then s.readU c.wave o.modc.toNat else s.readPair c.wave l o.modc.toNat

variable (r : Ready s c h [] (if o.tgt.getLsbD 0 then [] else [o.modc.toNat, o.modc.toNat + 1]))
include r

theorem State.issueIndirect_aligned
    (aligned : ∀ l ∈ s.activeLanes c h.pg h.pn, (s.indirectTarget c o l).toNat % 8 = 0) :
    s.issueIndirect h o = jumped (s.branch c (s.activeLanes c h.pg h.pn) (s.indirectTarget c o)) c h.s false [] := by
  have hnone : ((s.activeLanes c h.pg h.pn).filter fun l => (s.indirectTarget c o l).toNat % 8 != 0) = [] :=
    List.filter_eq_nil_iff.2 fun l hl => by simp [aligned l hl]
  refine (State.issueWord_ready r _).trans ?_
  unfold State.indirectTarget at hnone
  simp only [hnone, State.finish_moved]
  rfl

theorem State.issueIndirect_misaligned {l : Nat} {rest : List Nat}
    (bad : ((s.activeLanes c h.pg h.pn).filter fun l => (s.indirectTarget c o l).toNat % 8 != 0) = l :: rest) :
    s.issueIndirect h o = s.programError c 0x0005 (s.indirectTarget c o l).toNat 0 (l :: rest) := by
  refine (State.issueWord_ready r _).trans ?_
  unfold State.indirectTarget at bad
  simp only [bad, State.finish_trap]
  rfl

end

/-- A wave whose issued threads advance, the active ones to their targets (R206). -/
def Wave.branched (w : Wave) (lanes act : List Nat) (f : Nat → Word) : Wave :=
  (w.advance lanes).onLanes act fun l t => { t with pc := f l }

theorem State.branch_eq (s : State) (c : Ctx) (act : List Nat) (f : Nat → Word) :
    s.branch c act f = s.onWave c.w fun w => w.branched c.lanes act f := rfl

theorem Wave.length_branched (w : Wave) (lanes act : List Nat) (f : Nat → Word) :
    (w.branched lanes act f).threads.length = w.threads.length := by simp [Wave.branched, Wave.advance, Wave.onLanes]

theorem Wave.pc_branched {w : Wave} {l : Nat} (hl : l < w.threads.length) (lanes act : List Nat) (f : Nat → Word) :
    ((w.branched lanes act f).thread l).pc =
      if l ∈ act then f l else if l ∈ lanes then (w.thread l).pc + 8 else (w.thread l).pc := by
  have hlen : l < (w.advance lanes).threads.length := by simpa [Wave.advance, Wave.onLanes] using hl
  rw [Wave.branched, Wave.thread_onLanes, Wave.advance, Wave.thread_onLanes]
  by_cases ha : l ∈ act
  · rw [if_pos ⟨ha, hlen⟩, if_pos ha]
  · by_cases hi : l ∈ lanes
    · simp [ha, hi, hl]
    · simp [ha, hi]

/-- A branch sets PCs alone. -/
theorem Wave.read_branched {α : Type} {read : Thread → α} (hpc : ∀ t pc, read { t with pc := pc } = read t) (w : Wave)
    (lanes act : List Nat) (f : Nat → Word) (l : Nat) :
    read ((w.branched lanes act f).thread l) = read (w.thread l) := by
  rw [Wave.branched, Wave.thread_onLanes, Wave.advance, Wave.thread_onLanes]
  split <;> split <;> simp only [hpc]

/-- The wave of a branch: its threads at their places, and then its registers written. -/
theorem State.wave_jumped_branch {s : State} {c : Ctx} (hw : (s.waves.find c.w).isSome = true)
    (hr : (s.wave c.w).results = []) (act : List Nat) (f : Nat → Word) (settle : Bool) (now : List RegWrite) :
    (jumped (s.branch c act f) c settle false now).wave c.w =
      closed settle false (((s.wave c.w).branched c.lanes act f).applyAll now) := by
  have hfound : ((s.branch c act f).waves.find c.w).isSome = true := by
    rw [State.branch, State.onWave_waves, Tab.find_modify]
    simpa using hw
  have hres : ((s.wave c.w).branched c.lanes act f).results = [] := hr
  rw [jumped, State.wave_onWave _ c.w c.w _ hfound, if_pos rfl, State.branch_eq, State.wave_onWave s c.w c.w _ hw, if_pos rfl,
    State.writeNow, State.overtake, hres]
  rfl

/-- Settles O22. Each word jumps, or traps, as its lemma above says; the frame is that of the threads' new places and of the
writes of vector registers. -/
theorem branchResults : Obligations.BranchResults := by
  refine ⟨fun s c h o => ⟨exec_bra_ready, exec_call_ready, fun r => ⟨fun aligned => ?goes, fun l rest bad => ?traps⟩⟩,
    fun s c act f settle now hw hr vectors => ?frame⟩
  case goes =>
    have hgo := State.issueIndirect_aligned r aligned
    exact ⟨congrArg _ hgo, congrArg _ hgo⟩
  case traps =>
    have htrap := State.issueIndirect_misaligned r bad
    exact ⟨congrArg _ htrap, congrArg _ htrap⟩
  case frame =>
    have hx := State.wave_jumped_branch hw hr act f settle now
    obtain ⟨threads, uni, rpoison, hframe⟩ := ((s.wave c.w).branched c.lanes act f).applyAll_frame now
    obtain ⟨huni, hp⟩ := Wave.applyAll_vectors vectors ((s.wave c.w).branched c.lanes act f)
    have hother : ∀ k, k ≠ c.w → (jumped (s.branch c act f) c settle false now).wave k = s.wave k := fun k hk =>
      (State.wave_onWave_ne _ c.w k _ hk).trans (State.wave_onWave_ne s c.w k _ hk)
    dsimp only
    refine ⟨rfl, fun _ => rfl, hother, fun l hl => ?pc, fun l r h => ?vector, fun l => ?rest, ?uni, ?_, ?_, ?_⟩
    case pc =>
      rw [hx, ← Wave.pc_branched hl]
      exact Wave.read_thread_applyAll (read := Thread.pc) (fun _ _ => rfl) (fun _ _ => rfl) _ now l
    case vector =>
      rw [hx]
      exact (Wave.v_applyAll_unwritten _ h).trans (Wave.read_branched (read := fun t => t.v.getD r 0) (fun _ _ => rfl) ..)
    case rest =>
      have hkeep := Wave.read_thread_applyAll (read := fun t => { t with v := [], p := 0, pc := 0 }) (fun _ _ => rfl)
        (fun _ _ => rfl) ((s.wave c.w).branched c.lanes act f) now l
      have hthread := congrArg (fun t : Thread => { t with p := ((s.wave c.w).thread l).p }) (hkeep.trans
        (Wave.read_branched (read := fun t => { t with v := [], p := 0, pc := 0 }) (fun _ _ => rfl) ..))
      have hpl := (hp l).trans (Wave.read_branched (read := Thread.p) (fun _ _ => rfl) ..)
      rw [hx]
      refine Eq.trans ?_ hthread
      rw [← hpl]
      rfl
    case uni => rw [hx]; exact huni
    all_goals rw [hx, hframe]; rfl

end Sys2Proof.Machine
end

section
/-! SUPPORT. MEET, NOP, SLEEP and EXIT (R27, R209, R49). -/
namespace Sys2Proof.Machine

section
variable {s s1 : State} {c : Ctx} {h : Hdr} {o : OpS}

/-- MEET in either form sets the meeting points of its active threads (R27). -/
theorem State.setMeet_ready (r : Ready s c h [] []) (mt : Ctx → Word) : s.setMeet h mt = retired
    (s.onWave c.w fun w => w.onLanes (s.activeLanes c h.pg h.pn) fun _ t => { t with mt := mt c }) c h.s false [] [] :=
  State.issueWord_ready r _

theorem exec_nop_ready (r : Ready s c h [] []) : exec (.nop h o) s = .next (retired s c h.s false [] []) :=
  congrArg Host.Outcome.next (State.issueWord_ready r _)

theorem exec_sleep_ready (r : Ready s c h [] []) : exec (.sleep h o) s = .next (retired
    (if o.imm.toNat = 0 then s else s.onWave c.w fun w => { w with wake := s.clk + o.imm.toNat + 1 }) c h.s false [] []) :=
  congrArg Host.Outcome.next (State.issueWord_ready r _)

theorem exec_sleepEnd (s : State) (k : Nat) : exec (.sleepEnd k) s =
    .next (if (s.wave k).wake ≤ s.clk then s.onWave k fun w => { w with wake := 0 } else s) := rfl

/-! ### EXIT -/

/-- The engine operations of the home blocks of a word's issued threads (R49). -/
def State.homeOps (s : State) (c : Ctx) : List (Nat × Nat × Nat) :=
  (distinct (c.lanes.map fun l => s.homeBlock c l)).flatMap s.engineOps

/-- What EXIT examines first, and what it does after its commit. -/
def exitCheck (s : State) (c : Ctx) (_ : List Nat) : Option Effect :=
  if (s.wave c.w).results.isEmpty then none else some (.settle s)
def exitEffect (s : State) (c : Ctx) (act : List Nat) : Effect :=
  if (s.homeOps c).isEmpty then .done (s.onWave c.w fun w => w.exitLanes act) [] [] else .wait s [] (.exit (s.homeOps c) act)

theorem exec_exit (h : Hdr) (o : OpS) (s : State) :
    exec (.exit h o) s = .next (s.issueBoundary h [] [] exitCheck exitEffect) := rfl

/-- While results are outstanding EXIT waits for them (R167). -/
theorem exec_exit_settles (b : Boundary s c h [] [] s1) (outstanding : (s.wave c.w).results ≠ []) :
    exec (.exit h o) s = .next (settling s c) := by
  have hcheck : exitCheck s c (s.activeLanes c h.pg h.pn) = some (.settle s) := by
    rw [exitCheck, isEmpty_of_ne outstanding]; rfl
  rw [exec_exit, State.issueBoundary_stopped b.ready b.plain _ _ _ hcheck]
  rfl

variable (settled : (s.wave c.w).results = [])
include settled

theorem exitCheck_settled (act : List Nat) : exitCheck s c act = none := by rw [exitCheck, settled]; rfl

theorem exec_exit_ends (b : Boundary s c h [] [] s1) (idle : (begun s1 c).homeOps c = []) : exec (.exit h o) s =
    .next (retired ((begun s1 c).onWave c.w fun w => w.exitLanes (s.activeLanes c h.pg h.pn)) c h.s true [] []) := by
  rw [exec_exit, State.issueBoundary_ready b _ _ (exitCheck_settled settled _), exitEffect, idle]
  rfl

theorem exec_exit_waits (b : Boundary s c h [] [] s1) (busy : (begun s1 c).homeOps c ≠ []) : exec (.exit h o) s =
    .next (waiting (begun s1 c) c h.s true [] (.exit ((begun s1 c).homeOps c) (s.activeLanes c h.pg h.pn))) := by
  rw [exec_exit, State.issueBoundary_ready b _ _ (exitCheck_settled settled _), exitEffect, isEmpty_of_ne busy]
  rfl

end

/-- The exited lanes' threads are no longer live (R49). -/
theorem Wave.exitLanes_live {w : Wave} {act : List Nat} {l : Nat} (hl : l ∈ act) (hlt : l < w.threads.length) :
    ((w.exitLanes act).thread l).live = false :=
  (congrArg Thread.live (Wave.thread_onLanes_mem hl hlt fun _ t => { t with live := false, handler := false })).trans rfl

/-- Settles O23. Each word by the lemma about it above; EXIT by whether results and engine operations are outstanding. -/
theorem controlWords : Obligations.ControlWords := by
  refine ⟨⟨fun s c h o r => ⟨?meet, ?clear, exec_nop_ready r, fun hn => ?sleep, fun hn => ?none⟩, fun s k due => ?wakes,
    fun s k early => ?sleeps⟩, fun s s1 c h o b => ⟨exec_exit_settles b, fun settled idle => exec_exit_ends settled b idle,
    fun settled busy => exec_exit_waits settled b busy, fun w => ⟨fun l => Wave.exitLanes_live,
      fun l hl => Wave.thread_onLanes_not_mem hl _, rfl⟩⟩⟩
  case meet => exact congrArg Host.Outcome.next (State.setMeet_ready r fun c => c.pc + 8 + 8 * o.imm.signExtend 64)
  case clear => exact congrArg Host.Outcome.next (State.setMeet_ready r fun _ => 0)
  case sleep =>
    have hpos : o.imm.toNat ≠ 0 := fun h => hn (BitVec.eq_of_toNat_eq h)
    rw [exec_sleep_ready r, if_neg hpos]
  case none => rw [exec_sleep_ready r, if_pos (by rw [hn]; rfl)]
  case wakes => rw [exec_sleepEnd, if_pos due]
  case sleeps => rw [exec_sleepEnd, if_neg (Nat.not_le.2 early)]

end Sys2Proof.Machine
end

section
/-! SUPPORT. Lines written at their homes: a commit of a buffered store (R35, R94, R122, R124), and the drain of a committed one
(R119, R121). -/
namespace Sys2Proof.Machine

/-! ### Homes of a line -/

/-- The bytes of a line are served one after another, and a link leads to each (R338). -/
def State.lineUp (s : State) (line : Nat) : Prop := ∀ k, k < 128 →
  s.served (line * 128 + k) = s.served (line * 128) + k ∧ s.routeDown (line * 128 + k) = false

@[simp] theorem State.routeDown_writeHomes (s : State) (l : List (Nat × Byte)) (a : Nat) :
    (s.writeHomes l).routeDown a = s.routeDown a := by
  obtain ⟨_, _, _, h⟩ := s.writeHomes_frame l
  rw [h]
  rfl

theorem State.lineUp_writeHomes {s : State} {line : Nat} (up : s.lineUp line) (l : List (Nat × Byte)) :
    (s.writeHomes l).lineUp line := by simpa [State.lineUp] using up

section
variable {s : State} {line : Nat} {bytes : Tab Byte} (up : s.lineUp line) (inside : ∀ p ∈ bytes, p.1 < 128)
include up inside

theorem State.writeOut_lineUp : s.writeOut (lineBytes line bytes) = ([], s.writeHomes (lineBytes line bytes)) := by
  refine State.writeOut_up fun p hp => ?_
  obtain ⟨q, hq, rfl⟩ := List.mem_map.1 hp
  exact (up q.1 (inside q hq)).2

/-- Each byte of a line that is written reads back as the last one written to its offset. -/
theorem State.home_writeLine {k : Nat} (hk : k < 128) : (s.writeHomes (lineBytes line bytes)).home (line * 128 + k) =
    (lastOf bytes k).getD (s.home (line * 128 + k)) := by
  have hlast : lastOf ((lineBytes line bytes).map fun p => (s.served p.1, p.2)) (s.served (line * 128 + k)) =
      lastOf bytes k := by
    rw [lineBytes]
    induction bytes with
    | nil => rfl
    | cons q r ih =>
      have hoff : s.served (line * 128 + q.1) = s.served (line * 128 + k) ↔ q.1 = k := by
        rw [(up q.1 (inside q List.mem_cons_self)).1, (up k hk).1]
        omega
      rw [List.map_cons, List.map_cons, lastOf_cons, lastOf_cons, ih fun p hp => inside p (List.mem_cons_of_mem _ hp)]
      simp only [hoff]
  rw [State.home_writeHomes, hlast]

theorem State.home_writeLine_ne {a : Nat} (ha : ∀ k, k < 128 → s.served a ≠ s.served (line * 128) + k) :
    (s.writeHomes (lineBytes line bytes)).home a = s.home a := by
  have hnone : lastOf ((lineBytes line bytes).map fun p => (s.served p.1, p.2)) (s.served a) = none := by
    rw [lastOf, Option.map_eq_none_iff, List.find?_eq_none]
    intro x hx
    obtain ⟨p, hp, rfl⟩ := List.mem_map.1 (List.mem_reverse.1 hx)
    obtain ⟨q, hq, rfl⟩ := List.mem_map.1 hp
    simpa [(up q.1 (inside q hq)).1] using Ne.symm (ha q.1 (inside q hq))
  rw [State.home_writeHomes, hnone, Option.getD_none]

end

/-! ### Commit -/

/-- The cached copies of a line go without a change of any home (R94). -/
theorem State.home_dropLine (s : State) (core line a : Nat) : (s.dropLine core line).home a = s.home a := rfl

/-- Where an address is served, and whether a link leads there, is no matter of the cores (R338). -/
theorem State.route_onCore (s : State) (core : Nat) (f : CoreState → CoreState) (a : Nat) :
    (s.onCore core f).served a = s.served a ∧ (s.onCore core f).routeDown a = s.routeDown a := ⟨rfl, rfl⟩

theorem State.route_dropLine (s : State) (core line a : Nat) :
    (s.dropLine core line).served a = s.served a ∧ (s.dropLine core line).routeDown a = s.routeDown a := ⟨rfl, rfl⟩

theorem State.core_dropLine (s : State) (core line : Nat) :
    (s.dropLine core line).core core = { s.core core with l1 := (s.core core).l1.remove line } :=
  s.core_onCore core fun c => { c with l1 := c.l1.remove line }

theorem State.core_writeHomes (s : State) (l : List (Nat × Byte)) (core : Nat) : (s.writeHomes l).core core = s.core core := by
  obtain ⟨_, _, _, h⟩ := s.writeHomes_frame l
  rw [h]
  rfl

theorem State.drainIf_none {s : State} {core : Nat} {p : Committed → Bool} (h : ∀ e ∈ (s.core core).commit, p e = false) :
    s.drainIf core p = ([], s) := by
  rw [State.drainIf, List.filter_eq_nil_iff.2 fun e he => by simp [h e he]]
  rfl

theorem State.core_writeOut (s : State) (l : List (Nat × Byte)) (core : Nat) : (s.writeOut l).2.core core = s.core core :=
  s.core_writeHomes _ core

theorem State.core_landOn (s : State) (k core : Nat) : (s.landOn k).core core = s.core core := by
  obtain ⟨_, _, _, _, h⟩ := s.landIf_frame fun w => w.within s k
  rw [State.landOn, h]
  rfl

/-- Writing out committed entries changes no core. -/
theorem State.core_foldl_writeOut (out : List Committed) (core : Nat) : ∀ r : List Lost × State,
    ((out.foldl (fun (r : List Lost × State) x =>
      let (lost, s) := r.2.writeOut (lineBytes x.line x.bytes)
      (r.1 ++ lostOf x.job lost, s)) r).2.core core) = r.2.core core := by
  induction out with
  | nil => exact fun _ => rfl
  | cons x out ih => exact fun r => (ih _).trans (r.2.core_writeOut _ core)

/-- A core's cache lacks a line. -/
def State.lacks (s : State) (core line : Nat) : Prop := (s.core core).l1.find line = none

theorem State.lacks_dropLine (s : State) (core line : Nat) : (s.dropLine core line).lacks core line := by
  rw [State.lacks, State.core_dropLine, Tab.find_remove, if_pos rfl]

theorem State.lacks_drainEntry {s : State} {core line : Nat} (h : s.lacks core line) (n : Nat) :
    (s.drainEntry core n).2.lacks core line := by
  have hland : (s.landOn core).core core = s.core core := s.core_landOn core core
  unfold State.drainEntry
  dsimp only
  split
  · rw [State.lacks, hland]; exact h
  · rw [State.lacks, State.core_foldl_writeOut, State.core_dropLine, State.core_onCore, hland, Tab.find_remove]
    split
    · rfl
    · exact h

/-- A line that the core's cache lacks stays out of it while stores are drained. -/
theorem State.lacks_drainIf {s : State} {core line : Nat} (h : s.lacks core line) (p : Committed → Bool) :
    (s.drainIf core p).2.lacks core line := by
  have hfold : ∀ (l : List Committed) (r : List Lost × State), r.2.lacks core line →
      (l.foldl (fun (r : List Lost × State) e =>
        let (l, s) := r.2.drainEntry core e.number
        (r.1 ++ l, s)) r).2.lacks core line := by
    intro l
    induction l with
    | nil => exact fun _ hr => hr
    | cons e l ih => exact fun r hr => ih _ (State.lacks_drainEntry hr e.number)
  exact hfold _ _ h

/-- The newest byte of a commit buffer to which an entry of the byte's line has been added is that entry's. -/
theorem committedByte_concat {c : CoreState} {e : Committed} {k : Nat} (hk : k < 128) {b : Byte} (hb : e.bytes.find k = some b) :
    committedByte { c with commit := c.commit ++ [e] } (e.line * 128 + k) = some b := by
  have hline : (e.line * 128 + k) / 128 = e.line := by omega
  have hoff : (e.line * 128 + k) % 128 = k := by omega
  simp [committedByte, firstSome, hline, hoff, hb]

/-- The entry that a commit puts into its core's commit buffer (R35, R127). -/
def State.newCommit (s : State) (k : Committer) (line va : Nat) (bytes : Tab Byte) : Committed :=
  { number := nextCommit (s.core k.core), line, va, job := k.job, wave := k.wave,
    tags := (s.job k.job).tags (s.wave k.wave).cluster va, bytes }

theorem State.core_commitBytes (s : State) (k : Committer) (line va : Nat) (bytes : Tab Byte) :
    (s.commitBytes k line va bytes).core k.core =
      { s.core k.core with commit := (s.core k.core).commit ++ [s.newCommit k line va bytes] } :=
  s.core_onCore k.core _

section
variable (s : State) (k : Committer) (line va : Nat) {scope : Nat} (bytes : Tab Byte)

theorem State.commitEntry_near (h : scope < 3) : s.commitEntry k (.store line va scope bytes) =
    ([], (s.dropLine k.core line).commitBytes k line va bytes) := if_pos h

theorem State.commitEntry_wide (h : 3 ≤ scope) : (s.commitEntry k (.store line va scope bytes)).2 =
    (((s.dropLine k.core line).drainLine k.core line).2.writeOut (lineBytes line bytes)).2 := by
  unfold State.commitEntry
  dsimp only
  rw [if_neg (Nat.not_lt.2 h)]

theorem State.lacks_commitEntry : (s.commitEntry k (.store line va scope bytes)).2.lacks k.core line := by
  rcases Nat.lt_or_ge scope 3 with h | h
  · rw [s.commitEntry_near k line va bytes h, State.lacks, State.core_commitBytes]
    exact s.lacks_dropLine k.core line
  · rw [s.commitEntry_wide k line va bytes h, State.lacks, State.core_writeOut]
    exact State.lacks_drainIf (s.lacks_dropLine k.core line) _

/-- A store of a wider scope is at its homes (R124). -/
theorem State.home_commitEntry_wide (h : 3 ≤ scope) (up : s.lineUp line) (inside : ∀ p ∈ bytes, p.1 < 128)
    (alone : ∀ e ∈ (s.core k.core).commit, e.line ≠ line) {i : Nat} (hi : i < 128) :
    (s.commitEntry k (.store line va scope bytes)).2.home (line * 128 + i) =
      (lastOf bytes i).getD (s.home (line * 128 + i)) := by
  have hdrain : (s.dropLine k.core line).drainLine k.core line = ([], s.dropLine k.core line) :=
    State.drainIf_none fun e he => by
      rw [State.core_dropLine] at he
      simpa using alone e he
  rw [s.commitEntry_wide k line va bytes h, hdrain]
  have hup : (s.dropLine k.core line).lineUp line := up
  rw [State.writeOut_lineUp hup inside, State.home_writeLine hup inside hi]
  rfl

end

/-! ### Drain -/

/-- Committed entries written at their homes, in order (R119). -/
def State.writeLines (s : State) (out : List Committed) : State :=
  out.foldl (fun s x => s.writeHomes (lineBytes x.line x.bytes)) s

theorem State.lineUp_writeLines {line : Nat} (out : List Committed) : ∀ s : State, s.lineUp line →
    (s.writeLines out).lineUp line ∧ ∀ a, (s.writeLines out).served a = s.served a := by
  unfold State.writeLines
  induction out with
  | nil => exact fun _ up => ⟨up, fun _ => rfl⟩
  | cons x out ih =>
    intro s up
    obtain ⟨hup, hserved⟩ := ih _ (State.lineUp_writeHomes up (lineBytes x.line x.bytes))
    exact ⟨hup, fun a => (hserved a).trans (s.served_writeHomes _ a)⟩

section
variable {line : Nat} {out : List Committed} (ofLine : ∀ x ∈ out, x.line = line) (inside : ∀ x ∈ out, ∀ p ∈ x.bytes, p.1 < 128)
include ofLine inside

/-- Entries of a line that a link leads to are written out, and nothing is lost. -/
theorem State.foldl_writeOut_lineUp (lost : List Lost) : ∀ s : State, s.lineUp line →
    out.foldl (fun (r : List Lost × State) x =>
      let (lost, s) := r.2.writeOut (lineBytes x.line x.bytes)
      (r.1 ++ lostOf x.job lost, s)) (lost, s) = (lost, s.writeLines out) := by
  induction out with
  | nil => exact fun _ _ => rfl
  | cons x out ih =>
    intro s up
    have hx : x.line = line := ofLine x List.mem_cons_self
    have hwrite : s.writeOut (lineBytes x.line x.bytes) = ([], s.writeHomes (lineBytes x.line x.bytes)) :=
      State.writeOut_lineUp (hx ▸ up) (inside x List.mem_cons_self)
    have hlost : lost ++ lostOf x.job [] = lost := List.append_nil lost
    rw [List.foldl_cons]
    simp only [hwrite, hlost]
    exact ih (fun y hy => ofLine y (List.mem_cons_of_mem _ hy)) (fun y hy => inside y (List.mem_cons_of_mem _ hy)) _
      (State.lineUp_writeHomes up _)

/-- The last of the entries decides each byte of the line; no other address changes. -/
theorem State.home_writeLines {s : State} (up : s.lineUp line) :
    (∀ k, k < 128 → (s.writeLines out).home (line * 128 + k) =
      (firstSome out.reverse fun x => lastOf x.bytes k).getD (s.home (line * 128 + k))) ∧
    ∀ a, (∀ k, k < 128 → s.served a ≠ s.served (line * 128) + k) → (s.writeLines out).home a = s.home a := by
  induction out using List.reverseRecOn with
  | nil => exact ⟨fun _ _ => rfl, fun _ _ => rfl⟩
  | append_singleton out x ih =>
    have hx : x.line = line := ofLine x (by simp)
    have hin : ∀ p ∈ x.bytes, p.1 < 128 := inside x (by simp)
    obtain ⟨hup, hserved⟩ := State.lineUp_writeLines out s up
    obtain ⟨hline, hother⟩ := ih (fun y hy => ofLine y (List.mem_append_left _ hy))
      fun y hy => inside y (List.mem_append_left _ hy)
    have hconcat : s.writeLines (out ++ [x]) = (s.writeLines out).writeHomes (lineBytes line x.bytes) := by
      rw [State.writeLines, List.foldl_concat, hx]
      rfl
    rw [hconcat, List.reverse_concat]
    refine ⟨fun k hk => ?_, fun a ha => ?_⟩
    · rw [State.home_writeLine hup hin hk, hline k hk, firstSome]
      cases lastOf x.bytes k <;> rfl
    · rw [State.home_writeLine_ne hup hin (fun k hk => by rw [hserved, hserved]; exact ha k hk), hother a ha]

end

/-- The entries of a core's commit buffer that a drain of entry `e` brings home: those of its line up to its number. -/
def drainedWith (e : Committed) (n : Nat) (x : Committed) : Bool := x.line == e.line && decide (x.number ≤ n)

theorem line_of_drainedWith {e x : Committed} {n : Nat} {l : List Committed} (h : x ∈ l.filter (drainedWith e n)) :
    x.line = e.line := by
  have hx := (List.mem_filter.1 h).2
  rw [drainedWith, Bool.and_eq_true, beq_iff_eq] at hx
  exact hx.1

/-- The state in which the entries that a drain brings home have left their buffer: the late writes within whose scope the core
is have landed (R134), and the cached copies of the line have gone. -/
def State.emptied (s : State) (core n : Nat) (e : Committed) : State :=
  ((s.landOn core).onCore core fun c => { c with commit := c.commit.filter fun x => !drainedWith e n x }).dropLine core e.line

theorem State.commit_emptied (s : State) (core n : Nat) (e : Committed) :
    ((s.emptied core n e).core core).commit = (s.core core).commit.filter fun x => !drainedWith e n x := by
  rw [State.emptied, State.core_dropLine, State.core_onCore, State.core_landOn]

theorem State.home_emptied (s : State) (core n : Nat) (e : Committed) (a : Nat) :
    (s.emptied core n e).home a = (s.landOn core).home a :=
  (State.home_dropLine ..).trans (State.home_onCore ..)

theorem State.route_emptied (s : State) (core n : Nat) (e : Committed) (a : Nat) :
    (s.emptied core n e).served a = (s.landOn core).served a ∧ (s.emptied core n e).routeDown a = (s.landOn core).routeDown a :=
  ⟨((State.route_dropLine ..).1).trans (State.route_onCore ..).1, ((State.route_dropLine ..).2).trans (State.route_onCore ..).2⟩

theorem State.core_writeLines (out : List Committed) (core : Nat) : ∀ s : State, (s.writeLines out).core core = s.core core := by
  unfold State.writeLines
  induction out with
  | nil => exact fun _ => rfl
  | cons x out ih => exact fun s => (ih _).trans (s.core_writeHomes _ core)

section
variable {s : State} {core n : Nat} {e : Committed}
  (found : (s.core core).commit.find? (fun x => x.number == n) = some e)
include found

theorem State.drainEntry_found : s.drainEntry core n = ((s.core core).commit.filter (drainedWith e n)).foldl (fun (r : List Lost × State) x =>
      let (lost, s) := r.2.writeOut (lineBytes x.line x.bytes)
      (r.1 ++ lostOf x.job lost, s)) ([], s.emptied core n e) := by
  rw [← s.core_landOn core core] at found ⊢
  unfold State.drainEntry
  dsimp only
  rw [found]
  rfl

/-- A drain brings an entry home after the older ones of its line. -/
theorem exec_releaseDrainComplete_found (up : (s.emptied core n e).lineUp e.line)
    (inside : ∀ x ∈ (s.core core).commit.filter (drainedWith e n), ∀ p ∈ x.bytes, p.1 < 128) :
    exec (.releaseDrainComplete core n) s = .next
      ((s.emptied core n e).writeLines ((s.core core).commit.filter (drainedWith e n))) := by
  have hdrain := (State.drainEntry_found found).trans
    (State.foldl_writeOut_lineUp (fun _ => line_of_drainedWith) inside [] _ up)
  change Host.Outcome.next ((s.drainEntry core n).2.reportLost (s.drainEntry core n).1) = _
  rw [hdrain]
  rfl

end

/-- Settles O33. A commit near its core goes to the commit buffer and a wider one to its homes, where a drained line goes entry
by entry. -/
theorem committedStores : Obligations.CommittedStores := by
  refine ⟨fun s core job wave line va scope bytes inside => ⟨?lacks, fun hnear => ⟨?keeps, fun k hk b hb => ?newest⟩,
    fun hwide up alone k hk => ?homes⟩, fun s core n e found up inside => ?drains⟩
  case lacks => exact s.lacks_commitEntry ⟨core, job, wave⟩ line va bytes
  case keeps =>
    rw [s.commitEntry_near ⟨core, job, wave⟩ line va bytes hnear]
    exact fun a => (State.home_onCore ..).trans (s.home_dropLine core line a)
  case newest =>
    rw [s.commitEntry_near ⟨core, job, wave⟩ line va bytes hnear]
    have hcore := (s.dropLine core line).core_commitBytes ⟨core, job, wave⟩ line va bytes
    dsimp only at hcore ⊢
    rw [hcore]
    exact committedByte_concat (e := (s.dropLine core line).newCommit ⟨core, job, wave⟩ line va bytes) hk hb
  case homes => exact s.home_commitEntry_wide ⟨core, job, wave⟩ line va bytes hwide up inside alone hk
  case drains =>
    have hup : (s.emptied core n e).lineUp e.line := fun k hk => by
      rw [(s.route_emptied ..).1, (s.route_emptied ..).1, (s.route_emptied ..).2]; exact up k hk
    obtain ⟨hline, hother⟩ := State.home_writeLines (fun _ => line_of_drainedWith) inside hup
    simp only [State.home_emptied, (State.route_emptied ..).1] at hline hother
    exact ⟨_, exec_releaseDrainComplete_found found hup inside,
      (congrArg CoreState.commit (State.core_writeLines _ core _)).trans (s.commit_emptied core n e), hline, hother⟩

end Sys2Proof.Machine
end

section
/-! SUPPORT. Barriers (R236, R237), and BINIT, BARV, BSYNC and BWAIT (R236 to R238, R392). -/
namespace Sys2Proof.Machine

/-! ### One barrier -/

/-- An arrival that makes ARR equal to EXP completes the phase (R237). -/
theorem Barrier.arrive_last {x : Barrier} {n : Nat} (hn : n ≠ 0) (hlast : x.arr + n = x.exp)
    (who : Option (Nat × Nat × Nat)) :
    x.arrive n who = Barrier.complete { x with arr := x.arr + n, arrivals := x.arrivals ++ who.toList } :=
  if_pos ⟨hn, hlast⟩

theorem Barrier.arrive_more {x : Barrier} {n : Nat} (h : n = 0 ∨ x.arr + n ≠ x.exp) (who : Option (Nat × Nat × Nat)) :
    x.arrive n who = { x with arr := x.arr + n, arrivals := x.arrivals ++ who.toList } :=
  if_neg fun ⟨hn, hlast⟩ => h.elim hn fun hne => hne hlast

theorem Barrier.init_idle {x : Barrier} (h : x.arr = 0) (n : Nat) (cl : Bool) :
    x.init n cl = { x with exp := n, cl := cl, pending := none } := if_pos h

theorem Barrier.init_pending {x : Barrier} (h : x.arr ≠ 0) (n : Nat) (cl : Bool) :
    x.init n cl = { x with pending := some (n, cl) } := if_neg h

/-- BINIT leaves the arrivals and the phase (R236). -/
theorem Barrier.init_keeps (x : Barrier) (n : Nat) (cl : Bool) : (x.init n cl).arr = x.arr ∧ (x.init n cl).ph = x.ph := by
  unfold Barrier.init
  split <;> exact ⟨rfl, rfl⟩

theorem Barrier.not_done_current (x : Barrier) : x.done x.ph.toNat = false := by
  have hlast : (x.ph - BitVec.ofNat 32 x.ph.toNat - 1).toNat = 2 ^ 32 - 1 := by
    rw [BitVec.ofNat_toNat, BitVec.setWidth_eq, BitVec.sub_self]
    rfl
  rw [Barrier.done, hlast]
  rfl

theorem Barrier.done_next (x : Barrier) : ({ x with ph := x.ph + 1 } : Barrier).done x.ph.toNat = true := by
  have hzero : (x.ph + 1 - BitVec.ofNat 32 x.ph.toNat - 1).toNat = 0 := by
    rw [BitVec.ofNat_toNat, BitVec.setWidth_eq]
    have h : x.ph + 1 - x.ph - 1 = 0 := by bv_omega
    rw [h]
    rfl
  rw [Barrier.done, hzero]
  rfl

/-! ### The range of a barrier -/

theorem barRange_beyond {c : Ctx} {o : OpS} (h : c.card.bars ≤ barOf o) (n : Nat) (act : List Nat) : barRange c o n act =
    some (.error 0x010C (barOf o + if barCl o then 1024 else 0) c.card.bars act) := if_pos h

/-! ### The words -/

section
variable {s s1 : State} {c : Ctx} {h : Hdr} {o : OpS} (bd : Boundary s c h [] [] s1)
include bd

/-- The count that BINIT sets (R236): a uniform register's, or its own. -/
def initCount (o : OpS) (c : Ctx) (v : State) : Nat :=
  if o.d.getLsbD 0 then (v.readU c.wave (uniField o.a)).toNat % 2 ^ 15 else slice o.imm.toNat 16 15

theorem exec_binit_ready (inRange : barRange c o (initCount o c s) (s.activeLanes c h.pg h.pn) = none) :
    exec (.binit h o) s = .next (retired (((begun s1 c).barBlocks c (barCl o) (s.activeLanes c h.pg h.pn)).foldl (fun v b =>
      v.onBarrier b (barOf o) fun x => x.init (initCount o c v) (barCl o)) (begun s1 c)) c h.s true [] []) :=
  congrArg Host.Outcome.next (State.issueBoundary_ready bd _ _ (congrArg (Option.map _) inRange))

theorem exec_bwait_waits (inRange : barRange c o 0 (s.activeLanes c h.pg h.pn) = none) :
    exec (.bwait h o) s = .next ((waiting (begun s1 c) c h.s true [] (.barrier
      (((begun s1 c).barBlocks c (barCl o) (s.activeLanes c h.pg h.pn)).map fun b =>
        (b, barOf o, ((begun s1 c).readU c.wave (uniField o.a)).toNat % 2 ^ 32)))).wakeCur State.wakeBarrier) :=
  congrArg (fun v => Host.Outcome.next (State.wakeCur v State.wakeBarrier))
    (State.issueBoundary_ready bd _ _ (congrArg (Option.map _) inRange))

theorem exec_bwait_beyond (beyond : c.card.bars ≤ barOf o) : exec (.bwait h o) s = .next ((s.programError c 0x010C
    (barOf o + if barCl o then 1024 else 0) c.card.bars (s.activeLanes c h.pg h.pn)).wakeCur State.wakeBarrier) :=
  congrArg (fun v => Host.Outcome.next (State.wakeCur v State.wakeBarrier))
    ((State.issueBoundary_stopped bd.ready bd.plain _ _ _ (congrArg (Option.map _) (barRange_beyond beyond 0 _))).trans
      (State.finish_trap ..))

end

/-! ### Arrivals -/

/-- The barriers and phases that a word's lanes arrive at. -/
def State.arrivalPhases (r : State) (o : OpS) (bs : List Nat) : List (Nat × Nat × Nat) :=
  bs.map fun b => (b, barOf o, (r.barrier b (barOf o)).ph.toNat)

/-- An arrival's release, noted at the phases (R129). -/
def State.arrivalNoted (r : State) (c : Ctx) (o : OpS) (bs : List Nat) (sc : Nat) : State :=
  r.noteRelease c sc ((r.arrivalPhases o bs).map fun x => phaseCode x.1 x.2.1 x.2.2)

/-- The lanes' arrivals on their barriers (R237); a deterministic job remembers the wave (R54). -/
def State.arriveOn (r : State) (c : Ctx) (o : OpS) (act bs : List Nat) : State :=
  bs.foldl (fun v b => v.onBarrier b (barOf o) fun x => x.arrive (v.barLanes c (barCl o) act b).length
    (if c.det then some (c.wave.host, c.wave.wid, c.w) else none)) r

/-- The flags of the lanes whose arrivals have completed a phase. -/
def arrivalFlags (before after : State) (c : Ctx) (o : OpS) (act : List Nat) : List RegWrite :=
  act.map fun l => .pred l (o.d.toNat % 8) ((after.barrier (before.barBlock c (barCl o) l) (barOf o)).ph !=
    (before.barrier (before.barBlock c (barCl o) l) (barOf o)).ph)

/-- What BARV or BSYNC does once its release has been made, with the writes of its own. -/
def State.arrival (r : State) (c : Ctx) (o : OpS) (sync : Bool) (act bs : List Nat) (sc : Nat) (writes : List RegWrite) : Effect :=
  let before := r.arrivalNoted c o bs sc
  let after := before.arriveOn c o act bs
  let flags := arrivalFlags before after c o act
  if c.det then .wait after writes (.arriver (r.arrivalPhases o bs) (o.d.toNat % 8) act (barCl o) sync)
  else if sync then .wait after (writes ++ flags) (.barrier (r.arrivalPhases o bs))
  else .done after (writes ++ flags) []

section
variable {r before after : State} {c : Ctx} {o : OpS} {act bs : List Nat} {sc : Nat} (hbefore : r.arrivalNoted c o bs sc = before)
  (hafter : before.arriveOn c o act bs = after) (sync : Bool) (writes : List RegWrite)
include hbefore hafter

theorem State.arrival_free (hdet : c.det = false) : r.arrival c o sync act bs sc writes =
    if sync then .wait after (writes ++ arrivalFlags before after c o act) (.barrier (r.arrivalPhases o bs))
    else .done after (writes ++ arrivalFlags before after c o act) [] := by
  simp only [State.arrival, hdet, hbefore, hafter, Bool.false_eq_true, if_false]

theorem State.arrival_det (hdet : c.det = true) : r.arrival c o sync act bs sc writes =
    .wait after writes (.arriver (r.arrivalPhases o bs) (o.d.toNat % 8) act (barCl o) sync) := by
  simp only [State.arrival, hdet, hbefore, hafter, if_true]

end

/-- The phase that BARV writes at once where it asks for it (R237). -/
def phaseWrites (o : OpS) (r : State) (c : Ctx) (act : List Nat) : List RegWrite :=
  if o.a.getLsbD 7 then
    [.uni (uniField o.a) ((r.barrier (r.barBlock c (barCl o) (act.headD 0)) (barOf o)).ph.setWidth 64)]
  else []

theorem exec_barv (h : Hdr) (o : OpS) (s : State) :
    exec (.barv h o) s = .next ((s.issueArrival h o false (phaseWrites o)).wakeCur State.wakeBarrier) := rfl

theorem exec_bsync (h : Hdr) (o : OpS) (s : State) :
    exec (.bsync h o) s = .next ((s.issueArrival h o true fun _ _ _ => []).wakeCur State.wakeBarrier) := rfl

/-- The barriers' blocks, the scope and the objects of an arrival's release. -/
def State.arrivalBlocks (t : State) (c : Ctx) (o : OpS) (act : List Nat) : List Nat := t.barBlocks c (barCl o) act
def State.arrivalScope (t : State) (c : Ctx) (o : OpS) (act : List Nat) : Nat :=
  t.barScope c (t.arrivalBlocks c o act) (barOf o) act
def State.arrivalObjs (t : State) (c : Ctx) (o : OpS) (act : List Nat) : List Obj :=
  (t.arrivalBlocks c o act).map fun b => t.barObj c b (barOf o)

section
variable {s s1 : State} {c : Ctx} {h : Hdr} {o : OpS} (bd : Boundary s c h [] [] s1)
  (inRange : barRange c o 0 (s.activeLanes c h.pg h.pn) = none)
include bd inRange

/-- An arrival beyond EXP traps before anything is committed (R392). -/
theorem State.issueArrival_overrun {tr : Trap} (past : s.overrun c o (s.activeLanes c h.pg h.pn) = some tr) (sync : Bool)
    (p : State → Ctx → List Nat → List RegWrite) : s.issueArrival h o sync p = s.takeTrap c tr := by
  refine (State.issueBoundary_stopped bd.ready bd.plain _ _ (.trap s tr) ?_).trans (State.finish_trap ..)
  simp only [inRange, past, Option.map_some]

theorem State.issueArrival_drained {t r : State} (ht : begun s1 c = t)
    (hr : released t c (t.arrivalScope c o (s.activeLanes c h.pg h.pn)) (t.arrivalObjs c o (s.activeLanes c h.pg h.pn)) = r)
    (fits : s.overrun c o (s.activeLanes c h.pg h.pn) = none) (fits' : r.overrun c o (s.activeLanes c h.pg h.pn) = none)
    (hdrained : Drained t c (t.arrivalScope c o (s.activeLanes c h.pg h.pn)) (t.arrivalObjs c o (s.activeLanes c h.pg h.pn)))
    (sync : Bool) (p : State → Ctx → List Nat → List RegWrite) :
    s.issueArrival h o sync p = State.finish c h.s true (r.arrival c o sync (s.activeLanes c h.pg h.pn)
      (t.arrivalBlocks c o (s.activeLanes c h.pg h.pn)) (t.arrivalScope c o (s.activeLanes c h.pg h.pn))
      (p r c (s.activeLanes c h.pg h.pn))) := by
  refine (State.issueBoundary_ready bd _ _ ?_).trans (congrArg (State.finish c h.s true) ?_)
  · simp only [inRange, fits, Option.map_none]
  · rw [ht]
    refine (State.releaseThen_drained hdrained _).trans ?_
    rw [hr]
    simp only [fits']
    rfl

end

/-- Settles O39. One barrier by its equations; BARV and BSYNC by what their arrivals come to, in a deterministic job and
outside. -/
theorem barriers : Obligations.Barriers := by
  refine ⟨⟨fun x n who => ⟨fun hn hlast => ?last, fun hmore => ?more⟩, fun x n cl => ⟨fun hidle => ?idle, fun hbusy => ?pending,
    x.init_keeps n cl⟩, fun x => ⟨x.not_done_current, x.done_next⟩⟩, fun s s1 c h o bd => ⟨exec_binit_ready bd,
    fun inRange fits fits' hdrained => ⟨fun hdet => ?free, fun hdet => ?det⟩, exec_bwait_waits bd,
    fun tr inRange past => ?overrun, exec_bwait_beyond bd⟩⟩
  case last => rw [Barrier.arrive_last hn hlast]; exact ⟨rfl, rfl, rfl, rfl⟩
  case more => rw [Barrier.arrive_more hmore]; exact ⟨rfl, rfl, rfl, rfl⟩
  case idle => rw [Barrier.init_idle hidle]; exact ⟨rfl, rfl, rfl⟩
  case pending => rw [Barrier.init_pending hbusy]; exact ⟨rfl, rfl, rfl⟩
  case overrun =>
    rw [exec_barv, exec_bsync, State.issueArrival_overrun bd inRange past, State.issueArrival_overrun bd inRange past]
    exact ⟨rfl, rfl⟩
  case free =>
    have harrives := State.issueArrival_drained bd inRange rfl rfl fits fits' hdrained
    rw [exec_barv, exec_bsync, harrives, harrives, State.arrival_free rfl rfl _ _ hdet, State.arrival_free rfl rfl _ _ hdet]
    exact ⟨rfl, rfl⟩
  case det =>
    have harrives := State.issueArrival_drained bd inRange rfl rfl fits fits' hdrained
    rw [exec_barv, exec_bsync, harrives, harrives, State.arrival_det rfl rfl _ _ hdet, State.arrival_det rfl rfl _ _ hdet]
    exact ⟨rfl, rfl⟩

end Sys2Proof.Machine
end

section
/-! SUPPORT. Pre-emption by discard and resumption (R39, R43, R48), late jobs (R315), held records (R317), stages (R324 to
R326). -/
namespace Sys2Proof.Machine

/-! ### Pre-emption -/

/-- The return of a pre-empted thief's entries changes nothing but the steals and the cores' queues (R321). -/
theorem State.cancelSteals_keeps {α : Type} {read : State → α} (hsteals : ∀ (s : State) (l : Tab Steal), read { s with steals := l } = read s)
    (hcore : ∀ (s : State) (k : Nat) (f : CoreState → CoreState), read (s.onCore k f) = read s) (s : State) (cores : List Nat) :
    read (s.cancelSteals cores) = read s := by
  unfold State.cancelSteals State.each
  generalize s.steals.filter _ = l
  induction l generalizing s with
  | nil => rfl
  | cons p l ih =>
    refine (ih _).trans ?_
    have hremoved := hsteals s (s.steals.remove p.1)
    dsimp only
    split
    · exact hremoved
    · split
      · exact hremoved
      · exact (hcore _ _ _).trans hremoved

section
variable (s : State) (cl : Nat)

theorem State.waves_preempt :
    (s.preempt cl).waves = s.waves.mapVals fun w => if w.cluster = cl then w.drop else w :=
  congrArg (fun t : Tab Wave => t.mapVals fun w => if w.cluster = cl then w.drop else w)
    (State.cancelSteals_keeps (read := State.waves) (fun _ _ => rfl) (fun _ _ _ => rfl) s _)

/-- The life that a pre-emption gives a cluster: a halt outlives it (R43). -/
def Cluster.preempted (c : Cluster) : Cluster :=
  { c with life := .preempted (match c.life with | .halted h => some h | _ => none) }

theorem State.clusters_preempt : (s.preempt cl).clusters = s.clusters.modify cl Cluster.preempted :=
  congrArg (fun t : Tab Cluster => t.modify cl Cluster.preempted)
    (State.cancelSteals_keeps (read := State.clusters) (fun _ _ => rfl) (fun _ _ _ => rfl) s _)

theorem State.sameMemory_preempt : SameMemory s (s.preempt cl) := fun a =>
  State.cancelSteals_keeps (read := fun s => s.home a) (fun _ _ => rfl) (fun _ _ _ => rfl) s _

variable {s cl}

theorem State.cluster_preempt (h : (s.clusters.find cl).isSome = true) :
    (s.preempt cl).cluster cl = (s.cluster cl).preempted := by
  obtain ⟨c, hc⟩ := Option.isSome_iff_exists.1 h
  simp only [State.cluster, State.clusters_preempt, Tab.getD, Tab.find_modify, hc, if_true, Option.map_some,
    Option.getD_some]

/-- A pre-emption drops each wave of its cluster, and no other (R39). -/
theorem State.wave_preempt (k : Nat) : (s.preempt cl).wave k =
    if (s.wave k).cluster = cl ∧ (s.waves.find k).isSome = true then (s.wave k).drop else s.wave k := by
  simp only [State.wave, State.waves_preempt, Tab.getD, Tab.find_mapVals]
  obtain hk | ⟨w, hk⟩ := Option.eq_none_or_eq_some (s.waves.find k)
  · simp [hk]
  · simp [hk]

end

theorem Thread.drop_plain {t : Thread} (plain : t.txn = none) :
    t.drop = { t with pc := t.startPc, mt := t.startMt, handler := t.startH } := by
  simp [Thread.drop, plain]

/-- A wave that does not wait in a phase of R38 drops its live threads. -/
theorem Wave.thread_drop {w : Wave} {l : Nat} (moves : w.stays = false) (hl : l < w.threads.length)
    (live : (w.thread l).live = true) : w.drop.thread l = (w.thread l).drop := by
  have hthread : w.thread l = w.threads[l] := by simp [Wave.thread, hl]
  rw [hthread] at live ⊢
  simp [Wave.thread, Wave.drop, moves, hl, live]

/-- A dropped wave has no buffered store and no outstanding result, and does not wait (R39). -/
theorem Wave.drop_discards {w : Wave} (moves : w.stays = false) :
    w.drop.rsb = [] ∧ w.drop.results = [] ∧ w.drop.park = none := by
  simp [Wave.drop, moves]

theorem exec_growStallPreempt (core : Nat) (s : State) : exec (.growStallPreempt core) s =
    .next (match (s.growers core).getLast? with
      | some p => if (s.core core).idle + 1024 ≤ s.clk then (s.preempt p.2.cluster).grant core else s
      | none => s) := rfl

/-! ### Resumption -/

section
variable {s : State} {cl : Nat}

theorem State.resumeCluster_other (h : ∀ x, (s.cluster cl).life ≠ .preempted x) : s.resumeCluster cl = s := by
  unfold State.resumeCluster
  dsimp only
  split
  · next x hx => exact absurd hx (h x)
  · rfl

variable {h : Option Nat} (hlife : (s.cluster cl).life = .preempted h)
include hlife

theorem State.resumeCluster_noPlace (hplace : s.resumeAt cl = none) : s.resumeCluster cl = s := by
  simp [State.resumeCluster, hlife, hplace]

theorem State.resumeCluster_place {cores : List Nat} (hplace : s.resumeAt cl = some cores) (hcwait : s.inCwait cl = false) :
    s.resumeCluster cl = s.resumeOn cl cores := by
  simp [State.resumeCluster, hlife, hplace, hcwait]

end

/-! ### Late jobs and held records -/

/-- A deadline is passed where the time counter's distance from it is positive as a signed number (R315). -/
theorem passed_iff (t : Word) (d : BitVec 48) : passed t d = true ↔ 1 ≤ (t.setWidth 48 - d : BitVec 48).toInt := by
  have hlt := (t.setWidth 48 - d : BitVec 48).isLt
  simp only [passed, decide_eq_true_eq, BitVec.toInt_eq_toNat_cond]
  split <;> omega

section
variable {s : State} {j : Nat}

theorem exec_jobLate (j : Nat) (s : State) : exec (.jobLate j) s =
    .next (if (s.job j).phase.active && !s.recordsStall then s.noteLate j else s) := rfl

theorem State.noteLate_silent (h : (s.job j).late = true ∨ (s.job j).card.deadline = none) : s.noteLate j = s := by
  unfold State.noteLate
  dsimp only
  rcases h with hlate | hnone
  · split
    · simp [hlate]
    · rfl
  · rw [hnone]

theorem State.noteLate_due {d : BitVec 48} (hd : (s.job j).card.deadline = some d) (hlate : (s.job j).late = false) :
    s.noteLate j = if passed s.time d then (s.onJob j fun x => { x with late := true }).jobRecord
      (s.job j).asid (s.job j).card.addr (s.job j).card.sq 2 d.toNat 0 else s := by
  simp [State.noteLate, hd, hlate]

theorem exec_recordRetry (k : Nat) (s : State) : exec (.recordRetry k) s = .next (s.retryRecord k) := rfl

/-- A held record whose turn it is leaves the scheduler once its queue takes it (R317). -/
theorem State.retryRecord_first {u : State} {k n : Nat} {h : Held} {q : Requester} {es : List Nat} (hk : s.held[k]? = some h)
    (hq : s.scheduler h.asid h.die = some q) (first : ∀ x ∈ s.held.take k, x.asid = h.asid → x.queue ≠ h.queue)
    (home : h.after.any s.storeHeld = false)
    (hdone : s.enqueue (.virtual q) h.queue.toNat (fun lgsz => if lgsz = h.size then some [h.bits] else none) =
      (.done n es, u)) :
    s.retryRecord k = if n = 0 then u else { u with held := u.held.take k ++ u.held.drop (k + 1) } := by
  have hfirst : ((s.held.take k).any fun x => x.asid == h.asid && x.queue == h.queue) = false := by
    simpa [List.any_eq_false] using first
  unfold State.retryRecord
  simp only [hk, hfirst, home, hq, hdone, Bool.or_self, Bool.false_eq_true, if_false]
  cases n <;> rfl

end

/-! ### Stages -/

section
variable {s : State} {core j : Nat}

theorem State.governAt_single {u : State} {l : List Nat}
    (hjobs : (s.jobs.filter fun p => p.2.phase == .ready && p.2.begun && !p.2.stages.isEmpty).map Prod.fst = [j])
    (hdepths : s.depths j = (some l, u)) :
    s.governAt core = u.onCore core fun y => { y with roles := y.roles.insert j (u.govern core j l) } := by
  simp [State.governAt, State.each, hjobs, hdepths]

/-- The core takes a role in a staged job. -/
def State.takeRole (s : State) (core j : Nat) : State :=
  s.onCore core fun y => { y with roles := y.roles.insert j (s.role core j) }

/-- A stage of a job changed. -/
def State.onStage (s : State) (j k : Nat) (f : Stage → Stage) : State :=
  s.onJob j fun x => { x with stages := x.stages.mapIdx fun i y => if i = k then f y else y }

/-- What an entry of a stage's queue does: the marker ends the input, another starts a task (R324, R326). -/
def State.takeEntry (s : State) (j k a : Nat) (g : Stage) (seat : Seat) : State :=
  if a = 0 then s.onStage j k fun y => { y with marked := true }
  else ((s.onStage j k fun y => { y with taken := y.taken + 1 }).startCluster j (4 * g.taken + k) (BitVec.ofNat 64 a) g.entry
    seat.cores none (some k)).2

theorem State.stageTake_entry {v : State} {k a n : Nat} {es : List Nat} {g : Stage} {seat : Seat} {q : Requester}
    (hq : s.scheduler (s.job j).asid = some q)
    (hdone : s.dequeue (.virtual q) g.iq.toNat 1 (· == 3) = (.done n (a :: es), v)) :
    s.stageTake j k g seat = v.takeEntry j k a g seat := by
  unfold State.stageTake
  dsimp only
  rw [hq]
  dsimp only
  rw [hdone]
  cases a <;> rfl

theorem State.stageSeat_own {seat : Seat} (hseat : s.seat (s.job j).card 0 core = some seat) :
    s.stageSeat core j = (some seat, s) := by
  simp [State.stageSeat, hseat]

/-- A core that is not gated, with no task that goes before the job's (R324). -/
structure State.StageTurn (s : State) (core j : Nat) : Prop where
  inRange : core < 160
  ready : (s.job j).phase = .ready
  awake : (s.core core).gated = false
  unblocked : s.blockedByRecords (s.job j) = false
  noStall : s.recordsStall = false
  lowest : s.lowerRequests core = false
  noOffer : ∀ o ∈ s.offers core, s.edfKey (s.job j) ≤ o.key
  noStage : s.stagedBefore core (s.edfKey (s.job j)) false = false

theorem exec_stageDispatch_idle (h : (s.job j).phase ≠ .ready ∨ (s.job j).stages = [] ∨ (s.core core).gated = true) :
    exec (.stageDispatch core j) s = .next s := by
  refine congrArg Host.Outcome.next ?_
  split
  · rfl
  · next hnot =>
    simp only [not_or] at hnot
    obtain ⟨-, hready, hawake, -⟩ := hnot
    have hstages : (s.job j).stages = [] := (h.resolve_left hready).resolve_right hawake
    simp [hstages]

theorem exec_stageDispatch_turn {g : Stage} (turn : s.StageTurn core j)
    (hg : (s.job j).stages[s.role core j]? = some g) (unmarked : g.marked = false) :
    exec (.stageDispatch core j) s = .next (match (s.takeRole core j).stageSeat core j with
      | (some seat, t) => t.stageTake j (s.role core j) g seat
      | (none, t) => t) := by
  obtain ⟨inRange, ready, awake, unblocked, noStall, lowest, noOffer, noStage⟩ := turn
  have hoffer : ((s.offers core).any fun o => decide (o.key < s.edfKey (s.job j))) = false := by
    simpa [List.any_eq_false] using noOffer
  refine congrArg Host.Outcome.next ?_
  dsimp only
  rw [if_neg (by simp [ready, awake, unblocked, noStall, lowest]; omega), hg]
  dsimp only
  rw [if_neg (by simp [unmarked, hoffer, noStage])]
  rfl

theorem exec_stageDispatch_takes {v : State} {a n : Nat} {es : List Nat} {g : Stage} {seat : Seat} {q : Requester}
    (turn : s.StageTurn core j) (hg : (s.job j).stages[s.role core j]? = some g) (unmarked : g.marked = false)
    (hseat : (s.takeRole core j).seat (s.job j).card 0 core = some seat)
    (hq : (s.takeRole core j).scheduler ((s.takeRole core j).job j).asid = some q)
    (hdone : (s.takeRole core j).dequeue (.virtual q) g.iq.toNat 1 (· == 3) = (.done n (a :: es), v)) :
    exec (.stageDispatch core j) s = .next (v.takeEntry j (s.role core j) a g seat) := by
  rw [exec_stageDispatch_turn turn hg unmarked, State.stageSeat_own hseat]
  exact congrArg Host.Outcome.next (State.stageTake_entry hq hdone)

end

/-- Settles O53: pre-emption and resumption, then late jobs, held records and stages, each by the lemma about it above. -/
theorem preemptionAndRecords : Obligations.PreemptionAndRecords := by
  refine ⟨⟨?preempt, ?drop, ?noGrower, ?grower, ?notPreempted, ?resume⟩, ?due, ?silent, passed_iff, ?retry, ?noRecord,
    fun s core j => exec_stageDispatch_idle, fun s u core j l => State.governAt_single, ?stage⟩
  case preempt =>
    intro s cl found
    rw [State.cluster_preempt found]
    refine ⟨fun h => ?_, fun x h => ?_, State.wave_preempt, s.sameMemory_preempt cl⟩
    · simp [Cluster.preempted, h]
    · simp [Cluster.preempted, h]
  case drop =>
    intro w l moves hl live plain
    dsimp only
    rw [Wave.thread_drop moves hl live, Thread.drop_plain plain]
    exact ⟨rfl, rfl, rfl, rfl, Wave.drop_discards moves⟩
  case noGrower =>
    intro s core h
    rw [exec_growStallPreempt, h]
    rfl
  case grower =>
    intro s core p hp
    rw [exec_growStallPreempt, hp]
    dsimp only
    exact ⟨fun early => by rw [if_neg (by omega)], fun due => by rw [if_pos due]⟩
  case notPreempted =>
    exact fun s cl h => congrArg Host.Outcome.next (State.resumeCluster_other h)
  case resume =>
    exact fun s cl h hlife => ⟨fun hplace => congrArg Host.Outcome.next (State.resumeCluster_noPlace hlife hplace),
      fun cores hplace hcwait => congrArg Host.Outcome.next (State.resumeCluster_place hlife hplace hcwait)⟩
  case due =>
    intro s j d hd active hlate noStall
    rw [exec_jobLate, State.noteLate_due hd hlate]
    simp only [active, noStall, Bool.not_false, Bool.and_self, if_true]
    exact ⟨fun h => by rw [if_pos h], fun h => by rw [if_neg (by simp [h])]⟩
  case silent =>
    intro s j h
    rw [exec_jobLate, State.noteLate_silent h, ite_self]
  case retry =>
    exact fun s u k n h q es hk hq first home hdone => congrArg Host.Outcome.next
      (State.retryRecord_first hk hq first home hdone)
  case noRecord =>
    intro s k h
    rw [exec_recordRetry, State.retryRecord, h]
  case stage =>
    intro s v core j a n es g seat q x k t inRange ready awake unblocked noStall lowest hg unmarked noOffer noStage hseat
      hq hdone
    have hexec := exec_stageDispatch_takes ⟨inRange, ready, awake, unblocked, noStall, lowest, noOffer, noStage⟩ hg
      unmarked hseat hq hdone
    rw [hexec]
    exact ⟨fun ha => congrArg Host.Outcome.next (if_pos ha), fun ha => congrArg Host.Outcome.next (if_neg ha)⟩

end Sys2Proof.Machine
end

section
/-! SUPPORT. The intake of job queues and the acceptance of jobs (R103, R309, R311), dealing (R318), dispatch (R319, R322). -/
namespace Sys2Proof.Machine

/-! ### Intake -/

section
variable {s u v : State} {q : Nat}

theorem exec_jobAccept (q : Nat) (s : State) : exec (.jobAccept q) s =
    .next (if s.bootReady ∧ s.jobsHeld < 4096 then s.intake q s.roundOrder else s).examineTaken := rfl

theorem State.examineTaken_none (h : s.taken = []) : s.examineTaken = s := by
  rw [State.examineTaken, h]
  rfl

/-- The first queue of the round that holds an entry gives it where it is the one that is asked (R311). -/
theorem State.intake_first (rest : List Nat) (h : s.queueWaits q = (true, u)) : s.intake q (q :: rest) = u.takeFrom q := by
  rw [State.intake, h]
  exact if_pos rfl

/-- An entry of a job queue as the scheduler keeps it (R310). -/
def State.takenEntry (s u : State) (q x : Nat) : Taken :=
  { card := BitVec.ofNat 64 (slice x 0 64), order := u.nextId, asid := BitVec.ofNat 14 (slice x 64 14)
    priv := (s.queueEntry q).testBit 79 }

theorem State.takeFrom_done {x n : Nat} {es : List Nat} {r : Requester} (hr : s.queueRequester q = some r)
    (hdone : s.dequeue (.virtual r) (slice (s.queueEntry q) 0 64) 1 (· == 4) = (.done n (x :: es), u)) :
    s.takeFrom q = { u with
      nextId := u.nextId + 1
      round := if q + 1 < u.queueCount then q + 1 else 0
      taken := u.taken ++ [s.takenEntry u q x] } := by
  unfold State.takeFrom
  rw [hr]
  dsimp only
  rw [hdone]
  rfl

/-! ### Acceptance -/

section
variable {t : Taken} {r : Requester} {n : Nat} {i : CardImage}

theorem State.examineCard_noSpace (h : s.scheduler t.asid = none) : s.examineCard t =
    (none, s.rejectCard t none 0x0211 t.asid.toNat (s.descriptorBits t.asid).toNat) := by
  rw [State.examineCard, h]

variable (virtual : t.phys = false) (plain : t.regen = none) (hr : s.scheduler t.asid = some r)
  (hcard : s.schedRead r t.card.toNat 256 = (.ok (some n), u)) (hparts : u.readParts r n = (.ok i, v))
include virtual plain hr hcard hparts

/-- A card that could be read is rejected for the condition of R309 that it meets, or admitted. -/
theorem State.examineCard_read : s.examineCard t = (none, match i.failed t.card.toNat t.priv with
    | some k => v.rejectCard t (some (i.parse t.card)) 0x0210 k 0
    | none => v.admitJob t r i) := by
  have hread : s.readCard t r = (.ok (some n), u) := by simp [State.readCard, virtual, hcard]
  have hregen : ¬ (t.regen.isSome = true ∧ (i.parse t.card).rsize ≠ 16) := by simp [plain]
  rw [State.examineCard, hr]
  dsimp only
  rw [hread]
  dsimp only
  rw [hparts]
  dsimp only
  rw [if_neg hregen]
  cases i.failed t.card.toNat t.priv with
  | none => rfl
  | some k => rfl

end

/-- An admitted job stands in the table under its number, as its card says (R312). -/
theorem State.job_admitJob {t : Taken} (plain : t.regen = none) (r : Requester) (i : CardImage) :
    ∃ step, (v.admitJob t r i).job v.nextId =
      { card := i.parse t.card, asid := t.asid, root := r.root, regt := r.regt, order := t.order
        next := 0, limit := (i.parse t.card).rcount, bindings := i.bindings
        changes := i.bindings.map fun b => { id := 0, add := true, binding := b }
        stages := i.stages, regen := t.regen, step := step } := by
  unfold State.admitJob State.fresh
  simp only [plain]
  split <;> simp only [State.job, Tab.getD, Tab.find_insert, if_true, Option.getD_some] <;> exact ⟨_, rfl⟩

end

/-! ### Dealing -/

/-- What dealing does for one of `n` cores (R318). -/
def State.dealTo (n j : Nat) (s : State) (c : Nat) : State :=
  let x := s.job j
  if x.undealt = 0 ∨ 4 ≤ (s.core c).queue.length then s
  else
    let count := max 1 ((x.undealt + 2 * n - 1) / (2 * n))
    (s.onCore c fun k => { k with queue := k.queue ++ [{ job := j, first := x.next, count := count }] }).onJob j fun x =>
      { x with next := x.next + count }

/-- The entry of the first ready job that has records to deal, in EDF order (R318). -/
def State.dealtJob (s : State) : Option (Nat × Job) :=
  s.readyJobs.find? fun p => !p.2.card.det && p.2.stages.isEmpty && decide (0 < p.2.undealt)

theorem exec_deal (s : State) : exec .deal s = .next (if s.recordsStall then s else s.deal) := rfl

theorem State.deal_none {s : State} (h : s.dealtJob = none) : s.deal = s := by
  unfold State.dealtJob at h
  rw [State.deal, h]

theorem State.deal_some {s : State} {p : Nat × Job} (h : s.dealtJob = some p) :
    s.deal = s.awake.foldl (State.dealTo s.awake.length p.1) s := by
  unfold State.dealtJob at h
  rw [State.deal, h]
  rfl

/-- A chunk for a core leaves work for no more than all that is left (R318). -/
theorem chunk_le {left n : Nat} (hn : 0 < n) (hleft : left ≠ 0) : max 1 ((left + 2 * n - 1) / (2 * n)) ≤ left := by
  obtain ⟨k, rfl⟩ := Nat.exists_eq_add_one_of_ne_zero hleft
  have hmul : k ≤ 2 * n * k := Nat.le_mul_of_pos_left k (by omega)
  have hdiv : (k + 1 + 2 * n - 1) / (2 * n) ≤ k + 1 := Nat.div_le_of_le_mul (by rw [Nat.mul_add]; omega)
  omega

section
variable {s u : State} {j c : Nat}

/-- What dealing may add to a core's queue: a chunk of records of the job that are not dealt. -/
structure State.Chunks (s : State) (j c : Nat) (more : List Chunk) : Prop where
  single : more.length ≤ 1
  room : 4 ≤ (s.core c).queue.length → more = []
  part : ∀ e ∈ more, 1 ≤ e.count ∧ e.lent = false ∧ (s.job j).next ≤ e.first ∧ e.first + e.count ≤ (s.job j).limit ∧ e.job = j

theorem State.Chunks.nil : s.Chunks j c [] := ⟨Nat.zero_le 1, fun _ => rfl, by simp⟩

/-- `u` is `s` after dealing to the cores `seen`. -/
structure State.Dealt (s u : State) (j : Nat) (seen : List Nat) : Prop where
  limit : (u.job j).limit = (s.job j).limit
  next : (s.job j).next ≤ (u.job j).next
  queue : ∀ c, ∃ more, (u.core c).queue = (s.core c).queue ++ more ∧ s.Chunks j c more ∧ (c ∉ seen → more = [])

theorem State.Dealt.refl (s : State) (j : Nat) : s.Dealt s j [] :=
  ⟨rfl, Nat.le_refl _, fun _ => ⟨[], (List.append_nil _).symm, .nil, fun _ => rfl⟩⟩

theorem State.core_onCore_ne {d : Nat} (hne : d ≠ c) (f : CoreState → CoreState) : (s.onCore c f).core d = s.core d := by
  simp [State.onCore, State.setCore, State.core, Tab.getD_put, hne]

theorem State.core_onJob (s : State) (j c : Nat) (f : Job → Job) : (s.onJob j f).core c = s.core c := rfl

/-- A job of the table changes as the change says; one that is not there stays. -/
theorem State.job_onJob_or (s : State) (j : Nat) (f : Job → Job) :
    (s.onJob j f).job j = f (s.job j) ∨ (s.onJob j f).job j = s.job j := by
  obtain hnone | ⟨x, hx⟩ := Option.eq_none_or_eq_some (s.jobs.find j)
  · exact .inr (by simp [State.job, Tab.getD, Tab.find_modify, hnone])
  · exact .inl (State.job_onJob (by simp [hx]) f)

theorem State.dealTo_limit (n : Nat) : ((u.dealTo n j c).job j).limit = (u.job j).limit := by
  unfold State.dealTo
  dsimp only
  split
  · rfl
  · rcases State.job_onJob_or (u.onCore c _) j _ with h | h <;> rw [h] <;> rfl

theorem State.dealTo_next (n : Nat) : (u.job j).next ≤ ((u.dealTo n j c).job j).next := by
  unfold State.dealTo
  dsimp only
  split
  · exact Nat.le_refl _
  · rcases State.job_onJob_or (u.onCore c _) j _ with h | h <;> rw [h]
    · exact Nat.le_add_right _ _
    · exact Nat.le_refl _

theorem State.dealTo_other {n d : Nat} (hne : d ≠ c) : (u.dealTo n j c).core d = u.core d := by
  unfold State.dealTo
  dsimp only
  split
  · rfl
  · rw [State.core_onJob, State.core_onCore_ne hne]

/-- The core gets no entry, or one chunk of what is left of the job. -/
theorem State.dealTo_queue {n : Nat} (hn : 0 < n) : ∃ more, ((u.dealTo n j c).core c).queue = (u.core c).queue ++ more ∧
    u.Chunks j c more := by
  unfold State.dealTo
  dsimp only
  split
  · exact ⟨[], (List.append_nil _).symm, .nil⟩
  · next hroom =>
    obtain ⟨hleft, hlen⟩ := not_or.1 hroom
    refine ⟨[_], by rw [State.core_onJob, State.core_onCore], Nat.le_refl 1, fun h => absurd h hlen, fun e he => ?_⟩
    obtain rfl := List.mem_singleton.1 he
    have hcount := chunk_le hn hleft
    refine ⟨Nat.le_max_left .., rfl, Nat.le_refl _, ?_, rfl⟩
    dsimp only
    unfold Job.undealt at hleft hcount ⊢
    omega

/-- Dealing to one more core. -/
theorem State.Dealt.dealTo {seen : List Nat} {n : Nat} (hn : 0 < n) (h : s.Dealt u j seen) (hc : c ∉ seen) :
    s.Dealt (u.dealTo n j c) j (c :: seen) := by
  refine ⟨(State.dealTo_limit n).trans h.limit, h.next.trans (State.dealTo_next n), fun d => ?_⟩
  obtain ⟨more, hqueue, hmore, hunseen⟩ := h.queue d
  by_cases hd : d = c
  · subst hd
    obtain ⟨added, hadded, hchunks⟩ := State.dealTo_queue (u := u) (j := j) (c := d) hn
    rw [hunseen hc, List.append_nil] at hqueue
    refine ⟨added, hqueue ▸ hadded, ⟨hchunks.single, hqueue ▸ hchunks.room, fun e he => ?_⟩, fun hnot => absurd (List.mem_cons_self) hnot⟩
    obtain ⟨hcount, hlent, hfirst, hlast, hjob⟩ := hchunks.part e he
    exact ⟨hcount, hlent, h.next.trans hfirst, h.limit ▸ hlast, hjob⟩
  · exact ⟨more, by rw [State.dealTo_other hd, hqueue], hmore, fun hnot => hunseen fun hmem => hnot (List.mem_cons_of_mem _ hmem)⟩

theorem State.Dealt.foldl {n : Nat} (hn : 0 < n) (cores : List Nat) (nodup : cores.Nodup) : ∀ {u : State} {seen : List Nat},
    s.Dealt u j seen → (∀ c ∈ cores, c ∉ seen) → ∃ all, s.Dealt (cores.foldl (State.dealTo n j) u) j all ∧
      ∀ c ∈ all, c ∈ seen ∨ c ∈ cores := by
  induction cores with
  | nil => exact fun h _ => ⟨_, h, fun _ hc => .inl hc⟩
  | cons c cores ih =>
    intro u seen h hfresh
    obtain ⟨hc, hnodup⟩ := List.nodup_cons.1 nodup
    obtain ⟨all, hall, hmem⟩ := ih hnodup (h.dealTo hn (hfresh c List.mem_cons_self)) fun d hd hseen =>
      (List.mem_cons.1 hseen).elim (fun heq => hc (heq ▸ hd)) (hfresh d (List.mem_cons_of_mem _ hd))
    refine ⟨all, hall, fun d hd => ?_⟩
    rcases hmem d hd with hseen | hlater
    · exact (List.mem_cons.1 hseen).elim (fun heq => .inr (heq ▸ List.mem_cons_self)) .inl
    · exact .inr (List.mem_cons_of_mem _ hlater)

theorem State.sameMemory_dealTo (n j : Nat) (s : State) (c : Nat) : SameMemory s (s.dealTo n j c) := fun a => by
  unfold State.dealTo
  dsimp only
  split
  · rfl
  · simp

/-- What a DEAL may add to a core's queue in a state. -/
def State.DealAdds (s : State) (c : Nat) (more : List Chunk) : Prop :=
  more.length ≤ 1 ∧ ((s.core c).gated = true ∨ 4 ≤ (s.core c).queue.length → more = []) ∧
    ∀ e ∈ more, 1 ≤ e.count ∧ e.lent = false ∧ (s.job e.job).next ≤ e.first ∧ e.first + e.count ≤ (s.job e.job).limit ∧
      s.dealtJob.map Prod.fst = some e.job

theorem State.DealAdds.nil : s.DealAdds c [] := ⟨Nat.zero_le 1, fun _ => rfl, by simp⟩

/-- DEAL gives each core that is not gated at most one chunk (R318). -/
theorem State.deal_queue (s : State) (c : Nat) :
    ∃ more, (s.deal.core c).queue = (s.core c).queue ++ more ∧ s.DealAdds c more := by
  cases hjob : s.dealtJob with
  | none => exact ⟨[], by rw [State.deal_none hjob, List.append_nil], .nil⟩
  | some p =>
    rw [State.deal_some hjob]
    by_cases hnone : s.awake = []
    · rw [hnone]
      exact ⟨[], (List.append_nil _).symm, .nil⟩
    · obtain ⟨all, hdealt, hawake⟩ := State.Dealt.foldl (List.length_pos_of_ne_nil hnone) s.awake
        (List.nodup_range.filter _) (.refl s p.1) fun _ _ => List.not_mem_nil
      obtain ⟨more, hqueue, hchunks, hunseen⟩ := hdealt.queue c
      refine ⟨more, hqueue, hchunks.single, fun hidle => hidle.elim (fun hgated => hunseen fun hc => ?_) hchunks.room,
        fun e he => ?_⟩
      · have hmem := (hawake c hc).resolve_left List.not_mem_nil
        simp [State.awake, hgated] at hmem
      · obtain ⟨hcount, hlent, hfirst, hlast, hsame⟩ := hchunks.part e he
        rw [hjob, hsame]
        exact ⟨hcount, hlent, hfirst, hlast, rfl⟩

theorem State.sameMemory_deal (s : State) : SameMemory s s.deal := by
  cases hjob : s.dealtJob with
  | none => exact (State.deal_none hjob).symm ▸ .refl s
  | some p => exact (State.deal_some hjob).symm ▸ SameMemory.foldl (State.sameMemory_dealTo _ _) _ s

end

/-! ### Dispatch -/

section
variable {s : State} {core : Nat} {o : Offer}

theorem exec_clusterDispatch (core : Nat) (s : State) : exec (.clusterDispatch core) s =
    .next (if 160 ≤ core || s.recordsStall || s.lowerRequests core then s
      else match firstSome (s.freeOffers core) fun o => (s.placeOffer core o).map fun r => (o, r) with
      | some (o, some x, s) => s.dispatch core o x
      | some (_, none, s) => s
      | none => s) := rfl

theorem exec_clusterDispatch_idle (h : s.offers core = [] ∨ 160 ≤ core) : exec (.clusterDispatch core) s = .next s := by
  rw [exec_clusterDispatch]
  rcases h with hnone | hcore
  · rw [State.freeOffers, hnone, List.filter_nil, firstSome, ite_self]
  · rw [if_pos (by simp [hcore])]

theorem exec_clusterDispatch_first {rest : List Offer} {x : Seat} (inRange : core < 160) (noStall : s.recordsStall = false)
    (lowest : s.lowerRequests core = false) (hoffers : s.freeOffers core = o :: rest) (hseat : s.seatFor core o = some x) :
    exec (.clusterDispatch core) s = .next (s.dispatch core o x) := by
  have hplace : s.placeOffer core o = some (some x, s) := by rw [State.placeOffer, hseat]
  rw [exec_clusterDispatch, if_neg (by simp [noStall, lowest]; omega), hoffers, firstSome, hplace]
  rfl

/-- A task that runs once starts as a cluster alone (R322). -/
theorem State.dispatch_once {x : Seat} (usable : (s.descriptor (s.job o.job).asid).isSome = true) (once : x.twin = none) :
    s.dispatch core o x = ((s.takeTask core o).startCluster o.job o.task ((s.job o.job).card.record o.task)
      (s.job o.job).card.entry x.cores none none).2 := by
  have hsome : ¬ (s.descriptor (s.job o.job).asid).isNone = true := by simp [Option.isSome_iff_ne_none.1 usable]
  obtain ⟨cores, twin⟩ := x
  subst once
  unfold State.dispatch
  refine (if_neg hsome).trans ?_
  -- a variable stands for the start, which comparing the two sides would else run
  obtain ⟨start, hstart⟩ : ∃ start, start = State.startCluster := ⟨_, rfl⟩
  rw [← hstart]

end

/-- A thread as dispatch makes it (R26, Table 2-2). -/
def freshThread (bid wid task : Nat) (card : Card) (entry : Word) (l : Nat) : Thread :=
  { tid := task * card.threads + (bid * card.waves + wid) * 32 + l, bid, live := true, pc := entry, startPc := entry }

theorem thread_freshWave {l : Nat} (hl : l < 32) (cl bid wid task : Nat) (card : Card) (entry : Word) :
    (freshWave cl bid wid task card entry).thread l = freshThread bid wid task card entry l := by
  simp [freshWave, Wave.thread, hl, freshThread]

/-- A fresh wave's uniform registers are those of the card (R52). -/
theorem uni_freshWave (cl bid wid task : Nat) (card : Card) (entry : Word) (k : Nat) :
    (freshWave cl bid wid task card entry).uni.getD k 0 = card.uimg.getD k 0 :=
  Tab.getD_filter_mapIdx card.uimg 0 k

/-- Settles O52: acceptance, dealing and dispatch, each by the lemma about it above. -/
theorem jobsAndDispatch : Obligations.JobsAndDispatch := by
  refine ⟨⟨?notReady, ?turn, ?taken, ?card, fun s t => State.examineCard_noSpace⟩, ?deal, fun s core =>
    exec_clusterDispatch_idle, fun s core o rest x => exec_clusterDispatch_first, fun s core o x => State.dispatch_once, ?fresh⟩
  case notReady =>
    intro s q hclosed hnone
    rw [exec_jobAccept, if_neg (by rintro ⟨hready, hheld⟩; simp [hready] at hclosed; omega), State.examineTaken_none hnone]
  case turn =>
    intro s u q rest ready hheld horder hwaits
    rw [exec_jobAccept, if_pos ⟨ready, hheld⟩, horder, State.intake_first rest hwaits]
  case taken =>
    intro s u q x n es r hr hdone
    rw [State.takeFrom_done hr hdone]
    exact ⟨rfl, rfl, rfl⟩
  case card =>
    intro s u v t r n i virtual plain hr hcard hparts
    have hread := State.examineCard_read virtual plain hr hcard hparts
    refine ⟨fun k hfailed => by rw [hread, hfailed], fun hvalid => ⟨by rw [hread, hvalid], ?_⟩⟩
    obtain ⟨step, hjob⟩ := State.job_admitJob (v := v) plain r i
    rw [hjob]
    exact ⟨rfl, rfl, rfl, rfl, rfl, rfl, rfl⟩
  case deal =>
    intro s
    refine ⟨_, exec_deal s, ?_⟩
    split
    · exact ⟨.refl s, fun c => ⟨[], (List.append_nil _).symm, State.DealAdds.nil⟩⟩
    · exact ⟨s.sameMemory_deal, s.deal_queue⟩
  case fresh =>
    intro cl bid wid task l card entry hl
    dsimp only
    rw [thread_freshWave hl]
    exact ⟨rfl, rfl, rfl, rfl, rfl, rfl, rfl, rfl, rfl, rfl, rfl, rfl, rfl, fun k _ => uni_freshWave cl bid wid task card entry k⟩

end Sys2Proof.Machine
end
